-- ==== Sys2Proof/Word.lean ====
section
/-! DEFINITION. Words of the machine, and the type of sparse tables. -/

namespace Sys2Proof

/-- A byte. -/
abbrev Byte := BitVec 8

/-- A register word: lane registers, group registers and team registers hold 32 bits (R53, R55, R57). -/
abbrev Word := BitVec 32

/-- A virtual address: 54 bits (R1). -/
abbrev VAddr := BitVec 54

/-- A 12-bit address-space number (R1). -/
abbrev Asid := BitVec 12

/-- The lanes of a warp, one bit each (R1, R52). -/
abbrev Lanes := BitVec 32

/-- A sparse table: pairs of key and value, keys strictly rising. -/
abbrev SMap (α : Type) := List (Nat × α)

/-- The number of a lane register. -/
abbrev VReg := BitVec 8

/-- The number of a group register. -/
abbrev GReg := BitVec 6

/-- A register cell: a word and the residue stored with it (R68). -/
structure RWord where
  val : Word
  res : BitVec 2
  deriving DecidableEq, Repr

end Sys2Proof
end

