-- ==== Sys2Proof/Syntax.lean ====
section
/-! DEFINITION. The instructions and events of the part, one constructor per row of the opcode table, and the
operand shapes they carry. -/

namespace Sys2Proof

/-- Condition of BR (R167, values 0x0 to 0x6). -/
inductive BrCond where
  | always | z | nz | ltz | gez | gtz | lez
  deriving DecidableEq, Repr

/-- Condition of BRL over bit 0 of a lane register in the lanes of EXEC (R167, values 0x8 to 0xB). -/
inductive BrlCond where
  | any | all | none | notall
  deriving DecidableEq, Repr

/-- Mode of VOTE (R176). -/
inductive VoteMode where
  | ballot | any | all | count
  deriving DecidableEq, Repr

/-- The predicate of a lane instruction (R162): none, bit 0 of a lane register, or its inverse. -/
inductive Pred where
  | none
  | ifSet (v : VReg)
  | ifNot (v : VReg)
  deriving DecidableEq, Repr

/-- Operand b of classes 0x0 to 0x6 and 0xE, selected by OSEL (R160). -/
inductive OpB where
  | lane (v : VReg)
  | group (g : GReg)
  | imm
  deriving DecidableEq, Repr

/-- Access type W of classes 0x7 to 0x9 (R160). -/
inductive AccType where
  | b8 | b16 | b32 | b64 | b128 | s8 | s16 | f32 | f16 | bf16 | fx64 | s32 | n32 | s64 | n64
  deriving DecidableEq, Repr

/-- Ordering qualifier ORD of classes 0x7 to 0x9 (R160). -/
inductive Ord where
  | none | acq | rel | acqRel
  deriving DecidableEq, Repr

/-- Fields of a lane word of classes 0x0 to 0x6 and 0xE (R159, R160); a field the row of R168 gives no use is 0. -/
structure AluArgs where
  vd : VReg
  va : VReg
  b : OpB
  vc : VReg
  q : BitVec 4
  imm : Word
  pred : Pred
  deriving DecidableEq, Repr

/-- Fields of a lane word of classes 0x7 to 0x9 (R159, R160); a field the row of R168 gives no use is 0. -/
structure MemArgs where
  vd : VReg
  va : VReg
  vb : VReg
  vc : VReg
  g : GReg
  ord : Ord
  w : AccType
  imm : Word
  pred : Pred
  deriving DecidableEq, Repr

/-- Fields of a lane word of classes 0xA to 0xD (R159, R160); a field the row of R168 gives no use is 0. -/
structure EngArgs where
  vd : VReg
  va : VReg
  vb : VReg
  vc : VReg
  g : GReg
  q6 : BitVec 6
  imm : Word
  pred : Pred
  deriving DecidableEq, Repr

/-- A Floe packet (R320): header fields, and the bytes of its data flits. `off` is the aperture offset of its block,
`be` and `bel` the byte enables of its first and last 64-byte part. -/
structure Packet where
  kind : Nat
  cls : Nat
  src : Nat
  inc : BitVec 16
  dst : Nat
  inter : Nat
  tag : Nat
  off : Nat
  tree : Nat
  status : Nat
  be : BitVec 64
  bel : BitVec 64
  dlOrig : Nat
  dlLeft : Nat
  op : Nat
  w : Nat
  scope : Nat
  barAsid : Asid
  barOff : Nat
  pcount : BitVec 32
  verdict : Nat
  data : List Byte
  deriving DecidableEq, Repr


/-- The rows of the opcode table. The scalar instructions carry their fields, the lane instructions the fields of
their word, and the events the choice the agent that takes the step makes. -/
inductive Instr where
  /-- ADD (R173). Sets gd to ga + gb modulo 2^32. -/
  | add (d : GReg) (a : GReg) (b : GReg)
  /-- SUB (R173). Sets gd to ga − gb modulo 2^32. -/
  | sub (d : GReg) (a : GReg) (b : GReg)
  /-- MUL (R173). Sets gd to the low 32 bits of ga × gb. -/
  | mul (d : GReg) (a : GReg) (b : GReg)
  /-- MULH_S32 (R173). Sets gd to the high word of the signed 64-bit product. -/
  | mulhS32 (d : GReg) (a : GReg) (b : GReg)
  /-- MULH_N32 (R173). Sets gd to the high word of the unsigned 64-bit product. -/
  | mulhN32 (d : GReg) (a : GReg) (b : GReg)
  /-- AND (R173). Sets gd to the bitwise AND of ga and gb. -/
  | and (d : GReg) (a : GReg) (b : GReg)
  /-- OR (R173). Sets gd to the bitwise OR of ga and gb. -/
  | or (d : GReg) (a : GReg) (b : GReg)
  /-- XOR (R173). Sets gd to the bitwise XOR of ga and gb. -/
  | xor (d : GReg) (a : GReg) (b : GReg)
  /-- SHL (R173). Shifts ga left by gb[4:0] into gd. -/
  | shl (d : GReg) (a : GReg) (b : GReg)
  /-- SHR (R173). Shifts ga right by gb[4:0], zero-filled, into gd. -/
  | shr (d : GReg) (a : GReg) (b : GReg)
  /-- SAR (R173). Shifts ga right by gb[4:0], sign-filled, into gd. -/
  | sar (d : GReg) (a : GReg) (b : GReg)
  /-- MIN_S32 (R173). Sets gd to the signed minimum of ga and gb. -/
  | minS32 (d : GReg) (a : GReg) (b : GReg)
  /-- MIN_N32 (R173). Sets gd to the unsigned minimum of ga and gb. -/
  | minN32 (d : GReg) (a : GReg) (b : GReg)
  /-- MAX_S32 (R173). Sets gd to the signed maximum of ga and gb. -/
  | maxS32 (d : GReg) (a : GReg) (b : GReg)
  /-- MAX_N32 (R173). Sets gd to the unsigned maximum of ga and gb. -/
  | maxN32 (d : GReg) (a : GReg) (b : GReg)
  /-- POPC (R173). Sets gd to the number of set bits of ga. -/
  | popc (d : GReg) (a : GReg)
  /-- CLZ (R173). Sets gd to the number of leading zero bits of ga. -/
  | clz (d : GReg) (a : GReg)
  /-- CMP_EQ (R173). Sets gd to 1 if ga equals gb, else 0. -/
  | cmpEq (d : GReg) (a : GReg) (b : GReg)
  /-- CMP_NE (R173). Sets gd to 1 if ga differs from gb, else 0. -/
  | cmpNe (d : GReg) (a : GReg) (b : GReg)
  /-- CMP_LT_S32 (R173). Sets gd to 1 if ga < gb signed, else 0. -/
  | cmpLtS32 (d : GReg) (a : GReg) (b : GReg)
  /-- CMP_LE_S32 (R173). Sets gd to 1 if ga ≤ gb signed, else 0. -/
  | cmpLeS32 (d : GReg) (a : GReg) (b : GReg)
  /-- CMP_LT_N32 (R173). Sets gd to 1 if ga < gb unsigned, else 0. -/
  | cmpLtN32 (d : GReg) (a : GReg) (b : GReg)
  /-- CMP_LE_N32 (R173). Sets gd to 1 if ga ≤ gb unsigned, else 0. -/
  | cmpLeN32 (d : GReg) (a : GReg) (b : GReg)
  /-- SEL (R173). Sets gd to ga if the condition register gc is nonzero, else gb. -/
  | sel (d : GReg) (a : GReg) (b : GReg) (c : GReg)
  /-- ADDI (R174). Sets gd to ga plus the sign-extended immediate. -/
  | addi (d : GReg) (a : GReg) (i : BitVec 14)
  /-- ANDI (R174). Sets gd to ga AND the zero-extended immediate. -/
  | andi (d : GReg) (a : GReg) (i : BitVec 14)
  /-- ORI (R174). Sets gd to ga OR the zero-extended immediate. -/
  | ori (d : GReg) (a : GReg) (i : BitVec 14)
  /-- XORI (R174). Sets gd to ga XOR the zero-extended immediate. -/
  | xori (d : GReg) (a : GReg) (i : BitVec 14)
  /-- SHLI (R174). Shifts ga left by an immediate amount into gd. -/
  | shli (d : GReg) (a : GReg) (n : BitVec 5)
  /-- SHRI (R174). Shifts ga right, zero-filled, by an immediate amount into gd. -/
  | shri (d : GReg) (a : GReg) (n : BitVec 5)
  /-- LUI (R174). Sets gd to the 20-bit immediate shifted left by 12. -/
  | lui (d : GReg) (i : BitVec 20)
  /-- LDG (R175). Loads one 32-bit word into gd from a g-pair address plus offset, blocking the split until it lands. -/
  | ldg (d : GReg) (a : GReg) (i : BitVec 14)
  /-- STG (R175). Stores gd as one 32-bit word to a g-pair address plus offset. -/
  | stg (d : GReg) (a : GReg) (i : BitVec 14)
  /-- VOTE (R176). Combines bit 0 of a lane register over EXEC into gd as ballot, any, all or count. -/
  | vote (d : GReg) (v : VReg) (m : VoteMode)
  /-- MOVG (R177). Copies one lane of a lane register, with its residue, into gd. -/
  | movg (d : GReg) (v : VReg) (l : BitVec 5)
  /-- RDT (R178). Reads a team register into gd. -/
  | rdt (d : GReg) (t : BitVec 5)
  /-- WRT (R178). Writes ga into a team register. -/
  | wrt (t : BitVec 5) (a : GReg)
  /-- RDX (R179). Reads the split's EXEC into gd. -/
  | rdx (d : GReg)
  /-- WRX (R60). Writes EXEC of the executing split from ga, refusing zero or foreign lanes. -/
  | wrx (a : GReg)
  /-- BR (R180). Branches the whole split on a condition of a g register. -/
  | br (c : BrCond) (g : GReg) (o : BitVec 14)
  /-- BRL (R180). Branches the whole split on bit 0 of a lane register combined over EXEC. -/
  | brl (c : BrlCond) (v : VReg) (o : BitVec 14)
  /-- SPLIT (R183). Divides the split by bit 0 of a lane register into taken and fall-through splits. -/
  | split (v : VReg) (o : BitVec 14)
  /-- JOINAT (R184). Saves JPC in JSAVE and sets JPC to the target, opening a family. -/
  | joinat (o : BitVec 14)
  /-- JOIN (R185). Marks the split as arrived at its join point and leaves issue until the family merges. -/
  | join
  /-- JMP (R182). Jumps by a signed 20-bit word offset. -/
  | jmp (i : BitVec 20)
  /-- JMPR (R182). Jumps to the address held in a g pair. -/
  | jmpr (a : GReg)
  /-- JMPV (R187). Runs per-lane jump targets group by group, ending each at the join at JPC. -/
  | jmpv (v : VReg)
  /-- CALL (R186). Sets LK to the next instruction and jumps by a signed word offset. -/
  | call (i : BitVec 20)
  /-- CALLR (R186). Sets LK and jumps to a g-pair address, or does nothing when the pair is 0. -/
  | callr (a : GReg)
  /-- CALLV (R187). Calls per-lane targets group by group and restores EXEC after the last group. -/
  | callv (v : VReg)
  /-- RET (R186). Sets SPC to LK, or ends a CALLV group. -/
  | ret
  /-- LOOP (R181). Decrements a g register and branches while it is nonzero. -/
  | loop (g : GReg) (o : BitVec 14)
  /-- EXIT (R193). Removes the executing split's lanes from the warp. -/
  | exit
  /-- ISSUE (R164). Checks a clause, captures its g registers and EXEC and appends it to the split's clause queue. -/
  | issue (n : BitVec 4) (o : BitVec 22)
  /-- WAITF (R189). Waits until earlier clauses naming the masked flags have dispatched and those flags read zero. -/
  | waitf (m : BitVec 12)
  /-- YIELD (R190). Makes the split not a scalar candidate in the next cycle. -/
  | yield
  /-- BARWAIT (R191). Waits until the phase bit of a barrier object differs from the named phase. -/
  | barwait (o : BitVec 15) (p : Bool)
  /-- QWAIT (R192). Sleeps until a watched word at home differs from a g value or a timeout expires. -/
  | qwait (a : GReg) (b : GReg) (t : BitVec 8)
  /-- TRAP (R273). Raises USER_TRAP with TRAP_PC past the instruction. -/
  | trap (c : BitVec 20)
  /-- RTT (R274). Returns from a handler to TRAP_PC, or removes the split's lanes after a lane-side trap, releasing the latch. -/
  | rtt
  /-- RDSR (R275). Reads a system register by number into gd. -/
  | rdsr (d : GReg) (n : BitVec 8)
  /-- WRSR (R275). Writes ga into a system register by number after access and value checks. -/
  | wrsr (a : GReg) (n : BitVec 8)
  /-- TLBINV (R276). Invalidates translations of an ASID over a VA range and holds the split until done. -/
  | tlbinv (d : GReg) (a : GReg) (b : GReg)
  /-- BKPT (R273). Raises BREAKPOINT, or stops the team when BKSTOP is set. -/
  | bkpt (t : BitVec 20)
  /-- HALT (R277). Stops every warp of the executing warp's team. -/
  | halt
  /-- NOP (R278). Advances SPC by 4 and changes nothing else. -/
  | nop
  /-- FEAT (R278). Writes 1 into gd when the named feature bit is present, else 0. -/
  | feat (d : GReg) (b : BitVec 9)
  /-- CLOCK (R278). Writes both halves of CLOCK from one cycle into gd and gd+1. -/
  | clock (d : GReg)
  /-- IADD (R196). Adds operand b to va in each active lane. -/
  | iadd (x : AluArgs)
  /-- ISUB (R196). Subtracts operand b from va in each active lane. -/
  | isub (x : AluArgs)
  /-- IMUL (R196). Writes the low word of va × b in each active lane. -/
  | imul (x : AluArgs)
  /-- IMULH (R196). Writes the high word of the signed or unsigned product in each active lane. -/
  | imulh (x : AluArgs)
  /-- IMAD (R196). Writes the low word of va × b + vc in each active lane. -/
  | imad (x : AluArgs)
  /-- IMIN (R196). Writes the smaller of va and b in each active lane. -/
  | imin (x : AluArgs)
  /-- IMAX (R196). Writes the larger of va and b in each active lane. -/
  | imax (x : AluArgs)
  /-- IABS (R196). Writes the signed absolute value of va in each active lane. -/
  | iabs (x : AluArgs)
  /-- INEG (R196). Writes 0 − va in each active lane. -/
  | ineg (x : AluArgs)
  /-- MOV (R196). Copies operand b into vd in each active lane. -/
  | mov (x : AluArgs)
  /-- MOVI (R196). Writes imm32 into vd in each active lane. -/
  | movi (x : AluArgs)
  /-- LEA (R196). Writes (va << s) + b in each active lane. -/
  | lea (x : AluArgs)
  /-- LANE_AND (R197). Writes the bitwise AND of va and b in each active lane. -/
  | laneAnd (x : AluArgs)
  /-- LANE_OR (R197). Writes the bitwise OR of va and b in each active lane. -/
  | laneOr (x : AluArgs)
  /-- LANE_XOR (R197). Writes the bitwise XOR of va and b in each active lane. -/
  | laneXor (x : AluArgs)
  /-- NOT (R197). Writes the bitwise inverse of va in each active lane. -/
  | not (x : AluArgs)
  /-- LANE_SHL (R197). Shifts va left by b[4:0] in each active lane. -/
  | laneShl (x : AluArgs)
  /-- LANE_SHR (R197). Shifts va right, zero-filled, by b[4:0] in each active lane. -/
  | laneShr (x : AluArgs)
  /-- LANE_SAR (R197). Shifts va right, sign-filled, by b[4:0] in each active lane. -/
  | laneSar (x : AluArgs)
  /-- BFE (R197). Extracts a bit field of va, signed or unsigned, in each active lane. -/
  | bfe (x : AluArgs)
  /-- BFI (R197). Inserts a bit field of va into vd in each active lane. -/
  | bfi (x : AluArgs)
  /-- LANE_POPC (R197). Writes the number of set bits of va in each active lane. -/
  | lanePopc (x : AluArgs)
  /-- LANE_CLZ (R197). Writes the leading zero count of va in each active lane. -/
  | laneClz (x : AluArgs)
  /-- ICMP (R198). Writes 1 or 0 by an integer condition on va and b in each active lane. -/
  | icmp (x : AluArgs)
  /-- LANE_SEL (R198). Writes va or b by bit 0 of vc in each active lane. -/
  | laneSel (x : AluArgs)
  /-- FADD (R199). Writes the f32 sum of va and b, rounded once. -/
  | fadd (x : AluArgs)
  /-- FSUB (R199). Writes the f32 difference of va and b, rounded once. -/
  | fsub (x : AluArgs)
  /-- FMUL (R199). Writes the f32 product of va and b, rounded once. -/
  | fmul (x : AluArgs)
  /-- FFMA (R199). Writes va × b + vc in f32 with one rounding. -/
  | ffma (x : AluArgs)
  /-- FMIN (R199). Writes the smaller f32 of va and b. -/
  | fmin (x : AluArgs)
  /-- FMAX (R199). Writes the larger f32 of va and b. -/
  | fmax (x : AluArgs)
  /-- FCMP (R200). Writes 1 or 0 by an f32 condition on va and b. -/
  | fcmp (x : AluArgs)
  /-- HADD2 (R201). Adds two packed f16 or bf16 elements per lane. -/
  | hadd2 (x : AluArgs)
  /-- HMUL2 (R201). Multiplies two packed f16 or bf16 elements per lane. -/
  | hmul2 (x : AluArgs)
  /-- HFMA2 (R201). Fused multiply-adds two packed f16 or bf16 elements per lane. -/
  | hfma2 (x : AluArgs)
  /-- CVT (R202). Converts one value per lane between integer and floating-point types. -/
  | cvt (x : AluArgs)
  /-- CVTQ (R203). Quantises f32 values as blocks across lanes to e4m3, e5m2 or KB4 codes and side bytes. -/
  | cvtq (x : AluArgs)
  /-- HAD (R204). Applies the normalised Hadamard transform across blocks of lanes. -/
  | had (x : AluArgs)
  /-- SHFL (R205). Copies va from the lane named by b into each active lane. -/
  | shfl (x : AluArgs)
  /-- BFLY (R205). Copies va from lane l XOR b into each active lane. -/
  | bfly (x : AluArgs)
  /-- BCAST (R205). Copies va from one lane into every active lane. -/
  | bcast (x : AluArgs)
  /-- REDUX (R206). Combines va over the active lanes and writes the result to each. -/
  | redux (x : AluArgs)
  /-- SCAN (R206). Writes the inclusive or exclusive prefix combination of va over active lanes. -/
  | scan (x : AluArgs)
  /-- LANEID (R207). Writes the lane number into vd. -/
  | laneid (x : AluArgs)
  /-- RCP (R208). Writes the correctly rounded reciprocal of va. -/
  | rcp (x : AluArgs)
  /-- RSQ (R208). Writes the correctly rounded reciprocal square root of va. -/
  | rsq (x : AluArgs)
  /-- SQRT (R208). Writes the correctly rounded square root of va. -/
  | sqrt (x : AluArgs)
  /-- EXP2 (R208). Writes 2 to the power va within 2 ulp. -/
  | exp2 (x : AluArgs)
  /-- LOG2 (R208). Writes the base-2 logarithm of va within 2 ulp. -/
  | log2 (x : AluArgs)
  /-- SIN (R208). Writes the sine of va within 2 ulp. -/
  | sin (x : AluArgs)
  /-- COS (R208). Writes the cosine of va within 2 ulp. -/
  | cos (x : AluArgs)
  /-- TANH (R208). Writes the hyperbolic tangent of va within 2 ulp. -/
  | tanh (x : AluArgs)
  /-- SIGM (R208). Writes the logistic sigmoid of va within 2 ulp. -/
  | sigm (x : AluArgs)
  /-- LD (R214). Loads W bytes per active lane from global memory, checked as a whole. -/
  | ld (x : MemArgs)
  /-- LDL (R216). Loads from the team's LM partition at dispatch. -/
  | ldl (x : MemArgs)
  /-- LDC (R216). Loads from a cluster LM address at the target core. -/
  | ldc (x : MemArgs)
  /-- GATHER (R214). Loads W bytes per active lane from global memory, lane by lane. -/
  | gather (x : MemArgs)
  /-- GATHER_P (R217). Loads per lane only where the translation hits a TLB, reporting incomplete lanes in a mask. -/
  | gatherP (x : MemArgs)
  /-- PREF (R218). Asks for the line at each active lane's address to be fetched, without faulting. -/
  | pref (x : MemArgs)
  /-- TAGL (R221). Looks up tags in the team's tag table and writes their slots. -/
  | tagl (x : MemArgs)
  /-- ST (R215). Stores W bytes per active lane to global memory, optionally byte-masked. -/
  | st (x : MemArgs)
  /-- STL (R216). Stores to the team's LM partition at dispatch. -/
  | stl (x : MemArgs)
  /-- STC (R216). Stores to a cluster LM address at the target core. -/
  | stc (x : MemArgs)
  /-- SCATTER (R215). Stores W bytes per active lane to global memory, lane by lane. -/
  | scatter (x : MemArgs)
  /-- TAGSET (R221). Installs tags with slots in the team's tag table in ascending lane order. -/
  | tagset (x : MemArgs)
  /-- TAGINV (R221). Invalidates tag-table entries holding the given tags. -/
  | taginv (x : MemArgs)
  /-- ATOM_ADD (R219). Atomically adds vb at home and returns the old value. -/
  | atomAdd (x : MemArgs)
  /-- ATOM_MIN (R219). Atomically takes the minimum at home and returns the old value. -/
  | atomMin (x : MemArgs)
  /-- ATOM_MAX (R219). Atomically takes the maximum at home and returns the old value. -/
  | atomMax (x : MemArgs)
  /-- ATOM_AND (R219). Atomically ANDs vb at home and returns the old value. -/
  | atomAnd (x : MemArgs)
  /-- ATOM_OR (R219). Atomically ORs vb at home and returns the old value. -/
  | atomOr (x : MemArgs)
  /-- ATOM_XOR (R219). Atomically XORs vb at home and returns the old value. -/
  | atomXor (x : MemArgs)
  /-- ATOM_EXCH (R219). Atomically exchanges vb at home and returns the old value. -/
  | atomExch (x : MemArgs)
  /-- ATOM_CAS (R219). Atomically compares with vb and swaps in vc at home, returning the old value. -/
  | atomCas (x : MemArgs)
  /-- RED_ADD (R219). Atomically adds vb at home without return. -/
  | redAdd (x : MemArgs)
  /-- RED_MIN (R219). Atomically takes the minimum at home without return. -/
  | redMin (x : MemArgs)
  /-- RED_MAX (R219). Atomically takes the maximum at home without return. -/
  | redMax (x : MemArgs)
  /-- RED_AND (R219). Atomically ANDs vb at home without return. -/
  | redAnd (x : MemArgs)
  /-- RED_OR (R219). Atomically ORs vb at home without return. -/
  | redOr (x : MemArgs)
  /-- RED_XOR (R219). Atomically XORs vb at home without return. -/
  | redXor (x : MemArgs)
  /-- LDF (R223). Loads a counted primary element and raises its granule's use count at home. -/
  | ldf (x : MemArgs)
  /-- LDF_RC (R223). Loads a counted primary element at home without counting. -/
  | ldfRc (x : MemArgs)
  /-- ADJA (R224). Accumulates an f32 addend into the twin element and lowers the granule's count. -/
  | adja (x : MemArgs)
  /-- ADJR (R225). Reads and consumes a twin element when its count is zero, faulting or blocking by EBLK otherwise. -/
  | adjr (x : MemArgs)
  /-- ADJR_WAIT (R225). Reads and consumes a twin element, waiting at home until its count is zero. -/
  | adjrWait (x : MemArgs)
  /-- ADJQ (R226). Returns the count word of a primary granule. -/
  | adjq (x : MemArgs)
  /-- PHASE_REL (R220). Writes home every dirty L1 line of the core and completes on their acknowledgement. -/
  | phaseRel (x : EngArgs)
  /-- PHASE_ACQ (R220). Drops every clean L1 line of the core. -/
  | phaseAcq (x : EngArgs)
  /-- GANGSET (R238). Writes GANG from a captured value after checking it. -/
  | gangset (x : EngArgs)
  /-- MMA (R235). Multiplies an A tile from LM by a B slice from the névé slice into an AM accumulator tile. -/
  | mma (x : EngArgs)
  /-- MMA_J (R239). Arrives at the rendezvous latch of GANG for a joint MMA. -/
  | mmaJ (x : EngArgs)
  /-- BLD (R241). Copies bytes per active lane from LM into the névé slice. -/
  | bld (x : EngArgs)
  /-- LDACC (R242). Reads AM words into lane registers at dispatch. -/
  | ldacc (x : EngArgs)
  /-- STACC (R242). Writes lane registers into AM words after earlier AM writes. -/
  | stacc (x : EngArgs)
  /-- ZACC (R242). Zeroes one 128-word AM row. -/
  | zacc (x : EngArgs)
  /-- DUPMAP (R243). Loads the duplication map from a map source named by a format block. -/
  | dupmap (x : EngArgs)
  /-- MWAIT (R244). Holds later lane instructions until earlier matrix work of the warp or core has completed. -/
  | mwait (x : EngArgs)
  /-- KICK (R248). Checks a KICK value and queues a run of copy records on a channel. -/
  | kick (x : EngArgs)
  /-- WPTR (R249). Reads a copy channel's write pointer into vd. -/
  | wptr (x : EngArgs)
  /-- QPUSH (R250). Claims BTE queue slots by an atomic add to WIDX and returns their numbers. -/
  | qpush (x : EngArgs)
  /-- QFENCE (R251). Claims a BTE slot and writes a fence packet into it, then rings BELL. -/
  | qfence (x : EngArgs)
  /-- LAUNCH (R252). Submits continuation records named by active lanes to a continuation queue. -/
  | launch (x : EngArgs)
  /-- BARINIT (R253). Initialises a barrier object's kind and expected count. -/
  | barinit (x : EngArgs)
  /-- BARRIVE (R254). Arrives at a team-kind barrier on behalf of the warp. -/
  | barrive (x : EngArgs)
  /-- BARRIVE_BYTES (R254). Arrives at a barrier and adds declared bytes to PENDING in the same step. -/
  | barriveBytes (x : EngArgs)
  /-- BARTRY (R255). Reads a barrier object's phase, arrivals and PCOUNT into vd. -/
  | bartry (x : EngArgs)
  /-- GBAR (R254). Arrives at a gang-kind barrier. -/
  | gbar (x : EngArgs)
  /-- FBAR (R254). Arrives at a fabric-kind barrier naming its root device. -/
  | fbar (x : EngArgs)
  /-- STRAG (R256). Reads members' verdicts from the straggler record attached to a barrier. -/
  | strag (x : EngArgs)
  /-- TQPOP (R257). Pops and claims the next queued tile of the owner's tile queue. -/
  | tqpop (x : EngArgs)
  /-- TQSTEAL (R258). Steals a tail tile from a persistent straggler's tile queue. -/
  | tqsteal (x : EngArgs)
  /-- TQDONE (R259). Releases, swaps a tile to DONE and decrements the owner's join object. -/
  | tqdone (x : EngArgs)
  /-- ITOPEN (R262). Checks and opens an iterator over a stack of adaptor objects in LM. -/
  | itopen (x : EngArgs)
  /-- NEXT (R264). Pulls up to one value per active lane through an iterator. -/
  | next (x : EngArgs)
  /-- NEXT_BOUNDED (R264). Pulls values through an iterator, stopping at the end of a flatten range. -/
  | nextBounded (x : EngArgs)
  /-- ENOUGH (R265). Ends an iterator's stream and frees its objects. -/
  | enough (x : EngArgs)
  /-- ITSAVE (R266). Writes an iterator's engine state as a 320-byte image into LM. -/
  | itsave (x : EngArgs)
  /-- ITLOAD (R266). Reads an iterator image from LM back into a free iterator. -/
  | itload (x : EngArgs)
  /-- ITSTAT (R267). Writes an iterator's status and RANGES into a g register. -/
  | itstat (x : EngArgs)
  /-- CLAUSE_START (R7). Starts the head clause of a split once the previous clause has dispatched and its wait flags are clear. -/
  | clauseStart (core : Nat) (slot : Nat) (entry : Nat)
  /-- WAIT_COUNT_AGED (R26). A candidate whose wait count reaches 256 cycles takes precedence in issue choice. -/
  | waitCountAged (core : Nat) (slot : Nat) (entry : Nat) (laneSide : Bool)
  /-- LOAD_DATA_LANDS (R7). A load's data is written to its destination in each active lane and its flags fall. -/
  | loadDataLands (core : Nat) (slot : Nat) (op : Nat) (lanes : Lanes)
  /-- STORE_PERFORMED (R141). A store is performed on its L1 or home path and completes, lowering its flags. -/
  | storePerformed (core : Nat) (slot : Nat) (op : Nat) (lanes : Lanes)
  /-- CLUSTER_LM_ACK (R77). A cluster LM store's acknowledgement returns from the target core. -/
  | clusterLmAck (core : Nat) (slot : Nat) (op : Nat) (lanes : Lanes)
  /-- ATOMIC_AT_HOME (R219). An atomic lane is performed at its home and its return or acknowledgement arrives. -/
  | atomicAtHome (core : Nat) (slot : Nat) (op : Nat) (lanes : Lanes)
  /-- COUNTED_LOAD_AT_HOME (R86). A counting load lane is performed at home, raising COUNT and reading data in one step. -/
  | countedLoadAtHome (core : Nat) (slot : Nat) (op : Nat) (lanes : Lanes)
  /-- ADJA_AT_HOME (R87). An ADJA lane tests COUNT at home and accumulates into the twin. -/
  | adjaAtHome (core : Nat) (slot : Nat) (op : Nat) (lanes : Lanes)
  /-- ADJR_AT_HOME (R88). An ADJR lane reads and clears the twin element at home, or is early. -/
  | adjrAtHome (core : Nat) (slot : Nat) (op : Nat) (lanes : Lanes)
  /-- ADJR_WAIT_RELEASE (R88). A waiting ADJR lane reads when its granule's COUNT reaches zero. -/
  | adjrWaitRelease (core : Nat) (slot : Nat) (op : Nat) (lanes : Lanes)
  /-- ADJR_WAIT_TIMEOUT (R88). A waiting ADJR lane ends with ADJ_EARLY_READ when the ADT timeout expires. -/
  | adjrWaitTimeout (core : Nat) (slot : Nat) (op : Nat) (lanes : Lanes)
  /-- PHASE_COMPLETE (R220). A PHASE completes once its write-backs are acknowledged or its drop is done. -/
  | phaseComplete (core : Nat) (slot : Nat) (op : Nat)
  /-- L1_WRITEBACK (R79). A dirty L1 line is written to its home, for instance on eviction. -/
  | l1Writeback (core : Nat) (line : Nat)
  /-- ARRIVAL_PERFORMED (R131). A barrier arrival is performed at the port after the warp's earlier accesses and applies the completion test. -/
  | arrivalPerformed (core : Nat) (slot : Nat) (op : Nat)
  /-- STRAGGLER_RECORD_REPLAYED (R370). A straggler-record access stalled on a replayable fault resumes after replay. -/
  | stragglerRecordReplayed (core : Nat) (off : Nat)
  /-- GANG_BARRIER_REPORT (R132). A team reports local completion of a gang-kind object to the cluster crossbar after PHASE.rel. -/
  | gangBarrierReport (core : Nat) (team : Nat) (off : Nat)
  /-- GANG_BARRIER_COMPLETE (R132). The crossbar completes a gang-kind phase in every team's object once all teams have reported. -/
  | gangBarrierComplete (gang : Nat) (off : Nat)
  /-- MMA_DISPATCH (R236). An MMA waiting for the busy array dispatches when its first pass begins. -/
  | mmaDispatch (core : Nat) (slot : Nat) (op : Nat)
  /-- MMA_COMPLETE (R237). An MMA's last pass ends, its checks pass and its AM words are written. -/
  | mmaComplete (core : Nat) (slot : Nat) (op : Nat)
  /-- BLD_COMPLETE (R241). A BLD completes when every active lane's bytes are in the névé slice. -/
  | bldComplete (core : Nat) (slot : Nat) (op : Nat)
  /-- ACC_WRITE_APPLIED (R242). A STACC or ZACC is applied after earlier AM writes to the same words. -/
  | accWriteApplied (core : Nat) (slot : Nat) (op : Nat)
  /-- JOIN_MERGE (R185). A family merges into one split once every member has arrived and drained its queue. -/
  | joinMerge (core : Nat) (slot : Nat) (fam : Nat)
  /-- WARP_RETIRE (R31). A warp retires once its lanes have left, queues drained, flags cleared and operations completed. -/
  | warpRetire (core : Nat) (slot : Nat)
  /-- GANG_JOIN_DECREMENT (R18). After the gang's releases complete, the hub decrements the task's join COUNT. -/
  | gangJoinDecrement (gang : Nat)
  /-- SUCCESSOR_APPEND (R114). A successor record waiting for room is appended to its continuation queue. -/
  | successorAppend (q : Nat)
  /-- JOIN_DECREMENT_REPLAYED (R11). A hub join decrement stalled on a replayable fault is performed after replay. -/
  | joinDecrementReplayed (n : Nat)
  /-- LAUNCH_APPEND (R30). The hub reserves room, raises the join COUNT and appends a LAUNCH batch. -/
  | launchAppend (core : Nat) (slot : Nat) (op : Nat)
  /-- GANG_PLACE (R13). The placer places one gang of an eligible head record on a fitting cluster. -/
  | gangPlace
  /-- PLACER_PREEMPT_REQUEST (R289). The placer raises a pre-emption request for a head record unfitted for 64 µs. -/
  | placerPreemptRequest (q : Nat)
  /-- COPY_RECORD_BEGIN (R117). A copy channel reads and checks its next record. -/
  | copyRecordBegin (core : Nat) (chan : Nat)
  /-- COPY_BYTES_DELIVERED (R117). A copy channel delivers bytes, subtracts them from the barrier and advances WPTR. -/
  | copyBytesDelivered (core : Nat) (chan : Nat) (units : Nat)
  /-- COPY_RECORD_FINISH (R117). A copy channel writes STATUS and DONE, settles the barrier and advances SEQ. -/
  | copyRecordFinish (core : Nat) (chan : Nat)
  /-- BTE_BELL (R119). A write to a queue's BELL wakes its BTE to look for a packet. -/
  | bteBell (q : Nat)
  /-- BTE_COPY (R121). A BTE performs a copy packet. -/
  | bteCopy (q : Nat) (lines : Nat)
  /-- BTE_REDUCE_COPY (R121). A BTE performs one hop of a bf16 ring reduction. -/
  | bteReduceCopy (q : Nat) (lines : Nat)
  /-- BTE_FILL (R121). A BTE fills a destination with a repeated pattern. -/
  | bteFill (q : Nat) (lines : Nat)
  /-- BTE_FENCE (R121). A BTE fence packet completes once each named queue position has completed. -/
  | bteFence (q : Nat)
  /-- BTE_LAUNCH (R121). A BTE appends a continuation record to a continuation queue. -/
  | bteLaunch (q : Nat)
  /-- BTE_COMPLETION_WRITE (R122). A BTE writes a completion record when room frees and advances CWIDX and RIDX. -/
  | bteCompletionWrite (q : Nat)
  /-- QPUSH_SLOT_FREE (R250). A QPUSH lane completes once its claimed slot is within the ring. -/
  | qpushSlotFree (core : Nat) (slot : Nat) (op : Nat) (lanes : Lanes)
  /-- FAULT_RECORD_WRITE (R123). The hub writes a fault-queue record once the ring is valid and has room. -/
  | faultRecordWrite
  /-- REPLAY (R123). A write of FSEQ to REPLAY retries every requester stalled on that record. -/
  | replay (v : BitVec 64)
  /-- REPLAY_FAIL (R287). A write to REPLAY_FAIL ends every requester stalled on a record with a non-replayable cause. -/
  | replayFail (v : BitVec 64)
  /-- TRAP_ENTRY (R272). A split takes the trap latch, writes the trap registers and enters its handler or stops the team. -/
  | trapEntry (core : Nat) (slot : Nat) (entry : Nat)
  /-- QWAIT_WAKE (R192). A write to the watched line makes QWAIT compare again. -/
  | qwaitWake (core : Nat) (slot : Nat) (entry : Nat)
  /-- QWAIT_TIMEOUT (R192). A QWAIT's timeout expires and the wait ends. -/
  | qwaitTimeout (core : Nat) (slot : Nat) (entry : Nat)
  /-- PAGE_WALK (R99). A stack TLB miss takes a walker when one is free and walks the page tables. -/
  | pageWalk (stack : Nat)
  /-- PAGE_WALK_COMPLETE (R99). A walk ends, installing a valid leaf or faulting. -/
  | pageWalkComplete (stack : Nat) (n : Nat)
  /-- TLBI_GO (R337). A host write to TLBI_GO starts a range invalidation. -/
  | tlbiGo (v : BitVec 64)
  /-- TLB_INVALIDATION_COMPLETE (R100). A range invalidation completes when every level has removed its entries and their accesses are done. -/
  | tlbInvalidationComplete (n : Nat)
  /-- PGREL_GO (R337). A host write to PGREL_GO writes back and drops every cached line of a range. -/
  | pgrelGo (v : BitVec 64)
  /-- PGREL_COMPLETE (R337). A page release completes and PGREL_GO reads its result. -/
  | pgrelComplete
  /-- PREEMPT_GANG (R289). A host pre-emption request names one gang. -/
  | preemptGang (v : BitVec 64)
  /-- PREEMPT_ASID (R289). A host pre-emption request names every gang of an ASID. -/
  | preemptAsid (v : BitVec 64)
  /-- PREEMPT_CLUSTER (R289). A host pre-emption request names every gang on a cluster. -/
  | preemptCluster (v : BitVec 64)
  /-- DRAIN_DEADLINE_EXPIRE (R291). A draining gang's deadline passes and the action is chosen again without drain. -/
  | drainDeadlineExpire (gang : Nat)
  /-- GANG_SAVE (R292). A gang stops, releases, and its state is written to save slots. -/
  | gangSave (gang : Nat)
  /-- SAVE_LM_WRITE (R292). After copies aimed at it finish, the LM section is written and the partition freed. -/
  | saveLmWrite (gang : Nat)
  /-- GANG_DISCARD (R297). A gang is stopped and recorded for a fresh restart. -/
  | gangDiscard (gang : Nat)
  /-- GANG_RESTORE (R296). A saved gang is placed from its resume list and its state restored. -/
  | gangRestore (level : Nat)
  /-- CODE_GONE_RETIRE (R298). A saved gang with the CODE_GONE mark is freed and reported at the head of its resume list. -/
  | codeGoneRetire (level : Nat)
  /-- THERMAL_SAMPLE (R299). Each core's temperature is read every 100 µs. -/
  | thermalSample (core : Nat) (temp : Nat)
  /-- THERMAL_MIGRATE (R299). A gang over THERM_LIMIT for 2 ms is saved and restored on a cooler cluster. -/
  | thermalMigrate (gang : Nat)
  /-- SAMPLE_TAKE (R300). A quadrant's sampling counter reaches 0 and a sampling record is written. -/
  | sampleTake (core : Nat) (quad : Nat)
  /-- STOP (R303). A host write to STOP stops the named team. -/
  | stop (v : BitVec 64)
  /-- TEAM_STOPPED (R303). A team becomes stopped once in-flight operations and kicked copies have finished. -/
  | teamStopped (core : Nat) (team : Nat)
  /-- RESUME (R305). A host write to RESUME lets a stopped team continue. -/
  | resume (v : BitVec 64)
  /-- DISCARD (R305). A host write to DISCARD stops and frees a stopped team's whole gang. -/
  | discard (v : BitVec 64)
  /-- DUMP_REQ (R313). A host write to DUMP_REQ asks for a dump of a stopped team. -/
  | dumpReq (v : BitVec 64)
  /-- DUMP_WRITE (R306). The hub writes a dump's sections, end record and header, then sets DONE. -/
  | dumpWrite
  /-- DUMP_CTL_WRITE (R307). A host write to DUMP_CTL with bit 0 clear clears DONE. -/
  | dumpCtlWrite (v : BitVec 64)
  /-- CAPTURE_RECORD_WRITE (R310). An inbound event of the captured ASID is written to the capture ring when there is room. -/
  | captureRecordWrite
  /-- REGISTER_WRITE (R331). A host write to a BAR0 register without behaviour of its own. -/
  | registerWrite (off : Nat) (v : BitVec 64)
  /-- CQ_DESCRIPTOR_WRITE (R113). A write to a continuation queue descriptor enables or disables the queue. -/
  | cqDescriptorWrite (q : Nat) (v : BitVec 64)
  /-- HOST_WINDOW_READ (R333). A host read through BAR2 or BAR4 is checked and performed at home. -/
  | hostWindowRead (bar : Nat) (off : Nat) (len : Nat)
  /-- HOST_WINDOW_WRITE (R333). A host write through BAR4 is checked against the ownership bitmap and performed at home. -/
  | hostWindowWrite (off : Nat) (data : List Byte) (requester : Nat) (relaxed : Bool)
  /-- HOST_NOTIFY_WRITE (R153). A host write to a notify page is performed after earlier posted writes of its requester. -/
  | hostNotifyWrite (off : Nat) (data : List Byte) (requester : Nat)
  /-- LAT_TOL_WRITE (R364). A write of LAT_TOL sets the accepted exit latency and may wake the device. -/
  | latTolWrite (v : BitVec 64)
  /-- REST_ENTRY (R365). The device enters the deepest admitted rest state whose entry condition holds. -/
  | restEntry
  /-- REST_EXIT (R366). A wake event brings the device out of a rest state. -/
  | restExit
  /-- DEVICE_RESET (R361). A device reset runs the start sequence from the beginning. -/
  | deviceReset
  /-- STAGE_ADVANCE (R361). STAGE rises as further parts of the device come up. -/
  | stageAdvance
  /-- RECOVERY_ATTEMPT (R368). A write of RCV_GO reads and verifies a firmware image from host memory. -/
  | recoveryAttempt (v : BitVec 64)
  /-- GET_VERSION (R369). Answers an SPDM GET_VERSION request. -/
  | getVersion (req : List Byte)
  /-- GET_CAPABILITIES (R369). Answers an SPDM GET_CAPABILITIES request. -/
  | getCapabilities (req : List Byte)
  /-- NEGOTIATE_ALGORITHMS (R369). Answers an SPDM NEGOTIATE_ALGORITHMS request. -/
  | negotiateAlgorithms (req : List Byte)
  /-- GET_DIGESTS (R369). Answers an SPDM GET_DIGESTS request. -/
  | getDigests (req : List Byte)
  /-- GET_CERTIFICATE (R369). Returns the slot-0 certificate chain. -/
  | getCertificate (req : List Byte)
  /-- CHALLENGE (R369). Answers an SPDM CHALLENGE signed with the Alias key. -/
  | challenge (req : List Byte)
  /-- GET_MEASUREMENTS (R369). Returns the signed measurement blocks. -/
  | getMeasurements (req : List Byte)
  /-- SPDM_UNSUPPORTED (R369). Answers any other SPDM request or algorithm with an SPDM error. -/
  | spdmUnsupported (req : List Byte)
  /-- FABRIC_READ (R318). A received read request is checked and performed at this device's home. -/
  | fabricRead (p : Packet)
  /-- FABRIC_WRITE (R318). A received write request is checked and performed at this device's home. -/
  | fabricWrite (p : Packet)
  /-- FABRIC_ATOMIC (R318). A received atomic request is performed at this device's home. -/
  | fabricAtomic (p : Packet)
  /-- FABRIC_ADJOINT (R227). A received adjoint request is counted or performed at the owner's home. -/
  | fabricAdjoint (p : Packet)
  /-- MULTICAST_WRITE (R323). A multicast write is forwarded on its tree's ports and performed locally where set. -/
  | multicastWrite (port : Nat) (p : Packet)
  /-- FABRIC_REPLY (R318). A reply completes the matching outstanding request. -/
  | fabricReply (p : Packet)
  /-- WRITE_ACKNOWLEDGE (R152). A write acknowledgement completes a fabric store or multicast. -/
  | writeAcknowledge (p : Packet)
  /-- BARRIER_REPORT (R329). The root receives a member's barrier report and completes the phase when all have reported. -/
  | barrierReport (p : Packet)
  /-- BARRIER_COMPLETE (R329). A member receiving the completion acquires, completes its phase and rewrites its straggler page. -/
  | barrierComplete (p : Packet)
  /-- BARRIER_ABORT (R329). A member receiving a barrier abort sets BRK in its object. -/
  | barrierAbort (p : Packet)
  /-- PACKET_FORWARD (R316). A device forwards a packet on its minimal or adaptive route. -/
  | packetForward (p : Packet)
  /-- FABRIC_TIMEOUT_EXPIRE (R318). A request without reply for FAB_TMO completes with FABRIC_TIMEOUT. -/
  | fabricTimeoutExpire (n : Nat)
  /-- REMOTE_COUNT_RETRY (R111). A refused fabric LDF is retried every 1 µs. -/
  | remoteCountRetry (n : Nat)
  /-- PEER_RESET (R110). A peer's incarnation entry leaves up, failing waiting requesters and logging its remote counts. -/
  | peerReset (peer : Nat) (state : Nat) (inc : BitVec 16)
  /-- FABRIC_TABLE_WRITE (R108). The management controller writes a routing, tree or incarnation entry. -/
  | fabricTableWrite (off : Nat) (v : BitVec 64)
  /-- FLIT_RECEIVE (R140). A received flit is accepted in order or discarded with a replay request. -/
  | flitReceive (port : Nat) (seq : BitVec 16) (good : Bool)
  /-- ACKNOWLEDGEMENT (R325). A received acknowledgement advances ACKSEQ. -/
  | acknowledgement (port : Nat) (seq : BitVec 16)
  /-- REPLAY_REQUEST (R325). A received replay request makes the sender resend from the named flit. -/
  | replayRequest (port : Nat) (seq : BitVec 16)
  /-- ACK_TIMER (R325). The receiver sends an acknowledgement after 1 µs without one. -/
  | ackTimer (port : Nat)
  /-- LANE_FAIL (R326). A failed port lane stops the port and starts retraining on fewer lanes. -/
  | laneFail (port : Nat) (lane : Nat)
  /-- PORT_RETRAIN (R326). A degraded port finishes retraining and replays from ACKSEQ. -/
  | portRetrain (port : Nat)
  /-- PORT_DOWN (R326). A port with no working lane goes down. -/
  | portDown (port : Nat)
  /-- PORT_TRAIN (R140). Training of a Floe port sets its sequence counters to 0. -/
  | portTrain (port : Nat)
  /-- FIRN_TIMEOUT (R339). A CXL.mem request unanswered for 1 ms raises an error. -/
  | firnTimeout (port : Nat) (write : Bool) (pa : Nat)
  /-- FIRN_ERROR (R339). A firn poison, refused write-back or port-down error is handled and logged. -/
  | firnError (port : Nat) (kind : Nat) (pa : Nat)
  /-- FLIT_SEND (R322). A Floe port sends its next queued flit, chosen by class order and the 64-flit-time rule, and the flit takes TXSEQ. -/
  | flitSend (port : Nat)
  /-- CXL_PORT_TRAIN (R339). The management controller trains a down CXL port again, and accesses to its lines stop failing as unanswered reads. -/
  | cxlPortTrain (port : Nat)
  deriving DecidableEq, Repr

end Sys2Proof
end

