-- ==== Sys2Proof/Config.lean ====
section
/-! DEFINITION. What the spec leaves to an implementation or leaves open: constants without a body. No proof can see
what they are, so what is proved holds whatever they are. -/

namespace Sys2Proof

/-- What happens where no action is waiting, by the count of free values taken (log 3): kind 3 is the loss of the cache entry
of a (level, index), kind 4 a soft error of (what, index), kind 5 the event given, kind 6 a write of the host to its own
memory at (PA, value), kind 7 a forced unload's removal of the head record of a queue, kind 8 the end of an attempt of the recovery
mailbox, any other kind a cycle of CLOCK. -/
opaque Config.schedule : Nat → Nat × Nat × Nat × Option Instr

/-- Which TLB entry a full level replaces (R98: not architectural; log 6). -/
opaque Config.tlbVictim : Nat → Nat

/-- The bits a special function returns where R43 only bounds its error, by function number and input (log 7). -/
opaque Config.special : Nat → Word → Word

/-- What measurement block i is the digest of, for the firmware release with this digest, none for the factory's: 1 boot ROM, 2
management firmware, 3 hub and core microcode, 4 the fuse configuration but for the SVN (R369; log 5). -/
opaque Config.measured : Nat → List Byte → List Byte

/-- The signature that the Alias key of a firmware measurement makes over a byte string (R369; log 5). -/
opaque Config.aliasSign : List Byte → List Byte → List Byte

/-- The certificate chain of slot 0 for a firmware measurement: root, intermediate, DeviceID, Alias (R369; log 5). -/
opaque Config.certChain : List Byte → List Byte

/-- The nonce the device puts into an SPDM answer, by the count of free values taken (R369; log 5). -/
opaque Config.nonce : Nat → List Byte

/-- What reading an image from host memory finds: signature of the firmware, signature of the microcode, form, and
security version (R368; log 5). -/
opaque Config.imageVerdict : List Byte → Bool × Bool × Bool × BitVec 16

/-- Whether a stack trains at stage 1 (R361, R363; log 8). -/
opaque Config.stackTrains : Nat → Bool

/-- Whether Floe port p trains at stage 2 (R361; log 8). -/
opaque Config.portTrains : Nat → Bool

/-- Whether CXL port p trains at full speed and width, whether it has an expander, and its capacity in bytes (R338;
log 8). -/
opaque Config.cxlPort : Nat → Bool × Bool × Nat

/-- Whether a request that may leave the minimal route does (R316: it may), by the count of free values taken (log 12). -/
opaque Config.adaptRoute : Nat → Bool

/-- A word whose value the spec leaves open, by the count of free values taken (log 4). -/
opaque Config.freeWord : Nat → BitVec 64

/-- The number the management controller gives the device (R314; log 9). -/
opaque Config.deviceNumber : Nat

end Sys2Proof
end

