-- ==== Sys2Proof/WellFormed.lean ====
section
/-! DEFINITION. Which instructions the encoding admits: the field checks of R170 step 4 that the word alone decides.
Checks that need the warp's budget, the team or operand values are made where the instruction runs. -/

namespace Sys2Proof

/-- An even register names a pair (R158). -/
def evenG (g : GReg) : Bool := g.toNat % 2 == 0

/-- The registers an access of a type spans (R210). -/
def AccType.regs : AccType → Nat
  | .b64 | .fx64 | .s64 | .n64 => 2
  | .b128 => 4
  | _ => 1

/-- The bytes an access of a type spans (R210). -/
def AccType.bytes : AccType → Nat
  | .b8 | .s8 => 1
  | .b16 | .s16 | .f16 | .bf16 => 2
  | .b32 | .f32 | .s32 | .n32 => 4
  | .b64 | .fx64 | .s64 | .n64 => 8
  | .b128 => 16

/-- A register group starts at a multiple of its size (R53). -/
def groupAligned (v : VReg) (n : Nat) : Bool := v.toNat % n == 0

/-- An unused lane-register field is zero (R158). -/
def unusedOr (used : Bool) (v : VReg) : Bool := used || v == 0

/-- The uses a row of R168 gives the fields of classes 0x0 to 0x6 and 0xE. -/
structure AluUse where
  vd : Bool := true
  va : Bool := true
  b : Bool := false
  vc : Bool := false
  q : BitVec 4 → Bool := fun q => q == 0
  imm : Word → Bool := fun i => i == 0

/-- Fields of an arithmetic lane word that its row gives no use are zero, and Q and imm32 hold assigned values
(R160, R195). -/
def AluArgs.ok (u : AluUse) (x : AluArgs) : Bool :=
  unusedOr u.vd x.vd && unusedOr u.va x.va && unusedOr u.vc x.vc && u.q x.q &&
  (if u.b then (match x.b with | .imm => true | _ => x.imm == 0)
   else x.b == .lane 0 && u.imm x.imm)

/-- The uses a row of R168 and R209 gives the fields of classes 0x7 to 0x9. -/
structure MemUse where
  vd : Bool := false
  va : Bool := true
  vb : Bool := false
  vc : Bool := false
  pair : Bool := false
  w : AccType → Bool := fun w => w != .fx64
  ord : Ord → Bool := fun o => o == .none
  imm : Word → Bool := fun i => i == 0

/-- Fields of a memory lane word that its row gives no use are zero, W and ORD are accepted, register groups are
aligned and the base pair is even (R53, R209, R210, R211). -/
def MemArgs.ok (u : MemUse) (x : MemArgs) : Bool :=
  unusedOr u.vd x.vd && unusedOr u.va x.va && unusedOr u.vb x.vb && unusedOr u.vc x.vc &&
  (if u.pair then evenG x.g else x.g == 0) && u.w x.w && u.ord x.ord && u.imm x.imm &&
  groupAligned x.vd x.w.regs && groupAligned x.vb x.w.regs

/-- The uses a row of R168 gives the fields of classes 0xA to 0xD. -/
structure EngUse where
  vd : Bool := false
  va : Bool := false
  vb : Bool := false
  vc : Bool := false
  g : GReg → Bool := fun g => g == 0
  q6 : BitVec 6 → Bool := fun q => q == 0
  imm : Word → Bool := fun i => i == 0

/-- Fields of an engine lane word that its row gives no use are zero, and Q6 and imm32 hold assigned values (R229,
R246). -/
def EngArgs.ok (u : EngUse) (x : EngArgs) : Bool :=
  unusedOr u.vd x.vd && unusedOr u.va x.va && unusedOr u.vb x.vb && unusedOr u.vc x.vc &&
  u.g x.g && u.q6 x.q6 && u.imm x.imm

/-- Type codes CVT accepts (R161, R202). -/
def cvtCode (c : Nat) : Bool :=
  (0x08 ≤ c && c ≤ 0x15)

/-- Type codes of 64-bit integers (R161). -/
def wideCode (c : Nat) : Bool := c == 0x0B || c == 0x0F

/-- CVT: both type codes name a convertible type, and 64-bit groups are aligned (R202, R53). -/
def cvtOk (x : AluArgs) : Bool :=
  x.ok { imm := fun i => i.toNat < 0x10000 && cvtCode (i.toNat % 256) && cvtCode (i.toNat / 256) } &&
  (!wideCode (x.imm.toNat % 256) || groupAligned x.vd 2) &&
  (!wideCode (x.imm.toNat / 256) || groupAligned x.va 2)

/-- CVTQ: an accepted target, and vc is not vd (R203). -/
def cvtqOk (x : AluArgs) : Bool :=
  x.ok { vc := true, imm := fun i => i.toNat < 0x200 &&
    (i.toNat % 256 == 0x13 || i.toNat % 256 == 0x14 || i.toNat % 256 == 0x16) } && x.vc != x.vd

/-- Q of an instruction whose Q[0] alone is assigned. -/
def q01 (q : BitVec 4) : Bool := q.toNat < 2

/-- Any type but .b128 and .fx64 (R209). -/
def noWide (w : AccType) : Bool := w != .b128 && w != .fx64

/-- Scope in imm[1:0], every other bit zero (R168). -/
def scopeImm (i : Word) : Bool := i.toNat < 4

/-- Types of ATOM.add and RED.add (R219). -/
def addTypes (w : AccType) : Bool := [.b32, .n32, .s32, .b64, .n64, .s64, .f32].contains w

/-- Types of ATOM.min, .max and RED.min, .max (R219). -/
def minTypes (w : AccType) : Bool := [.s32, .n32, .s64, .n64, .f32].contains w

/-- Types of the bitwise atomics, exchange and compare-and-swap (R219). -/
def bitTypes (w : AccType) : Bool := w == .b32 || w == .b64

/-- Fields of an ATOM with the given types (R209, R219). -/
def atomUse (w : AccType → Bool) : MemUse :=
  { vd := true, vb := true, pair := true, w := w, ord := fun _ => true, imm := scopeImm }

/-- Fields of a RED with the given types; .acq and .acq.rel are refused (R219). -/
def redUse (w : AccType → Bool) : MemUse :=
  { vb := true, pair := true, w := w, ord := fun o => o == .none || o == .rel, imm := scopeImm }

/-- Fields of a load from [g+va]. -/
def loadUse (w : AccType → Bool) (ord : Ord → Bool) : MemUse :=
  { vd := true, pair := true, w := w, ord := ord }

/-- Any ORD. -/
def anyOrd (_ : Ord) : Bool := true

/-- An LM offset in imm[19:0] (R246). -/
def off20 (i : Word) : Bool := i.toNat < 0x100000

/-- An iterator number in imm[3:0] (R246). -/
def itImm (i : Word) : Bool := i.toNat < 16

/-- The registers of one LDACC or STACC access, from Q6[1:0] (R229). -/
def accWidth (q : BitVec 6) : Nat := 2 ^ q.toNat

/-- The instruction's fields are ones its encoding admits (R165, R166, R167, R168, R170 step 4). -/
def Instr.wellFormed : Instr → Bool
  | .br c g _ => c != .always || g == 0
  | .loop g _ => g != 0
  | .ldg _ a _ | .stg _ a _ | .jmpr a | .callr a => evenG a
  | .jmpv v | .callv v => groupAligned v 2
  | .qwait a _ t => evenG a && t.toNat < 27
  | .tlbinv _ a b => evenG a && evenG b
  | .clock d => evenG d
  | .iadd x | .isub x | .imul x => x.ok { b := true }
  | .imulh x | .imin x | .imax x => x.ok { b := true, q := q01 }
  | .imad x => x.ok { b := true, vc := true }
  | .iabs x | .ineg x => x.ok {}
  | .mov x => x.ok { va := false, b := true } && x.b != .imm
  | .movi x => x.ok { va := false, imm := fun _ => true }
  | .lea x => x.ok { b := true, q := fun _ => true }
  | .laneAnd x | .laneOr x | .laneXor x | .laneShl x | .laneShr x | .laneSar x => x.ok { b := true }
  | .not x | .lanePopc x | .laneClz x => x.ok {}
  | .bfe x => x.ok { b := true, vc := true, q := q01 }
  | .bfi x => x.ok { b := true, vc := true }
  | .icmp x => x.ok { b := true, q := fun q => q.toNat < 10 }
  | .laneSel x => x.ok { b := true, vc := true }
  | .fadd x | .fsub x | .fmul x | .fmin x | .fmax x => x.ok { b := true }
  | .ffma x => x.ok { b := true, vc := true }
  | .fcmp x => x.ok { b := true, q := fun q => q.toNat < 8 }
  | .hadd2 x | .hmul2 x => x.ok { b := true, q := q01 }
  | .hfma2 x => x.ok { b := true, vc := true, q := q01 }
  | .cvt x => cvtOk x
  | .cvtq x => cvtqOk x
  | .had x => x.ok { q := fun q => q.toNat < 4 }
  | .shfl x | .bfly x | .bcast x => x.ok { b := true }
  | .redux x => x.ok { q := fun q => q.toNat < 11 }
  | .scan x => x.ok { q := fun q => q.toNat < 11, imm := fun i => i.toNat < 2 }
  | .laneid x => x.ok { va := false }
  | .rcp x | .rsq x | .sqrt x | .exp2 x | .log2 x | .sin x | .cos x | .tanh x | .sigm x => x.ok {}
  | .ld x => x.ok (loadUse (fun w => w != .fx64) anyOrd)
  | .ldl x | .ldc x => x.ok { vd := true, imm := fun _ => true }
  | .gather x => x.ok (loadUse noWide anyOrd)
  | .gatherP x => x.ok { loadUse noWide anyOrd with vc := true, imm := fun i => i.toNat < 2 } &&
      !(x.vd.toNat ≤ x.vc.toNat && x.vc.toNat < x.vd.toNat + x.w.regs)
  | .pref x => x.ok { pair := true, w := fun w => w == .b8 }
  | .tagl x => x.ok { vd := true, w := fun w => w == .b8 }
  | .st x => x.ok { vb := true, vc := true, pair := true, ord := anyOrd, imm := fun i => i.toNat < 2 } &&
      (x.imm != 0 || x.vc == 0)
  | .stl x | .stc x => x.ok { vb := true, imm := fun _ => true }
  | .scatter x => x.ok { vb := true, pair := true, w := noWide, ord := anyOrd }
  | .tagset x => x.ok { vb := true, w := fun w => w == .b8 }
  | .taginv x => x.ok { w := fun w => w == .b8 }
  | .atomAdd x => x.ok (atomUse addTypes)
  | .atomMin x | .atomMax x => x.ok (atomUse minTypes)
  | .atomAnd x | .atomOr x | .atomXor x | .atomExch x => x.ok (atomUse bitTypes)
  | .atomCas x => x.ok { atomUse bitTypes with vc := true } && groupAligned x.vc x.w.regs
  | .redAdd x => x.ok (redUse addTypes)
  | .redMin x | .redMax x => x.ok (redUse minTypes)
  | .redAnd x | .redOr x | .redXor x => x.ok (redUse bitTypes)
  | .ldf x | .ldfRc x => x.ok (loadUse (fun w => w != .fx64) (fun o => o == .none))
  | .adja x => x.ok { vb := true, pair := true, w := fun w => w == .f32 }
  | .adjr x | .adjrWait x => x.ok (loadUse (fun w => w == .f32 || w == .fx64) (fun o => o == .none))
  | .adjq x => x.ok (loadUse (fun w => w == .b32) (fun o => o == .none))
  | .phaseRel x | .phaseAcq x => x.ok {}
  | .gangset x => x.ok { g := fun _ => true }
  | .mma x => x.ok { imm := fun _ => true }
  | .mmaJ x => x.ok { q6 := fun q => q == 1, imm := fun _ => true }
  | .bld x => x.ok { va := true, vb := true, imm := fun i => 16 ≤ i.toNat && i.toNat ≤ 4096 && i.toNat % 16 == 0 }
  | .ldacc x => x.ok { vd := true, va := true, q6 := fun q => q.toNat < 3, imm := fun _ => true } &&
      groupAligned x.vd (accWidth x.q6)
  | .stacc x => x.ok { va := true, vb := true, q6 := fun q => q.toNat < 3, imm := fun _ => true } &&
      groupAligned x.vb (accWidth x.q6)
  | .zacc x => x.ok { va := true, imm := fun _ => true }
  | .dupmap x => x.ok { imm := fun _ => true }
  | .mwait x => x.ok { q6 := fun q => q.toNat < 2 }
  | .kick x => x.ok { g := fun _ => true }
  | .wptr x => x.ok { vd := true, imm := fun i => i.toNat < 4 }
  | .qpush x => x.ok { vd := true, g := evenG }
  | .qfence x => x.ok { va := true, g := evenG } && groupAligned x.va 2
  | .launch x => x.ok { va := true, g := fun _ => true } && groupAligned x.va 2
  | .barinit x | .barriveBytes x | .fbar x => x.ok { g := fun _ => true, imm := off20 }
  | .barrive x | .gbar x => x.ok { imm := off20 }
  | .bartry x => x.ok { vd := true, imm := off20 }
  | .strag x => x.ok { vd := true, imm := fun i => i.toNat < 0x2000000 }
  | .tqpop x | .tqsteal x => x.ok { va := true, g := fun _ => true } && groupAligned x.va 2
  | .tqdone x => x.ok { va := true } && groupAligned x.va 2
  | .itopen x => x.ok { va := true, imm := fun i => i.toNat < 128 }
  | .next x | .nextBounded x => x.ok { vd := true, vc := true, g := fun _ => true, imm := itImm } && x.vc != x.vd
  | .enough x => x.ok { imm := itImm }
  | .itsave x | .itload x => x.ok { va := true, imm := itImm }
  | .itstat x => x.ok { g := fun _ => true, imm := itImm }
  | _ => true

end Sys2Proof
end

