-- ==== Sys2Proof/Decode.lean ====
section
/-! DEFINITION. From words to instructions: the decoders of scalar words (R157, R165, R166) and lane words (R159,
R160, R168), total on any bits and rejecting by name, and after them the encoder. -/

namespace Sys2Proof

/-- Bits `lo` to `lo + n - 1` of a word, as a number. -/
def bits {w : Nat} (x : BitVec w) (lo n : Nat) : Nat := x.toNat / 2 ^ lo % 2 ^ n

/-- Bit `i` of a number. -/
def bitAt (x i : Nat) : Bool := x / 2 ^ i % 2 == 1

/-- Why a word is no instruction (R170). `illegalOp` is step 1. `reservedField` is step 4: it carries the feature
that gates the instruction and whether it is privileged, because steps 2 and 3 come before it. -/
inductive DecodeFault where
  | illegalOp
  | reservedField (gate : Nat) (privileged : Bool)
  deriving DecidableEq, Repr

/-- A scalar word's field as a g register. -/
def fieldG (w : Word) (lo : Nat) : GReg := BitVec.ofNat 6 (bits w lo 6)

/-- Decode of major opcode 0x01 by fn (R166). -/
def decodeInteger (w : Word) : Except DecodeFault Instr :=
  let d := fieldG w 20
  let a := fieldG w 14
  let b := fieldG w 8
  let fn := bits w 0 8
  let r : Except DecodeFault Instr := .error (.reservedField 0 false)
  match fn with
  | 0x00 => .ok (.add d a b)
  | 0x01 => .ok (.sub d a b)
  | 0x02 => .ok (.mul d a b)
  | 0x03 => .ok (.mulhS32 d a b)
  | 0x04 => .ok (.mulhN32 d a b)
  | 0x05 => .ok (.and d a b)
  | 0x06 => .ok (.or d a b)
  | 0x07 => .ok (.xor d a b)
  | 0x08 => .ok (.shl d a b)
  | 0x09 => .ok (.shr d a b)
  | 0x0A => .ok (.sar d a b)
  | 0x0B => .ok (.minS32 d a b)
  | 0x0C => .ok (.minN32 d a b)
  | 0x0D => .ok (.maxS32 d a b)
  | 0x0E => .ok (.maxN32 d a b)
  | 0x0F => if b = 0 then .ok (.popc d a) else r
  | 0x10 => if b = 0 then .ok (.clz d a) else r
  | 0x18 => .ok (.cmpEq d a b)
  | 0x19 => .ok (.cmpNe d a b)
  | 0x1A => .ok (.cmpLtS32 d a b)
  | 0x1B => .ok (.cmpLeS32 d a b)
  | 0x1C => .ok (.cmpLtN32 d a b)
  | 0x1D => .ok (.cmpLeN32 d a b)
  | n => if 0xC0 ≤ n then .ok (.sel d a b (fieldG w 0)) else .error .illegalOp

/-- BR's condition from the cond field (R167). -/
def brCond : Nat → Option BrCond
  | 0 => some .always
  | 1 => some .z
  | 2 => some .nz
  | 3 => some .ltz
  | 4 => some .gez
  | 5 => some .gtz
  | 6 => some .lez
  | _ => none

/-- BRL's condition from the cond field (R167). -/
def brlCond : Nat → Option BrlCond
  | 8 => some .any
  | 9 => some .all
  | 10 => some .none
  | 11 => some .notall
  | _ => none

/-- VOTE's mode from gb[1:0] (R176). -/
def voteMode : Nat → VoteMode
  | 0 => .ballot
  | 1 => .any
  | 2 => .all
  | _ => .count

/-- Decode of a scalar word under R165, before the checks of `Instr.wellFormed`; none where a field without a use is
nonzero or a value is unassigned. The outer none is an unassigned opcode. -/
def decodeScalarFields (w : Word) : Option (Option Instr) :=
  let d := fieldG w 20
  let a := fieldG w 14
  let b := fieldG w 8
  let fn8 : BitVec 8 := BitVec.ofNat 8 (bits w 0 8)
  let imm14 : BitVec 14 := BitVec.ofNat 14 (bits w 0 14)
  let imm20 : BitVec 20 := BitVec.ofNat 20 (bits w 0 20)
  let sh : BitVec 5 := BitVec.ofNat 5 (bits w 0 5)
  let pr : VReg := BitVec.ofNat 8 (bits w 14 8)
  let cond := bits w 22 4
  let zero (lo n : Nat) (i : Instr) : Option (Option Instr) := some (if bits w lo n = 0 then some i else none)
  match bits w 26 6 with
  | 0x02 => some (some (.addi d a imm14))
  | 0x03 => some (some (.andi d a imm14))
  | 0x04 => some (some (.ori d a imm14))
  | 0x05 => some (some (.xori d a imm14))
  | 0x06 => zero 5 9 (.shli d a sh)
  | 0x07 => zero 5 9 (.shri d a sh)
  | 0x08 => some (some (.lui d imm20))
  | 0x09 => some (some (.ldg d a imm14))
  | 0x0A => some (some (.stg d a imm14))
  | 0x0B => some (if bits w 10 10 = 0 then some (.vote d fn8 (voteMode (bits w 8 2))) else none)
  | 0x0C => some (if bits w 19 1 = 0 ∧ bits w 8 6 = 0 then some (.movg d fn8 (BitVec.ofNat 5 (bits w 14 5))) else none)
  | 0x0D => some (if bits w 19 1 = 0 ∧ bits w 0 14 = 0 then some (.rdt d (BitVec.ofNat 5 (bits w 14 5))) else none)
  | 0x0E => some (if bits w 25 1 = 0 ∧ bits w 0 14 = 0 then some (.wrt (BitVec.ofNat 5 (bits w 20 5)) a) else none)
  | 0x0F => zero 0 20 (.rdx d)
  | 0x10 => some (if bits w 20 6 = 0 ∧ bits w 0 14 = 0 then some (.wrx a) else none)
  | 0x11 => some (match brCond cond with
      | some c => if bits w 20 2 = 0 then some (.br c a imm14) else none
      | none => none)
  | 0x12 => some (match brlCond cond with
      | some c => some (.brl c pr imm14)
      | none => none)
  | 0x13 => some (if cond = 0 then some (.split pr imm14) else none)
  | 0x14 => zero 14 12 (.joinat imm14)
  | 0x15 => zero 0 26 .join
  | 0x16 => zero 20 6 (.jmp imm20)
  | 0x17 => some (if bits w 20 6 = 0 ∧ bits w 0 14 = 0 then some (.jmpr a) else none)
  | 0x18 => zero 8 18 (.jmpv fn8)
  | 0x19 => zero 20 6 (.call imm20)
  | 0x1A => some (if bits w 20 6 = 0 ∧ bits w 0 14 = 0 then some (.callr a) else none)
  | 0x1B => zero 8 18 (.callv fn8)
  | 0x1C => zero 0 26 .ret
  | 0x1D => some (if cond = 0 ∧ bits w 20 2 = 0 then some (.loop a imm14) else none)
  | 0x1E => zero 0 26 .exit
  | 0x1F => some (some (.issue (BitVec.ofNat 4 (bits w 22 4)) (BitVec.ofNat 22 (bits w 0 22))))
  | 0x20 => zero 12 14 (.waitf (BitVec.ofNat 12 (bits w 0 12)))
  | 0x21 => zero 0 26 .yield
  | 0x22 => some (if bits w 20 6 = 0 ∧ bits w 1 4 = 0
      then some (.barwait (BitVec.ofNat 15 (bits w 5 15)) (bits w 0 1 == 1)) else none)
  | 0x23 => zero 20 6 (.qwait a b fn8)
  | 0x24 => zero 20 6 (.trap imm20)
  | 0x25 => zero 0 26 .rtt
  | 0x26 => zero 8 12 (.rdsr d fn8)
  | 0x27 => some (if bits w 20 6 = 0 ∧ bits w 8 6 = 0 then some (.wrsr a fn8) else none)
  | 0x28 => zero 0 8 (.tlbinv d a b)
  | 0x29 => zero 20 6 (.bkpt imm20)
  | 0x2A => zero 0 26 .halt
  | 0x2B => zero 0 26 .nop
  | 0x2C => some (if bits w 14 6 = 0 ∧ bits w 9 5 = 0 then some (.feat d (BitVec.ofNat 9 (bits w 0 9))) else none)
  | 0x2D => zero 0 20 (.clock d)
  | _ => none

/-- Decode of a scalar word (R165, R170): every scalar opcode is gated by feature bit 0 and only TLBINV is privileged
at decode. -/
def decodeScalar (w : Word) : Except DecodeFault Instr :=
  if bits w 26 6 = 1 then decodeInteger w
  else match decodeScalarFields w with
    | none => .error .illegalOp
    | some (some i) => if i.wellFormed then .ok i else .error (.reservedField 0 (bits w 26 6 == 0x28))
    | some none => .error (.reservedField 0 (bits w 26 6 == 0x28))

/-- How a class and function pair of R168 reads its fields. -/
inductive LaneForm where
  | alu (mk : AluArgs → Instr)
  | mem (mk : MemArgs → Instr)
  | eng (mk : EngArgs → Instr)

/-- Classes 0x0 to 0x6 and 0xE of R168. -/
def laneFormAlu (cls fn : Nat) : Option LaneForm :=
  match cls, fn with
  | 0x0, 0x00 => some (.alu .iadd)
  | 0x0, 0x01 => some (.alu .isub)
  | 0x0, 0x02 => some (.alu .imul)
  | 0x0, 0x03 => some (.alu .imulh)
  | 0x0, 0x04 => some (.alu .imad)
  | 0x0, 0x05 => some (.alu .imin)
  | 0x0, 0x06 => some (.alu .imax)
  | 0x0, 0x07 => some (.alu .iabs)
  | 0x0, 0x08 => some (.alu .ineg)
  | 0x0, 0x09 => some (.alu .mov)
  | 0x0, 0x0A => some (.alu .movi)
  | 0x0, 0x0B => some (.alu .lea)
  | 0x1, 0x00 => some (.alu .laneAnd)
  | 0x1, 0x01 => some (.alu .laneOr)
  | 0x1, 0x02 => some (.alu .laneXor)
  | 0x1, 0x03 => some (.alu .not)
  | 0x1, 0x04 => some (.alu .laneShl)
  | 0x1, 0x05 => some (.alu .laneShr)
  | 0x1, 0x06 => some (.alu .laneSar)
  | 0x1, 0x07 => some (.alu .bfe)
  | 0x1, 0x08 => some (.alu .bfi)
  | 0x1, 0x09 => some (.alu .lanePopc)
  | 0x1, 0x0A => some (.alu .laneClz)
  | 0x2, 0x00 => some (.alu .icmp)
  | 0x2, 0x01 => some (.alu .laneSel)
  | 0x3, 0x00 => some (.alu .fadd)
  | 0x3, 0x01 => some (.alu .fsub)
  | 0x3, 0x02 => some (.alu .fmul)
  | 0x3, 0x03 => some (.alu .ffma)
  | 0x3, 0x04 => some (.alu .fmin)
  | 0x3, 0x05 => some (.alu .fmax)
  | 0x3, 0x06 => some (.alu .fcmp)
  | 0x4, 0x00 => some (.alu .hadd2)
  | 0x4, 0x01 => some (.alu .hmul2)
  | 0x4, 0x02 => some (.alu .hfma2)
  | 0x5, 0x00 => some (.alu .cvt)
  | 0x5, 0x01 => some (.alu .cvtq)
  | 0x5, 0x02 => some (.alu .had)
  | 0x6, 0x00 => some (.alu .shfl)
  | 0x6, 0x01 => some (.alu .bfly)
  | 0x6, 0x02 => some (.alu .bcast)
  | 0x6, 0x03 => some (.alu .redux)
  | 0x6, 0x04 => some (.alu .scan)
  | 0x6, 0x05 => some (.alu .laneid)
  | 0xE, 0x00 => some (.alu .rcp)
  | 0xE, 0x01 => some (.alu .rsq)
  | 0xE, 0x02 => some (.alu .sqrt)
  | 0xE, 0x03 => some (.alu .exp2)
  | 0xE, 0x04 => some (.alu .log2)
  | 0xE, 0x05 => some (.alu .sin)
  | 0xE, 0x06 => some (.alu .cos)
  | 0xE, 0x07 => some (.alu .tanh)
  | 0xE, 0x08 => some (.alu .sigm)
  | _, _ => none

/-- Classes 0x7 to 0x9 of R168. -/
def laneFormMem (cls fn : Nat) : Option LaneForm :=
  match cls, fn with
  | 0x7, 0x00 => some (.mem .ld)
  | 0x7, 0x01 => some (.mem .ldl)
  | 0x7, 0x02 => some (.mem .ldc)
  | 0x7, 0x03 => some (.mem .gather)
  | 0x7, 0x04 => some (.mem .gatherP)
  | 0x7, 0x05 => some (.mem .pref)
  | 0x7, 0x06 => some (.mem .tagl)
  | 0x8, 0x00 => some (.mem .st)
  | 0x8, 0x01 => some (.mem .stl)
  | 0x8, 0x02 => some (.mem .stc)
  | 0x8, 0x03 => some (.mem .scatter)
  | 0x8, 0x04 => some (.mem .tagset)
  | 0x8, 0x05 => some (.mem .taginv)
  | 0x8, 0x08 => some (.mem .atomAdd)
  | 0x8, 0x09 => some (.mem .atomMin)
  | 0x8, 0x0A => some (.mem .atomMax)
  | 0x8, 0x0B => some (.mem .atomAnd)
  | 0x8, 0x0C => some (.mem .atomOr)
  | 0x8, 0x0D => some (.mem .atomXor)
  | 0x8, 0x0E => some (.mem .atomExch)
  | 0x8, 0x0F => some (.mem .atomCas)
  | 0x8, 0x10 => some (.mem .redAdd)
  | 0x8, 0x11 => some (.mem .redMin)
  | 0x8, 0x12 => some (.mem .redMax)
  | 0x8, 0x13 => some (.mem .redAnd)
  | 0x8, 0x14 => some (.mem .redOr)
  | 0x8, 0x15 => some (.mem .redXor)
  | 0x9, 0x00 => some (.mem .ldf)
  | 0x9, 0x01 => some (.mem .ldfRc)
  | 0x9, 0x02 => some (.mem .adja)
  | 0x9, 0x03 => some (.mem .adjr)
  | 0x9, 0x04 => some (.mem .adjrWait)
  | 0x9, 0x05 => some (.mem .adjq)
  | _, _ => none

/-- Classes 0xA to 0xD of R168. MMA and MMA.j share a pair and differ in Q6[0] (R229). -/
def laneFormEng (cls fn q6 : Nat) : Option LaneForm :=
  match cls, fn with
  | 0xA, 0x00 => some (.eng .gangset)
  | 0xA, 0x01 => some (.eng (if q6 % 2 = 0 then .mma else .mmaJ))
  | 0xA, 0x02 => some (.eng .bld)
  | 0xA, 0x03 => some (.eng .ldacc)
  | 0xA, 0x04 => some (.eng .stacc)
  | 0xA, 0x05 => some (.eng .zacc)
  | 0xA, 0x06 => some (.eng .dupmap)
  | 0xA, 0x07 => some (.eng .mwait)
  | 0xB, 0x00 => some (.eng .kick)
  | 0xB, 0x01 => some (.eng .wptr)
  | 0xB, 0x02 => some (.eng .qpush)
  | 0xB, 0x03 => some (.eng .qfence)
  | 0xB, 0x04 => some (.eng .launch)
  | 0xC, 0x00 => some (.eng .barinit)
  | 0xC, 0x01 => some (.eng .barrive)
  | 0xC, 0x02 => some (.eng .barriveBytes)
  | 0xC, 0x03 => some (.eng .bartry)
  | 0xC, 0x04 => some (.eng .gbar)
  | 0xC, 0x05 => some (.eng .fbar)
  | 0xC, 0x06 => some (.eng .phaseRel)
  | 0xC, 0x07 => some (.eng .phaseAcq)
  | 0xD, 0x00 => some (.eng .strag)
  | 0xD, 0x01 => some (.eng .tqpop)
  | 0xD, 0x02 => some (.eng .tqsteal)
  | 0xD, 0x03 => some (.eng .tqdone)
  | 0xD, 0x04 => some (.eng .itopen)
  | 0xD, 0x05 => some (.eng .next)
  | 0xD, 0x06 => some (.eng .nextBounded)
  | 0xD, 0x07 => some (.eng .enough)
  | 0xD, 0x08 => some (.eng .itsave)
  | 0xD, 0x09 => some (.eng .itload)
  | 0xD, 0x0A => some (.eng .itstat)
  | _, _ => none

/-- The instruction a class and function pair names (R168). -/
def laneForm (cls fn q6 : Nat) : Option LaneForm :=
  if cls = 0xE ∨ cls < 7 then laneFormAlu cls fn
  else if cls < 0xA then laneFormMem cls fn
  else laneFormEng cls fn q6

/-- The feature that gates a lane word (R169, R346), from the word's own fields. -/
def laneGate (cls fn imm : Nat) : Nat :=
  if cls = 5 ∧ fn = 2 then 6
  else if cls = 5 ∧ fn = 1 ∧ imm % 256 = 0x16 then 3
  else if cls = 9 then 10
  else if cls = 7 ∧ fn = 4 ∧ imm % 2 = 1 then 10
  else if cls = 8 ∧ 8 ≤ fn ∧ imm % 4 = 3 then 16
  else if cls = 0xA then (if fn = 2 then 9 else if fn = 6 then 7 else 2)
  else if cls = 0xC ∧ fn = 5 then 16
  else if cls = 0xD then (if fn < 4 then 14 else 13)
  else 1

/-- Access type from the W code (R160); 0xF is reserved. -/
def accTypeOf : Nat → Option AccType
  | 0x0 => some .b8
  | 0x1 => some .b16
  | 0x2 => some .b32
  | 0x3 => some .b64
  | 0x4 => some .b128
  | 0x5 => some .s8
  | 0x6 => some .s16
  | 0x7 => some .f32
  | 0x8 => some .f16
  | 0x9 => some .bf16
  | 0xA => some .fx64
  | 0xB => some .s32
  | 0xC => some .n32
  | 0xD => some .s64
  | 0xE => some .n64
  | _ => none

/-- Ordering qualifier from the ORD code (R160). -/
def ordOf : Nat → Ord
  | 0 => .none
  | 1 => .acq
  | 2 => .rel
  | _ => .acqRel

/-- The predicate of a lane word (R162): none where PRED is nonzero under PMODE 00. -/
def predOf (mode : Nat) (v : VReg) : Option Pred :=
  match mode with
  | 0 => if v = 0 then some .none else none
  | 1 => some (.ifSet v)
  | _ => some (.ifNot v)

/-- Operand b of an arithmetic lane word (R160): vb must be 0 unless OSEL is 00, and G must be 0 unless OSEL is
01. -/
def opBOf (osel : Nat) (vb : VReg) (g : GReg) : Option OpB :=
  match osel with
  | 0 => if g = 0 then some (.lane vb) else none
  | 1 => if vb = 0 then some (.group g) else none
  | 2 => if vb = 0 ∧ g = 0 then some .imm else none
  | _ => none

/-- A lane word's field as a lane register. -/
def fieldV (w : BitVec 96) (lo : Nat) : VReg := BitVec.ofNat 8 (bits w lo 8)

/-- The instruction of a lane word of a known form; none where a field holds an unassigned value. -/
def laneFields (f : LaneForm) (w : BitVec 96) : Option Instr :=
  let vd := fieldV w 78
  let va := fieldV w 70
  let vb := fieldV w 62
  let vc := fieldV w 54
  let g : GReg := BitVec.ofNat 6 (bits w 48 6)
  let imm : Word := BitVec.ofNat 32 (bits w 0 32)
  match predOf (bits w 38 2) (fieldV w 40) with
  | none => none
  | some p =>
    match f with
    | .alu mk => (opBOf (bits w 36 2) vb g).map fun b => mk ⟨vd, va, b, vc, BitVec.ofNat 4 (bits w 32 4), imm, p⟩
    | .mem mk => (accTypeOf (bits w 32 4)).map fun t => mk ⟨vd, va, vb, vc, g, ordOf (bits w 36 2), t, imm, p⟩
    | .eng mk => some (mk ⟨vd, va, vb, vc, g, BitVec.ofNat 6 (bits w 32 6), imm, p⟩)

/-- Decode of a lane word (R168, R170). -/
def decodeLane (w : BitVec 96) : Except DecodeFault Instr :=
  let cls := bits w 92 4
  let fn := bits w 86 6
  match laneForm cls fn (bits w 32 6) with
  | none => .error .illegalOp
  | some f =>
    if bits w 38 2 = 3 then .error .illegalOp
    else match laneFields f w with
      | some i => if i.wellFormed then .ok i else .error (.reservedField (laneGate cls fn (bits w 0 32)) false)
      | none => .error (.reservedField (laneGate cls fn (bits w 0 32)) false)

/-! ### Bytes and words -/

/-- A little-endian byte list as a number (R74, R155). -/
def leNat : List Byte → Nat
  | [] => 0
  | b :: bs => b.toNat + 256 * leNat bs

/-- The `n` low bytes of a number, lowest first (R74, R155). -/
def leBytes : Nat → Nat → List Byte
  | 0, _ => []
  | n + 1, x => BitVec.ofNat 8 x :: leBytes n (x / 256)

/-- Decode of an instruction's bytes: four bytes are a scalar word, twelve a lane word (R155). -/
def decodeBytes (bs : List Byte) : Except DecodeFault Instr :=
  if bs.length ≤ 4 then decodeScalar (BitVec.ofNat 32 (leNat bs)) else decodeLane (BitVec.ofNat 96 (leNat bs))

/-- The instruction the decoder reads from a table row's word: up to 32 bits are a scalar word and more a lane word,
laid out as memory holds them. -/
def decodeTableWord (nbits w : Nat) : Option Instr :=
  match decodeBytes (leBytes (if nbits ≤ 32 then 4 else 12) w) with
  | .ok i => some i
  | .error _ => none

/-! ### The encoder -/

/-- A word of format SA (R157). -/
def encSA (op gd ga gb fn : Nat) : Nat := op * 2 ^ 26 + gd * 2 ^ 20 + ga * 2 ^ 14 + gb * 2 ^ 8 + fn

/-- A word of format SI (R157). -/
def encSI (op gd ga imm : Nat) : Nat := op * 2 ^ 26 + gd * 2 ^ 20 + ga * 2 ^ 14 + imm

/-- A word of format SB (R157). -/
def encSB (op cond pr off : Nat) : Nat := op * 2 ^ 26 + cond * 2 ^ 22 + pr * 2 ^ 14 + off

/-- A word of format SL (R157). -/
def encSL (op gd imm : Nat) : Nat := op * 2 ^ 26 + gd * 2 ^ 20 + imm

/-- BR's cond field (R167). -/
def brCondCode : BrCond → Nat
  | .always => 0
  | .z => 1
  | .nz => 2
  | .ltz => 3
  | .gez => 4
  | .gtz => 5
  | .lez => 6

/-- BRL's cond field (R167). -/
def brlCondCode : BrlCond → Nat
  | .any => 8
  | .all => 9
  | .none => 10
  | .notall => 11

/-- VOTE's gb field (R176). -/
def voteCode : VoteMode → Nat
  | .ballot => 0
  | .any => 1
  | .all => 2
  | .count => 3

/-- The word of a scalar instruction (R165, R166); none for the other instructions. -/
def encodeScalar : Instr → Option Nat
  | .add d a b => some (encSA 1 d.toNat a.toNat b.toNat 0x00)
  | .sub d a b => some (encSA 1 d.toNat a.toNat b.toNat 0x01)
  | .mul d a b => some (encSA 1 d.toNat a.toNat b.toNat 0x02)
  | .mulhS32 d a b => some (encSA 1 d.toNat a.toNat b.toNat 0x03)
  | .mulhN32 d a b => some (encSA 1 d.toNat a.toNat b.toNat 0x04)
  | .and d a b => some (encSA 1 d.toNat a.toNat b.toNat 0x05)
  | .or d a b => some (encSA 1 d.toNat a.toNat b.toNat 0x06)
  | .xor d a b => some (encSA 1 d.toNat a.toNat b.toNat 0x07)
  | .shl d a b => some (encSA 1 d.toNat a.toNat b.toNat 0x08)
  | .shr d a b => some (encSA 1 d.toNat a.toNat b.toNat 0x09)
  | .sar d a b => some (encSA 1 d.toNat a.toNat b.toNat 0x0A)
  | .minS32 d a b => some (encSA 1 d.toNat a.toNat b.toNat 0x0B)
  | .minN32 d a b => some (encSA 1 d.toNat a.toNat b.toNat 0x0C)
  | .maxS32 d a b => some (encSA 1 d.toNat a.toNat b.toNat 0x0D)
  | .maxN32 d a b => some (encSA 1 d.toNat a.toNat b.toNat 0x0E)
  | .popc d a => some (encSA 1 d.toNat a.toNat 0 0x0F)
  | .clz d a => some (encSA 1 d.toNat a.toNat 0 0x10)
  | .cmpEq d a b => some (encSA 1 d.toNat a.toNat b.toNat 0x18)
  | .cmpNe d a b => some (encSA 1 d.toNat a.toNat b.toNat 0x19)
  | .cmpLtS32 d a b => some (encSA 1 d.toNat a.toNat b.toNat 0x1A)
  | .cmpLeS32 d a b => some (encSA 1 d.toNat a.toNat b.toNat 0x1B)
  | .cmpLtN32 d a b => some (encSA 1 d.toNat a.toNat b.toNat 0x1C)
  | .cmpLeN32 d a b => some (encSA 1 d.toNat a.toNat b.toNat 0x1D)
  | .sel d a b c => some (encSA 1 d.toNat a.toNat b.toNat (0xC0 + c.toNat))
  | .addi d a i => some (encSI 0x02 d.toNat a.toNat i.toNat)
  | .andi d a i => some (encSI 0x03 d.toNat a.toNat i.toNat)
  | .ori d a i => some (encSI 0x04 d.toNat a.toNat i.toNat)
  | .xori d a i => some (encSI 0x05 d.toNat a.toNat i.toNat)
  | .shli d a n => some (encSI 0x06 d.toNat a.toNat n.toNat)
  | .shri d a n => some (encSI 0x07 d.toNat a.toNat n.toNat)
  | .lui d i => some (encSL 0x08 d.toNat i.toNat)
  | .ldg d a i => some (encSI 0x09 d.toNat a.toNat i.toNat)
  | .stg d a i => some (encSI 0x0A d.toNat a.toNat i.toNat)
  | .vote d v m => some (encSA 0x0B d.toNat 0 (voteCode m) v.toNat)
  | .movg d v l => some (encSA 0x0C d.toNat l.toNat 0 v.toNat)
  | .rdt d t => some (encSA 0x0D d.toNat t.toNat 0 0)
  | .wrt t a => some (encSA 0x0E t.toNat a.toNat 0 0)
  | .rdx d => some (encSA 0x0F d.toNat 0 0 0)
  | .wrx a => some (encSA 0x10 0 a.toNat 0 0)
  | .br c g o => some (encSB 0x11 (brCondCode c) g.toNat o.toNat)
  | .brl c v o => some (encSB 0x12 (brlCondCode c) v.toNat o.toNat)
  | .split v o => some (encSB 0x13 0 v.toNat o.toNat)
  | .joinat o => some (encSB 0x14 0 0 o.toNat)
  | .join => some (encSA 0x15 0 0 0 0)
  | .jmp i => some (encSL 0x16 0 i.toNat)
  | .jmpr a => some (encSA 0x17 0 a.toNat 0 0)
  | .jmpv v => some (encSA 0x18 0 0 0 v.toNat)
  | .call i => some (encSL 0x19 0 i.toNat)
  | .callr a => some (encSA 0x1A 0 a.toNat 0 0)
  | .callv v => some (encSA 0x1B 0 0 0 v.toNat)
  | .ret => some (encSA 0x1C 0 0 0 0)
  | .loop g o => some (encSB 0x1D 0 g.toNat o.toNat)
  | .exit => some (encSA 0x1E 0 0 0 0)
  | .issue n o => some (0x1F * 2 ^ 26 + n.toNat * 2 ^ 22 + o.toNat)
  | .waitf m => some (encSL 0x20 0 m.toNat)
  | .yield => some (encSA 0x21 0 0 0 0)
  | .barwait o p => some (encSL 0x22 0 (o.toNat * 32 + (if p then 1 else 0)))
  | .qwait a b t => some (encSA 0x23 0 a.toNat b.toNat t.toNat)
  | .trap c => some (encSL 0x24 0 c.toNat)
  | .rtt => some (encSA 0x25 0 0 0 0)
  | .rdsr d n => some (encSA 0x26 d.toNat 0 0 n.toNat)
  | .wrsr a n => some (encSA 0x27 0 a.toNat 0 n.toNat)
  | .tlbinv d a b => some (encSA 0x28 d.toNat a.toNat b.toNat 0)
  | .bkpt t => some (encSL 0x29 0 t.toNat)
  | .halt => some (encSA 0x2A 0 0 0 0)
  | .nop => some (encSA 0x2B 0 0 0 0)
  | .feat d b => some (encSI 0x2C d.toNat 0 b.toNat)
  | .clock d => some (encSA 0x2D d.toNat 0 0 0)
  | _ => none

/-- The PRED and PMODE fields of a predicate (R162), at their places. -/
def encPred : Pred → Nat
  | .none => 0
  | .ifSet v => v.toNat * 2 ^ 40 + 1 * 2 ^ 38
  | .ifNot v => v.toNat * 2 ^ 40 + 2 * 2 ^ 38

/-- W code of an access type (R160). -/
def accCode : AccType → Nat
  | .b8 => 0x0
  | .b16 => 0x1
  | .b32 => 0x2
  | .b64 => 0x3
  | .b128 => 0x4
  | .s8 => 0x5
  | .s16 => 0x6
  | .f32 => 0x7
  | .f16 => 0x8
  | .bf16 => 0x9
  | .fx64 => 0xA
  | .s32 => 0xB
  | .n32 => 0xC
  | .s64 => 0xD
  | .n64 => 0xE

/-- ORD code (R160). -/
def ordCode : Ord → Nat
  | .none => 0
  | .acq => 1
  | .rel => 2
  | .acqRel => 3

/-- A lane word from its fields (R159). -/
def encLane (cls fn vd va vb vc g pred mod imm : Nat) : Nat :=
  cls * 2 ^ 92 + fn * 2 ^ 86 + vd * 2 ^ 78 + va * 2 ^ 70 + vb * 2 ^ 62 + vc * 2 ^ 54 + g * 2 ^ 48 + pred +
  mod * 2 ^ 32 + imm

/-- OSEL, vb and G of operand b (R160). -/
def opBCode : OpB → Nat × Nat × Nat
  | .lane v => (0, v.toNat, 0)
  | .group g => (1, 0, g.toNat)
  | .imm => (2, 0, 0)

/-- A word of classes 0x0 to 0x6 and 0xE. -/
def encAlu (cls fn : Nat) (x : AluArgs) : Nat :=
  let (osel, vb, g) := opBCode x.b
  encLane cls fn x.vd.toNat x.va.toNat vb x.vc.toNat g (encPred x.pred) (osel * 16 + x.q.toNat) x.imm.toNat

/-- A word of classes 0x7 to 0x9. -/
def encMem (cls fn : Nat) (x : MemArgs) : Nat :=
  encLane cls fn x.vd.toNat x.va.toNat x.vb.toNat x.vc.toNat x.g.toNat (encPred x.pred)
    (ordCode x.ord * 16 + accCode x.w) x.imm.toNat

/-- A word of classes 0xA to 0xD. -/
def encEng (cls fn : Nat) (x : EngArgs) : Nat :=
  encLane cls fn x.vd.toNat x.va.toNat x.vb.toNat x.vc.toNat x.g.toNat (encPred x.pred) x.q6.toNat x.imm.toNat

/-- The word of an instruction of classes 0x0 to 0x6 and 0xE (R168). -/
def encodeLaneAlu : Instr → Option Nat
  | .iadd x => some (encAlu 0x0 0x00 x)
  | .isub x => some (encAlu 0x0 0x01 x)
  | .imul x => some (encAlu 0x0 0x02 x)
  | .imulh x => some (encAlu 0x0 0x03 x)
  | .imad x => some (encAlu 0x0 0x04 x)
  | .imin x => some (encAlu 0x0 0x05 x)
  | .imax x => some (encAlu 0x0 0x06 x)
  | .iabs x => some (encAlu 0x0 0x07 x)
  | .ineg x => some (encAlu 0x0 0x08 x)
  | .mov x => some (encAlu 0x0 0x09 x)
  | .movi x => some (encAlu 0x0 0x0A x)
  | .lea x => some (encAlu 0x0 0x0B x)
  | .laneAnd x => some (encAlu 0x1 0x00 x)
  | .laneOr x => some (encAlu 0x1 0x01 x)
  | .laneXor x => some (encAlu 0x1 0x02 x)
  | .not x => some (encAlu 0x1 0x03 x)
  | .laneShl x => some (encAlu 0x1 0x04 x)
  | .laneShr x => some (encAlu 0x1 0x05 x)
  | .laneSar x => some (encAlu 0x1 0x06 x)
  | .bfe x => some (encAlu 0x1 0x07 x)
  | .bfi x => some (encAlu 0x1 0x08 x)
  | .lanePopc x => some (encAlu 0x1 0x09 x)
  | .laneClz x => some (encAlu 0x1 0x0A x)
  | .icmp x => some (encAlu 0x2 0x00 x)
  | .laneSel x => some (encAlu 0x2 0x01 x)
  | .fadd x => some (encAlu 0x3 0x00 x)
  | .fsub x => some (encAlu 0x3 0x01 x)
  | .fmul x => some (encAlu 0x3 0x02 x)
  | .ffma x => some (encAlu 0x3 0x03 x)
  | .fmin x => some (encAlu 0x3 0x04 x)
  | .fmax x => some (encAlu 0x3 0x05 x)
  | .fcmp x => some (encAlu 0x3 0x06 x)
  | .hadd2 x => some (encAlu 0x4 0x00 x)
  | .hmul2 x => some (encAlu 0x4 0x01 x)
  | .hfma2 x => some (encAlu 0x4 0x02 x)
  | .cvt x => some (encAlu 0x5 0x00 x)
  | .cvtq x => some (encAlu 0x5 0x01 x)
  | .had x => some (encAlu 0x5 0x02 x)
  | .shfl x => some (encAlu 0x6 0x00 x)
  | .bfly x => some (encAlu 0x6 0x01 x)
  | .bcast x => some (encAlu 0x6 0x02 x)
  | .redux x => some (encAlu 0x6 0x03 x)
  | .scan x => some (encAlu 0x6 0x04 x)
  | .laneid x => some (encAlu 0x6 0x05 x)
  | .rcp x => some (encAlu 0xE 0x00 x)
  | .rsq x => some (encAlu 0xE 0x01 x)
  | .sqrt x => some (encAlu 0xE 0x02 x)
  | .exp2 x => some (encAlu 0xE 0x03 x)
  | .log2 x => some (encAlu 0xE 0x04 x)
  | .sin x => some (encAlu 0xE 0x05 x)
  | .cos x => some (encAlu 0xE 0x06 x)
  | .tanh x => some (encAlu 0xE 0x07 x)
  | .sigm x => some (encAlu 0xE 0x08 x)
  | _ => none

/-- The word of an instruction of classes 0x7 to 0x9 (R168). -/
def encodeLaneMem : Instr → Option Nat
  | .ld x => some (encMem 0x7 0x00 x)
  | .ldl x => some (encMem 0x7 0x01 x)
  | .ldc x => some (encMem 0x7 0x02 x)
  | .gather x => some (encMem 0x7 0x03 x)
  | .gatherP x => some (encMem 0x7 0x04 x)
  | .pref x => some (encMem 0x7 0x05 x)
  | .tagl x => some (encMem 0x7 0x06 x)
  | .st x => some (encMem 0x8 0x00 x)
  | .stl x => some (encMem 0x8 0x01 x)
  | .stc x => some (encMem 0x8 0x02 x)
  | .scatter x => some (encMem 0x8 0x03 x)
  | .tagset x => some (encMem 0x8 0x04 x)
  | .taginv x => some (encMem 0x8 0x05 x)
  | .atomAdd x => some (encMem 0x8 0x08 x)
  | .atomMin x => some (encMem 0x8 0x09 x)
  | .atomMax x => some (encMem 0x8 0x0A x)
  | .atomAnd x => some (encMem 0x8 0x0B x)
  | .atomOr x => some (encMem 0x8 0x0C x)
  | .atomXor x => some (encMem 0x8 0x0D x)
  | .atomExch x => some (encMem 0x8 0x0E x)
  | .atomCas x => some (encMem 0x8 0x0F x)
  | .redAdd x => some (encMem 0x8 0x10 x)
  | .redMin x => some (encMem 0x8 0x11 x)
  | .redMax x => some (encMem 0x8 0x12 x)
  | .redAnd x => some (encMem 0x8 0x13 x)
  | .redOr x => some (encMem 0x8 0x14 x)
  | .redXor x => some (encMem 0x8 0x15 x)
  | .ldf x => some (encMem 0x9 0x00 x)
  | .ldfRc x => some (encMem 0x9 0x01 x)
  | .adja x => some (encMem 0x9 0x02 x)
  | .adjr x => some (encMem 0x9 0x03 x)
  | .adjrWait x => some (encMem 0x9 0x04 x)
  | .adjq x => some (encMem 0x9 0x05 x)
  | _ => none

/-- The word of an instruction of classes 0xA to 0xD (R168). -/
def encodeLaneEng : Instr → Option Nat
  | .gangset x => some (encEng 0xA 0x00 x)
  | .mma x => some (encEng 0xA 0x01 x)
  | .mmaJ x => some (encEng 0xA 0x01 x)
  | .bld x => some (encEng 0xA 0x02 x)
  | .ldacc x => some (encEng 0xA 0x03 x)
  | .stacc x => some (encEng 0xA 0x04 x)
  | .zacc x => some (encEng 0xA 0x05 x)
  | .dupmap x => some (encEng 0xA 0x06 x)
  | .mwait x => some (encEng 0xA 0x07 x)
  | .kick x => some (encEng 0xB 0x00 x)
  | .wptr x => some (encEng 0xB 0x01 x)
  | .qpush x => some (encEng 0xB 0x02 x)
  | .qfence x => some (encEng 0xB 0x03 x)
  | .launch x => some (encEng 0xB 0x04 x)
  | .barinit x => some (encEng 0xC 0x00 x)
  | .barrive x => some (encEng 0xC 0x01 x)
  | .barriveBytes x => some (encEng 0xC 0x02 x)
  | .bartry x => some (encEng 0xC 0x03 x)
  | .gbar x => some (encEng 0xC 0x04 x)
  | .fbar x => some (encEng 0xC 0x05 x)
  | .phaseRel x => some (encEng 0xC 0x06 x)
  | .phaseAcq x => some (encEng 0xC 0x07 x)
  | .strag x => some (encEng 0xD 0x00 x)
  | .tqpop x => some (encEng 0xD 0x01 x)
  | .tqsteal x => some (encEng 0xD 0x02 x)
  | .tqdone x => some (encEng 0xD 0x03 x)
  | .itopen x => some (encEng 0xD 0x04 x)
  | .next x => some (encEng 0xD 0x05 x)
  | .nextBounded x => some (encEng 0xD 0x06 x)
  | .enough x => some (encEng 0xD 0x07 x)
  | .itsave x => some (encEng 0xD 0x08 x)
  | .itload x => some (encEng 0xD 0x09 x)
  | .itstat x => some (encEng 0xD 0x0A x)
  | _ => none

/-- The word of a lane instruction; none for the others. -/
def encodeLane (i : Instr) : Option Nat :=
  (encodeLaneAlu i).or ((encodeLaneMem i).or (encodeLaneEng i))

/-- The 32-bit words of an instruction, lowest address first: one for a scalar instruction, three for a lane
instruction (R155), none for an event, which is a step and no instruction word. -/
def encode (i : Instr) : List Word :=
  match encodeScalar i, encodeLane i with
  | some w, _ => [BitVec.ofNat 32 w]
  | none, some w => [BitVec.ofNat 32 w, BitVec.ofNat 32 (w / 2 ^ 32), BitVec.ofNat 32 (w / 2 ^ 64)]
  | none, none => []

/-- Decode of an instruction's 32-bit words, lowest address first. -/
def decodeWords : List Word → Except DecodeFault Instr
  | [w] => decodeScalar w
  | [a, b, c] => decodeLane (BitVec.ofNat 96 (a.toNat + b.toNat * 2 ^ 32 + c.toNat * 2 ^ 64))
  | _ => .error .illegalOp

end Sys2Proof
end

