-- ==== Sys2Proof/Machine/State.lean ====
section
/-! DEFINITION. The state of the machine, as plain data, the reasons a step can stop, and the state after reset. -/

namespace Sys2Proof.Machine

/-- The causes a trap or fault carries (R4). -/
inductive Cause where
  | illegalOp | reservedField | featureAbsent | misaligned | privilege
  | notPresent | protection | migration | outOfRange | memoryUncorrectable | primaryPinned
  | adjEarlyRead | adjSurplusStore | adjCountOverflow | adjNotCounted
  | matrixMismatch | formatBlockInvalid | gangInvalid
  | barrierInvalid | iteratorInvalid | queueInvalid
  | lmOutOfRange | tagInvalid
  | fabricTimeout | peerReset | peerUnreachable
  | codeGone | breakpoint | userTrap | registerCheck
  deriving DecidableEq, Repr

/-- The role of a warp (R17, R343). -/
inductive Role where
  | matrix | copy | epilogue | general
  deriving DecidableEq, Repr

/-- An exact value: NaN with its sign and payload bits, an infinity, or mantissa times a power of two with the sign of
a zero kept (R34 to R38). -/
inductive XVal where
  | nan (sign : Bool) (payload : Nat)
  | inf (sign : Bool)
  | fin (neg : Bool) (m : Nat) (e : Int)
  deriving DecidableEq, Repr

/-- A trap recorded against a split and not yet taken (R171, R272, R280); `mma` marks one found at an MMA's completion
(R237), `held` one raised while the team stops or is stopped (R303). -/
structure PendTrap where
  laneSide : Bool
  lane : Nat
  cause : Cause
  pc : VAddr
  addr : VAddr
  feature : Option Nat := none
  mma : Bool := false
  held : Bool := false
  deriving DecidableEq, Repr

/-- The kind of an open per-lane call sequence (R187). -/
inductive CallKind where
  | callV | jmpV
  deriving DecidableEq, Repr

/-- An open CALLV or JMPV sequence (R187): `id` tells sequences apart, `left` holds the lanes not yet run with their
targets, `off` those guarded off, `group` the lanes of the group that runs, `jpc` the JPC when it opened, at which a JMPV
group ends. -/
structure CallSeq where
  id : Nat
  kind : CallKind
  group : Lanes
  save : Lanes
  back : VAddr
  jpc : VAddr
  left : List (Nat × VAddr)
  off : Lanes
  deriving DecidableEq, Repr

/-- A clause in a split's queue (R102, R163, R164): its header and lane words as read at ISSUE, the next instruction to
dispatch, the EXEC and g words captured. `owed` holds the lanes a restored instruction still owes (R295). -/
structure Clause where
  unit : Nat
  len : Nat
  header : BitVec 96
  words : List (BitVec 96)
  next : Nat
  owed : Option Lanes
  exec : Lanes
  gs : SMap RWord
  started : Bool
  serial : Nat
  deriving DecidableEq, Repr

/-- What holds a split's scalar side (R28): `replay` waits for the record of its access, `refetch` for that of a fetch; `qhit` is a
QWAIT that a write of its line has ended, `bad` where its word could not be read then (R192). -/
inductive Wait where
  | run
  | issueFull
  | pendingWrite
  | waitf (upto : Nat)
  | join
  | barwait (off : Nat)
  | qwait (pa va : Nat) (want : Word) (deadline : Option Nat)
  | qhit (pa va : Nat) (bad : Bool)
  | latch
  | exiting
  | trapLatch
  | replay (fseq : Nat) (va : Nat)
  | refetch (fseq : Nat) (va : Nat)
  | replayFailed (c : Cause) (va : Nat)
  | tlbinv (id : Nat)
  | fabric (tag : Nat) (dest : Option GReg)
  | fabricPoll (tag : Nat) (want : Word) (deadline : Option Nat)
  | yielded (issuing : Bool)
  deriving DecidableEq, Repr

/-- What holds a split's lane side, as the last cycle found it (R301). -/
inductive LaneWait where
  | run | flags | operand | array | kickFull | flagFull | carry | phase | latch
  deriving DecidableEq, Repr

/-- A split-table entry (R102, R59): VAL is `live`. `fam` and `famSave` name the families of JPC and JSAVE, `atEnd` says
the split waits at the end of its call group, `pend` holds traps not yet taken. `orgFam` is the family whose SPLIT gave the
split its ORIGIN, `out` the ORIGIN and that family of the member of the outer family that opened this one, `outSave` the same of
the family around that (log 13). -/
structure Split where
  live : Bool
  lanes : Lanes
  exec : Lanes
  spc : VAddr
  lk : VAddr
  jpc : VAddr
  jsave : VAddr
  origin : BitVec 5
  liveCount : BitVec 6
  jw : Bool
  cq : List Clause
  fam : Nat
  famSave : Nat
  orgFam : Nat
  out : BitVec 5 × Nat
  outSave : BitVec 5 × Nat
  seq : Option CallSeq
  atEnd : Bool
  wait : Wait
  laneWait : LaneWait
  scalarAge : Nat
  laneAge : Nat
  pend : List PendTrap
  deriving DecidableEq, Repr

/-- The path an access is performed along (R141). -/
inductive Path where
  | l1 | home | lm | fabric
  deriving DecidableEq, Repr

/-- How far one lane of a memory operation has come: translated and to be performed, stalled on a fault record, to be
translated again after its REPLAY, waiting at home, sent to a peer, over. -/
inductive AccSt where
  | todo
  | stalled (fseq : Nat)
  | retry
  | waiting (deadline : Option Nat)
  | sent (tag : Nat)
  | done
  | failed (c : Cause)
  deriving DecidableEq, Repr

/-- One lane of a memory operation: its address, translated address and page class, store data, second operand and
byte enables, its result, and whether its core's copy of the line was dropped for it already (R144). -/
structure Acc where
  lane : Nat
  va : Nat
  pa : Nat
  cnt : Bool
  path : Path
  data : Nat
  cmp : Nat
  en : Nat
  ret : Nat
  st : AccSt
  drop : Bool := false
  deriving DecidableEq, Repr

/-- How far the release an instruction makes first has come (R147, R212): not made, PHASE.rel still to make, waiting
for the acknowledgements of fabric requests with the first failure among them (R152), made. -/
inductive RelSt where
  | none | pending
  | fab (tags : List Nat) (fail : Option Cause)
  | done
  deriving DecidableEq, Repr

/-- What an operation in flight carries beside its lanes: an MMA its sums, the clock its last pass ends at and the
shares of a joint MMA as (warp slot, operation), and in redundant mode whether its halves differ (R237). `launch` holds the
place of a LAUNCH in the order in which all LAUNCHes executed (R30). `eng` is how far a claim or a tile operation has come; `pull` holds a
NEXT's values so far, whether it stopped or looks past its last value, and what it read behind the aperture. -/
inductive OpAux where
  | none
  | phase (lines : List Nat)
  | mma (blockAcc : Nat) (overwrite : Bool) (endsAt : Nat) (sums : List XVal) (joint : List (Nat × Nat))
      (half : Option Bool)
  | mmaShare (leader : Nat) (op : Nat)
  | mwait (core : Bool)
  | bld (parts : List (Nat × List Byte))
  | acc (parts : List (Nat × List Word))
  | launch (queue : Nat) (records : List (List Byte)) (reserved : Bool) (order : Nat)
  | arrive (off : Nat) (bytes : Option Nat) (root : Option Nat)
  | eng (stage : Nat) (vals : List Nat)
  | pull (out : List (Word × Word)) (stop look : Bool) (got : List (Nat × Nat))
  deriving DecidableEq, Repr

/-- A lane operation in flight (R7, R31): `serial` orders dispatches within the core, `flags` are the flags it raised,
`entry` is the split entry it is charged to, 32 once that entry's split has left the warp (R171, R280). `counted` says that
INSTR holds it already (R138), `clause` is the clause it is of, as it stood at its dispatch (R295). -/
structure Op where
  id : Nat
  serial : Nat
  entry : Nat
  clauseSerial : Nat
  unit : Nat
  instr : Instr
  flags : BitVec 12
  act : Lanes
  accs : List Acc
  rel : RelSt
  aux : OpAux
  counted : Bool
  clause : Option Clause := none
  deriving DecidableEq, Repr

/-- A warp (R52, R64): registers are sparse tables from 0, v with key 32 × register + lane. `latch` is the split entry
that holds the trap latch (R272), `flip` the lane and bit of a soft error that strikes the next result the integer unit
predicts (R69; the model's own), `held` the traps of draining entries, which no split can take and which keep the warp
from retiring (R171), `lastBar` the offset of the object it last arrived at (R300). -/
structure Warp where
  team : Nat
  widx : Nat
  role : Role
  budget : Nat
  v : SMap RWord
  g : SMap RWord
  f : SMap Nat
  gang : Word
  trapCause : Word
  trapPc : VAddr
  trapAddr : VAddr
  latch : Option Nat
  splits : List (Nat × Split)
  ops : List Op
  nextId : Nat
  held : List PendTrap
  lastBar : Option Nat
  retired : Bool
  flip : Option (Nat × Nat) := none
  deriving DecidableEq, Repr

/-- How a team runs (R292, R303). -/
inductive RunState where
  | running
  | stopping (src : Nat)
  | stopped (src : Nat)
  | leaving
  deriving DecidableEq, Repr

/-- What a stop records for a dump (R303, R306, R308, R313): the trap cause, CLOCK, the WPTR words at the stop and after
step 3, and per channel the team's records finished in step 3, the LM offset of the first that failed and its STATUS. -/
structure StopRec where
  cause : Nat
  clock : BitVec 64
  wptr : List Word
  after : List Word
  recs : List (Nat × Nat × Nat)
  deriving DecidableEq, Repr

/-- A resident team (R15, R17, R57, R64, R138, R343): claims, identity, team registers and progress counters. `gang` is
the hub's key of its gang, `declared` and `objects` the LM offsets of barrier objects declared and otherwise updated. -/
structure Team where
  gang : Nat
  teamId : Nat
  gangId : Nat
  taskId : Word
  asid : Asid
  priv : Bool
  lmBase : Nat
  lmSize : Nat
  banks : List Nat
  iters : List Nat
  matrix : Bool
  warps : List Nat
  roles : List (Role × Nat × Nat)
  laneBase : VAddr
  laneLen : Nat
  trapBase : VAddr
  ts : SMap RWord
  instr : BitVec 64
  moved : BitVec 64
  wbytes : BitVec 64
  wtotal : BitVec 48
  resid : BitVec 64
  irrev : Bool
  run : RunState
  stop : StopRec
  declared : List Nat
  objects : List Nat
  deriving DecidableEq, Repr

/-- A line of the L1 (R79): dirty bytes, uncorrectable 8-byte units, and the store that first made it dirty. -/
structure L1Line where
  line : Nat
  data : BitVec 512
  dirty : BitVec 64
  bad : BitVec 8
  asid : Asid
  va : Nat
  team : Nat
  deriving DecidableEq, Repr

/-- A TLB entry (R98): one leaf or group, covering `2 ^ span` bytes from `vbase`. -/
structure TlbEntry where
  asid : Asid
  vbase : Nat
  span : Nat
  frame : Nat
  p : Bool
  sh : Bool
  cnt : Bool
  own : Bool
  x : Bool
  w : Bool
  a : Bool
  deriving DecidableEq, Repr

/-- An entry of the tag table (R103). -/
structure TagEntry where
  v : Bool
  tag : Word
  slot : Word
  deriving DecidableEq, Repr

/-- A kick in a channel's queue (R248), with the team whose warp wrote it; the records still to begin. -/
structure Kick where
  team : Nat
  gang : Nat
  first : Nat
  count : Nat
  deriving DecidableEq, Repr

/-- The record a channel is working on (R115 to R118): whose it is, its 32 bytes as read, bytes delivered so far
(the next receiver of a multicast's own slice in `sub`), its outcome once decided, whether it updates no barrier, the fault
record it is stalled on, the fabric request it waits for with its bytes, and a reply that has come and is not yet applied:
its failure, or its data. -/
structure CopyRec where
  team : Nat
  gang : Nat
  off : Nat
  words : List (BitVec 64)
  pos : Nat
  sub : Nat
  status : Option (Option Cause)
  noBar : Bool
  stall : Option Nat
  sent : Option Nat
  asked : Nat
  got : Option (Option Cause × List Byte)
  deriving DecidableEq, Repr

/-- A copy channel and its WPTR (R62, R63, R117). -/
structure Chan where
  seq : BitVec 12
  off : BitVec 20
  kicks : List Kick
  cur : Option CopyRec
  deriving DecidableEq, Repr

/-- The engine state of an iterator (R266). -/
structure Iter where
  opn : Bool
  exh : Bool
  ended : Bool
  brk : Bool
  bnd : Bool
  pair : Bool
  dm1 : Nat
  cw : Nat
  carry : List (Word × Word)
  base : Nat
  ranges : Word
  deriving DecidableEq, Repr

/-- A rendezvous latch (R239): the warps waiting under one WMASK, as (warp slot, split entry). -/
structure Latch where
  team : Nat
  wmask : BitVec 16
  imm : Word
  waiting : List (Nat × Nat)
  deriving DecidableEq, Repr

/-- A quadrant scheduler: the slot each side issued last, the sampling counter and rotation pointer (R26, R139), and
what it issued on each side in this cycle, as warp slot, split entry and SPC. -/
structure Quad where
  lastScalar : Nat
  lastLane : Nat
  counter : BitVec 16
  pointer : Nat
  issuedScalar : Option (Nat × Nat × VAddr)
  issuedLane : Option (Nat × Nat × VAddr)
  deriving DecidableEq, Repr

/-- How a wait for the replay of a fault record stands: waiting, replayed, ended through REPLAY_FAIL (R287). -/
inductive Hold where
  | waiting (fseq : Nat)
  | ready
  | failed (c : Cause)
  deriving DecidableEq, Repr

/-- A barrier-port update held for a straggler record that could not be reached (R370): the arrival or local report of
`op`, or with `completing` the completion of the phase. -/
structure HeldObj where
  team : Nat
  off : Nat
  hold : Hold
  op : Option (Nat × Nat)
  completing : Bool
  deriving DecidableEq, Repr

/-- A core (R1, R75): memories, L1, micro-TLB, copy channels, tag table, duplication map, iterators, matrix array,
latches, sampling, residents. `temp` and `hot` are its sensor's reading and since when that is above THERM_LIMIT (R299).
`portLast` is the slot of the last arrival the barrier port performed in this cycle (R131). `locals` holds, by LM address of a gang- or fabric-kind object, the root the last FBAR
named and CLOCK at the local completion; `reserved` partitions kept for copies in flight (R76, R283). -/
structure Core where
  lm : SMap Byte
  lmBad : List Nat
  am : SMap Word
  amBad : List Nat
  neve : SMap Byte
  neveBad : List Nat
  l1 : List L1Line
  utlb : List TlbEntry
  chans : List (Nat × Chan)
  tags : SMap TagEntry
  dupN : Nat
  dupCh : List (BitVec 16)
  iters : List (Nat × Iter)
  mmaBusy : Nat
  latches : List Latch
  sampleCtl : Word
  quads : List (Nat × Quad)
  temp : Nat
  hot : Option Nat
  held : List HeldObj
  portLast : Option Nat
  locals : List (Nat × Nat × Nat)
  reserved : List (Nat × Team)
  teams : List (Nat × Team)
  warps : List (Nat × Warp)
  serial : Nat
  deriving DecidableEq, Repr

/-- A continuation queue descriptor (R113). -/
structure CQueue where
  v : Bool
  log2 : BitVec 6
  asid : Asid
  base : BitVec 41
  head : BitVec 32
  tail : BitVec 32
  deriving DecidableEq, Repr

/-- One used region entry of a task in the dependence unit (R19). -/
structure Region where
  write : Bool
  base : Nat
  pitch : Nat
  rows : Nat
  width : Nat
  deriving DecidableEq, Repr

/-- The head record of a queue (R13, R14): record, whether it was checked, descriptor as read, next gang index, task
serial once placed, region entries and its number in the region table, the clock since which it was admitted and no
cluster has fitted it, and whether it has asked for a pre-emption (R289). `gone` is the fault record of one that failed R14 while the
fault queue had no room: it leaves its queue once that is written (R123). -/
structure Head where
  record : List Byte
  checked : Bool
  desc : List Byte
  next : Nat
  task : Option Word
  regions : List Region
  entered : Option Nat
  waitSince : Option Nat
  asked : Bool
  gone : Option Nat
  deriving DecidableEq, Repr

/-- The regions of one task in the region table (R20), with the join object its record names. -/
structure TabEntry where
  key : Nat
  asid : Asid
  join : Nat
  regions : List Region
  deriving DecidableEq, Repr

/-- A task placed and not complete (R18, R20), with the join object its record names. -/
structure Task where
  id : Word
  asid : Asid
  queue : Nat
  record : List Byte
  regions : List Region
  deriving DecidableEq, Repr

/-- How a placed gang fares (R289 to R292, R299, R305): it runs, drains, is to be saved or discarded in its turn, is to be
migrated (`drain` is how it drained, which it goes on with afterwards), or was dropped by the host. -/
inductive GangState where
  | running
  | draining (deadline : Nat) (q : Nat) (noSlot : Bool)
  | saveAsked (q : Nat) (order : Nat) (discard : Bool) (begun : Bool)
  | migrateAsked (order : Nat) (begun : Bool) (drain : Option (Nat × Nat × Bool))
  | dropAsked (order : Nat)
  deriving DecidableEq, Repr

/-- A placed gang (R13, R16): its teams in TEAM_ID order as (core, team key), and since when it is resident. -/
structure Gang where
  key : Nat
  task : Word
  gangId : Nat
  asid : Asid
  queue : Nat
  cluster : Nat
  record : List Byte
  desc : List Byte
  teams : List (Nat × Nat)
  state : GangState
  since : Nat
  deriving DecidableEq, Repr

/-- What the hub keeps of a saved team beside its slot (R292 to R295): the team, its warps by warp index, the latches its
warps wait at, what its core noted of its barrier objects by LM offset, its tag entries by bank of the team, the fabric-kind objects completed meanwhile, and the core it left with its key there. -/
structure SavedTeam where
  slot : Nat
  core : Nat
  key : Nat
  team : Team
  warps : List (Nat × Warp)
  latches : List Latch
  locals : List (Nat × Nat × Nat)
  tags : SMap TagEntry
  fabric : List Nat
  deriving DecidableEq, Repr

/-- How a gang left its cores: saved, discarded for a restart, migrating, or dropped for good. -/
inductive LeaveKind where
  | save | restart | migrate | drop
  deriving DecidableEq, Repr

/-- A gang that has left its cores (R292, R297, R299, R305). -/
structure SavedGang where
  gang : Gang
  kind : LeaveKind
  teams : List SavedTeam
  deriving DecidableEq, Repr

/-- Teams of a gang that have reported a gang-kind object (R132), and the wait for its straggler record (R370). -/
structure GangBar where
  gang : Nat
  off : Nat
  reported : List Nat
  hold : Option Hold
  deriving DecidableEq, Repr

/-- A fault-queue record the hub has still to write (R123). -/
structure FaultRec where
  va : Nat
  cause : Cause
  source : Nat
  flags : Nat
  unit : Nat
  core : Nat
  asid : Asid
  lanes : Lanes
  fseq : Nat
  deriving DecidableEq, Repr

/-- Who learns that a decrement has been performed: nobody, a TQDONE lane, or a peer's request (R11, R259). -/
inductive DecAck where
  | none
  | lane (core slot op lane : Nat)
  | peer (p : Packet)
  deriving DecidableEq, Repr

/-- A decrement of a join object the hub makes (R11): the fault record it waits on, who learns of it, and the join object
whose regions leave the dependence unit after it. `noted` is the fault record of one that was refused while the fault queue had no
room: what follows it waits until that is written (R123). -/
structure JoinDec where
  asid : Asid
  va : Nat
  hold : Hold
  ack : DecAck
  after : Option Nat
  noted : Option Nat := none
  deriving DecidableEq, Repr

/-- What a join object that reached zero still has to do (R11): append the successor, then decrement NOTIFY, then
remove the task's regions. `noted` is the fault record of an append refused while the fault queue had no room (R123). -/
structure Successor where
  queue : Nat
  asid : Asid
  record : List Byte
  notify : Nat
  join : Nat
  noted : Option Nat := none
  deriving DecidableEq, Repr

/-- A walk in a stack's walkers or waiting for one (R99). -/
structure Walk where
  asid : Asid
  va : Nat
  core : Nat
  started : Bool
  gatherP : Bool
  lanes : Lanes
  slot : Nat
  deriving DecidableEq, Repr

/-- A range invalidation in progress (R100): who asked, and the accesses that had used an entry it removed when it removed it, as
core, warp slot, operation and lane: they are waited for. -/
structure Inval where
  id : Nat
  asid : Asid
  users : List (Nat × Nat × Nat × Nat)
  host : Bool
  deriving DecidableEq, Repr

/-- A relaxed posted host write that was let through and has not been performed (R153): its requester, PA and bytes. -/
structure Posted where
  requester : Nat
  pa : Nat
  data : List Byte
  deriving DecidableEq, Repr

/-- A BTE packet being performed (R121, R122): its 64 bytes as read, elements and bytes done, what the run at work has
read of each stream and how many of its writes are made, the elements of the run before a line that cannot be read with
the cause that ends the packet after them, its result, the fault record it is stalled on, the fabric request it waits
for, and the lines of host memory it has written. -/
structure BtePkt where
  seq : Nat
  words : List (BitVec 64)
  pos : Nat
  bytes : Nat
  buf : List (List Byte)
  wr : Nat
  cut : Option (Nat × Cause) := none
  result : Option (Option Cause)
  stall : Option Nat
  sent : Option Nat
  lines : List Nat := []
  deriving DecidableEq, Repr

/-- A BTE queue: its table entry (R119, R332), and the packet in progress. -/
structure BteQ where
  desc : VAddr
  asid : Asid
  cur : Option BtePkt
  deriving DecidableEq, Repr

/-- The hub registers of R332 that hold what is written to them. -/
structure Regs where
  fqBase : BitVec 64
  fqSize : BitVec 64
  fqWidx : BitVec 64
  fqRidx : BitVec 64
  olBase : BitVec 64
  olSize : BitVec 64
  olWidx : BitVec 64
  olRidx : BitVec 64
  olLost : BitVec 64
  preemptCtl : BitVec 64
  preemptTgt : BitVec 64
  preDeadline : BitVec 64
  saveBase : BitVec 64
  saveSlots : BitVec 64
  thermLimit : BitVec 64
  sampleBase : BitVec 64
  sampleSize : BitVec 64
  sampleWidx : BitVec 64
  sampleRidx : BitVec 64
  sampleDrop : BitVec 64
  dbgCtl : BitVec 64
  dumpBase : BitVec 64
  dumpSize : BitVec 64
  dumpDone : Bool
  dumpBusy : Bool
  captureCtl : BitVec 64
  captureBase : BitVec 64
  captureSize : BitVec 64
  captureWidx : BitVec 64
  captureRidx : BitVec 64
  fabAdapt : BitVec 64
  fabTmo : BitVec 64
  offloadDl : BitVec 64
  dbl : List (BitVec 64)
  tlbiAsid : BitVec 64
  tlbiStart : BitVec 64
  tlbiLen : BitVec 64
  tlbiGo : Option Nat
  pgrelPa : BitVec 64
  pgrelLen : BitVec 64
  pgrelBusy : Bool
  pgrelRange : BitVec 64 × BitVec 64
  pgrelLost : Bool
  ownmapBase : BitVec 64
  shwinBase : BitVec 64
  notifyBase : BitVec 64
  hrefAddr : BitVec 64
  hrefCount : BitVec 64
  firnErr : List (BitVec 64)
  firnSize : BitVec 64
  firnMap : BitVec 64
  astabBase : BitVec 64
  deriving DecidableEq, Repr

/-- The hub: queues, placer, dependence unit, fault queue, pre-emption, BTEs, host window. `heads` is in the order in which
records reached their heads, `table` in admission order; `saving` holds gangs whose partitions are still on their cores,
`resume` the resume lists in order of entry; `launches` counts the LAUNCHes executed (R30). -/
structure Hub where
  regs : Regs
  queues : List (Nat × CQueue)
  heads : List (Nat × Head)
  lastQueue : List (Nat × Nat)
  lastCluster : Nat
  nextTask : Word
  nextKey : Nat
  tasks : List Task
  gangs : List Gang
  table : List TabEntry
  gangBars : List GangBar
  successors : List Successor
  decs : List JoinDec
  reservations : List (Nat × Nat × Nat)
  faultQ : List FaultRec
  nextFseq : BitVec 32
  olMark : Bool
  saving : List SavedGang
  resume : List SavedGang
  dumps : List (Nat × Nat)
  capture : List (List Byte)
  walks : List Walk
  invals : List Inval
  nextInval : Nat
  launches : Nat
  posted : List Posted
  bte : List (Nat × BteQ)
  bteOrder : List (Nat × Nat)
  msixTable : List (BitVec 64)
  msixPending : BitVec 8
  msixSent : List Nat
  deriving DecidableEq, Repr

/-- An entry of a peer's export table is 8 bytes (R317); a fabric barrier table entry (R328) with the reports of the
phase: rank and arrival in µs. `left` holds the peers that left the up state while the list could not be read (R327). -/
structure FabBar where
  asid : Asid
  off : Nat
  n : Nat
  pcount : BitVec 32
  list : VAddr
  srec : VAddr
  reports : List (Nat × Nat)
  members : List Nat
  dead : Bool
  hold : Option Hold
  left : List Nat := []
  deriving DecidableEq, Repr

/-- A remote-count entry (R111). -/
structure Remote where
  peer : Nat
  inc : BitVec 16
  granule : Nat
  net : Int
  deriving DecidableEq, Repr

/-- A peer's incarnation entry (R110): STATE 0 absent, 1 up, 2 resetting. -/
structure PeerEntry where
  state : Nat
  inc : BitVec 16
  deriving DecidableEq, Repr

/-- Who waits for a reply to a fabric request. -/
inductive Requester where
  | lane (core slot op : Nat) (lanes : Lanes)
  | scalar (core slot entry : Nat)
  | chan (core chan : Nat)
  | bte (q : Nat)
  | forward (src : Nat) (tag : Nat)
  deriving DecidableEq, Repr

/-- A request of this device with no reply yet (R318, R323). `hop` is the line offset that chose its port between a graph port and
the spare paired with it (R315, R316). -/
structure Outstanding where
  tag : Nat
  peer : Nat
  who : Requester
  sentAt : Nat
  line : Nat
  core : Nat
  retryAt : Option Nat
  packet : Packet
  hop : Nat := 0
  deriving DecidableEq, Repr

/-- A Floe port (R140, R322, R324 to R326): counters, working lanes, the next flit to send, queued packets with class and
time of arrival, the packet being sent with its flits left, the flit times each class has waited, the flits in the retry
buffer, the RXSEQ of the last replay request, and flits and time since the last acknowledgement. -/
structure Port where
  up : Bool
  training : Bool
  lanes : BitVec 4
  txSeq : BitVec 16
  ackSeq : BitVec 16
  rxSeq : BitVec 16
  sendNext : BitVec 16
  queues : List (Nat × Nat × Packet)
  cur : Option (Nat × Nat × Packet)
  waited : List (Nat × Nat)
  retry : List (BitVec 16 × Packet)
  asked : Option (BitVec 16)
  accepted : Nat
  lastAck : Nat
  deriving DecidableEq, Repr

/-- A CXL port (R338, R339). -/
structure CxlPort where
  trained : Bool
  up : Bool
  expander : Bool
  capacity : Nat
  deriving DecidableEq, Repr

/-- A member of a fabric barrier whose local part is complete (R329): what its report carries, and the acknowledgements that
the release before it waits for; `fail` says that one of them never comes. `waits` says that its core has still to send a fabric
store or atomic from before that place in its order, the `serial` (R148). -/
structure MemberRep where
  core : Nat
  team : Nat
  off : Nat
  asid : Asid
  pcount : Nat
  root : Nat
  tags : List Nat
  fail : Bool
  serial : Nat
  waits : Bool
  deriving DecidableEq, Repr

/-- A received adjoint read that waits for COUNT (R88, R227): the ADT's deadline, and when its requester has given up. -/
structure Early where
  packet : Packet
  deadline : Option Nat
  drop : Nat
  deriving DecidableEq, Repr

/-- A multicast write being forwarded: the packet to acknowledge and the first failure among its parts (R323). -/
structure Cast where
  packet : Packet
  fail : Nat
  deriving DecidableEq, Repr

/-- The fabric side of the device (R108 to R112, R314 to R330): `sent` holds packets at this device that are still to be
performed, `held` those that wait for the replay of a fault record. -/
structure Fabric where
  device : Nat
  inc : BitVec 16
  routes : SMap (BitVec 64)
  trees : SMap (BitVec 64)
  roots : SMap (BitVec 64)
  peers : List (Nat × PeerEntry)
  exports : SMap (BitVec 64)
  bars : List (Nat × FabBar)
  remote : List (Nat × Remote)
  pageWord0 : BitVec 64
  pageWord1 : BitVec 64
  ports : List (Nat × Port)
  outstanding : List Outstanding
  nextTag : Nat
  held : List (Nat × Packet)
  sent : List Packet
  early : List Early
  grants : List (Packet × BitVec 64)
  casts : List Cast
  members : List MemberRep
  cxl : List (Nat × CxlPort)
  deriving DecidableEq, Repr

/-- A firmware release: what its verification finds, its security version, and its digest, none for the factory's (R367 to R369). -/
structure Image where
  id : List Byte
  sigOk : Bool
  microOk : Bool
  wellFormed : Bool
  svn : BitVec 16
  deriving DecidableEq, Repr

/-- Start, rest and trust (R361 to R369). `rcvKeep` is KEEP of the attempt that runs (R368). -/
structure Boot where
  stage : BitVec 2
  fail : Nat
  stacksBad : BitVec 8
  store : Image
  running : Image
  fuseSvn : BitVec 16
  latTol : BitVec 64
  rest : Nat
  rcvAddr : BitVec 64
  rcvLen : BitVec 64
  rcvGo : Bool
  rcvKeep : Bool
  rcvSvn : BitVec 16
  rcvResult : Nat
  answers : List (List Byte)
  deriving DecidableEq, Repr

/-- Where an instruction executes: core, warp slot and split entry. -/
structure Who where
  core : Nat
  slot : Nat
  entry : Nat
  deriving DecidableEq, Repr

/-- One action of one agent: what the next step does. `cycle` is one cycle of CLOCK (R64), which becomes what ended the
last one (State.late), `tick` (what counts with CLOCK, and reports of fabric barriers), and `issue` (the choices of every quadrant, R26). `scalar` and
`lane` issue one chosen split, `issued` carries on a scalar instruction that has issued: the stalled access of a stopped team
(R303), or one that takes effect after its cycle's lane instructions (R26); `event` is a step of another agent, `sample` one
sample of a quadrant (R139), `register` is a register write that device code made (R331), `hostMem` a write of the host to its own memory (R75), `unload` the removal of
a queue's head record by a forced unload (R348), `unheard` the
error of an access behind a CXL port that is down (R339), `recover` the end of an attempt of the recovery mailbox (R368), and `forget` drops one entry that a cache may
lose at any time (R79, R93, R98, R105): of the micro-TLBs, cluster TLBs, stack TLBs, cached address-space entries,
cached ADT entries (levels 0 to 4), or a clean L1 line (level 5); level 6 writes a dirty stack-cache line back (R80).
`upset` is one soft error of a memory, a register or the matrix array (R68, R69, R82, R237). -/
inductive Action where
  | scalar (who : Who)
  | lane (who : Who)
  | issued (who : Who)
  | cycle
  | tick
  | issue
  | event (i : Instr)
  | sample (core quad : Nat)
  | register (off : Nat) (v : BitVec 64)
  | hostMem (pa : Nat) (v : BitVec 64)
  | unload (q : Nat)
  | unheard (pa : Nat)
  | recover
  | forget (level index : Nat)
  | upset (what index : Nat)
  deriving DecidableEq, Repr

/-- The state of the machine. `mem` is all global memory by physical address, in canonical form; `memBad` its
uncorrectable 8-byte units; `stale` the backing content of dirty stack-cache lines of firn and host memory (R80); `records` the
dirty lines of host memory that hold a completion record, each with the lines of its packet's data, which it does not pass (R336); `bells`
the BTE queues whose BELL was written and whose BTE has still to look (R120). The
last four fields are the model's own: who executes, the actions still to take, those that end this cycle, and the count of
free values taken. -/
structure State where
  clock : BitVec 64
  feat : BitVec 512
  mem : List Host.Cell
  memBad : List Nat
  stale : List (Nat × BitVec 512)
  records : List (Nat × List Nat)
  bells : List Nat
  asCache : List (Nat × Nat × List (BitVec 64))
  adtCache : List (Nat × Nat × Nat × List (BitVec 64))
  ctlb : List (Nat × TlbEntry)
  stlb : List (Nat × TlbEntry)
  cores : List (Nat × Core)
  hub : Hub
  fab : Fabric
  boot : Boot
  cur : Who
  agenda : List Action
  late : List Action
  nfree : Nat
  deriving DecidableEq, Repr

/-- Reasons the model stops. The hardware never stops on one of them. -/
inductive Fault where
  /-- An instruction of a split was executed where no such split, or no clause of it, is there to execute it. Only a
  call of `exec` in a state that no step builds raises it (`step` chooses the split first). Safe: nothing is claimed of that state. -/
  | noSplit
  deriving DecidableEq, Repr

/-- Why there is no meaning. -/
inductive Refusal where
  /-- The instruction has no meaning yet. Raised by the arm of its constructor. Safe. -/
  | notModelled (mnemonic : String)
  deriving DecidableEq, Repr

/-! ### Values at rest and at reset -/

/-- No stop yet. -/
def StopRec.reset : StopRec := { cause := 0, clock := 0, wptr := [], after := [], recs := [] }

/-- A copy channel after core reset (R63). -/
def Chan.reset : Chan := { seq := 0, off := 0, kicks := [], cur := none }

/-- An iterator that was never opened (R266). -/
def Iter.reset : Iter :=
  { opn := false, exh := false, ended := false, brk := false, bnd := false, pair := false, dm1 := 0, cw := 0,
    carry := [], base := 0, ranges := 0 }

/-- A quadrant before anything has issued: the round-robin start is slot 11, so that slot 0 comes first (log 2). -/
def Quad.reset : Quad :=
  { lastScalar := 11, lastLane := 11, counter := 0, pointer := 11, issuedScalar := none, issuedLane := none }

/-- An invalid tag-table entry (R103). -/
def TagEntry.reset : TagEntry := { v := false, tag := 0, slot := 0 }

/-- A split that holds no lane and waits for nothing. -/
def newSplit0 : Split :=
  { live := true, lanes := 0, exec := 0, spc := 0, lk := 0, jpc := 0, jsave := 0, origin := 0, liveCount := 0, jw := false,
    cq := [], fam := 0, famSave := 0, orgFam := 0, out := (0, 0), outSave := (0, 0), seq := none, atEnd := false, wait := .run, laneWait := .run, scalarAge := 0,
    laneAge := 0, pend := [] }

/-- A core with no resident, after core reset (R63, R75, R79). -/
def Core.reset : Core :=
  { lm := [], lmBad := [], am := [], amBad := [], neve := [], neveBad := [], l1 := [], utlb := [], chans := [],
    tags := [], dupN := 0, dupCh := [], iters := [], mmaBusy := 0, latches := [], sampleCtl := 0, quads := [],
    temp := 0, hot := none, held := [], portLast := none, locals := [], reserved := [], teams := [], warps := [], serial := 0 }

/-- A continuation queue at reset (R113). -/
def CQueue.reset : CQueue := { v := false, log2 := 0, asid := 0, base := 0, head := 0, tail := 0 }

/-- A BTE queue that is not registered (R119). -/
def BteQ.reset : BteQ := { desc := 0, asid := 0, cur := none }

/-- A peer entry before stage 2: absent (log 2). -/
def PeerEntry.reset : PeerEntry := { state := 0, inc := 0 }

/-- A Floe port that has not trained (R140). -/
def Port.reset : Port :=
  { up := false, training := false, lanes := 0xF, txSeq := 0, ackSeq := 0, rxSeq := 0, sendNext := 0, queues := [],
    cur := none, waited := [], retry := [], asked := none, accepted := 0, lastAck := 0 }

/-- A CXL port that has not trained: with an expander of 2 TiB (log 2). -/
def CxlPort.reset : CxlPort := { trained := false, up := false, expander := true, capacity := 2 ^ 41 }

/-- A fabric barrier table entry at reset (log 2). -/
def FabBar.reset : FabBar :=
  { asid := 0, off := 0, n := 0, pcount := 0, list := 0, srec := 0, reports := [], members := [], dead := true,
    hold := none }

/-- The hub registers at reset: the values R289, R299, R316, R318, R322 and R364 give, the others 0 (log 2). -/
def Regs.reset : Regs :=
  { fqBase := 0, fqSize := 0, fqWidx := 0, fqRidx := 0, olBase := 0, olSize := 0, olWidx := 0, olRidx := 0,
    olLost := 0, preemptCtl := 0, preemptTgt := 0, preDeadline := 1000, saveBase := 0, saveSlots := 0,
    thermLimit := 95, sampleBase := 0, sampleSize := 0, sampleWidx := 0, sampleRidx := 0, sampleDrop := 0,
    dbgCtl := 0, dumpBase := 0, dumpSize := 0, dumpDone := false, dumpBusy := false, captureCtl := 0,
    captureBase := 0, captureSize := 0, captureWidx := 0, captureRidx := 0, fabAdapt := 512, fabTmo := 2000,
    offloadDl := 10000, dbl := [0x3F, 0x3F, 0x3F, 0x3F], tlbiAsid := 0, tlbiStart := 0, tlbiLen := 0,
    tlbiGo := none, pgrelPa := 0, pgrelLen := 0, pgrelBusy := false, pgrelRange := (0, 0), pgrelLost := false, ownmapBase := 0,
    shwinBase := 0, notifyBase := 0, hrefAddr := 0, hrefCount := 0, firnErr := [0, 0, 0, 0, 0, 0, 0, 0],
    firnSize := 0, firnMap := 0, astabBase := 0x10000 }

/-- The hub at reset. -/
def Hub.reset : Hub :=
  { regs := Regs.reset, queues := [], heads := [], lastQueue := [], lastCluster := 63, nextTask := 1, nextKey := 1,
    tasks := [], gangs := [], table := [], gangBars := [], successors := [], decs := [], reservations := [],
    faultQ := [], nextFseq := 0, olMark := false, saving := [], resume := [], dumps := [], capture := [], walks := [], invals := [],
    nextInval := 1, launches := 0, posted := [], bte := [], bteOrder := [],
    msixTable := (List.replicate 8 [0, 0x100000000]).flatten, msixPending := 0, msixSent := [] }

/-- The fabric side at reset: device 0 without an incarnation (log 2). -/
def Fabric.reset : Fabric :=
  { device := 0, inc := 0, routes := [], trees := [], roots := [], peers := [], exports := [], bars := [],
    remote := [], pageWord0 := 0, pageWord1 := 0, ports := [], outstanding := [], nextTag := 1, held := [],
    sent := [], early := [], grants := [], casts := [], members := [], cxl := [] }

/-- A firmware image that verifies, of security version 1 (log 5). -/
def Image.reset : Image := { id := [], sigOk := true, microOk := true, wellFormed := true, svn := 1 }

/-- The start sequence at reset: stage 0 with verified firmware (R361, R367; log 5). -/
def Boot.reset : Boot :=
  { stage := 0, fail := 0, stacksBad := 0, store := Image.reset, running := Image.reset, fuseSvn := 0, latTol := 0,
    rest := 0, rcvAddr := 0, rcvLen := 0, rcvGo := false, rcvKeep := false, rcvSvn := 0, rcvResult := 0, answers := [] }

/-- Feature bits 0 to 39 read 1 and every other bit 0 (R64, R346). -/
def featReset : BitVec 512 := BitVec.ofNat 512 (2 ^ 40 - 1)

/-- The machine right after device reset (R361): CLOCK 0, no residents, memory with nothing listed. -/
def State.reset : State :=
  { clock := 0, feat := featReset, mem := [], memBad := [], stale := [], records := [], bells := [], asCache := [], adtCache := [], ctlb := [],
    stlb := [], cores := [], hub := Hub.reset, fab := Fabric.reset, boot := Boot.reset, cur := ⟨0, 0, 0⟩,
    agenda := [], late := [], nfree := 0 }

end Sys2Proof.Machine
end

