-- ==== Sys2Proof/Machine/Ops.lean ====
section
/-! DEFINITION. Named operations over tables, memory, registers and the residents of a core; taking a trap and
returning from one. -/

namespace Sys2Proof.Machine

/-! ### Sparse tables -/

/-- The value at a key, `d` where the table lists none. -/
def amGet {α : Type} (d : α) : SMap α → Nat → α
  | [], _ => d
  | (k', v) :: t, k => if k = k' then v else amGet d t k

/-- The value at a key, if the table lists one. -/
def amFind {α : Type} : SMap α → Nat → Option α
  | [], _ => none
  | (k', v) :: t, k => if k = k' then some v else amFind t k

/-- Put a value at a key, keeping keys rising. -/
def amPut {α : Type} : SMap α → Nat → α → SMap α
  | [], k, v => [(k, v)]
  | (k', v') :: t, k, v =>
    if k < k' then (k, v) :: (k', v') :: t
    else if k = k' then (k, v) :: t
    else (k', v') :: amPut t k v

/-- Remove a key. -/
def amDel {α : Type} : SMap α → Nat → SMap α
  | [], _ => []
  | (k', v) :: t, k => if k = k' then amDel t k else (k', v) :: amDel t k

/-- Put a value at a key of a table whose unlisted keys read as `d`: writing `d` removes the entry. -/
def smPut {α : Type} [DecidableEq α] (d : α) (m : SMap α) (k : Nat) (v : α) : SMap α :=
  if v = d then amDel m k else amPut m k v

/-- Keys strictly rise from above `lo`, and no value is the default. -/
def smWfFrom {α : Type} [DecidableEq α] (d : α) : Option Nat → SMap α → Bool
  | _, [] => true
  | lo, (k, v) :: t => (match lo with | none => true | some l => l < k) && v != d && smWfFrom d (some k) t

/-- The canonical form of a sparse table. -/
def smWf {α : Type} [DecidableEq α] (d : α) (m : SMap α) : Bool := smWfFrom d none m

/-- Insert into an ascending list. -/
def insertAsc (x : Nat) : List Nat → List Nat
  | [] => [x]
  | y :: ys => if x ≤ y then x :: y :: ys else y :: insertAsc x ys

/-- Ascending order. -/
def sortAsc (xs : List Nat) : List Nat := xs.foldr insertAsc []

/-! ### Global memory -/

/-- What a byte of global memory that nothing has written reads as (R75 leaves it open; log 1). -/
def unwritten : Byte := 0

/-- The canonical form of memory: addresses strictly rising, no entry equal to what an unlisted address reads as. -/
def Memory.wf (m : List Host.Cell) : Bool := smWf unwritten m

/-- One byte of global memory, by physical address. -/
def Memory.read (m : List Host.Cell) (a : Nat) : Byte := amGet unwritten m a

/-- Write one byte of global memory. -/
def Memory.write (m : List Host.Cell) (a : Nat) (b : Byte) : List Host.Cell := smPut unwritten m a b

/-- `n` bytes from an address, lowest first. -/
def Memory.readN (m : List Host.Cell) : Nat → Nat → List Byte
  | _, 0 => []
  | a, n + 1 => Memory.read m a :: Memory.readN m (a + 1) n

/-- Write bytes at an address, lowest first. -/
def Memory.writeN (m : List Host.Cell) : Nat → List Byte → List Host.Cell
  | _, [] => m
  | a, b :: bs => Memory.writeN (Memory.write m a b) (a + 1) bs

/-- A little-endian number of `n` bytes (R74). -/
def Memory.readNat (m : List Host.Cell) (a n : Nat) : Nat := leNat (Memory.readN m a n)

/-- Bytes read from a byte table whose unlisted keys read as 0. -/
def byteRead (m : SMap Byte) : Nat → Nat → List Byte
  | _, 0 => []
  | a, n + 1 => amGet 0 m a :: byteRead m (a + 1) n

/-- Bytes written into a byte table whose unlisted keys read as 0. -/
def byteWrite (m : SMap Byte) : Nat → List Byte → SMap Byte
  | _, [] => m
  | a, b :: bs => byteWrite (smPut 0 m a b) (a + 1) bs

/-- First byte above bonded DRAM: 288 GiB (R72). -/
def dramEnd : Nat := 0x4800000000

/-- First byte of the firn tier (R72). -/
def firnBase : Nat := 2 ^ 48

/-- Bonded DRAM that is up at the current stage (R72, R362). -/
def State.dramUp (s : State) (pa : Nat) : Bool :=
  pa < dramEnd && (s.boot.stage != 0 || (pa < 0x400000000 && pa / 2 ^ 13 % 8 == 0))

/-- A physical address that is populated (R72, R338, R362). -/
def State.populated (s : State) (pa : Nat) : Bool :=
  s.dramUp pa ||
  (firnBase ≤ pa && pa < 0x1180000000000 && pa - firnBase < s.hub.regs.firnSize.toNat) ||
  (2 ^ 51 ≤ pa && pa < 0xC000000000000) || (0xF000000000000 ≤ pa && pa < 2 ^ 52)

/-- The stack of a core (R66). -/
def stackOf (core : Nat) : Nat := core / 128 % 8

/-! ### Words and residues -/

/-- The residue of a word: its value modulo 3 (R68). -/
def residueOf (w : Word) : BitVec 2 := BitVec.ofNat 2 (w.toNat % 3)

/-- The cell a write of `w` leaves: the value and its residue (R68). -/
def cellOf (w : Word) : RWord := ⟨w, residueOf w⟩

/-- The cell that holds zero. -/
def cellZero : RWord := ⟨0, 0⟩

/-- One bit of a word changes, and its residue does not (R68, R69). -/
def upsetCell (bit : Nat) (r : RWord) : RWord := { r with val := r.val ^^^ BitVec.ofNat 32 (2 ^ (bit % 32)) }

/-- What an integer add gives and the residue it predicts: ra + rb − c modulo 3, c the carry out (R68). -/
def addCell (a b : RWord) : RWord :=
  ⟨a.val + b.val, BitVec.ofNat 2 ((a.res.toNat + b.res.toNat + 2 * ((a.val.toNat + b.val.toNat) / 2 ^ 32)) % 3)⟩

/-- A subtract: ra − rb plus the borrow (R68). -/
def subCell (a b : RWord) : RWord :=
  ⟨a.val - b.val, BitVec.ofNat 2 ((a.res.toNat + 2 * b.res.toNat + (if a.val.toNat < b.val.toNat then 1 else 0)) % 3)⟩

/-- The low word of a multiply: ra × rb less the high word (R68). -/
def mulCell (a b : RWord) : RWord :=
  ⟨a.val * b.val, BitVec.ofNat 2 ((a.res.toNat * b.res.toNat + 2 * (a.val.toNat * b.val.toNat / 2 ^ 32)) % 3)⟩

/-- A multiply-add, likewise (R68). -/
def madCell (a b c : RWord) : RWord :=
  ⟨a.val * b.val + c.val,
   BitVec.ofNat 2 ((a.res.toNat * b.res.toNat + c.res.toNat + 2 * ((a.val.toNat * b.val.toNat + c.val.toNat) / 2 ^ 32)) % 3)⟩

/-- Whether the stored residue is that of the stored word (R69). -/
def cellGood (r : RWord) : Bool := r.res == residueOf r.val

/-- Whether lane `l` is in a mask. -/
def laneIn (m : Lanes) (l : Nat) : Bool := m.getLsbD l

/-- The lanes of a mask, ascending. -/
def lanesOf (m : Lanes) : List Nat := (List.range 32).filter (laneIn m)

/-- The mask of a list of lanes. -/
def maskOf (ls : List Nat) : Lanes := ls.foldl (fun m l => m ||| BitVec.ofNat 32 (2 ^ l)) 0

/-- Sign extension of the low `n` bits of a number to 54 bits. -/
def sext54 {n : Nat} (x : BitVec n) : VAddr := x.signExtend 54

/-! ### Cores and residents -/

/-- A core by CORE_ID (R66). -/
def State.core (s : State) (c : Nat) : Core := amGet Core.reset s.cores c

/-- Replace a core. -/
def State.setCore (s : State) (c : Nat) (k : Core) : State := { s with cores := amPut s.cores c k }

/-- Change a core. -/
def State.modCore (s : State) (c : Nat) (f : Core → Core) : State := s.setCore c (f (s.core c))

/-- A warp by core and slot. -/
def State.warp (s : State) (c w : Nat) : Option Warp := amFind (s.core c).warps w

/-- Replace a warp. -/
def State.setWarp (s : State) (c w : Nat) (x : Warp) : State :=
  s.modCore c fun k => { k with warps := amPut k.warps w x }

/-- Change a warp, if the slot holds one. -/
def State.modWarp (s : State) (c w : Nat) (f : Warp → Warp) : State :=
  match s.warp c w with
  | some x => s.setWarp c w (f x)
  | none => s

/-- A resident team by core and key. -/
def State.team (s : State) (c t : Nat) : Option Team := amFind (s.core c).teams t

/-- Change a resident team. -/
def State.modTeam (s : State) (c t : Nat) (f : Team → Team) : State :=
  match s.team c t with
  | some x => s.modCore c fun k => { k with teams := amPut k.teams t (f x) }
  | none => s

/-- Change a split entry of a warp. -/
def Warp.modSplit (w : Warp) (e : Nat) (f : Split → Split) : Warp :=
  match amFind w.splits e with
  | some sp => { w with splits := amPut w.splits e (f sp) }
  | none => w

/-- Change a split entry. -/
def State.modSplit (s : State) (x : Who) (f : Split → Split) : State :=
  s.modWarp x.core x.slot fun w => w.modSplit x.entry f

/-- A split entry. -/
def State.split (s : State) (x : Who) : Option Split :=
  match s.warp x.core x.slot with
  | some w => amFind w.splits x.entry
  | none => none

/-- What an executing split sees: its core, warp, team and split entry. -/
structure Ctx where
  who : Who
  core : Core
  warp : Warp
  team : Team
  split : Split

/-- The context of a split entry, if the entry is in use. -/
def State.ctxOf (s : State) (x : Who) : Option Ctx :=
  match s.warp x.core x.slot with
  | none => none
  | some w =>
    match s.team x.core w.team, amFind w.splits x.entry with
    | some t, some sp => some ⟨x, s.core x.core, w, t, sp⟩
    | _, _ => none

/-- The executing split's context. -/
def State.ctx (s : State) : Option Ctx := s.ctxOf s.cur

/-- Run with the executing split's context; where no such split is in use the call stops (the one Fault). -/
def State.withCtx (s : State) (k : Ctx → State) : Host.Outcome State Fault Refusal :=
  match s.ctx with
  | some x => .next (k x)
  | none => .fault .noSplit

/-- Change the hub. -/
def State.modHub (s : State) (f : Hub → Hub) : State := { s with hub := f s.hub }

/-- Change the hub's registers. -/
def State.modRegs (s : State) (f : Regs → Regs) : State := s.modHub fun h => { h with regs := f h.regs }

/-- The device is awake: the access that woke it is performed after the exit (R366). -/
def State.wake (s : State) : State := { s with boot := { s.boot with rest := 0 } }

/-! ### Registers -/

/-- A g register's cell; g0 reads as zero (R55). -/
def Warp.g_ (w : Warp) (r : GReg) : RWord := if r = 0 then cellZero else amGet cellZero w.g r.toNat

/-- A g register's value. -/
def Warp.gv (w : Warp) (r : GReg) : Word := (w.g_ r).val

/-- Write a cell into a g register; a write to g0 is discarded (R55). -/
def Warp.setGCell (w : Warp) (r : GReg) (x : RWord) : Warp :=
  if r = 0 then w else { w with g := smPut cellZero w.g r.toNat x }

/-- Write a value into a g register, with its residue (R68). -/
def Warp.setG (w : Warp) (r : GReg) (x : Word) : Warp := w.setGCell r (cellOf x)

/-- The register after a g register, as the odd half of a pair. -/
def oddG (r : GReg) : GReg := r + 1

/-- The 54-bit value of an even–odd pair: bits [53:32] are bits [21:0] of the odd register (R158). -/
def pairVal (lo hi : Word) : VAddr := BitVec.ofNat 54 (lo.toNat + hi.toNat % 2 ^ 22 * 2 ^ 32)

/-- The address in a pair of g registers (R158). -/
def Warp.gPair (w : Warp) (r : GReg) : VAddr := pairVal (w.gv r) (w.gv (oddG r))

/-- A lane register's cell. -/
def Warp.v_ (w : Warp) (r : Nat) (l : Nat) : RWord := amGet cellZero w.v (r * 32 + l)

/-- A lane register's value in a lane. -/
def Warp.vv (w : Warp) (r : Nat) (l : Nat) : Word := (w.v_ r l).val

/-- Write a lane register in one lane, with its residue (R53, R68). -/
def Warp.setV (w : Warp) (r : Nat) (l : Nat) (x : Word) : Warp :=
  { w with v := smPut cellZero w.v (r * 32 + l) (cellOf x) }

/-- Write a cell into a lane register in one lane (R53, R68). -/
def Warp.setVCell (w : Warp) (r : Nat) (l : Nat) (x : RWord) : Warp := { w with v := smPut cellZero w.v (r * 32 + l) x }

/-- Write consecutive lane registers in one lane, low word first (R53). -/
def Warp.setVs (w : Warp) (r : Nat) (l : Nat) : List Word → Warp
  | [] => w
  | x :: xs => (w.setV r l x).setVs (r + 1) l xs

/-- A team register's cell (R57). -/
def Team.ts_ (t : Team) (r : Nat) : RWord := amGet cellZero t.ts r

/-- Write a team register with the residue its word has (R57, R68). -/
def Team.setTs (t : Team) (r : Nat) (x : Word) : Team := { t with ts := smPut cellZero t.ts r (cellOf x) }

/-- A flag's count (R58). -/
def Warp.flag (w : Warp) (i : Nat) : Nat := amGet 0 w.f i

/-- Raise by 1 each flag of a mask (R58). -/
def Warp.raise (w : Warp) (m : BitVec 12) : Warp :=
  (List.range 12).foldl (fun w i => if m.getLsbD i then { w with f := smPut 0 w.f i (w.flag i + 1) } else w) w

/-- Lower by 1 each flag of a mask (R58). -/
def Warp.lower (w : Warp) (m : BitVec 12) : Warp :=
  (List.range 12).foldl (fun w i => if m.getLsbD i then { w with f := smPut 0 w.f i (w.flag i - 1) } else w) w

/-- Every flag of a mask reads zero (R58). -/
def Warp.flagsClear (w : Warp) (m : BitVec 12) : Bool :=
  (List.range 12).all fun i => !m.getLsbD i || w.flag i == 0

/-! ### System registers and FEAT -/

/-- Whether a feature bit reads 1 (R64, R346). -/
def State.hasFeature (s : State) (i : Nat) : Bool := s.feat.getLsbD i

/-! ### Traps -/

/-- The code of a cause (R4). -/
def Cause.code : Cause → Nat
  | .illegalOp => 0x01
  | .reservedField => 0x02
  | .featureAbsent => 0x03
  | .misaligned => 0x04
  | .privilege => 0x05
  | .notPresent => 0x10
  | .protection => 0x11
  | .migration => 0x12
  | .outOfRange => 0x13
  | .memoryUncorrectable => 0x14
  | .primaryPinned => 0x15
  | .adjEarlyRead => 0x20
  | .adjSurplusStore => 0x21
  | .adjCountOverflow => 0x22
  | .adjNotCounted => 0x23
  | .matrixMismatch => 0x30
  | .formatBlockInvalid => 0x31
  | .gangInvalid => 0x32
  | .barrierInvalid => 0x40
  | .iteratorInvalid => 0x41
  | .queueInvalid => 0x42
  | .lmOutOfRange => 0x50
  | .tagInvalid => 0x51
  | .fabricTimeout => 0x60
  | .peerReset => 0x61
  | .peerUnreachable => 0x62
  | .codeGone => 0x70
  | .breakpoint => 0x7E
  | .userTrap => 0x7F
  | .registerCheck => 0x80

/-- The causes of R4 in table order. -/
def allCauses : List Cause :=
  [.illegalOp, .reservedField, .featureAbsent, .misaligned, .privilege, .notPresent, .protection, .migration,
   .outOfRange, .memoryUncorrectable, .primaryPinned, .adjEarlyRead, .adjSurplusStore, .adjCountOverflow,
   .adjNotCounted, .matrixMismatch, .formatBlockInvalid, .gangInvalid, .barrierInvalid, .iteratorInvalid,
   .queueInvalid, .lmOutOfRange, .tagInvalid, .fabricTimeout, .peerReset, .peerUnreachable, .codeGone, .breakpoint,
   .userTrap, .registerCheck]

/-- The cause with a code. -/
def causeOf (n : Nat) : Option Cause := allCauses.find? fun c => c.code == n

/-- NOT_PRESENT and MIGRATION are replayable (R96, R171). -/
def Cause.replayable : Cause → Bool
  | .notPresent | .migration => true
  | _ => false

/-- TRAP_CAUSE as an entry writes it (R66). -/
def trapCauseWord (t : PendTrap) : Word :=
  BitVec.ofNat 32 (t.cause.code + t.lane % 32 * 2 ^ 8 + (if t.laneSide then 2 ^ 13 else 0))

/-- Write the three trap registers of a warp (R272). -/
def Warp.setTrap (w : Warp) (t : PendTrap) : Warp :=
  { w with trapCause := trapCauseWord t, trapPc := t.pc, trapAddr := t.addr }

/-- A team begins to stop (R303): its splits issue no more. A team already stopping or stopped keeps its stop. -/
def Team.beginStop (t : Team) (src cause : Nat) (clock : BitVec 64) (wptr : List Word) : Team :=
  match t.run with
  | .running => { t with run := .stopping src, stop := { StopRec.reset with cause := cause, clock := clock, wptr := wptr } }
  | _ => t

/-- The four WPTR words of a core (R63). -/
def Core.wptrs (k : Core) : List Word :=
  (List.range 4).map fun c =>
    let ch := amGet Chan.reset k.chans c
    BitVec.ofNat 32 (ch.seq.toNat * 2 ^ 20 + ch.off.toNat)

/-- Stop a team (R277, R303); `cause` is the code of the trap that stops it, 0 for none. -/
def State.stopTeam (s : State) (c t src cause : Nat) : State :=
  s.modTeam c t fun x => x.beginStop src cause s.clock (s.core c).wptrs

/-- A split's LDG or STG behind the aperture has not landed (R194). -/
def Split.landing (sp : Split) : Bool :=
  match sp.wait with
  | .fabric _ _ => true
  | _ => false

/-- A split's TLBINV has not completed (R276). -/
def Split.invalidating (sp : Split) : Bool :=
  match sp.wait with
  | .tlbinv _ => true
  | _ => false

/-- The split is inside a scalar instruction that has begun: a trap waits for its end (R171, R276). An LDG or STG that waits for
a REPLAY has not begun (log 15). -/
def Split.midway (sp : Split) : Bool := sp.landing || sp.invalidating

/-- Whether another split of the warp holds the trap latch (R272). -/
def Warp.latchBusy (w : Warp) (entry : Nat) : Bool :=
  match w.latch with
  | none => false
  | some e => e != entry

/-- A table word of 8 bytes at its home, where its page is populated and it can be read. -/
def State.tableWord (s : State) (pa : Nat) : Option Nat :=
  if s.populated pa && !s.memBad.contains (pa / 8) then some (Memory.readNat s.mem pa 8) else none

/-- Word 3 of an ASID's address-space entry as a stack sees it (R93). -/
def State.ebtWord (s : State) (stack : Nat) (asid : Asid) : Option Nat :=
  match s.asCache.find? (fun e => e.1 == stack && e.2.1 == asid.toNat) with
  | some e => some ((e.2.2.map (·.toNat)).getD 3 0)
  | none => s.tableWord (s.hub.regs.astabBase.toNat + asid.toNat * 64 + 24)

/-- The entry of the emulation binding table that a bound FEATURE_ABSENT enters at (R107, R347): none where the
address space has no table or the entry is not bound. The table is read at home through the address-space entry. R107 does not
say what a word gives that is not populated or cannot be read, or one with a reserved bit set or a misaligned ENTRY: it binds
no routine here, and the trap goes to TRAP_BASE (log 99). -/
def bindingEntry (s : State) (stack : Nat) (asid : Asid) (feature : Nat) : Option VAddr :=
  match s.ebtWord stack asid with
  | none => none
  | some w3 =>
    if !bitAt w3 0 then none
    else match s.tableWord (w3 / 2 ^ 12 % 2 ^ 40 * 2 ^ 12 + feature * 8) with
      | none => none
      | some b => if bitAt b 63 && b / 2 ^ 54 % 2 ^ 9 == 0 && b % 4 == 0 then some (BitVec.ofNat 54 b) else none

/-- A split is a member that the LIVE of its origin entry counts in the family of its JPC: that family's SPLIT made it (R102; log
13). -/
def Split.counted (sp : Split) : Bool := sp.orgFam == sp.fam

/-- The origin entry's LIVE rises by 1 again as a member of its family leaves the JOIN to take a trap (R171; log 13). -/
def Warp.unarrive (w : Warp) (e : Nat) (sp : Split) : Warp :=
  if sp.counted && sp.origin.toNat != e then
    w.modSplit sp.origin.toNat fun o => { o with liveCount := o.liveCount + 1 }
  else w

/-- Taking a trap (R272): the split takes the latch, the trap registers are written, and control passes to
TRAP_BASE, to the bound routine of an absent feature (R347), or the team stops. -/
def State.enterTrap (s : State) (x : Who) (t : PendTrap) : State :=
  match s.ctxOf x with
  | none => s
  | some c =>
    let bound := match t.feature with
      | some f => (bindingEntry s (stackOf x.core) c.team.asid f).map fun a => (f, a)
      | none => none
    let addr := match bound with
      | some b => BitVec.ofNat 54 b.1
      | none => t.addr
    let s := s.modWarp x.core x.slot fun w =>
      { (if c.split.jw then w.unarrive x.entry c.split else w).setTrap { t with addr := addr } with
        latch := some x.entry }
    match bound with
    | some (_, a) => s.modSplit x fun sp => { sp with spc := a, wait := .run, jw := false, atEnd := false }
    | none =>
      if c.team.trapBase = 0 then (s.stopTeam x.core c.warp.team 1 t.cause.code).modSplit x fun sp =>
        { sp with wait := .run, jw := false, atEnd := false }
      else s.modSplit x fun sp =>
        { sp with spc := c.team.trapBase, wait := .run, jw := false, atEnd := false }

/-- The team's splits issue (R303). -/
def teamRuns (t : Team) : Bool := t.run == .running

/-- A team of a core is there and issues. -/
def State.issuing (s : State) (core team : Nat) : Bool :=
  match s.team core team with
  | some t => teamRuns t
  | none => false

/-- Raise a trap in a split: it enters at once where the latch is free or its own, and otherwise waits for the latch
(R272). While the team stops or is stopped it is held until the team resumes (R303). -/
def State.raiseTrap (s : State) (x : Who) (t : PendTrap) : State :=
  match s.warp x.core x.slot with
  | none => s
  | some w =>
    if !s.issuing x.core w.team then
      s.modSplit x fun sp => { sp with wait := .run, pend := sp.pend ++ [{ t with held := true }] }
    else if w.latchBusy x.entry then s.modSplit x fun sp => { sp with wait := .trapLatch, pend := sp.pend ++ [{ t with held := false }] }
    else s.enterTrap x t

/-- A scalar trap's record: no lane, TRAP_PC at the instruction or past it as the cause gives (R171, R273). -/
def scalarTrap (c : Cause) (pc addr : VAddr) : PendTrap :=
  { laneSide := false, lane := 0, cause := c, pc := pc, addr := addr }

/-- A precise scalar fault of the executing split (R171): SPC stays on the instruction, TRAP_PC holds its address. -/
def State.scalarFault (s : State) (x : Ctx) (c : Cause) (addr : VAddr) : State :=
  s.raiseTrap x.who (scalarTrap c x.split.spc addr)

/-- The address of the lane instruction at a unit of a team's lane text (R155, R171). -/
def laneVa (t : Team) (unit : Nat) : VAddr := t.laneBase + BitVec.ofNat 54 (12 * unit)

end Sys2Proof.Machine
end

