-- ==== Sys2Proof/Machine/Fmt.lean ====
section
/-! DEFINITION. Number formats and exact arithmetic: decoding, the two rounding rules, saturation, NaN, conversions and
the block quantisers (R32 to R42, R199 to R203). -/

namespace Sys2Proof.Machine

/-- The floating-point formats (R32). -/
inductive Fmt where
  | f32 | f16 | bf16 | e4m3 | e5m2 | e2m1
  deriving DecidableEq, Repr

/-- Mantissa bits (R32). -/
def Fmt.mbits : Fmt → Nat
  | .f32 => 23
  | .f16 => 10
  | .bf16 => 7
  | .e4m3 => 3
  | .e5m2 => 2
  | .e2m1 => 1

/-- Exponent bits (R32). -/
def Fmt.ebits : Fmt → Nat
  | .f32 | .bf16 => 8
  | .f16 | .e5m2 => 5
  | .e4m3 => 4
  | .e2m1 => 2

/-- Exponent bias (R32). -/
def Fmt.bias : Fmt → Nat
  | .f32 | .bf16 => 127
  | .f16 | .e5m2 => 15
  | .e4m3 => 7
  | .e2m1 => 1

/-- The code of the largest finite value (R32). -/
def Fmt.maxCode : Fmt → Nat
  | .f32 => 0x7F7FFFFF
  | .f16 => 0x7BFF
  | .bf16 => 0x7F7F
  | .e4m3 => 0x7E
  | .e5m2 => 0x7B
  | .e2m1 => 7

/-- Bits below the sign. -/
def Fmt.low (f : Fmt) : Nat := f.ebits + f.mbits

/-- Formats of 16 bits and more round to nearest even, narrower ones away from zero at a tie (R35). -/
def Fmt.narrow : Fmt → Bool
  | .e4m3 | .e5m2 | .e2m1 => true
  | _ => false

/-- Formats with infinities (R32). -/
def Fmt.hasInf : Fmt → Bool
  | .e4m3 | .e2m1 => false
  | _ => true

/-- The code of a sign and the bits below it. -/
def Fmt.code (f : Fmt) (neg : Bool) (x : Nat) : Nat := x + (if neg then 2 ^ f.low else 0)

/-- The smallest exponent of a unit in the last place. -/
def Fmt.qmin (f : Fmt) : Int := 1 - (f.bias : Int) - f.mbits

/-- The value of a code (R32). A NaN's mantissa is kept left-aligned in 23 bits. -/
def decodeF (f : Fmt) (c : Nat) : XVal :=
  let neg := c / 2 ^ f.low % 2 == 1
  let e := c / 2 ^ f.mbits % 2 ^ f.ebits
  let m := c % 2 ^ f.mbits
  if f == .e4m3 && e == 15 && m == 7 then .nan neg (m * 2 ^ 20)
  else if f.hasInf && e == 2 ^ f.ebits - 1 then
    if m = 0 then .inf neg else .nan neg (m * 2 ^ (23 - f.mbits))
  else if e = 0 then .fin neg m f.qmin
  else .fin neg (m + 2 ^ f.mbits) (f.qmin + (e : Int) - 1)

/-- A value is NaN. -/
def XVal.isNan : XVal → Bool
  | .nan _ _ => true
  | _ => false

/-- A value is an infinity. -/
def XVal.isInf : XVal → Bool
  | .inf _ => true
  | _ => false

/-- A value is a zero of either sign. -/
def XVal.isZero : XVal → Bool
  | .fin _ m _ => m == 0
  | _ => false

/-- The sign of a value. -/
def XVal.neg? : XVal → Bool
  | .nan s _ => s
  | .inf s => s
  | .fin s _ _ => s

/-- m × 2^e rounded to an integer multiple of 2^q: to even at a tie, or away from zero (R35). -/
def roundTo (rna : Bool) (m : Nat) (e q : Int) : Nat :=
  if q ≤ e then m * 2 ^ (e - q).toNat
  else
    let d := (q - e).toNat
    let n := m / 2 ^ d
    let r := m % 2 ^ d * 2
    if 2 ^ d < r || (r == 2 ^ d && (rna || n % 2 == 1)) then n + 1 else n

/-- The rounded magnitude code of a finite value before overflow is looked at (R35). -/
def roundMag (f : Fmt) (m : Nat) (e : Int) : Nat :=
  if m = 0 then 0
  else
    let q := max (e + Nat.log2 m - f.mbits) f.qmin
    (q - f.qmin).toNat * 2 ^ f.mbits + roundTo f.narrow m e q

/-- The code of a NaN in a format (R37). -/
def nanOut (f : Fmt) (neg : Bool) (payload : Nat) : Nat :=
  match f with
  | .e2m1 => 0
  | .e4m3 => f.code neg 0x7F
  | .e5m2 => f.code neg 0x7E
  | _ =>
    let m := payload / 2 ^ (23 - f.mbits) % 2 ^ f.mbits
    let m := if m / 2 ^ (f.mbits - 1) % 2 = 1 then m else m + 2 ^ (f.mbits - 1)
    f.code neg ((2 ^ f.ebits - 1) * 2 ^ f.mbits + m)

/-- The code of an infinity: formats without one hold the largest finite value (R36). -/
def infOut (f : Fmt) (neg : Bool) : Nat :=
  if f.hasInf then f.code neg ((2 ^ f.ebits - 1) * 2 ^ f.mbits) else f.code neg f.maxCode

/-- Round (R35 to R37). -/
def roundF (f : Fmt) (x : XVal) : Nat :=
  match x with
  | .nan s p => nanOut f s p
  | .inf s => infOut f s
  | .fin s m e =>
    let c := roundMag f m e
    if f.maxCode < c then (if f.narrow then f.code s f.maxCode else infOut f s) else f.code s c

/-- The default NaN as a value (R37). -/
def xDefault : XVal := .nan false 0

/-- A signed integer times a power of two as a value; a zero has the given sign. -/
def xOfInt (i : Int) (e : Int) (negZero : Bool) : XVal := .fin (i < 0 || (i == 0 && negZero)) i.natAbs e

/-- The signed mantissa. -/
def signed (s : Bool) (m : Nat) : Int := if s then -(m : Int) else m

/-- Exact sum (R38, R42). -/
def xadd (a b : XVal) : XVal :=
  match a, b with
  | .nan s p, _ => .nan s p
  | _, .nan s p => .nan s p
  | .inf s, .inf t => if s == t then .inf s else xDefault
  | .inf s, _ => .inf s
  | _, .inf t => .inf t
  | .fin s m e, .fin t n d =>
    let k := min e d
    xOfInt (signed s m * 2 ^ (e - k).toNat + signed t n * 2 ^ (d - k).toNat) k (s && t)

/-- Negation. -/
def xneg : XVal → XVal
  | .nan s p => .nan s p
  | .inf s => .inf !s
  | .fin s m e => .fin (!s) m e

/-- Exact product (R42). -/
def xmul (a b : XVal) : XVal :=
  match a, b with
  | .nan s p, _ => .nan s p
  | _, .nan s p => .nan s p
  | .inf s, .inf t => .inf (s != t)
  | .inf s, .fin t m _ => if m = 0 then xDefault else .inf (s != t)
  | .fin t m _, .inf s => if m = 0 then xDefault else .inf (s != t)
  | .fin s m e, .fin t n d => .fin (s != t) (m * n) (e + d)

/-- A value times a power of two. -/
def xscale (x : XVal) (k : Int) : XVal :=
  match x with
  | .fin s m e => .fin s m (e + k)
  | y => y

/-- Exact comparison a < b of values that are not NaN; zeros compare equal. -/
def xlt (a b : XVal) : Bool :=
  match a, b with
  | .nan _ _, _ | _, .nan _ _ => false
  | .inf s, .inf t => s && !t
  | .inf s, _ => s
  | _, .inf t => !t
  | .fin s m e, .fin t n d =>
    let k := min e d
    signed s m * 2 ^ (e - k).toNat < signed t n * 2 ^ (d - k).toNat

/-- Exact equality of values that are not NaN. -/
def xeq (a b : XVal) : Bool := !a.isNan && !b.isNan && !xlt a b && !xlt b a

/-- Magnitude. -/
def xabs : XVal → XVal
  | .nan _ p => .nan false p
  | .inf _ => .inf false
  | .fin _ m e => .fin false m e

/-- The smaller of two values that are not NaN; −0 is less than +0 (R199). -/
def xmin (a b : XVal) : XVal :=
  if xlt a b then a else if xlt b a then b else if a.neg? then a else b

/-- The larger; +0 is greater than −0 (R199). -/
def xmax (a b : XVal) : XVal :=
  if xlt a b then b else if xlt b a then a else if a.neg? then b else a

/-- The first NaN of the operands, quieted, or else the rounded result (R37). -/
def arithF (f : Fmt) (ops : List XVal) (r : XVal) : Nat :=
  match ops.find? (·.isNan) with
  | some (.nan s p) => nanOut f s p
  | _ => roundF f r

/-- a + b in a format (R199, R201). -/
def fAdd (f : Fmt) (a b : Nat) : Nat :=
  let x := decodeF f a
  let y := decodeF f b
  arithF f [x, y] (xadd x y)

/-- a − b in a format: the sum with −b (R38, R199). -/
def fSub (f : Fmt) (a b : Nat) : Nat :=
  let x := decodeF f a
  let y := decodeF f b
  arithF f [x, y] (xadd x (xneg y))

/-- a × b in a format. -/
def fMul (f : Fmt) (a b : Nat) : Nat :=
  let x := decodeF f a
  let y := decodeF f b
  arithF f [x, y] (xmul x y)

/-- a × b + c with one rounding. -/
def fFma (f : Fmt) (a b c : Nat) : Nat :=
  let x := decodeF f a
  let y := decodeF f b
  let z := decodeF f c
  arithF f [x, y, z] (xadd (xmul x y) z)

/-- FMIN (R199). -/
def fMin (a b : Nat) : Nat :=
  let x := decodeF .f32 a
  let y := decodeF .f32 b
  arithF .f32 [x, y] (xmin x y)

/-- FMAX (R199). -/
def fMax (a b : Nat) : Nat :=
  let x := decodeF .f32 a
  let y := decodeF .f32 b
  arithF .f32 [x, y] (xmax x y)

/-- A binary f32 operation on words. -/
def onWords (f : Nat → Nat → Nat) (a b : Word) : Word := BitVec.ofNat 32 (f a.toNat b.toNat)

/-- FCMP's relation (R200). -/
def fcmpHolds (q : Nat) (a b : Word) : Bool :=
  let x := decodeF .f32 a.toNat
  let y := decodeF .f32 b.toNat
  let nan := x.isNan || y.isNan
  match q with
  | 0 => xeq x y
  | 1 => !xeq x y
  | 2 => xlt x y
  | 3 => xlt x y || xeq x y
  | 4 => xlt y x
  | 5 => xlt y x || xeq x y
  | 6 => !nan
  | _ => nan

/-! ### Conversion (R39, R202) -/

/-- What a type code of R161 names for a conversion: signed or unsigned bits, or a float format. -/
inductive NumType where
  | int (sgn : Bool) (n : Nat)
  | flt (f : Fmt)
  deriving DecidableEq, Repr

/-- The type codes CVT accepts (R202). -/
def numType (c : Nat) : Option NumType :=
  match c with
  | 0x08 => some (.int true 8)
  | 0x09 => some (.int true 16)
  | 0x0A => some (.int true 32)
  | 0x0B => some (.int true 64)
  | 0x0C => some (.int false 8)
  | 0x0D => some (.int false 16)
  | 0x0E => some (.int false 32)
  | 0x0F => some (.int false 64)
  | 0x10 => some (.flt .f32)
  | 0x11 => some (.flt .f16)
  | 0x12 => some (.flt .bf16)
  | 0x13 => some (.flt .e4m3)
  | 0x14 => some (.flt .e5m2)
  | 0x15 => some (.flt .e2m1)
  | _ => none

/-- The least and greatest value of an integer type. -/
def intMin (sgn : Bool) (n : Nat) : Int := if sgn then -(2 ^ (n - 1)) else 0

/-- The greatest value of an integer type. -/
def intMax (sgn : Bool) (n : Nat) : Int := if sgn then 2 ^ (n - 1) - 1 else 2 ^ n - 1

/-- An integer saturated to a type (R36). -/
def saturate (sgn : Bool) (n : Nat) (i : Int) : Int := max (intMin sgn n) (min (intMax sgn n) i)

/-- The integer a register value holds. -/
def intOf (sgn : Bool) (n : Nat) (x : Nat) : Int :=
  let v := x % 2 ^ n
  if sgn && 2 ^ (n - 1) ≤ v then (v : Int) - 2 ^ n else v

/-- A value rounded to an integer, none for NaN; infinities answer beyond every type (R36, R37). -/
def roundInt (rna : Bool) (x : XVal) : Option Int :=
  match x with
  | .nan _ _ => none
  | .inf s => some (if s then -(2 ^ 80) else 2 ^ 80)
  | .fin s m e => some (signed s (roundTo rna m e 0))

/-- The register value of an integer result: narrow signed results are sign-extended to 32 bits, others
zero-extended (R202). -/
def intBits (sgn : Bool) (n : Nat) (i : Int) : Nat :=
  if n = 64 then (BitVec.ofInt 64 i).toNat else if sgn then (BitVec.ofInt 32 i).toNat else (BitVec.ofInt n i).toNat

/-- Set the quiet bit of a NaN code of a format (R202). -/
def quietSame (f : Fmt) (c : Nat) : Nat :=
  let c := c % 2 ^ (f.low + 1)
  match f with
  | .e4m3 | .e2m1 => c
  | _ => if (decodeF f c).isNan && c / 2 ^ (f.mbits - 1) % 2 = 0 then c + 2 ^ (f.mbits - 1) else c

/-- CVT (R202): the bits of the target from the bits of the source. -/
def convert (src tgt : NumType) (x : Nat) : Nat :=
  match src, tgt with
  | .int s n, .int t m => intBits t m (saturate t m (intOf s n x))
  | .int s n, .flt f => roundF f (xOfInt (intOf s n x) 0 false)
  | .flt f, .int t m =>
    match roundInt (m == 8) (decodeF f (x % 2 ^ (f.low + 1))) with
    | none => 0
    | some i => intBits t m (saturate t m i)
  | .flt f, .flt g => if f = g then quietSame f x else roundF g (decodeF f (x % 2 ^ (f.low + 1)))

/-! ### Quantised blocks (R40, R41, R203) -/

/-- m × 2^e ≤ k × 2^c. -/
def leScaled (m : Nat) (e : Int) (k : Nat) (c : Int) : Bool := m * 2 ^ (e - c).toNat ≤ k * 2 ^ (c - e).toNat

/-- ceil(log2(m × 2^e / k)) for m and k above 0. -/
def ceilLog2 (m : Nat) (e : Int) (k : Nat) : Int :=
  let c := e + Nat.log2 m - Nat.log2 k - 1
  if leScaled m e k c then c else if leScaled m e k (c + 1) then c + 1 else c + 2

/-- The exponent a block takes from a magnitude and the largest value M of its grid (R41, R203); none for a zero. -/
def scaleExp (x : XVal) (big : Nat) : Option Int :=
  match x with
  | .inf _ => some 127
  | .fin _ m e => if m = 0 then none else some (ceilLog2 m e big)
  | .nan _ _ => none

/-- clamp(e + 127, 0, 254) (R41). -/
def scaleByte (e : Int) : Nat := (max 0 (min 254 (e + 127))).toNat

/-- The largest magnitude of a list. -/
def xmaxAbs (xs : List XVal) : XVal := xs.foldl (fun a x => if xlt a (xabs x) then xabs x else a) (.fin false 0 0)

/-- The lowest index of the largest magnitude. -/
def maxIndex (xs : List XVal) : Nat :=
  let m := xmaxAbs xs
  (xs.findIdx? fun x => xeq (xabs x) m).getD 0

/-- R41: codes, scale byte and special byte of a KB4 block. -/
def quantKb4 (xs : List XVal) : List Nat × Nat × Nat :=
  if xs.any (·.isNan) then (xs.map fun _ => 0, 0xFF, 0)
  else
    let j := maxIndex xs
    let x := xs.getD j (.fin false 0 0)
    let e := match scaleExp (xmaxAbs (xs.eraseIdx j)) 6 with
      | some e => e
      | none => (scaleExp x 448).getD 0
    let s := scaleByte e
    let k : Int := 127 - s
    let code (y : XVal) : Nat :=
      let c := roundF .e2m1 (xscale y k)
      if c = 8 then 0 else c
    if x.isZero then (xs.map fun _ => 0, 127, 0)
    else ((List.range xs.length).map fun i => if i = j then 8 else code (xs.getD i (.fin false 0 0)), s,
      roundF .e4m3 (xscale x k))

/-- R203: codes and scale byte of an e4m3 or e5m2 block with largest value M. -/
def quantE8 (f : Fmt) (big : Nat) (xs : List XVal) : List Nat × Nat :=
  if xs.any (·.isNan) then (xs.map fun _ => 0, 0xFF)
  else
    let s := scaleByte ((scaleExp (xmaxAbs xs) big).getD 0)
    (xs.map fun x => roundF f (xscale x (127 - s)), s)

/-- The value of a KB4 element code under its side bytes (R40). -/
def decodeKb4 (s p c : Nat) : XVal :=
  if s = 0xFF then .nan false 0
  else xscale (if c = 8 then decodeF .e4m3 p else decodeF .e2m1 c) ((s : Int) - 127)

/-! ### Sums (R48, R204, R206) -/

/-- Parity of the set bits of i AND k. -/
def hadSign (i k : Nat) : Bool := ((List.range 5).filter fun b => bitAt i b && bitAt k b).length % 2 == 1

/-- An exact sum of terms: the first NaN term decides; a zero sum is +0 unless every term is −0. -/
def xsum : List XVal → XVal
  | [] => .fin false 0 0
  | x :: xs => xs.foldl xadd x

/-- One Hadamard output over a block, scaled by 2^k (R48, R204). -/
def hadOut (xs : List XVal) (i : Nat) (k : Int) : XVal :=
  match xs.find? (·.isNan) with
  | some x => x
  | none => xscale (xsum ((List.range xs.length).map fun j =>
      let x := xs.getD j (.fin false 0 0)
      if hadSign i j then xneg x else x)) k

end Sys2Proof.Machine
end

