-- ==== Sys2Proof/Machine/Translate.lean ====
section
/-! DEFINITION. Address translation: the physical map, page walks, the TLB levels, the checks of R96, and range
invalidation (R72, R73, R93 to R101). -/

namespace Sys2Proof.Machine

/-- What an access needs of a leaf (R96, R211). -/
inductive Access where
  | fetch | read | write | atomic
  deriving DecidableEq, Repr

/-! ### The physical map -/

/-- A range of bytes that is bonded DRAM and up. -/
def State.dramRange (s : State) (pa n : Nat) : Bool :=
  (List.range ((pa % 8192 + n + 8191) / 8192)).all fun i => s.dramUp (pa / 8192 * 8192 + i * 8192) && pa + n ≤ dramEnd

/-- The hub and management registers (R72). -/
def hubRange (pa : Nat) : Bool := 0xF000000000000 ≤ pa && pa < 2 ^ 52

/-- The home of a physical address: stack and slice (R73). -/
def homeOf (pa : Nat) : Nat × Nat := (pa / 2 ^ 13 % 8, (pa / 2 ^ 6 % 64) ^^^ (pa / 2 ^ 16 % 64))

/-- A global address in the fabric aperture: bits [53:52] are 0b11 (R81). -/
def inAperture (va : Nat) : Bool := va / 2 ^ 52 % 4 == 3

/-- The peer an aperture address names (R81). -/
def aperturePeer (va : Nat) : Nat := va / 2 ^ 42 % 2 ^ 10

/-- The offset into the peer's exported region (R81). -/
def apertureOff (va : Nat) : Nat := va % 2 ^ 42

/-- The cluster of a core, device-wide (R66). -/
def clusterOf (core : Nat) : Nat := core / 16 % 64

/-! ### Address-space entries -/

/-- Words 0 to 3 of the address-space entry of an ASID as a stack sees them, filling its cache (R93). How long the entry of
an ASID without resident work stays there is open (log 84). -/
def State.asEntry (s : State) (stack : Nat) (asid : Asid) : State × Except Cause (List Nat) :=
  match s.asCache.find? (fun e => e.1 == stack && e.2.1 == asid.toNat) with
  | some e => (s, .ok (e.2.2.map (·.toNat)))
  | none =>
    let pa := s.hub.regs.astabBase.toNat + asid.toNat * 64
    if !s.dramUp pa then (s, .error .outOfRange)
    else if s.memBad.any (fun u => pa / 8 ≤ u && u < pa / 8 + 8) then (s, .error .memoryUncorrectable)
    else
      let ws := (List.range 8).map fun i => Memory.readNat s.mem (pa + 8 * i) 8
      ({ s with asCache := s.asCache ++ [(stack, asid.toNat, ws.map (BitVec.ofNat 64))] }, .ok ws)

/-- An address-space entry is usable: V is 1 and reserved fields are zero (R93). That an ADTN above 4,096 makes it unusable is
the model's choice (log 83). -/
def asEntryOk (ws : List Nat) : Bool :=
  let w (i : Nat) := ws.getD i 0
  bitAt (w 0) 63 && w 0 % 2 ^ 14 == 0 && w 0 / 2 ^ 52 % 2 ^ 11 == 0 &&
  w 1 % 64 == 0 && w 1 / 2 ^ 52 == 0 && w 2 ≤ 4096 &&
  w 3 / 2 % 2 ^ 11 == 0 && w 3 / 2 ^ 52 == 0 && w 4 == 0 && w 5 == 0 && w 6 == 0 && w 7 == 0

/-- The physical address of the ADT of an address space and its number of entries (R93, R104). -/
def asAdt (ws : List Nat) : Nat × Nat := (ws.getD 1 0, ws.getD 2 0)

/-! ### The walk -/

/-- Reserved bits of any page-table entry are zero (R95). -/
def pteReservedOk (e : Nat) : Bool := e / 2 ^ 52 == 0 && e / 2 ^ 11 % 4 == 0 && !bitAt e 4

/-- The bytes of page a leaf of a level maps, as a power of two (R94): 8 GiB, 8 MiB, 8 KiB. -/
def leafSpan : Nat → Nat
  | 2 => 33
  | 3 => 23
  | _ => 13

/-- The index of an address at a level (R94). -/
def walkIndex (level va : Nat) : Nat :=
  match level with
  | 1 => va / 2 ^ 43 % 2048
  | 2 => va / 2 ^ 33 % 1024
  | 3 => va / 2 ^ 23 % 1024
  | _ => va / 2 ^ 13 % 1024

/-- The physical frame a leaf or a table pointer names (R95). -/
def pteFrame (e : Nat) : Nat := e / 2 ^ 13 % 2 ^ 39 * 2 ^ 13

/-- A TLB entry from a leaf (R98). -/
def entryOfLeaf (asid : Asid) (va span e : Nat) : TlbEntry :=
  { asid := asid, vbase := va / 2 ^ span * 2 ^ span, span := span, frame := pteFrame e, p := bitAt e 10,
    sh := bitAt e 9, cnt := bitAt e 7, own := bitAt e 6, x := bitAt e 5, w := bitAt e 3, a := bitAt e 2 }

/-- The entry a contiguity group gives, where its 16 leaves qualify (R97). R97 does not say what a leaf of it that cannot be
read does: the leaves form no group here, and the access uses its own leaf alone (log 99). -/
def groupEntry (s : State) (asid : Asid) (va level table e : Nat) : Option TlbEntry :=
  let span := leafSpan level
  if s.hasFeature 22 && bitAt e 8 && (level == 3 || level == 4) then
    let i0 := walkIndex level va / 16 * 16
    let es := (List.range 16).map fun k => Memory.readNat s.mem (table + (i0 + k) * 8) 8
    let e0 := es.getD 0 0
    let f0 := pteFrame e0
    let good := (List.range 16).all fun k =>
      let x := es.getD k 0
      !s.memBad.contains ((table + (i0 + k) * 8) / 8) && x % 4 == 3 && pteReservedOk x && bitAt x 8 && x / 4 % 2 ^ 11 == e0 / 4 % 2 ^ 11 && pteFrame x == f0 + k * 2 ^ span
    if good && f0 % 2 ^ (span + 4) == 0 then
      some { entryOfLeaf asid va span e0 with vbase := va / 2 ^ (span + 4) * 2 ^ (span + 4), span := span + 4 }
    else none
  else none

/-- One level of a walk, and the levels below it (R94 to R97): `fuel` is the number of levels left. -/
def walkFrom (s : State) (asid : Asid) (va : Nat) : Nat → Nat → Nat → Except Cause TlbEntry
  | 0, _, _ => .error .protection
  | fuel + 1, level, table =>
    let pa := table + walkIndex level va * 8
    if !s.dramUp pa then .error .outOfRange
    else if s.memBad.contains (pa / 8) then .error .memoryUncorrectable
    else
      let e := Memory.readNat s.mem pa 8
      if !bitAt e 0 then .error .notPresent
      else if !pteReservedOk e then .error .protection
      else if bitAt e 1 then
        if level == 1 || (level == 2 && !s.hasFeature 21) || pteFrame e % 2 ^ leafSpan level != 0 then .error .protection
        else .ok ((groupEntry s asid va level table e).getD (entryOfLeaf asid va (leafSpan level) e))
      else if level == 4 || e / 4 % 2 ^ 9 != 0 then .error .protection
      else if dramEnd ≤ pteFrame e then .error .outOfRange
      else walkFrom s asid va fuel (level + 1) (pteFrame e)

/-- A whole walk from the address-space entry, as a stack's walker makes it (R93, R99). No walk reads the level-1 entries of the
fabric aperture (R94): an address there, such as an ADT's twin or shadow may have, raises OUT_OF_RANGE, which R94 does not say
(log 99). -/
def State.walk (s : State) (stack : Nat) (asid : Asid) (va : Nat) : State × Except Cause TlbEntry :=
  if inAperture va then (s, .error .outOfRange)
  else match s.asEntry stack asid with
  | (s, .error c) => (s, .error c)
  | (s, .ok ws) =>
    if asEntryOk ws then (s, walkFrom s asid va 4 1 (ws.getD 0 0 / 2 ^ 14 % 2 ^ 38 * 2 ^ 14))
    else (s, .error .protection)

/-! ### TLB levels -/

/-- An entry translates an address of an ASID. -/
def TlbEntry.hits (e : TlbEntry) (asid : Asid) (va : Nat) : Bool :=
  e.asid == asid && e.vbase ≤ va && va < e.vbase + 2 ^ e.span

/-- Insert into a level of a given capacity; a full level loses an entry the spec does not choose (R98). -/
def tlbInsert {α : Type} (cap seed : Nat) (es : List α) (e : α) : List α :=
  if es.length < cap then es ++ [e] else es.eraseIdx (Config.tlbVictim seed % cap) ++ [e]

/-- Put an entry into the micro-TLB of a core. -/
def State.fillMicro (s : State) (core : Nat) (e : TlbEntry) : State :=
  if (s.core core).utlb.contains e then s
  else { s.modCore core fun k => { k with utlb := tlbInsert 64 s.nfree k.utlb e } with nfree := s.nfree + 1 }

/-- Put an entry into a cluster TLB. -/
def State.fillCluster (s : State) (cl : Nat) (e : TlbEntry) : State :=
  if s.ctlb.contains (cl, e) then s
  else
    let mine := s.ctlb.filter (·.1 == cl)
    let rest := s.ctlb.filter (·.1 != cl)
    { s with ctlb := rest ++ tlbInsert 4096 s.nfree mine (cl, e), nfree := s.nfree + 1 }

/-- Put an entry into a stack TLB. -/
def State.fillStack (s : State) (st : Nat) (e : TlbEntry) : State :=
  if s.stlb.contains (st, e) then s
  else
    let mine := s.stlb.filter (·.1 == st)
    let rest := s.stlb.filter (·.1 != st)
    { s with stlb := rest ++ tlbInsert 32768 s.nfree mine (st, e), nfree := s.nfree + 1 }

/-- Lookup in micro, cluster and stack TLB; a hit at an outer level fills the inner ones (R98). -/
def State.tlbLookup (s : State) (core : Nat) (asid : Asid) (va : Nat) : State × Option TlbEntry :=
  match (s.core core).utlb.find? (·.hits asid va) with
  | some e => (s, some e)
  | none =>
    match s.ctlb.find? (fun x => x.1 == clusterOf core && x.2.hits asid va) with
    | some x => (s.fillMicro core x.2, some x.2)
    | none =>
      match s.stlb.find? (fun x => x.1 == stackOf core && x.2.hits asid va) with
      | some x => ((s.fillCluster (clusterOf core) x.2).fillMicro core x.2, some x.2)
      | none => (s, none)

/-- Install a walked entry at every level of a core (R98, R99). -/
def State.install (s : State) (core : Nat) (e : TlbEntry) : State :=
  ((s.fillStack (stackOf core) e).fillCluster (clusterOf core) e).fillMicro core e

/-! ### Translate -/

/-- A translated address with the class bits of its page. -/
structure Xlat where
  pa : Nat
  sh : Bool
  cnt : Bool
  deriving DecidableEq, Repr

/-- Checks 2 to 4 of R96 of an access against an entry: privilege (PROTECTION; log 90), the hub range, the bits the access
needs, the frame, ownership. -/
def State.checkEntry (s : State) (e : TlbEntry) (priv : Bool) (va : Nat) (acc : Access) : Except Cause Xlat :=
  let pa := e.frame + (va - e.vbase)
  let need := match acc with
    | .fetch => e.x
    | .read => e.a
    | .write => e.w
    | .atomic => e.a && e.w
  if e.p && !priv then .error .protection
  else if hubRange pa && !e.p then .error .protection
  else if !need then .error .protection
  else if !s.populated pa then .error .outOfRange
  else if e.own then .error .migration
  else .ok ⟨pa, e.sh, e.cnt⟩

/-- Translate(va, access) by a core (R5, R96): TLBs first, then a walk that the requester waits for. The walk is made
in the same step (log 10). -/
def State.translate (s : State) (core : Nat) (asid : Asid) (priv : Bool) (va : Nat) (acc : Access) :
    State × Except Cause Xlat :=
  match s.tlbLookup core asid va with
  | (s, some e) => (s, s.checkEntry e priv va acc)
  | (s, none) =>
    match s.walk (stackOf core) asid va with
    | (s, .error c) => (s, .error c)
    | (s, .ok e) => (s.install core e, s.checkEntry e priv va acc)

/-- Translate by an adjoint unit, through the TLB of one stack alone (R222). -/
def State.translateStack (s : State) (stack : Nat) (asid : Asid) (priv : Bool) (va : Nat) (acc : Access) :
    State × Except Cause Xlat :=
  match s.stlb.find? (fun x => x.1 == stack && x.2.hits asid va) with
  | some x => (s, s.checkEntry x.2 priv va acc)
  | none =>
    match s.walk stack asid va with
    | (s, .error c) => (s, .error c)
    | (s, .ok e) => (s.fillStack stack e, s.checkEntry e priv va acc)

/-- Translate by the hub or a BTE, with no entry kept: an entry may be absent at any time (R98; log 11). -/
def State.translateHub (s : State) (asid : Asid) (priv : Bool) (va : Nat) (acc : Access) : Except Cause Xlat :=
  match (s.walk 0 asid va).2 with
  | .error c => .error c
  | .ok e => s.checkEntry e priv va acc

/-! ### Range invalidation -/

/-- Two byte ranges share a byte. -/
def overlaps (a n b m : Nat) : Bool := n != 0 && m != 0 && a < b + m && b < a + n

/-- An entry of the ASID whose span meets the range. -/
def TlbEntry.inRange (e : TlbEntry) (asid : Asid) (start len : Nat) : Bool :=
  e.asid == asid && overlaps e.vbase (2 ^ e.span) start len

/-- The spans of an ADT entry: primary, twin, shadow (R104). -/
def adtSpans (ws : List Nat) : List (Nat × Nat) :=
  let w (i : Nat) := ws.getD i 0
  let plen := w 1 % 2 ^ 48
  let t := if bitAt (w 3) 63 then 8 else 4
  [(w 0 % 2 ^ 54, plen), (w 2 % 2 ^ 54, plen / 2 ^ (w 2 / 2 ^ 61) * t), (w 3 % 2 ^ 54, plen / 16)]

/-- The spans of the entries an invalidation removes, at every level: one that overlaps the range in part is removed
whole (R100). -/
def State.removedSpans (s : State) (asid : Asid) (start len : Nat) : List (Nat × Nat) :=
  let es := s.ctlb.map (·.2) ++ s.stlb.map (·.2) ++ s.cores.flatMap fun c => c.2.utlb
  ((es.filter (·.inRange asid start len)).map fun e => (e.vbase, 2 ^ e.span)).eraseDups

/-- Remove every entry an invalidation names, at every level, and the cached table entries it covers; an overlapping
walk in flight walks again (R100). -/
def State.removeRange (s : State) (asid : Asid) (start len : Nat) : State :=
  let whole := start == 0 && 2 ^ 54 ≤ len
  { s with
    ctlb := s.ctlb.filter fun x => !x.2.inRange asid start len
    stlb := s.stlb.filter fun x => !x.2.inRange asid start len
    asCache := if whole then s.asCache.filter fun x => x.2.1 != asid.toNat else s.asCache
    adtCache := s.adtCache.filter fun x =>
      !(x.2.1 == asid.toNat && (adtSpans (x.2.2.2.map (·.toNat))).any fun p => overlaps p.1 p.2 start len)
    hub := { s.hub with walks := s.hub.walks.map fun w =>
      if w.asid == asid && overlaps (w.va / 8192 * 8192) 8192 start len then { w with started := false } else w }
    cores := s.cores.map fun c => (c.1, { c.2 with utlb := c.2.utlb.filter fun e => !e.inRange asid start len }) }

end Sys2Proof.Machine
end

