-- ==== Sys2Proof/Machine/Mem.lean ====
section
/-! DEFINITION. Memory at its homes, the L1 and its write-backs, LM, fault-queue records (R74 to R84, R123, R141 to
R145). -/

namespace Sys2Proof.Machine

/-! ### Fault-queue records -/

/-- Add a unit to a list of uncorrectable ones. -/
def addBad (u : Nat) (us : List Nat) : List Nat := if us.contains u then us else us ++ [u]

/-- Hand a record to the hub, which numbers it; FAULT_RECORD_WRITE puts it into the ring (R123; log 97). -/
def State.addFault (s : State) (r : FaultRec) : State × Nat :=
  let f := s.hub.nextFseq
  ({ s with hub := { s.hub with faultQ := s.hub.faultQ ++ [{ r with fseq := f.toNat }], nextFseq := f + 1 } }, f.toNat)

/-- A size is a power of two in a range of exponents. -/
def pow2In (n lo hi : Nat) : Bool := (List.range (hi + 1)).any fun k => lo ≤ k && n == 2 ^ k

/-- A ring is valid: a power-of-two size from 4 KiB to 2^hi, and an aligned base in bonded DRAM that is up (R123). -/
def State.ringOk (s : State) (base size hi : Nat) : Bool :=
  pow2In size 12 hi && base % size == 0 && s.dramRange base size

/-- Units of 32 bytes free in a ring. -/
def ringRoom (size widx ridx : Nat) : Nat := size / 32 - (widx + 2 ^ 64 - ridx) % 2 ^ 64

/-- The fault queue has room for one more record than the hub still holds: its requester does not stall for it (R123; log 97). -/
def State.faultRoom (s : State) : Bool :=
  let g := s.hub.regs
  s.ringOk g.fqBase.toNat g.fqSize.toNat 24 && s.hub.faultQ.length < ringRoom g.fqSize.toNat g.fqWidx.toNat g.fqRidx.toNat

/-- A record has been written into the fault queue's ring (R123). -/
def State.recorded (s : State) (f : Nat) : Bool := !(s.hub.faultQ.any (·.fseq == f))

/-- FLAGS of a record (R123): bit 0 replayable, bit 1 write, bit 2 atomic or adjoint. -/
def faultFlags (replayable : Bool) (acc : Access) (adj : Bool) : Nat :=
  (if replayable then 1 else 0) + (match acc with | .read | .fetch => 0 | .write | .atomic => 2) +
  (if adj || acc == .atomic then 4 else 0)

/-- A record of the hub itself or of a unit without lanes. -/
def hubFault (va : Nat) (c : Cause) (source flags unit : Nat) (asid : Asid) : FaultRec :=
  { va := va, cause := c, source := source, flags := flags, unit := unit, core := 0xFFFF, asid := asid, lanes := 0,
    fseq := 0 }

/-! ### Memory at home -/

/-- The 8-byte units a byte range touches (R82). -/
def unitsOf (a n : Nat) : List Nat := if n = 0 then [] else (List.range ((a + n - 1) / 8 - a / 8 + 1)).map (a / 8 + ·)

/-- A unit covered whole by a byte range. -/
def unitWhole (a n u : Nat) : Bool := a ≤ u * 8 && u * 8 + 8 ≤ a + n

/-- The CXL port that holds a firn address: the (page mod W)-th used port (R338). -/
def Regs.firnPort (r : Regs) (pa : Nat) : Nat :=
  let used := (List.range 8).filter (bitAt r.firnMap.toNat)
  used.getD ((pa - firnBase) / 8192 % max (r.firnMap.toNat / 2 ^ 8 % 16) 1) 0

/-- The expander address of a firn address (R338). -/
def Regs.firnDpa (r : Regs) (pa : Nat) : Nat :=
  (pa - firnBase) / 8192 / max (r.firnMap.toNat / 2 ^ 8 % 16) 1 * 8192 + (pa - firnBase) % 8192

/-- A firn address whose port is down: every access is a read that received no response (R339). -/
def State.firnDown (s : State) (pa : Nat) : Bool :=
  firnBase ≤ pa && pa - firnBase < s.hub.regs.firnSize.toNat &&
  !(amGet CxlPort.reset s.fab.cxl (s.hub.regs.firnPort pa)).up

/-- An 8-byte unit of global memory cannot be read (R83, R339). -/
def State.unitBad (s : State) (u : Nat) : Bool := s.memBad.contains u || s.firnDown (u * 8)

/-- Read bytes at home; an uncorrectable unit raises MEMORY_UNCORRECTABLE (R83). -/
def State.homeRead (s : State) (pa n : Nat) : Except Cause (List Byte) :=
  if (unitsOf pa n).any s.unitBad then .error .memoryUncorrectable else .ok (Memory.readN s.mem pa n)

/-- An access to a firn address whose port is down is an error of that port; it is counted at the end of the cycle
(R339). -/
def State.unheard (s : State) (pa : Nat) : State := if s.firnDown pa then { s with late := s.late ++ [.unheard pa] } else s

/-- The same of an access of a hub unit to an address of an address space, which ended with a cause. -/
def State.unheardAt (s : State) (asid : Asid) (va : Nat) (c : Cause) : State :=
  if c != .memoryUncorrectable then s
  else match s.translateHub asid true va .read with
    | .ok x => s.unheard x.pa
    | .error _ => s

/-- The 64 bytes of a line of global memory as one value. -/
def State.lineData (s : State) (line : Nat) : BitVec 512 := BitVec.ofNat 512 (Memory.readNat s.mem (line * 64) 64)

/-- Memory whose stack-cache lines have a backing content of their own: firn tier and host memory (R80). -/
def backed (pa : Nat) : Bool := 2 ^ 48 ≤ pa && pa < 0xC000000000000

/-- A write-back failed: the line is dropped, and what the expander held remains (R339). -/
def State.firnDrop (s : State) (pa : Nat) : State :=
  match s.stale.find? fun x => x.1 == pa / 64 with
  | none => s
  | some x =>
    { s with
      mem := Memory.writeN s.mem (x.1 * 64) (leBytes 64 x.2.toNat)
      stale := s.stale.filter fun y => y.1 != pa / 64 }

/-- One dirty line goes to its backing memory; behind a port that is down that is an error, which drops the line (R80, R339). -/
def State.writeBackOne (s : State) (line : Nat) : State :=
  if s.firnDown (line * 64) then (s.firnDrop (line * 64)).unheard (line * 64)
  else { s with stale := s.stale.filter fun y => y.1 != line, records := s.records.filter fun r => r.1 != line }

/-- A stack-cache slice writes a dirty line back (R80); one that holds a completion record follows the data of its packet, lines
of host memory (R336). -/
def State.writeBackLine (s : State) (line : Nat) : State :=
  let first := (s.records.filter fun r => r.1 == line).flatMap (·.2)
  { s with
    stale := s.stale.filter fun y => !first.contains y.1
    records := s.records.filter fun r => !first.contains r.1 }.writeBackOne line

/-- Lines a stack-cache slice holds (R75): 512 KiB. -/
def sliceLines : Nat := 8192

/-- The dirty lines of firn and host memory in the slice that is home to a line. -/
def State.sliceOf (s : State) (line : Nat) : List (Nat × BitVec 512) :=
  s.stale.filter fun x => homeOf (x.1 * 64) == homeOf (line * 64)

/-- A slice that holds more dirty lines than it has lines writes one back (R75, R80; which one is open, log 49). -/
def State.spillOne (s : State) : State :=
  match s.stale.find? fun x => sliceLines < (s.sliceOf x.1).length with
  | none => s
  | some x =>
    let mine := s.sliceOf x.1
    { s.writeBackLine ((mine.getD (Config.tlbVictim s.nfree % mine.length) x).1) with nfree := s.nfree + 1 }

/-- At a tick of CLOCK no slice holds more dirty lines than it has lines (R75; log 49). -/
def State.spill (s : State) : State := s.stale.foldl (fun s _ => s.spillOne) s

/-- Before a line of firn or host memory changes in its stack cache, note what the backing memory holds (R80). -/
def State.noteStale (s : State) (pa : Nat) : State :=
  if backed pa && !s.stale.any (·.1 == pa / 64) then
    { s with stale := s.stale ++ [(pa / 64, s.lineData (pa / 64))] }
  else s

/-- A completion record was written at an address, after its packet's data in these lines of host memory (R336). -/
def State.noteRecord (s : State) (pa : Nat) (lines : List Nat) : State :=
  if backed pa && !lines.isEmpty then { s with records := s.records ++ [(pa / 64, lines.filter (· != pa / 64))] } else s

/-- Slot claims on a registered BTE queue, in the order of their atomics at home: WIDX at an address goes from one value to another
(R120, R311; log 104). -/
def State.noteClaim (s : State) (pa old new : Nat) : State :=
  match s.hub.bte.find? fun (b : Nat × BteQ) => b.2.desc != 0 &&
      (match s.translateHub b.2.asid false ((b.2.desc.toNat + 8) % 2 ^ 54) .read with
        | .ok x => x.pa == pa
        | .error _ => false) with
  | some b =>
    s.modHub fun h => { h with bteOrder := (h.bteOrder.filter fun c => c.1 != b.1 || c.2 < new) ++
      (List.range (min (new - old) 65536)).map fun i => (b.1, old + i) }
  | none => s

/-- A BTE queue's BELL lies in a byte range: word 6 of its descriptor (R119). -/
def State.bellIn (s : State) (b : BteQ) (pa n : Nat) : Bool :=
  let va := (b.desc.toNat + 48) % 2 ^ 54
  b.desc != 0 && overlaps (pa % 8192) n (va % 8192) 8 &&
  (match s.translateHub b.asid false va .read with
    | .ok x => overlaps pa n x.pa 8
    | .error _ => false)

/-- A queue's BTE has to look for a packet (R120). -/
def State.bell (s : State) (q : Nat) : State := if s.bells.contains q then s else { s with bells := s.bells ++ [q] }

/-- Any write of a BELL makes the BTE of its queue look (R119, R120). -/
def State.noteBell (s : State) (pa n : Nat) : State :=
  (s.hub.bte.filter fun b => s.bellIn b.2 pa n).foldl (fun s b => s.bell b.1) s

/-- A QWAIT that sleeps on a word of a written range compares with it: what the split waits for then, if the wait is over (R192). -/
def State.hitOf (s : State) (pa n : Nat) (sp : Split) : Option Wait :=
  match sp.wait with
  | .qwait p va want _ =>
    if hubRange p || p / 64 < pa / 64 || (pa + n - 1) / 64 < p / 64 then none
    else match s.homeRead p 4 with
      | .error _ => some (.qhit p va true)
      | .ok bs => if BitVec.ofNat 32 (leNat bs) = want then none else some (.qhit p va false)
  | _ => none

/-- The QWAITs that a write of a range ends, with what their splits wait for then. -/
def State.hits (s : State) (pa n : Nat) : List (Who × Wait) :=
  s.cores.flatMap fun c => c.2.warps.flatMap fun w => w.2.splits.filterMap fun e =>
    (s.hitOf pa n e.2).map fun v => (⟨c.1, w.1, e.1⟩, v)

/-- A write of memory has been performed: the QWAITs that watch its lines compare (R192). -/
def State.noteWatch (s : State) (pa n : Nat) : State :=
  (s.hits pa n).foldl (fun s x => s.modSplit x.1 fun sp => { sp with wait := x.2 }) s

/-- Write bytes at home. A whole unit replaces uncorrectable data; a part of an uncorrectable unit is refused and
nothing is written (R83). -/
def State.homeWrite (s : State) (pa : Nat) (bs : List Byte) : Except Cause State :=
  let us := unitsOf pa bs.length
  if us.any fun u => s.firnDown (u * 8) || (s.memBad.contains u && !unitWhole pa bs.length u) then .error .memoryUncorrectable
  else
    let s := (us.map (· * 8)).foldl State.noteStale s
    let s : State := { s with mem := Memory.writeN s.mem pa bs, memBad := s.memBad.filter fun u => !us.contains u }
    .ok ((s.noteBell pa bs.length).noteWatch pa bs.length)

/-- Write bytes at home with byte enables: bit k enables byte k. -/
def State.homeWriteEn (s : State) (pa n data en : Nat) : Except Cause State :=
  let on := (List.range n).filter (bitAt en)
  let us := unitsOf pa n
  let whole (u : Nat) := (List.range 8).all fun k => on.contains (u * 8 + k - pa) && pa ≤ u * 8 + k
  if us.any fun u => (s.firnDown (u * 8) || (s.memBad.contains u && !whole u)) && on.any fun k => (pa + k) / 8 == u then
    .error .memoryUncorrectable
  else
    let us := us.filter fun u => on.any fun k => (pa + k) / 8 == u
    let s := (us.map (· * 8)).foldl State.noteStale s
    let s : State := { s with
      mem := on.foldl (fun m k => Memory.write m (pa + k) (BitVec.ofNat 8 (data / 256 ^ k))) s.mem
      memBad := s.memBad.filter fun u => !us.contains u }
    .ok ((on.foldl (fun s k => s.noteBell (pa + k) 1) s).noteWatch pa (if on.isEmpty then 0 else n))

/-! ### The L1 -/

/-- The L1's copy of a line (R79). -/
def Core.line (k : Core) (line : Nat) : Option L1Line := k.l1.find? (·.line == line)

/-- Replace or add a line. -/
def Core.setLine (k : Core) (x : L1Line) : Core :=
  { k with l1 := k.l1.filter (·.line != x.line) ++ [x] }

/-- Drop a line. -/
def Core.dropLine (k : Core) (line : Nat) : Core := { k with l1 := k.l1.filter (·.line != line) }

/-- Bits `8u` to `8u + 7` of a dirty mask: the dirty bytes of unit u of a line. -/
def unitDirty (d : BitVec 64) (u : Nat) : Nat := d.toNat / 2 ^ (8 * u) % 256

/-- The units of a dirty line that cannot be written home (R83): the L1 copy is bad where it is dirty, or the home's
unit is bad and covered only in part. -/
def State.lostUnits (s : State) (x : L1Line) : List Nat :=
  (List.range 8).filter fun u =>
    unitDirty x.dirty u != 0 &&
    (x.bad.getLsbD u || s.firnDown (x.line * 64) ||
      (s.memBad.contains (x.line * 8 + u) && unitDirty x.dirty u != 255))

/-- Write the dirty bytes of a line home, except its lost units; answers whether a unit was lost (R79, R83). -/
def State.writeBack (s : State) (x : L1Line) : State × Bool :=
  let lost := s.lostUnits x
  let on := (List.range 64).filter fun k => x.dirty.getLsbD k && !lost.contains (k / 8)
  let us := ((List.range 8).filter fun u => on.any fun k => k / 8 == u).map (x.line * 8 + ·)
  let s := (if on.isEmpty then s else s.noteStale (x.line * 64)).unheard (x.line * 64)
  let s : State := { s with
      mem := on.foldl (fun m k => Memory.write m (x.line * 64 + k) (BitVec.ofNat 8 (x.data.toNat / 256 ^ k))) s.mem
      memBad := s.memBad.filter fun u => !us.contains u }
  (if on.isEmpty then s else s.noteWatch (x.line * 64) 64, !lost.isEmpty)

/-- The record that reports a lost line (R83). -/
def lostRecord (core : Nat) (x : L1Line) : FaultRec :=
  { va := x.va, cause := .memoryUncorrectable, source := 6, flags := 2, unit := 0, core := core, asid := x.asid,
    lanes := 0, fseq := 0 }

/-- Write a line home and report it through the fault queue where it is lost (R83). -/
def State.writeBackReport (s : State) (core : Nat) (x : L1Line) : State :=
  match s.writeBack x with
  | (s, true) => (s.addFault (lostRecord core x)).1
  | (s, false) => s

/-- Write a core's dirty bytes of a line home and drop its copy (R79 eviction, R144). -/
def State.evict (s : State) (core line : Nat) : State :=
  match (s.core core).line line with
  | none => s
  | some x => (if x.dirty = 0 then s else s.writeBackReport core x).modCore core (·.dropLine line)

/-- Bring a line into a core's L1 as a clean copy of its home; a full L1 (4,096 lines) first loses one (R79). -/
def State.fetchLine (s : State) (core line : Nat) : State × L1Line :=
  match (s.core core).line line with
  | some x => (s, x)
  | none =>
    let k := s.core core
    let s := if k.l1.length < 4096 then s
      else match k.l1[Config.tlbVictim s.nfree % 4096]? with
        | some y => { s.evict core y.line with nfree := s.nfree + 1 }
        | none => s
    let bad := (List.range 8).foldl
      (fun m u => if s.unitBad (line * 8 + u) then m ||| BitVec.ofNat 8 (2 ^ u) else m) 0
    let x : L1Line := { line := line, data := s.lineData line, dirty := 0, bad := bad, asid := 0, va := 0, team := 0 }
    ((s.unheard (line * 64)).modCore core (·.setLine x), x)

/-- Read bytes of one line through the L1 (R79, R143). -/
def State.l1Read (s : State) (core pa n : Nat) : State × Except Cause (List Byte) :=
  let (s, x) := s.fetchLine core (pa / 64)
  let o := pa % 64
  if (unitsOf o n).any fun u => x.bad.getLsbD u then (s, .error .memoryUncorrectable)
  else (s, .ok ((List.range n).map fun k => BitVec.ofNat 8 (x.data.toNat / 256 ^ (o + k))))

/-- The line with one byte replaced and marked dirty. -/
def L1Line.setByte (x : L1Line) (o : Nat) (b : Nat) : L1Line :=
  let old := x.data.toNat / 256 ^ o % 256
  { x with
    data := BitVec.ofNat 512 (x.data.toNat - old * 256 ^ o + b % 256 * 256 ^ o)
    dirty := x.dirty ||| BitVec.ofNat 64 (2 ^ o) }

/-- Write enabled bytes of one line into the L1 and mark them dirty; the first store after the line was clean is
recorded (R79). -/
def State.l1Write (s : State) (core pa n data en : Nat) (asid : Asid) (va team : Nat) : State × Except Cause Unit :=
  let (s, x) := s.fetchLine core (pa / 64)
  let o := pa % 64
  let on := (List.range n).filter (bitAt en)
  let whole (u : Nat) := (List.range 8).all fun k => on.contains (u * 8 + k - o) && o ≤ u * 8 + k
  let us := (unitsOf o n).filter fun u => on.any fun k => (o + k) / 8 == u
  if us.any fun u => x.bad.getLsbD u && !whole u then (s, .error .memoryUncorrectable)
  else if on.isEmpty then (s, .ok ())
  else
    let x := if x.dirty = 0 then { x with asid := asid, va := va / 64 * 64, team := team } else x
    let x := on.foldl (fun x k => x.setByte (o + k) (data / 256 ^ k)) x
    let x := { x with bad := us.foldl (fun b u => b &&& ~~~ BitVec.ofNat 8 (2 ^ u)) x.bad }
    (s.modCore core (·.setLine x), .ok ())

/-- PHASE.rel over a list of lines of a core, all written back and kept clean, uncorrectable units as they are; the lost
lines whose recorded store came from the given team are answered, the others reported (R83, R145, R220). -/
def State.releaseLines (s : State) (core : Nat) (team : Option Nat) : List Nat → State × List Nat
  | [] => (s, [])
  | line :: rest =>
    match (s.core core).line line with
    | none => s.releaseLines core team rest
    | some x =>
      if x.dirty = 0 then s.releaseLines core team rest
      else
        let (s, lost) := s.writeBack x
        let s := s.modCore core (·.setLine { x with dirty := 0 })
        if lost && team == some x.team then
          let (s, vs) := s.releaseLines core team rest
          (s, x.va :: vs)
        else
          let s := if lost then (s.addFault (lostRecord core x)).1 else s
          s.releaseLines core team rest

/-- The dirty lines of a core. -/
def Core.dirtyLines (k : Core) : List Nat := (k.l1.filter fun x => x.dirty != 0).map (·.line)

/-- A whole PHASE.rel of a core (R145). A lost line of the given team is answered by its VA; of several, the lowest
is answered and the others are reported (R83). -/
def State.phaseRel (s : State) (core : Nat) (team : Option Nat) : State × Option Nat :=
  let (s, vs) := s.releaseLines core team (s.core core).dirtyLines
  match vs with
  | [] => (s, none)
  | v :: vs =>
    let low := vs.foldl min v
    let s := ((v :: vs).erase low).foldl (fun s va =>
      (s.addFault { lostRecord core { line := 0, data := 0, dirty := 0, bad := 0, asid := 0, va := va, team := 0 } with
        asid := (match team with | some t => (match s.team core t with | some x => x.asid | none => 0) | none => 0) }).1) s
    (s, some low)

/-- PHASE.acq of a core: every clean line is dropped (R145). -/
def State.phaseAcq (s : State) (core : Nat) : State :=
  s.modCore core fun k => { k with l1 := k.l1.filter fun x => x.dirty != 0 }

/-! ### LM, AM and névé -/

/-- Read bytes of a core's LM by core-absolute address (R76, R83). -/
def Core.lmRead (k : Core) (a n : Nat) : Except Cause (List Byte) :=
  if (unitsOf a n).any k.lmBad.contains then .error .memoryUncorrectable else .ok (byteRead k.lm a n)

/-- Write bytes of a core's LM; a part of an uncorrectable unit is refused (R83). -/
def Core.lmWrite (k : Core) (a : Nat) (bs : List Byte) : Except Cause Core :=
  let us := unitsOf a bs.length
  if us.any fun u => k.lmBad.contains u && !unitWhole a bs.length u then .error .memoryUncorrectable
  else .ok { k with lm := byteWrite k.lm a bs, lmBad := k.lmBad.filter fun u => !us.contains u }

/-- Write bytes of LM by an engine that always writes whole words of its own. -/
def Core.lmPut (k : Core) (a : Nat) (bs : List Byte) : Core :=
  { k with lm := byteWrite k.lm a bs, lmBad := k.lmBad.filter fun u => !(unitWhole a bs.length u) }

/-- An 8-byte word of LM. -/
def Core.lmWord (k : Core) (a : Nat) : Nat := leNat (byteRead k.lm a 8)

/-- Set an 8-byte word of LM. -/
def Core.setLmWord (k : Core) (a x : Nat) : Core := k.lmPut a (leBytes 8 x)

/-- Read bytes of the névé slice (R75, R83). -/
def Core.neveRead (k : Core) (a n : Nat) : Except Cause (List Byte) :=
  if (unitsOf a n).any k.neveBad.contains then .error .memoryUncorrectable else .ok (byteRead k.neve a n)

/-- Write whole 16-byte units of the névé slice (R241). -/
def Core.neveWrite (k : Core) (a : Nat) (bs : List Byte) : Core :=
  { k with neve := byteWrite k.neve a bs, neveBad := k.neveBad.filter fun u => !(unitWhole a bs.length u) }

/-- Read an AM word (R75, R83); an uncorrectable unit is 8 bytes, two words. -/
def Core.amRead (k : Core) (i : Nat) : Except Cause Word :=
  if k.amBad.contains (i / 2) then .error .memoryUncorrectable else .ok (amGet 0 k.am i)

/-- Write an AM word. -/
def Core.amWrite (k : Core) (i : Nat) (x : Word) : Core := { k with am := smPut 0 k.am i x }

/-! ### Fetch -/

/-- The class of page decides the path of an ordinary access (R79, R84, R85, R141). -/
def pathOf (x : Xlat) : Path := if x.sh || x.cnt then .home else .l1

/-- Fetch the scalar word at an address (R95, R155): the page needs X; text is read at home. -/
def State.fetchScalar (s : State) (core : Nat) (t : Team) (pc : VAddr) : State × Except Cause Word :=
  if inAperture pc.toNat then (s, .error .protection)
  else match s.translate core t.asid t.priv pc.toNat .fetch with
    | (s, .error c) => (s, .error c)
    | (s, .ok x) => match s.homeRead x.pa 4 with
      | .error c => (s.unheard x.pa, .error c)
      | .ok bs => (s, .ok (BitVec.ofNat 32 (leNat bs)))

/-- Fetch one 4-byte word of lane text; a fault is answered with its address. -/
def State.fetchWord (s : State) (core : Nat) (t : Team) (a : Nat) : State × Except (Cause × Nat) Nat :=
  if inAperture a then (s, .error (.protection, a))
  else match s.translate core t.asid t.priv a .fetch with
    | (s, .error c) => (s, .error (c, a))
    | (s, .ok x) => match s.homeRead x.pa 4 with
      | .error c => (s.unheard x.pa, .error (c, a))
      | .ok bs => (s, .ok (leNat bs))

/-- Fetch one 12-byte lane word at an address (R155); its three words may lie on two pages. -/
def State.fetchLane (s : State) (core : Nat) (t : Team) (va : Nat) : State × Except (Cause × Nat) (BitVec 96) :=
  match s.fetchWord core t (va % 2 ^ 54) with
  | (s, .error c) => (s, .error c)
  | (s, .ok a) => match s.fetchWord core t ((va + 4) % 2 ^ 54) with
    | (s, .error c) => (s, .error c)
    | (s, .ok b) => match s.fetchWord core t ((va + 8) % 2 ^ 54) with
      | (s, .error c) => (s, .error c)
      | (s, .ok c) => (s, .ok (BitVec.ofNat 96 (a + b * 2 ^ 32 + c * 2 ^ 64)))

/-- Fetch consecutive lane words from a unit of a team's lane text on (R155, R164). -/
def State.fetchUnits (s : State) (core : Nat) (t : Team) (unit : Nat) :
    Nat → State × Except (Cause × Nat) (List (BitVec 96))
  | 0 => (s, .ok [])
  | n + 1 => match s.fetchLane core t (t.laneBase.toNat + 12 * unit) with
    | (s, .error c) => (s, .error c)
    | (s, .ok w) => match s.fetchUnits core t (unit + 1) n with
      | (s, .error c) => (s, .error c)
      | (s, .ok ws) => (s, .ok (w :: ws))

end Sys2Proof.Machine
end

