-- ==== Sys2Proof/Machine/Regs.lean ====
section
/-! DEFINITION. What a read of a hub or management register returns (R331, R332). -/

namespace Sys2Proof.Machine

/-- First byte of the hub and management registers (R72). -/
def hubBase : Nat := 0xF000000000000

/-- Exit latency of a rest state, in µs (R365). -/
def exitLatency : Nat → Nat
  | 0 => 0
  | 1 => 2
  | 2 => 50
  | 3 => 1000
  | _ => 20000

/-- REST_STATE.ALLOW: the deepest state whose exit latency is at most TOL (R365). -/
def Boot.allow (b : Boot) : Nat :=
  let tol := b.latTol.toNat
  if 20000 ≤ tol then 4 else if 1000 ≤ tol then 3 else if 50 ≤ tol then 2 else if 2 ≤ tol then 1 else 0

/-- The deepest state the device may enter: without the feature of S3 and S4 it is S2 at most (R346, R365; log 96). -/
def State.restAllow (s : State) : Nat := if s.hasFeature 33 then s.boot.allow else min 2 s.boot.allow

/-- The two words of a continuation queue descriptor (R113). -/
def CQueue.word (q : CQueue) : Nat → Nat
  | 0 => (if q.v then 2 ^ 63 else 0) + q.log2.toNat * 2 ^ 57 + q.asid.toNat * 2 ^ 45 + q.base.toNat
  | _ => q.tail.toNat * 2 ^ 32 + q.head.toNat

/-- A continuation queue by number. -/
def Hub.queue (h : Hub) (q : Nat) : CQueue := amGet CQueue.reset h.queues q

/-- A BTE queue by number. -/
def Hub.bteq (h : Hub) (q : Nat) : BteQ := amGet BteQ.reset h.bte q

/-- A fabric barrier table entry's words (R332). -/
def FabBar.word (b : FabBar) : Nat → Nat
  | 0 => b.asid.toNat * 2 ^ 32 + b.off
  | 1 => b.pcount.toNat * 2 ^ 32 + b.n
  | 2 => b.list.toNat
  | _ => b.srec.toNat

/-- A fabric barrier table entry by index. -/
def Fabric.bar (f : Fabric) (i : Nat) : FabBar := amGet FabBar.reset f.bars i

/-- One row of consecutive registers: the value at a word index, 0 past the end. -/
def rowVal (xs : List Nat) (i : Nat) : Nat := xs.getD i 0

/-- A register by its BAR0 offset, as an aligned 8-byte read returns it (R331, R332). -/
def State.regRead (s : State) (off : Nat) : Nat :=
  let r := s.hub.regs
  let i := off % 0x1000 / 8
  if off < 0x10000 then
    match off / 0x1000 with
    | 0x0 => rowVal [s.fab.device % 1024 + s.fab.inc.toNat * 2 ^ 16, s.boot.stage.toNat, r.astabBase.toNat,
                     r.firnSize.toNat, r.firnMap.toNat] i
    | 0x1 => rowVal [r.fqBase.toNat, r.fqSize.toNat, r.fqWidx.toNat, r.fqRidx.toNat, 0, 0] i
    | 0x2 => rowVal [r.olBase.toNat, r.olSize.toNat, r.olWidx.toNat, r.olRidx.toNat, r.olLost.toNat] i
    | 0x3 => rowVal [r.preemptCtl.toNat, r.preemptTgt.toNat, r.preDeadline.toNat, r.saveBase.toNat, r.saveSlots.toNat,
                     r.thermLimit.toNat] i
    | 0x4 => rowVal [r.sampleBase.toNat, r.sampleSize.toNat, r.sampleWidx.toNat, r.sampleRidx.toNat,
                     r.sampleDrop.toNat] i
    | 0x5 => rowVal [r.dbgCtl.toNat, 0, 0, 0, r.dumpBase.toNat, r.dumpSize.toNat,
                     (if r.dumpDone then 1 else 0) + (if r.dumpBusy then 2 else 0), 0] i
    | 0x6 => rowVal [r.captureCtl.toNat, r.captureBase.toNat, r.captureSize.toNat, r.captureWidx.toNat,
                     r.captureRidx.toNat] i
    | 0x7 => rowVal ([r.fabAdapt.toNat, r.fabTmo.toNat, r.offloadDl.toNat] ++ r.dbl.map (·.toNat)) i
    | 0x8 => rowVal [r.tlbiAsid.toNat, r.tlbiStart.toNat, r.tlbiLen.toNat, (if r.tlbiGo.isSome then 1 else 0),
                     r.pgrelPa.toNat, r.pgrelLen.toNat,
                     (if r.pgrelBusy then 1 else 0) + (if r.pgrelLost then 2 else 0), r.ownmapBase.toNat,
                     r.shwinBase.toNat, r.notifyBase.toNat, r.hrefAddr.toNat, r.hrefCount.toNat] i
    | 0x9 => rowVal (r.firnErr.map (·.toNat)) i
    | 0xA => rowVal [s.boot.latTol.toNat, s.boot.rest + s.restAllow * 16,
                     s.boot.running.svn.toNat * 2 ^ 16 + s.boot.stacksBad.toNat * 2 ^ 8 + s.boot.fail] i
    | 0xB => rowVal [s.boot.rcvAddr.toNat, s.boot.rcvLen.toNat, (if s.boot.rcvGo then 1 else 0),
                     s.boot.rcvSvn.toNat * 2 ^ 16 + s.boot.rcvResult] i
    | _ => 0
  else if off < 0x10400 then (s.hub.queue (off / 16 % 64)).word (off / 8 % 2)
  else if 0x20000 ≤ off && off < 0x21000 then
    let q := s.hub.bteq (off / 16 % 256)
    if off / 8 % 2 = 0 then q.desc.toNat else q.asid.toNat
  else if 0x40000 ≤ off && off < 0x42000 then (amGet 0 s.fab.exports (off / 8 % 1024)).toNat
  else if 0x60000 ≤ off && off < 0x60800 then (s.fab.bar (off / 32 % 64)).word (off / 8 % 4)
  else if 0x3F0000 ≤ off && off < 0x3F0080 then ((s.hub.msixTable.getD (off % 0x80 / 8) 0)).toNat
  else if off = 0x3F8000 then s.hub.msixPending.toNat
  else 0

/-- A device read of the register range: 8 bytes aligned read a register, any other size 0 (R331). -/
def State.regBytes (s : State) (pa n : Nat) : List Byte :=
  if n = 8 && pa % 8 == 0 && pa - hubBase < 0x400000 then leBytes 8 (s.regRead (pa - hubBase)) else List.replicate n 0

/-- A device write of the register range: an aligned 8-byte write is one register write, made next (R331). -/
def State.regStore (s : State) (pa n data en : Nat) : State :=
  if n = 8 && pa % 8 == 0 && pa - hubBase < 0x400000 && en % 256 == 255 then
    { s with agenda := .register (pa - hubBase) (BitVec.ofNat 64 data) :: s.agenda }
  else s

end Sys2Proof.Machine
end

