-- ==== Sys2Proof/Machine/Adt.lean ====
section
/-! DEFINITION. The adjoint descriptor table: classing an address, the count word, and what an ordinary store to a
counted page meets (R85, R89, R90, R104, R105, R222). -/

namespace Sys2Proof.Machine

/-- A valid ADT entry (R104). -/
structure AdtEnt where
  pbase : Nat
  plen : Nat
  esz : Nat
  tbase : Nat
  tf : Bool
  scale : Nat
  cbase : Nat
  eblk : Bool
  tmo : Nat
  deriving DecidableEq, Repr

/-- Bytes of a twin element (R85). -/
def AdtEnt.tsize (e : AdtEnt) : Nat := if e.tf then 8 else 4

/-- The valid entry eight words hold: reserved bits zero, ESZ, SCALE and alignments as R104 asks. That a PLEN of 0 or no
multiple of 64 makes an entry invalid as well is the model's choice (log 82). -/
def parseAdt (ws : List Nat) : Option AdtEnt :=
  let w (i : Nat) := ws.getD i 0
  let e : AdtEnt :=
    { pbase := w 0 % 2 ^ 54, plen := w 1 % 2 ^ 48, esz := w 2 / 2 ^ 61, tbase := w 2 % 2 ^ 54, tf := bitAt (w 3) 63,
      scale := w 3 / 2 ^ 56 % 64, cbase := w 3 % 2 ^ 54, eblk := bitAt (w 4) 63, tmo := w 4 % 2 ^ 32 }
  if bitAt (w 0) 63 && w 0 / 2 ^ 54 % 2 ^ 9 == 0 && w 1 / 2 ^ 48 == 0 && w 2 / 2 ^ 54 % 2 ^ 7 == 0 &&
     w 3 / 2 ^ 54 % 4 == 0 && !bitAt (w 3) 62 && w 4 / 2 ^ 32 % 2 ^ 31 == 0 && w 5 == 0 && w 6 == 0 && w 7 == 0 &&
     e.esz ≤ 4 && e.scale ≤ 62 && e.pbase % 64 == 0 && e.plen != 0 && e.plen % 64 == 0 && e.tbase % e.tsize == 0 &&
     e.cbase % 4 == 0 then some e else none

/-- How the ADT classes an address of a counted page (R85, R104). -/
inductive AdtClass where
  | none
  | primary (e : AdtEnt)
  | twin (e : AdtEnt)
  | shadow (e : AdtEnt)
  deriving DecidableEq, Repr

/-- An address lies in a span. -/
def inSpan (a base n : Nat) : Bool := base ≤ a && a < base + n

/-- The class one entry gives an address. -/
def AdtEnt.classOf (e : AdtEnt) (va : Nat) : AdtClass :=
  if inSpan va e.pbase e.plen then .primary e
  else if inSpan va e.tbase (e.plen / 2 ^ e.esz * e.tsize) then .twin e
  else if inSpan va e.cbase (e.plen / 16) then .shadow e
  else .none

/-- The valid entry eight words hold; without the fx64 feature one with an fx64 twin is invalid (R104, R346). -/
def State.adtOf (s : State) (ws : List Nat) : Option AdtEnt :=
  (parseAdt ws).filter fun e => !e.tf || s.hasFeature 11

/-- The class an entry's words give an address: an invalid entry classes nothing (R104). -/
def State.classWords (s : State) (ws : List Nat) (va : Nat) : AdtClass :=
  match s.adtOf ws with
  | some e => e.classOf va
  | none => .none

/-- The eight words of ADT entry i as a stack sees them. Its cache keeps valid entries alone, so that stores and a
PHASE.rel are enough to make an entry valid (R105). -/
def State.adtWords (s : State) (stack : Nat) (asid : Asid) (base i : Nat) : State × Except Cause (List Nat) :=
  match s.adtCache.find? (fun x => x.1 == stack && x.2.1 == asid.toNat && x.2.2.1 == i) with
  | some x => (s, .ok (x.2.2.2.map (·.toNat)))
  | none =>
    let pa := base + 64 * i
    if !s.populated pa then (s, .error .outOfRange)
    else if (unitsOf pa 64).any s.unitBad then (s.unheard pa, .error .memoryUncorrectable)
    else
      let ws := (List.range 8).map fun k => Memory.readNat s.mem (pa + 8 * k) 8
      (if (s.adtOf ws).isNone then s
       else { s with adtCache := s.adtCache ++ [(stack, asid.toNat, i, ws.map (BitVec.ofNat 64))] }, .ok ws)

/-- The lowest-numbered valid entry from index i on that covers an address (R104); `n` entries are left. -/
def State.adtScan (s : State) (stack : Nat) (asid : Asid) (base va : Nat) : Nat → Nat → State × Except Cause AdtClass
  | 0, _ => (s, .ok .none)
  | n + 1, i =>
    match s.adtWords stack asid base i with
    | (s, .error c) => (s, .error c)
    | (s, .ok ws) =>
      match s.classWords ws va with
      | .none => s.adtScan stack asid base va n (i + 1)
      | c => (s, .ok c)

/-- The class of an address, by the page's CNT bit and the ADT (R85, R104). -/
def State.classify (s : State) (stack : Nat) (asid : Asid) (va : Nat) (cnt : Bool) : State × Except Cause AdtClass :=
  if cnt then
    match s.asEntry stack asid with
    | (s, .error c) => (s, .error c)
    | (s, .ok ws) => s.adtScan stack asid (asAdt ws).1 va (min (asAdt ws).2 4096) 0
  else (s, .ok .none)

/-- The VA of the count word of an address's granule (R85). -/
def AdtEnt.countVa (e : AdtEnt) (va : Nat) : Nat := (e.cbase + 4 * ((va - e.pbase) / 64)) % 2 ^ 54

/-- The VA of the twin element of a primary address (R85, R222). -/
def AdtEnt.twinVa (e : AdtEnt) (va : Nat) : Nat := (e.tbase + (va - e.pbase) / 2 ^ e.esz * e.tsize) % 2 ^ 54

/-- COUNT of a count word (R85). -/
def countOf (w : Nat) : Nat := w % 2 ^ 24

/-- The count word of a granule and where it lies, as the adjoint unit of a stack reads it (R222). -/
def State.countAt (s : State) (stack : Nat) (asid : Asid) (priv : Bool) (e : AdtEnt) (va : Nat) (acc : Access) :
    State × Except Cause (Nat × Nat) :=
  match s.translateStack stack asid priv (e.countVa va) acc with
  | (s, .error c) => (s, .error c)
  | (s, .ok x) =>
    match s.homeRead x.pa 4 with
    | .error c => (s.unheard x.pa, .error c)
    | .ok bs => (s, .ok (leNat bs, x.pa))

/-- Addresses that stand for the 4-byte words a store touches: its own, and one in every further word in which it enables a
byte (log 89). Every span of the ADT begins and ends at a multiple of 4, so a word has one class (R104). -/
def storeWords (va n en : Nat) : List Nat :=
  va :: (((List.range n).filter (bitAt en)).map fun k => (va + k) / 4 * 4).eraseDups

/-- Class the words a store to a counted page touches (R85, R90): a twin or shadow word refuses it; `p` is the entry and the
address of a primary word met so far. -/
def State.classStore (s : State) (stack : Nat) (asid : Asid) (p : Option (AdtEnt × Nat)) :
    List Nat → State × Except Cause (Option (AdtEnt × Nat))
  | [] => (s, .ok p)
  | a :: as =>
    match s.classify stack asid a true with
    | (s, .error c) => (s, .error c)
    | (s, .ok .none) => s.classStore stack asid p as
    | (s, .ok (.twin _)) | (s, .ok (.shadow _)) => (s, .error .protection)
    | (s, .ok (.primary e)) => s.classStore stack asid (some (p.getD (e, a))) as

/-- What an ordinary store of `n` bytes with enables `en` meets at home before it writes (R89, R90): a pinned granule, a
twin or shadow word; a fault is answered with its address. COUNT is tested where `test` says so and a byte is enabled (R154). -/
def State.gateStore (s : State) (asid : Asid) (priv : Bool) (va : Nat) (x : Xlat) (n en : Nat) (test : Bool) :
    State × Except (Cause × Nat) Unit :=
  let stack := (homeOf x.pa).1
  if !x.cnt then (s, .ok ())
  else match s.classStore stack asid none (storeWords va n en) with
    | (s, .error c) => (s, .error (c, va))
    | (s, .ok none) => (s, .ok ())
    | (s, .ok (some (e, a))) =>
      if test && en % 2 ^ n != 0 then
        match s.countAt stack asid priv e a .read with
        | (s, .error c) => (s, .error (c, e.countVa a))
        | (s, .ok (w, _)) => if countOf w = 0 then (s, .ok ()) else (s, .error (.primaryPinned, va))
      else (s, .ok ())

/-! ### Deterministic order (R311) -/

/-- An ASID runs in deterministic order (R311, R346). -/
def State.det (s : State) (asid : Asid) : Bool :=
  s.hasFeature 30 && bitAt s.hub.regs.dbgCtl.toNat 14 && s.hub.regs.dbgCtl.toNat % 2 ^ 12 == asid.toNat

/-- The class of an address for a counting load, ADJA or ADJR: under DET an entry with an f32 twin counts nothing
(R311). -/
def State.classAdj (s : State) (stack : Nat) (asid : Asid) (va : Nat) (cnt : Bool) : State × Except Cause AdtClass :=
  match s.classify stack asid va cnt with
  | (s, .ok (.primary e)) => (s, .ok (if s.det asid && !e.tf then .none else .primary e))
  | r => r

end Sys2Proof.Machine
end

