-- ==== Sys2Proof/Machine/Access.lean ====
section
/-! DEFINITION. One translated access of a core, performed along its path (R79, R85, R89, R141, R144), and the write
bytes it counts (R138). -/

namespace Sys2Proof.Machine

/-- A byte lies in a region (R19). -/
def inRegion (r : Region) (a : Nat) : Bool :=
  r.base ≤ a &&
  (if r.rows ≤ 1 || r.pitch = 0 then a - r.base < r.width
   else (a - r.base) / r.pitch < r.rows && (a - r.base) % r.pitch < r.width)

/-- The write-mode regions of a task (R19, R138). -/
def State.writeRegions (s : State) (task : Word) : List Region :=
  match s.hub.tasks.find? (·.id == task) with
  | some t => t.regions.filter (·.write)
  | none => []

/-- WBYTES of a team rises by the enabled bytes that lie in its task's write regions (R138). -/
def State.countWrite (s : State) (core team va n en : Nat) : State :=
  match s.team core team with
  | none => s
  | some t =>
    match s.writeRegions t.taskId with
    | [] => s
    | rs =>
      let k := ((List.range n).filter fun i => bitAt en i && rs.any (inRegion · (va + i))).length
      s.modTeam core team fun t => { t with wbytes := t.wbytes + BitVec.ofNat 64 k }

/-- IRREV of a team is set (R290). -/
def State.irrevocable (s : State) (core team : Nat) : State := s.modTeam core team fun t => { t with irrev := true }

/-- The path an access to a translated page takes (R141): the register range is read and written in place. -/
def pathAt (x : Xlat) : Path := if hubRange x.pa then .home else pathOf x

/-- Every byte of an access enabled. -/
def allBytes (n : Nat) : Nat := 2 ^ n - 1

/-- Before a core accesses a line at home, its dirty bytes go home and its copy is dropped, unless that was done for this
access already (R144). -/
def State.dropLine (s : State) (core pa : Nat) (done : Bool) : State := if done then s else s.evict core (pa / 64)

/-- An ordinary load of a core from a translated address (R79, R141, R144). -/
def State.loadAt (s : State) (core : Nat) (x : Xlat) (n : Nat) (drop : Bool := false) : State × Except Cause Nat :=
  if hubRange x.pa then (s, .ok (leNat (s.regBytes x.pa n)))
  else match pathOf x with
    | .l1 =>
      match s.l1Read core x.pa n with
      | (s, .ok bs) => (s, .ok (leNat bs))
      | (s, .error c) => (s, .error c)
    | _ =>
      let s := s.dropLine core x.pa drop
      match s.homeRead x.pa n with
      | .ok bs => (s, .ok (leNat bs))
      | .error c => (s.unheard x.pa, .error c)

/-- An ordinary store of a core to a translated address, with byte enables (R79, R89, R90, R141, R144, R154). -/
def State.storeAt (s : State) (core team : Nat) (asid : Asid) (priv : Bool) (va : Nat) (x : Xlat) (n data en : Nat)
    (drop : Bool := false) : State × Except (Cause × Nat) Unit :=
  if hubRange x.pa then (s.regStore x.pa n data en, .ok ())
  else match pathOf x with
    | .l1 =>
      match s.l1Write core x.pa n data en asid va team with
      | (s, .ok _) => (s.countWrite core team va n en, .ok ())
      | (s, .error c) => (s, .error (c, va))
    | _ =>
      let s := s.dropLine core x.pa drop
      match s.gateStore asid priv va x n en true with
      | (s, .error c) => (s, .error c)
      | (s, .ok _) =>
        match s.homeWriteEn x.pa n data en with
        | .error c => (s.unheard x.pa, .error (c, va))
        | .ok s => (s.countWrite core team va n en, .ok ())

end Sys2Proof.Machine
end

