-- ==== Sys2Proof/Machine/Fabsend.lean ====
section
/-! DEFINITION. Sending a packet: the request's checks, its route and its place in a port's queue (R81, R108, R315,
R316, R318 to R320). -/

namespace Sys2Proof.Machine

/-! ### The flits of a packet (R320) -/

/-- Flits of a packet: the header and its data flits. -/
def packetFlits (p : Packet) : Nat := 1 + (p.data.length + 63) / 64

/-- A packet whose fields lie in the header's widths, with whole data flits, at most 4 (R320; log 95). -/
def packetFits (p : Packet) : Bool :=
  p.dst < 2 ^ 10 && p.src < 2 ^ 10 && p.kind < 2 ^ 8 && p.cls < 4 && p.inter < 2 ^ 10 && p.tag < 2 ^ 16 &&
  p.off < 2 ^ 42 && p.tree < 2 ^ 8 && p.status < 2 ^ 8 && p.dlOrig < 2 ^ 16 && p.dlLeft < 2 ^ 16 && p.op < 2 ^ 8 &&
  p.w < 16 && p.scope < 4 && p.barOff < 2 ^ 20 && p.verdict < 2 ^ 6 && p.data.length % 64 == 0 && p.data.length ≤ 256

/-- The header flit: each field of R320's table at its bytes, the bytes it does not list zero. -/
def packetHeader (p : Packet) : List Byte :=
  leBytes 2 p.dst ++ leBytes 2 p.src ++ leBytes 2 p.inc.toNat ++ leBytes 1 p.kind ++
  leBytes 1 (p.cls * 2 ^ 6 + p.data.length / 64 * 2 ^ 3) ++ leBytes 2 p.inter ++ leBytes 2 p.tag ++ leBytes 6 p.off ++
  leBytes 1 p.tree ++ leBytes 1 p.status ++ leBytes 8 p.be.toNat ++ leBytes 2 p.dlOrig ++ leBytes 2 p.dlLeft ++
  leBytes 4 (p.op + p.w * 2 ^ 8 + p.scope * 2 ^ 12) ++
  leBytes 12 (p.barAsid.toNat + p.barOff * 2 ^ 32 + p.pcount.toNat * 2 ^ 64) ++ leBytes 1 p.verdict ++ leBytes 7 0 ++
  leBytes 8 p.bel.toNat

/-- The packet of a header flit and the data flits after it. -/
def packetOf (h : List Byte) (data : List Byte) : Packet :=
  let f (o n : Nat) : Nat := leNat ((h.drop o).take n)
  { dst := f 0 2 % 2 ^ 10, src := f 2 2 % 2 ^ 10, inc := BitVec.ofNat 16 (f 4 2), kind := f 6 1, cls := f 7 1 / 2 ^ 6
    inter := f 8 2 % 2 ^ 10, tag := f 10 2, off := f 12 6 % 2 ^ 42, tree := f 18 1, status := f 19 1
    be := BitVec.ofNat 64 (f 20 8), dlOrig := f 28 2, dlLeft := f 30 2, op := f 32 4 % 2 ^ 8, w := f 32 4 / 2 ^ 8 % 16
    scope := f 32 4 / 2 ^ 12 % 4, barAsid := BitVec.ofNat 12 (f 36 12), barOff := f 36 12 / 2 ^ 32 % 2 ^ 20
    pcount := BitVec.ofNat 32 (f 36 12 / 2 ^ 64), verdict := f 48 1 % 2 ^ 6, bel := BitVec.ofNat 64 (f 56 8)
    data := data }

/-! ### Ports and routes -/

/-- A Floe port by number. -/
def Fabric.port (f : Fabric) (i : Nat) : Port := amGet Port.reset f.ports i

/-- Change a Floe port. -/
def State.modPort (s : State) (i : Nat) (g : Port → Port) : State :=
  { s with fab := { s.fab with ports := amPut s.fab.ports i (g (s.fab.port i)) } }

/-- A peer's incarnation entry (R110). -/
def Fabric.peer (f : Fabric) (i : Nat) : PeerEntry := amGet PeerEntry.reset f.peers i

/-- The routing entry for a destination (R108). -/
def Fabric.route (f : Fabric) (d : Nat) : Nat := (amGet (BitVec.ofNat 64 (2 ^ 40 - 1)) f.routes d).toNat

/-- Flits of a class queued at a port. -/
def Port.load (q : Port) (cls : Nat) : Nat :=
  ((q.queues.filter fun e => e.1 == cls).map fun e => packetFlits e.2.2).sum

/-- All flits queued at a port. -/
def Port.total (q : Port) : Nat := (q.queues.map fun e => packetFlits e.2.2).sum

/-- The port a packet for a port leaves on: the spare that doubles it where the line's offset bit 6 is set (R315, R346). -/
def State.doubled (s : State) (port off : Nat) : Nat :=
  match (List.range 4).find? fun i => s.hasFeature 18 && bitAt off 6 && (s.hub.regs.dbl.getD i 0x3F).toNat == port with
  | some i => 32 + i
  | none => port

/-- The port toward a device: PORT of its entry, or the spare that doubles it (R315). -/
def State.portTo (s : State) (d off : Nat) : Option Nat :=
  let e := s.fab.route d
  if bitAt e 63 then some (s.doubled (e / 2 ^ 55 % 64) off) else none

/-- Put a packet into the queue of its class at a port, with the time it came (R322). -/
def State.enqueue (s : State) (port : Nat) (p : Packet) : State :=
  s.modPort port fun q => { q with queues := q.queues ++ [(p.cls, s.clock.toNat, p)] }

/-- The intermediates ALT0 to ALT3 of a routing entry (R108). -/
def routeAlts (e : Nat) : List Nat := ((List.range 4).map fun k => e / 2 ^ (30 - 10 * k) % 1024).filter (· != 0x3FF)

/-- The intermediate whose first port holds the fewest queued flits, ties to the lowest index (R316). -/
def State.bestAlt (s : State) (off : Nat) : List Nat → Option (Nat × Nat)
  | [] => none
  | a :: as =>
    match s.portTo a off, s.bestAlt off as with
    | none, r => r
    | some p, none => some (a, (s.fab.port p).total)
    | some p, some (b, n) => if n < (s.fab.port p).total then some (b, n) else some (a, (s.fab.port p).total)

/-- Send a packet toward its destination, or hand it to the device itself (R316), by the port that a line offset chooses. -/
def State.sendBy (s : State) (p : Packet) (hop : Nat) : State :=
  if p.dst = s.fab.device then { s with fab := { s.fab with sent := s.fab.sent ++ [p] } }
  else
    let target := if p.inter = 0x3FF then p.dst else p.inter
    match s.portTo target hop with
    | none => s
    | some port => s.enqueue port p

/-- Send a packet by the port of its own line (R315, R316). -/
def State.sendPacket (s : State) (p : Packet) : State := s.sendBy p p.off

/-- The line of a peer a request addresses (R316, R319). -/
def peerLine (peer off : Nat) : Nat := (peer * 2 ^ 42 + off) / 64

/-- The lines a request addresses: a write's data flits, else one (R319, R321). -/
def packetLinesOf (p : Packet) : Nat := if p.kind = 2 || p.kind = 5 then max 1 (p.data.length / 64) else 1

/-- The route a new request takes (R316), as its intermediate and the offset that chooses its port: that of an unacknowledged packet
to a line it addresses (log 80), else no intermediate, or an alternate where the minimal port's queue is long and the device takes it. -/
def State.chooseRoute (s : State) (p : Packet) (line : Nat) : (Nat × Nat) × State :=
  match s.fab.outstanding.find? fun o => o.line < line + packetLinesOf p && line < o.line + packetLinesOf o.packet with
  | some o => ((o.packet.inter, o.hop), s)
  | none =>
    match s.portTo p.dst p.off with
    | none => ((0x3FF, p.off), s)
    | some port =>
      if (s.fab.port port).load p.cls ≤ s.hub.regs.fabAdapt.toNat then ((0x3FF, p.off), s)
      else
        let take := Config.adaptRoute s.nfree
        let s := { s with nfree := s.nfree + 1 }
        match take, s.bestAlt p.off (routeAlts (s.fab.route p.dst)) with
        | true, some (a, _) => ((a, p.off), s)
        | _, _ => ((0x3FF, p.off), s)

/-- Whether a request to a peer can be sent: its number exists, its routing entry is valid, and its incarnation entry
shows it up (R81, R108, R110, R327). -/
def State.peerError (s : State) (peer : Nat) : Option Cause :=
  if 992 < peer then some .outOfRange
  else if peer = s.fab.device then none
  else if !s.hasFeature 16 || !bitAt (s.fab.route peer) 63 then some .peerUnreachable
  else if (s.fab.peer peer).state != 1 then some .peerReset
  else none

/-- A tag no outstanding request holds (R320: 16 bits). -/
def Fabric.freeTag (f : Fabric) : Nat :=
  match (List.range 65536).find? fun k => !(f.outstanding.any fun o => o.tag == (f.nextTag + k) % 65536) with
  | some k => (f.nextTag + k) % 65536
  | none => f.nextTag % 65536

/-- A write to window 1,022 is a multicast write: it has class C1 and is no offload packet (R319, R322, R323). -/
def castClass (p : Packet) : Packet :=
  if p.kind = 2 ∧ p.off / 2 ^ 32 = 1022 then { p with cls := 1, dlOrig := 0, dlLeft := 0 } else p

/-- Send a request of this device (R316, R318): it is outstanding until its reply. -/
def State.request (s : State) (p : Packet) (who : Requester) (core : Nat) : State × Except Cause Nat :=
  match s.peerError p.dst with
  | some c => (s, .error c)
  | none =>
    let tag := s.fab.freeTag
    let line := peerLine p.dst p.off
    let p := castClass p
    let (r, s) := if p.dst = s.fab.device then ((0x3FF, p.off), s) else s.chooseRoute p line
    let p := { p with src := s.fab.device, inc := s.fab.inc, tag := tag, inter := r.1 }
    let o : Outstanding :=
      { tag := tag, peer := p.dst, who := who, sentAt := s.clock.toNat, line := line, core := core,
        retryAt := none, packet := p, hop := r.2 }
    let s := { s with fab := { s.fab with outstanding := s.fab.outstanding ++ [o], nextTag := (tag + 1) % 65536 } }
    (s.sendBy p r.2, .ok tag)

/-- A packet with every field zero but those that address it. -/
def blankPacket (kind cls peer off : Nat) : Packet :=
  { kind := kind, cls := cls, src := 0, inc := 0, dst := peer, inter := 0x3FF, tag := 0, off := off, tree := 0,
    status := 0, be := 0, bel := 0, dlOrig := 0, dlLeft := 0, op := 0, w := 0, scope := 0, barAsid := 0, barOff := 0,
    pcount := 0, verdict := 0, data := [] }

/-- Answer a request of a peer, or of the device itself (R318, R320): a write acknowledgement for writes, else a reply. -/
def State.answer (s : State) (p : Packet) (status : Nat) (data : List Byte) : State :=
  let kind := if p.kind = 2 || p.kind = 5 then 7 else 6
  { s with fab := { s.fab with grants := s.fab.grants.filter fun g => g.1 != p } }.sendPacket { blankPacket kind 0 p.src p.off with
    src := s.fab.device, inc := s.fab.inc, tag := p.tag, status := status, be := p.be, data := data }

/-- W code of an access type (R161, R210). -/
def accCode : AccType → Nat
  | .b8 => 0x0
  | .b16 => 0x1
  | .b32 => 0x2
  | .b64 => 0x3
  | .b128 => 0x4
  | .s8 => 0x5
  | .s16 => 0x6
  | .f32 => 0x7
  | .f16 => 0x8
  | .bf16 => 0x9
  | .fx64 => 0xA
  | .s32 => 0xB
  | .n32 => 0xC
  | .s64 => 0xD
  | .n64 => 0xE

/-- The byte of a line at offset k that lanes with n-byte data at their addresses give, highest lane last. -/
def lineByte (n : Nat) (field : Acc → Nat) (accs : List Acc) (k : Nat) : Byte :=
  accs.foldl (fun b a =>
    let o := a.va % 64
    if o ≤ k && k < o + n then BitVec.ofNat 8 (field a / 256 ^ (k - o)) else b) 0

/-- The data flits of lanes: one, or two where a lane's bytes pass the end of the line (log 28). -/
def lineBytes (n : Nat) (field : Acc → Nat) (accs : List Acc) : List Byte :=
  (List.range (if accs.any fun a => 64 < a.va % 64 + n then 128 else 64)).map (lineByte n field accs)

/-- The byte enables of lanes within their line. -/
def lineEnables (n : Nat) (en : Acc → Nat) (accs : List Acc) : BitVec 64 :=
  accs.foldl (fun m a => m ||| BitVec.ofNat 64 (en a % 2 ^ n * 2 ^ (a.va % 64))) 0

/-- One packet for lanes of one line (R319, R320): data in flit 0, the second operand of a .cas in flit 1. -/
def lanePacket (kind op n w scope : Nat) (hasData hasCmp : Bool) (accs : List Acc) : Packet :=
  match accs with
  | [] => blankPacket kind 2 0 0
  | a :: _ =>
    { blankPacket kind 2 (aperturePeer a.va) (apertureOff a.va / 64 * 64) with
      op := op, w := w, scope := scope
      be := lineEnables n (if kind = 2 then (·.en) else fun _ => 2 ^ n - 1) accs
      data := (if hasData then lineBytes n (·.data) accs else []) ++ (if hasCmp then lineBytes n (·.cmp) accs else []) }

/-- Put a lane with n bytes into the packets formed so far (R319): the last one to its line, unless that one already
addresses its location. -/
def addToPackets (n : Nat) (a : Acc) : List (List Acc) → List (List Acc)
  | [] => [[a]]
  | g :: gs =>
    let here := g.any fun b => b.va / 64 == a.va / 64
    let later := gs.any fun h => h.any fun b => b.va / 64 == a.va / 64
    if here && !later then
      if g.any fun b => overlaps b.va n a.va n then g :: gs ++ [[a]] else (g ++ [a]) :: gs
    else g :: addToPackets n a gs

/-- The packets of aperture lanes, in ascending lane order (R319). -/
def packLanes (n : Nat) (accs : List Acc) : List (List Acc) := accs.foldl (fun gs a => addToPackets n a gs) []

end Sys2Proof.Machine
end

