-- ==== Sys2Proof/Machine/Operands.lean ====
section
/-! DEFINITION. Which registers an instruction reads and writes, and what a lane reads through its operand forms (R53,
R158, R160, R164, R195, R210, R211). -/

namespace Sys2Proof.Machine

/-- `n` consecutive registers. -/
def group (v : VReg) (n : Nat) : List Nat := (List.range n).map (v.toNat + ·)

/-- The register of a predicate. -/
def predRegs : Pred → List Nat
  | .none => []
  | .ifSet v | .ifNot v => [v.toNat]

/-- The lane register operand b reads. -/
def opBRegs : OpB → List Nat
  | .lane v => [v.toNat]
  | _ => []

/-- The registers of a value of a type code (R161): two for 64-bit integers. -/
def codeRegs (c : Nat) : Nat := if wideCode c then 2 else 1

/-- The instructions whose result residue the integer unit predicts from those of its operands (R68, R69; log 76). -/
def predicts : Instr → Bool
  | .iadd _ | .isub _ | .imul _ | .imad _ | .add _ _ _ | .sub _ _ _ | .mul _ _ _ | .addi _ _ _ => true
  | _ => false

/-- Lane registers an instruction writes (R53, R54, R172). NEXT names vd + 1 in every case. -/
def vDests : Instr → List Nat
  | .cvt x => group x.vd (codeRegs (x.imm.toNat % 256))
  | .cvtq x => [x.vd.toNat, x.vc.toNat]
  | .iadd x | .isub x | .imul x | .imulh x | .imad x | .imin x | .imax x | .iabs x | .ineg x | .mov x | .movi x
  | .lea x | .laneAnd x | .laneOr x | .laneXor x | .not x | .laneShl x | .laneShr x | .laneSar x | .bfe x | .bfi x
  | .lanePopc x | .laneClz x | .icmp x | .laneSel x | .fadd x | .fsub x | .fmul x | .ffma x | .fmin x | .fmax x
  | .fcmp x | .hadd2 x | .hmul2 x | .hfma2 x | .had x | .shfl x | .bfly x | .bcast x | .redux x | .scan x
  | .laneid x | .rcp x | .rsq x | .sqrt x | .exp2 x | .log2 x | .sin x | .cos x | .tanh x | .sigm x => [x.vd.toNat]
  | .ld x | .ldl x | .ldc x | .gather x | .ldf x | .ldfRc x | .adjr x | .adjrWait x | .adjq x
  | .atomAdd x | .atomMin x | .atomMax x | .atomAnd x | .atomOr x | .atomXor x | .atomExch x | .atomCas x =>
    group x.vd x.w.regs
  | .gatherP x => group x.vd x.w.regs ++ [x.vc.toNat]
  | .tagl x => [x.vd.toNat]
  | .ldacc x => group x.vd (accWidth x.q6)
  | .wptr x | .qpush x | .bartry x | .strag x => [x.vd.toNat]
  | .next x | .nextBounded x => [x.vd.toNat, x.vd.toNat + 1, x.vc.toNat]
  | _ => []

/-- Lane registers an instruction reads, the predicate included (R212). -/
def vSrcs : Instr → List Nat
  | .iadd x | .isub x | .imul x | .imulh x | .imin x | .imax x | .lea x | .laneAnd x | .laneOr x | .laneXor x
  | .laneShl x | .laneShr x | .laneSar x | .icmp x | .fadd x | .fsub x | .fmul x | .fmin x | .fmax x | .fcmp x
  | .hadd2 x | .hmul2 x | .shfl x | .bfly x | .bcast x => x.va.toNat :: opBRegs x.b ++ predRegs x.pred
  | .imad x | .bfe x | .laneSel x | .ffma x | .hfma2 x => x.va.toNat :: x.vc.toNat :: opBRegs x.b ++ predRegs x.pred
  | .bfi x => x.vd.toNat :: x.va.toNat :: x.vc.toNat :: opBRegs x.b ++ predRegs x.pred
  | .iabs x | .ineg x | .not x | .lanePopc x | .laneClz x | .cvtq x | .had x | .redux x | .scan x | .rcp x | .rsq x
  | .sqrt x | .exp2 x | .log2 x | .sin x | .cos x | .tanh x | .sigm x => x.va.toNat :: predRegs x.pred
  | .cvt x => group x.va (codeRegs (x.imm.toNat / 256 % 256)) ++ predRegs x.pred
  | .mov x => opBRegs x.b ++ predRegs x.pred
  | .movi x | .laneid x => predRegs x.pred
  | .ld x | .ldl x | .ldc x | .gather x | .gatherP x | .pref x | .tagl x | .taginv x | .ldf x | .ldfRc x | .adjr x
  | .adjrWait x | .adjq x => x.va.toNat :: predRegs x.pred
  | .st x => x.va.toNat :: group x.vb x.w.regs ++ (if x.imm = 1 then [x.vc.toNat] else []) ++ predRegs x.pred
  | .stl x | .stc x | .scatter x | .tagset x | .adja x
  | .atomAdd x | .atomMin x | .atomMax x | .atomAnd x | .atomOr x | .atomXor x | .atomExch x
  | .redAdd x | .redMin x | .redMax x | .redAnd x | .redOr x | .redXor x =>
    x.va.toNat :: group x.vb x.w.regs ++ predRegs x.pred
  | .atomCas x => x.va.toNat :: group x.vb x.w.regs ++ group x.vc x.w.regs ++ predRegs x.pred
  | .bld x => x.va.toNat :: x.vb.toNat :: predRegs x.pred
  | .ldacc x | .zacc x => x.va.toNat :: predRegs x.pred
  | .stacc x => x.va.toNat :: group x.vb (accWidth x.q6) ++ predRegs x.pred
  | .launch x | .qfence x | .tqpop x | .tqsteal x | .tqdone x => group x.va 2 ++ predRegs x.pred
  | .itopen x | .itsave x | .itload x => x.va.toNat :: predRegs x.pred
  | .gangset x | .mma x | .mmaJ x | .dupmap x | .mwait x | .kick x | .wptr x | .qpush x | .barinit x | .barrive x
  | .barriveBytes x | .bartry x | .gbar x | .fbar x | .phaseRel x | .phaseAcq x | .strag x | .next x | .nextBounded x
  | .enough x | .itstat x => predRegs x.pred
  | _ => []

/-- The predicate of a lane instruction. -/
def instrPred : Instr → Pred
  | .iadd x | .isub x | .imul x | .imulh x | .imad x | .imin x | .imax x | .iabs x | .ineg x | .mov x | .movi x
  | .lea x | .laneAnd x | .laneOr x | .laneXor x | .not x | .laneShl x | .laneShr x | .laneSar x | .bfe x | .bfi x
  | .lanePopc x | .laneClz x | .icmp x | .laneSel x | .fadd x | .fsub x | .fmul x | .ffma x | .fmin x | .fmax x
  | .fcmp x | .hadd2 x | .hmul2 x | .hfma2 x | .cvt x | .cvtq x | .had x | .shfl x | .bfly x | .bcast x | .redux x
  | .scan x | .laneid x | .rcp x | .rsq x | .sqrt x | .exp2 x | .log2 x | .sin x | .cos x | .tanh x | .sigm x => x.pred
  | .ld x | .ldl x | .ldc x | .gather x | .gatherP x | .pref x | .tagl x | .st x | .stl x | .stc x | .scatter x
  | .tagset x | .taginv x | .atomAdd x | .atomMin x | .atomMax x | .atomAnd x | .atomOr x | .atomXor x | .atomExch x
  | .atomCas x | .redAdd x | .redMin x | .redMax x | .redAnd x | .redOr x | .redXor x | .ldf x | .ldfRc x | .adja x
  | .adjr x | .adjrWait x | .adjq x => x.pred
  | .gangset x | .mma x | .mmaJ x | .bld x | .ldacc x | .stacc x | .zacc x | .dupmap x | .mwait x | .kick x | .wptr x
  | .qpush x | .qfence x | .launch x | .barinit x | .barrive x | .barriveBytes x | .bartry x | .gbar x | .fbar x
  | .phaseRel x | .phaseAcq x | .strag x | .tqpop x | .tqsteal x | .tqdone x | .itopen x | .next x | .nextBounded x
  | .enough x | .itsave x | .itload x | .itstat x => x.pred
  | _ => .none

/-- The g register a lane instruction writes (R56, R168: use "d"). -/
def gDest : Instr → Option GReg
  | .tqpop x | .tqsteal x | .next x | .nextBounded x | .itstat x => some x.g
  | _ => none

/-- The g registers a lane word's G field adds to the capture set, from CLASS, FUNC, OSEL and G alone (R164). -/
def captureOf (w : BitVec 96) : List Nat :=
  let cls := bits w 92 4
  let fn := bits w 86 6
  let g := bits w 48 6
  let pair := if g % 2 = 1 then [g] else [g, g + 1]
  if cls < 7 then
    match laneFormAlu cls fn with
    | none => []
    | some _ =>
      let listsB := (cls == 0 && fn != 7 && fn != 8 && fn != 10) || (cls == 1 && fn != 3 && fn < 9) || cls == 2 ||
        cls == 3 || cls == 4 || (cls == 6 && fn < 3)
      if listsB && bits w 36 2 == 1 then [g] else []
  else if cls = 7 then (if fn = 0 ∨ fn = 3 ∨ fn = 4 ∨ fn = 5 then pair else [])
  else if cls = 8 then (if fn = 0 ∨ fn = 3 ∨ (8 ≤ fn ∧ fn ≤ 0x15) then pair else [])
  else if cls = 9 then (if fn < 6 then pair else [])
  else if cls = 0xA then (if fn = 0 then [g] else [])
  else if cls = 0xB then (if fn = 0 ∨ fn = 4 then [g] else if fn = 2 ∨ fn = 3 then pair else [])
  else if cls = 0xC then (if fn = 0 ∨ fn = 2 ∨ fn = 5 then [g] else [])
  else []

/-- The lanes for which a predicate holds (R162). -/
def predLanes (w : Warp) (p : Pred) : Lanes :=
  match p with
  | .none => 0xFFFFFFFF
  | .ifSet v => maskOf ((List.range 32).filter fun l => (w.vv v.toNat l).getLsbD 0)
  | .ifNot v => maskOf ((List.range 32).filter fun l => !(w.vv v.toNat l).getLsbD 0)

/-- The cell of a captured g register (R164); g0 reads as zero (R55). -/
def capturedCell (gs : SMap RWord) (g : GReg) : RWord := if g = 0 then cellZero else amGet cellZero gs g.toNat

/-- The value of a captured g register. -/
def captured (gs : SMap RWord) (g : GReg) : Word := (capturedCell gs g).val

/-- The captured base pair of a memory operand (R6, R211). -/
def capturedPair (gs : SMap RWord) (g : GReg) : Nat := (pairVal (captured gs g) (captured gs (oddG g))).toNat

/-- Operand b as a lane reads it (R195). -/
def opBVal (w : Warp) (gs : SMap RWord) (b : OpB) (imm : Word) (l : Nat) : Word :=
  match b with
  | .lane v => w.vv v.toNat l
  | .group g => captured gs g
  | .imm => imm

/-- Consecutive lane registers of a lane as one little-endian number (R53). -/
def vGroup (w : Warp) (v : VReg) (n l : Nat) : Nat :=
  (List.range n).foldr (fun k acc => (w.vv (v.toNat + k) l).toNat + acc * 2 ^ 32) 0

/-- A number as `n` words, low word first. -/
def wordsOf : Nat → Nat → List Word
  | 0, _ => []
  | n + 1, x => BitVec.ofNat 32 x :: wordsOf n (x / 2 ^ 32)

/-- The words a load writes from the bytes it read: narrow data extended as the type says (R210). -/
def loadWords (w : AccType) (x : Nat) : List Word :=
  match w with
  | .s8 => [(BitVec.ofNat 8 x).signExtend 32]
  | .s16 => [(BitVec.ofNat 16 x).signExtend 32]
  | _ => wordsOf w.regs (x % 256 ^ w.bytes)

/-- The global address of a lane's access: captured pair plus va, modulo 2^54 (R211). -/
def globalAddr (w : Warp) (gs : SMap RWord) (g : GReg) (va : VReg) (l : Nat) : Nat :=
  (capturedPair gs g + (w.vv va.toNat l).toNat) % 2 ^ 54

/-- The local offset of a lane's access: va plus imm32, modulo 2^32 (R211). -/
def localAddr (w : Warp) (va : VReg) (imm : Word) (l : Nat) : Nat := (w.vv va.toNat l + imm).toNat

/-! ### Pending lane writes (R172, R23) -/

/-- The instructions of a clause that have not dispatched. -/
def Clause.rest (c : Clause) : List Instr :=
  (c.words.drop c.next).filterMap fun w => match decodeLane w with | .ok i => some i | .error _ => none

/-- Every lane instruction of the warp that has not finished: of queued clauses, and in flight. -/
def Warp.unfinished (w : Warp) : List Instr :=
  (w.splits.flatMap fun e => e.2.cq.flatMap Clause.rest) ++ w.ops.map (·.instr)

/-- A lane register has a pending write for a scalar instruction (R172). -/
def Warp.vPending (w : Warp) (r : Nat) : Bool := w.unfinished.any fun i => (vDests i).contains r

/-- A g register has a pending lane write (R56, R247). -/
def Warp.gPending (w : Warp) (r : GReg) : Bool := r != 0 && w.unfinished.any fun i => gDest i == some r

/-- A lane register is still being written by an operation in flight (R23). -/
def Warp.vBusy (w : Warp) (r : Nat) : Bool := w.ops.any fun o => (vDests o.instr).contains r

/-- A lane of an operation is finished: done or failed. -/
def AccSt.isOver : AccSt → Bool
  | .done | .failed _ => true
  | _ => false

/-- A lane of an operation waits for a replay. -/
def AccSt.held : AccSt → Bool
  | .stalled _ | .retry => true
  | _ => false

/-- A lane failed. -/
def AccSt.bad : AccSt → Bool
  | .failed _ => true
  | _ => false

/-- A lane is stalled on a fault record. -/
def AccSt.isStalled : AccSt → Bool
  | .stalled _ => true
  | _ => false

/-- A lane waits: at home under ADJR, or, of a LAUNCH, with its record read. -/
def AccSt.isWaiting : AccSt → Bool
  | .waiting _ => true
  | _ => false

/-- A lane's request to a peer is unanswered. -/
def AccSt.isSent : AccSt → Bool
  | .sent _ => true
  | _ => false

/-- A g register is still being written by a lane operation in flight (R56). -/
def Warp.gBusy (w : Warp) (r : GReg) : Bool := r != 0 && w.ops.any fun o => gDest o.instr == some r

/-- An operation charged to a split entry has a lane that waits for a replay, or one that failed: what is queued behind it
in the entry waits, the rest of its clause and the clauses after it (R171; log 15). -/
def Warp.clauseHeld (w : Warp) (entry : Nat) : Bool :=
  w.ops.any fun o => o.entry == entry && o.accs.any fun a => a.st.held || a.st.bad

/-! ### Events -/

/-- The rows of the table that are steps of other agents and no instruction words. -/
def isEvent : Instr → Bool
  | .clauseStart _ _ _ | .waitCountAged _ _ _ _ | .loadDataLands _ _ _ _ | .storePerformed _ _ _ _
  | .clusterLmAck _ _ _ _ | .atomicAtHome _ _ _ _ | .countedLoadAtHome _ _ _ _ | .adjaAtHome _ _ _ _
  | .adjrAtHome _ _ _ _ | .adjrWaitRelease _ _ _ _ | .adjrWaitTimeout _ _ _ _ | .phaseComplete _ _ _
  | .l1Writeback _ _ | .arrivalPerformed _ _ _ | .stragglerRecordReplayed _ _ | .gangBarrierReport _ _ _
  | .gangBarrierComplete _ _ | .mmaDispatch _ _ _ | .mmaComplete _ _ _ | .bldComplete _ _ _
  | .accWriteApplied _ _ _ | .joinMerge _ _ _ | .warpRetire _ _ | .gangJoinDecrement _ | .successorAppend _
  | .joinDecrementReplayed _ | .launchAppend _ _ _ | .gangPlace | .placerPreemptRequest _ | .copyRecordBegin _ _
  | .copyBytesDelivered _ _ _ | .copyRecordFinish _ _ | .bteBell _ | .bteCopy _ _ | .bteReduceCopy _ _
  | .bteFill _ _ | .bteFence _ | .bteLaunch _ | .bteCompletionWrite _ | .qpushSlotFree _ _ _ _ | .faultRecordWrite
  | .replay _ | .replayFail _ | .trapEntry _ _ _ | .qwaitWake _ _ _ | .qwaitTimeout _ _ _ | .pageWalk _
  | .pageWalkComplete _ _ | .tlbiGo _ | .tlbInvalidationComplete _ | .pgrelGo _ | .pgrelComplete | .preemptGang _
  | .preemptAsid _ | .preemptCluster _ | .drainDeadlineExpire _ | .gangSave _ | .saveLmWrite _ | .gangDiscard _
  | .gangRestore _ | .codeGoneRetire _ | .thermalSample _ _ | .thermalMigrate _ | .sampleTake _ _ | .stop _
  | .teamStopped _ _ | .resume _ | .discard _ | .dumpReq _ | .dumpWrite | .dumpCtlWrite _ | .captureRecordWrite
  | .registerWrite _ _ | .cqDescriptorWrite _ _ | .hostWindowRead _ _ _ | .hostWindowWrite _ _ _ _
  | .hostNotifyWrite _ _ _ | .latTolWrite _ | .restEntry | .restExit | .deviceReset | .stageAdvance
  | .recoveryAttempt _ | .getVersion _ | .getCapabilities _ | .negotiateAlgorithms _ | .getDigests _
  | .getCertificate _ | .challenge _ | .getMeasurements _ | .spdmUnsupported _ | .fabricRead _ | .fabricWrite _
  | .fabricAtomic _ | .fabricAdjoint _ | .multicastWrite _ _ | .fabricReply _ | .writeAcknowledge _
  | .barrierReport _ | .barrierComplete _ | .barrierAbort _ | .packetForward _ | .fabricTimeoutExpire _
  | .remoteCountRetry _ | .peerReset _ _ _ | .fabricTableWrite _ _ | .flitReceive _ _ _ | .acknowledgement _ _
  | .replayRequest _ _ | .ackTimer _ | .laneFail _ _ | .portRetrain _ | .portDown _ | .portTrain _ | .firnTimeout _ _ _
  | .firnError _ _ _ | .flitSend _ | .cxlPortTrain _ => true
  | _ => false

end Sys2Proof.Machine
end

