-- ==== Sys2Proof/Machine/Issue.lean ====
section
/-! DEFINITION. What every scalar instruction shares (R172), fetching and decoding at SPC, what a quadrant remembers of
its issues (R26, R27, R300). -/

namespace Sys2Proof.Machine

/-! ### Clause headers (R163) -/

/-- The flags a clause's long-latency operations raise: one mask, so a flag named twice rises once (R58). -/
def hdrFlags (h : BitVec 96) : BitVec 12 :=
  (if bits h 16 1 = 1 then BitVec.ofNat 12 (2 ^ bits h 12 4) else 0) |||
  (if bits h 21 1 = 1 then BitVec.ofNat 12 (2 ^ bits h 17 4) else 0)

/-- The flags that must be clear before the clause starts. -/
def hdrWait (h : BitVec 96) : BitVec 12 := BitVec.ofNat 12 (bits h 0 12)

/-- The residue-check-disable bit (R70). -/
def hdrNoCheck (h : BitVec 96) : Bool := bits h 27 1 == 1

/-! ### Names of a scalar instruction -/

/-- The registers a scalar instruction names: g registers read, g registers written, lane registers read. -/
structure Names where
  rd : List GReg := []
  wr : List GReg := []
  vs : List Nat := []

/-- Names of each scalar instruction (R165, R173 to R187, R271). -/
def scalarNames : Instr → Names
  | .add d a b | .sub d a b | .mul d a b | .mulhS32 d a b | .mulhN32 d a b | .and d a b | .or d a b | .xor d a b
  | .shl d a b | .shr d a b | .sar d a b | .minS32 d a b | .minN32 d a b | .maxS32 d a b | .maxN32 d a b
  | .cmpEq d a b | .cmpNe d a b | .cmpLtS32 d a b | .cmpLeS32 d a b | .cmpLtN32 d a b | .cmpLeN32 d a b =>
    { rd := [a, b], wr := [d] }
  | .popc d a | .clz d a | .addi d a _ | .andi d a _ | .ori d a _ | .xori d a _ | .shli d a _ | .shri d a _ =>
    { rd := [a], wr := [d] }
  | .sel d a b c => { rd := [c, a, b], wr := [d] }
  | .lui d _ | .rdx d | .rdsr d _ | .feat d _ | .rdt d _ => { wr := [d] }
  | .ldg d a _ => { rd := [a, oddG a], wr := [d] }
  | .stg d a _ => { rd := [a, oddG a, d] }
  | .vote d v _ | .movg d v _ => { wr := [d], vs := [v.toNat] }
  | .wrt _ a | .wrx a | .wrsr a _ => { rd := [a] }
  | .br c g _ => { rd := if c = .always then [] else [g] }
  | .brl _ v _ | .split v _ => { vs := [v.toNat] }
  | .jmpr a | .callr a => { rd := [a, oddG a] }
  | .jmpv v | .callv v => { vs := [v.toNat, v.toNat + 1] }
  | .loop g _ => { rd := [g], wr := [g] }
  | .qwait a b _ => { rd := [a, oddG a, b] }
  | .tlbinv d a b => { rd := [d, a, oddG a, b, oddG b] }
  | .clock d => { wr := [d, oddG d] }
  | _ => {}

/-- TRAP_ADDR of a register check: class, index, lane (R69). -/
def checkAddr (cls reg lane : Nat) : VAddr := BitVec.ofNat 54 (cls * 2 ^ 16 + reg % 256 * 2 ^ 8 + lane % 32)

/-- The first g register read whose stored residue is wrong (R69), with lane 0 (log 70). -/
def badG (w : Warp) (rs : List GReg) : Option VAddr :=
  (rs.find? fun r => !cellGood (w.g_ r)).map fun r => checkAddr 1 r.toNat 0

/-- Of the words of lane registers read, as (register, lane), the first one in the lowest lane whose stored residue is
wrong (R66, R69). -/
def badWord (w : Warp) (ps : List (Nat × Nat)) : Option VAddr :=
  match ps.filter fun p => !cellGood (w.v_ p.1 p.2) with
  | [] => none
  | p :: qs =>
    let b := qs.foldl (fun b q => if q.2 < b.2 then q else b) p
    some (checkAddr 0 b.1 b.2)

/-- The lanes in which a scalar instruction reads its lane registers: those of EXEC, or the one MOVG names (R172). -/
def scalarLanes (x : Ctx) : Instr → List Nat
  | .movg _ _ l => [l.toNat]
  | _ => lanesOf x.split.exec

/-- A unit prediction that fails (R69): a soft error strikes the result of an instruction that predicts, in one of its
lanes. R69 does not say which register TRAP_ADDR[15:8] then names: here it is the destination (log 70). -/
def unitCheck (w : Warp) (i : Instr) (reg : Nat) (lanes : List Nat) : Option VAddr :=
  match w.flip with
  | some (l, _) => if predicts i && lanes.contains l then some (checkAddr 3 reg l) else none
  | none => none

/-- The soft error is spent once its check has failed. -/
def State.spendFlip (s : State) (who : Who) (a : VAddr) : State :=
  if a.toNat / 2 ^ 16 = 3 then s.modWarp who.core who.slot fun w => { w with flip := none } else s

/-- The first register check a scalar instruction meets (R69): g registers, then lane registers, then a team register, then
the unit's prediction. The order is the model's, and so is lane 0 for a g or team register and for the unit's prediction of a
scalar instruction, none of which has a lane (log 70). -/
def scalarCheck (s : State) (x : Ctx) (i : Instr) : Option VAddr :=
  if s.hasFeature 27 then
    let n := scalarNames i
    match badG x.warp n.rd with
    | some a => some a
    | none => match badWord x.warp ((scalarLanes x i).flatMap fun l => n.vs.map fun v => (v, l)) with
      | some a => some a
      | none => match i with
        | .rdt _ t => if cellGood (x.team.ts_ t.toNat) then none else some (checkAddr 2 t.toNat 0)
        | _ => (unitCheck x.warp i ((n.wr.headD 0).toNat) (List.range 32)).map fun _ => checkAddr 3 (n.wr.headD 0).toNat 0
  else none

/-- Some register the instruction reads or writes has a pending lane write (R56, R172). -/
def scalarPending (x : Ctx) (i : Instr) : Bool :=
  let n := scalarNames i
  (n.rd ++ n.wr).any x.warp.gPending || n.vs.any x.warp.vPending

/-- A barrier object's word 0 in the LM of a team (R130). -/
def barWord0 (k : Core) (t : Team) (off : Nat) : Nat := k.lmWord (t.lmBase + off)

/-- The object is broken or of the reserved kind (R133, R191). -/
def barDead (w0 : Nat) : Bool := w0 / 2 ^ 62 == 3 || bitAt w0 59

/-- WAITF holds (R189): a clause issued before it that names a flag of the mask has instructions left, or a flag of
the mask is raised. -/
def waitfHolds (x : Ctx) (m : BitVec 12) : Bool :=
  let upto := match x.split.wait with
    | .waitf n => n
    | _ => x.warp.nextId
  (x.warp.splits.any fun e => e.2.cq.any fun c => c.serial < upto && hdrFlags c.header &&& m != 0) ||
  !x.warp.flagsClear m

/-- The state of R28 an instruction is held in before it can issue, or `run`. One that names a lane register at or above the
budget faults at decode and waits for nothing (R170). -/
def scalarHold (x : Ctx) (i : Instr) : Wait :=
  if (scalarNames i).vs.any (x.warp.budget ≤ ·) then .run
  else if scalarPending x i then .pendingWrite
  else match i with
    | .issue _ _ => if x.split.cq.length < 4 then .run else .issueFull
    | .waitf m =>
      if waitfHolds x m then .waitf (match x.split.wait with | .waitf n => n | _ => x.warp.nextId) else .run
    | .barwait o p =>
      let off := o.toNat * 32
      let w0 := barWord0 x.core x.team off
      if off + 32 ≤ x.team.lmSize && !x.core.lmBad.contains ((x.team.lmBase + off) / 8) && !barDead w0 && bitAt w0 61 == p
      then .barwait off else .run
    | _ => .run

/-- The split is held: it stays on the instruction in the given state. -/
def State.hold (s : State) (x : Ctx) (w : Wait) : State := s.modSplit x.who fun sp => { sp with wait := w }

/-- One more instruction in the team's INSTR (R138). -/
def State.count (s : State) (x : Ctx) : State :=
  s.modTeam x.who.core x.warp.team fun t => { t with instr := t.instr + 1 }

/-- The instruction retires and control passes to an address (R59, R138). -/
def State.goto (s : State) (x : Ctx) (pc : VAddr) : State :=
  (s.count x).modSplit x.who fun sp => { sp with spc := pc, wait := .run }

/-- The instruction retires and SPC advances by 4 (R172). -/
def State.advance (s : State) (x : Ctx) : State := s.goto x (x.split.spc + 4)

/-- A scalar instruction's shared frame (R170 budget, R172, R69): a lane register at or above the budget is refused, a
pending lane write or a wait of R28 holds the split, a wrong residue traps; otherwise the instruction's own effect. -/
def runScalar (s : State) (i : Instr) (body : Ctx → State) : Host.Outcome State Fault Refusal :=
  s.withCtx fun x =>
    if (scalarNames i).vs.any (x.warp.budget ≤ ·) then s.scalarFault x .reservedField 0
    else match scalarHold x i with
      | .run =>
        match scalarCheck s x i with
        | some a => (s.spendFlip x.who a).scalarFault x .registerCheck a
        | none => body x
      | w => s.hold x w

/-- A result into a g register, and on to the next instruction (R173). -/
def State.result (s : State) (x : Ctx) (d : GReg) (v : Word) : State :=
  (s.modWarp x.who.core x.who.slot fun w => w.setG d v).advance x

/-! ### Latches that hold issue -/

/-- The warps a mask of warp indices lists. -/
def maskCount (m : BitVec 16) : Nat := ((List.range 16).filter m.getLsbD).length

/-- The warp index of a slot. -/
def Core.indexOf (k : Core) (slot : Nat) : Nat :=
  match amFind k.warps slot with
  | some w => w.widx
  | none => 0

/-- A rendezvous latch at which every listed warp has arrived (R240). -/
def Latch.full (l : Latch) : Bool := l.waiting.length == maskCount l.wmask

/-- The warp waits at a latch that has not released: its scalar side is out of issue (R28, R239). From the cycle after the
release it is a scalar candidate again, whether or not the array is free (R284). -/
def Core.atLatch (k : Core) (slot : Nat) : Bool := k.latches.any fun l => !l.full && l.waiting.any (·.1 == slot)

/-- The warp has arrived at a latch whose joint MMA has not dispatched: its lane side is out of issue (R28, R239, R284). -/
def Core.inLatch (k : Core) (slot : Nat) : Bool := k.latches.any fun l => l.waiting.any (·.1 == slot)

/-! ### Fetch and decode at SPC -/

/-- What stands at SPC: an instruction, or the trap its fetch or decode raises (R170, R171). -/
def fetchDecode (s : State) (x : Ctx) : State × Except (Cause × Option Nat) Instr :=
  match s.fetchScalar x.who.core x.team x.split.spc with
  | (s, .error c) => (s, .error (c, none))
  | (s, .ok w) =>
    match decodeScalar w with
    | .error .illegalOp => (s, .error (.illegalOp, none))
    | .error (.reservedField g pr) =>
      if !s.hasFeature g then (s, .error (.featureAbsent, some g))
      else if pr && !x.team.priv then (s, .error (.privilege, none))
      else (s, .error (.reservedField, none))
    | .ok i =>
      if !s.hasFeature 0 then (s, .error (.featureAbsent, some 0))
      else match i with
        | .tlbinv _ _ _ => if x.team.priv then (s, .ok i) else (s, .error (.privilege, none))
        | _ => (s, .ok i)

/-- A replayable fault of a scalar instruction (R123, R175): the split stalls on a record with SOURCE 1. -/
def State.scalarStall (s : State) (x : Ctx) (c : Cause) (va : Nat) (acc : Access) : State :=
  let r := s.addFault
    { va := va, cause := c, source := 1, flags := faultFlags true acc false, unit := x.who.slot, core := x.who.core,
      asid := x.team.asid, lanes := 0, fseq := 0 }
  r.1.modSplit x.who fun sp => { sp with wait := if acc = .fetch then .refetch r.2 va else .replay r.2 va }

/-- A translation or memory fault of a scalar access: replayable ones stall, the others trap (R171, R175). -/
def State.scalarMemFault (s : State) (x : Ctx) (c : Cause) (va : Nat) (acc : Access) : State :=
  if c.replayable then s.scalarStall x c va acc else s.scalarFault x c (BitVec.ofNat 54 va)

/-- TRAP_ADDR of a fetch or decode fault (R66): the address for memory and translation causes, else 0. -/
def fetchAddr (c : Cause) (va : VAddr) : VAddr :=
  match c with
  | .notPresent | .protection | .migration | .outOfRange | .memoryUncorrectable => va
  | _ => 0

/-- What a split's scalar side does before an instruction executes: a recorded trap is taken (R171, R272), an ended
replay traps (R287), a fetch or decode fault is taken at SPC (R170, R180); otherwise the instruction at SPC. -/
def scalarFetch (s : State) (x : Ctx) : State × Option Instr :=
  match x.split.pend with
  | t :: ts => ((s.modSplit x.who fun sp => { sp with pend := ts }).raiseTrap x.who t, none)
  | [] =>
    match x.split.wait with
    | .replayFailed c va => (s.scalarFault x c (BitVec.ofNat 54 va), none)
    | _ =>
      match fetchDecode s x with
      | (s, .ok i) => (s, some i)
      | (s, .error (c, f)) =>
        if c.replayable then (s.scalarStall x c x.split.spc.toNat .fetch, none)
        else (s.raiseTrap x.who { scalarTrap c x.split.spc (fetchAddr c x.split.spc) with feature := f }, none)

/-! ### What ISSUE reads (R164) -/

/-- A header's checks (R164 step 3). -/
def headerOk (h : BitVec 96) (len : Nat) : Bool :=
  let flagOk (valid idx : Nat) := if valid = 1 then idx < 12 else idx == 0
  len != 0 && bits h 92 4 == 0xF && bits h 28 64 == 0 && bits h 22 4 == len &&
  flagOk (bits h 16 1) (bits h 12 4) && flagOk (bits h 21 1) (bits h 17 4)

/-- The header and lane words of a clause after ISSUE's checks, or the first fault with its address (R164). -/
def issueRead (s : State) (x : Ctx) (len unit : Nat) : State × Except (Cause × Nat) (BitVec 96 × List (BitVec 96)) :=
  match s.fetchUnits x.who.core x.team unit (len + 1) with
  | (s, .error c) => (s, .error c)
  | (s, .ok ws) =>
    let h := ws.headD 0
    if x.team.laneLen < unit + len + 1 then (s, .error (.outOfRange, (laneVa x.team unit).toNat))
    else if headerOk h len then (s, .ok (h, ws.drop 1))
    else (s, .error (.reservedField, 0))

/-- The capture set of a clause's words (R164). -/
def captureSet (ws : List (BitVec 96)) : List Nat := (ws.flatMap captureOf).eraseDups

/-- An ISSUE waits for a pending lane write to a register of its capture set (R22). -/
def issueHeld (s : State) (x : Ctx) : Instr → Bool
  | .issue n o =>
    match (issueRead s x n.toNat o.toNat).2 with
    | .ok c => (captureSet c.2).any fun g => x.warp.gPending (BitVec.ofNat 6 g)
    | .error _ => false
  | _ => false

/-! ### Head clauses -/

/-- A clause may start (R7): it is at the head of the queue and its wait mask is clear. -/
def clauseMayStart (w : Warp) (c : Clause) : Bool := w.flagsClear (hdrWait c.header)

/-- The next lane word of a split's head clause. -/
def Split.headWord (sp : Split) : Option (Clause × BitVec 96) :=
  match sp.cq with
  | [] => none
  | c :: _ => (c.words[c.next]?).map fun w => (c, w)

/-! ### What a quadrant issued -/

/-- Set a split's wait count on a side. -/
def setAge (lane : Bool) (n : Nat) (sp : Split) : Split :=
  if lane then { sp with laneAge := n } else { sp with scalarAge := n }

/-- A split issues on a side: its wait count there returns to 0 (R27), and its quadrant notes it (R26, R300). -/
def State.noteIssue (s : State) (who : Who) (lane : Bool) : State :=
  (s.modSplit who (setAge lane 0)).modCore who.core fun k =>
    let q := amGet Quad.reset k.quads (who.slot / 12)
    let note := some (who.slot, who.entry, match s.split who with | some sp => sp.spc | none => 0)
    let q' := if lane then { q with lastLane := who.slot % 12, issuedLane := note }
      else { q with lastScalar := who.slot % 12, issuedScalar := note }
    { k with quads := amPut k.quads (who.slot / 12) q' }

end Sys2Proof.Machine
end

