-- ==== Sys2Proof/Machine/Lane.lean ====
section
/-! DEFINITION. What every lane instruction shares: checks at dispatch, active lanes, clause progress, lane faults,
operations in flight and their completion (R5, R7, R23, R31, R58, R69, R70, R170, R171, R212, R280). -/

namespace Sys2Proof.Machine

/-- The context of a dispatching lane instruction: its split's head clause, and its active lanes. -/
structure LCtx where
  x : Ctx
  clause : Clause
  act : Lanes

/-- The unit of the instruction that dispatches (R155). -/
def LCtx.unit (y : LCtx) : Nat := y.clause.unit + 1 + y.clause.next

/-- The VA of the instruction that dispatches (R171). -/
def LCtx.va (y : LCtx) : VAddr := laneVa y.x.team y.unit

/-- The active lanes, ascending. -/
def LCtx.lanes (y : LCtx) : List Nat := lanesOf y.act

/-- The lowest active lane. -/
def LCtx.low (y : LCtx) : Nat := y.lanes.headD 0

/-- The context of a split's head clause for an instruction with a predicate (R5, R164). -/
def State.lctxOf (s : State) (who : Who) (p : Pred) : Option LCtx :=
  match s.ctxOf who with
  | none => none
  | some x =>
    match x.split.cq with
    | [] => none
    | c :: _ =>
      let act := c.exec &&& predLanes x.warp p
      some ⟨x, c, match c.owed with | some m => act &&& m | none => act⟩

/-- The executing split's. -/
def State.lctx (s : State) (p : Pred) : Option LCtx := s.lctxOf s.cur p

/-- The feature that gates a lane instruction (R169). -/
def gateOf (i : Instr) : Nat :=
  match encodeLane i with
  | some w => laneGate (w / 2 ^ 92 % 16) (w / 2 ^ 86 % 64) (w % 2 ^ 32)
  | none => 0

/-- The lane registers the budget check covers: NEXT's vd + 1 is decided at dispatch (R53, R264). -/
def budgetRegs (i : Instr) : List Nat :=
  match i with
  | .next x | .nextBounded x => [x.vd.toNat, x.vc.toNat] ++ predRegs x.pred
  | _ => vDests i ++ vSrcs i

/-- The instruction after the head instruction becomes the next one of a clause that has started; a finished clause leaves the
queue (R7, R23, R102). -/
def Split.stepClause (sp : Split) : Split :=
  match sp.cq with
  | [] => sp
  | c :: cs =>
    if c.next + 1 < c.words.length then
      { sp with cq := { c with started := true, next := c.next + 1, owed := none } :: cs, laneWait := .run }
    else { sp with cq := cs, laneWait := .run }

/-- The entry number of the operations whose split has left the warp (R280). -/
def noEntry : Nat := 32

/-- Charge the operations of one entry to another. -/
def Warp.recharge (w : Warp) (e e' : Nat) : Warp :=
  { w with ops := w.ops.map fun o => if o.entry = e then { o with entry := e' } else o }

/-- An entry whose split has left and whose queue has emptied is free again (R24); its operations in flight are no later
split's. -/
def Warp.sweep (w : Warp) (e : Nat) : Warp :=
  match amFind w.splits e with
  | some sp =>
    if !sp.live && sp.cq.isEmpty && sp.pend.isEmpty then { w with splits := amDel w.splits e }.recharge e noEntry else w
  | none => w

/-- The clause moves on past the instruction. -/
def State.moveOn (s : State) (y : LCtx) : State :=
  s.modWarp y.x.who.core y.x.who.slot fun w => (w.modSplit y.x.who.entry Split.stepClause).sweep y.x.who.entry

/-- One more instruction in a team's INSTR (R138). -/
def State.countInstr (s : State) (core team : Nat) : State :=
  s.modTeam core team fun t => { t with instr := t.instr + 1 }

/-- The instruction has dispatched (R138): it counts in INSTR, and the clause moves on. -/
def State.dispatched (s : State) (y : LCtx) : State := (s.countInstr y.x.who.core y.x.warp.team).moveOn y

/-- The lane side is held: the instruction stays undispatched. -/
def State.laneHold (s : State) (y : LCtx) (r : LaneWait) : State :=
  s.modSplit y.x.who fun sp => { sp with laneWait := r }

/-- A split leaves a latch with its warp. A latch at which every listed warp had arrived has released (R284): its joint MMA is
that of the participants left, so it lists them alone (log 16). -/
def Latch.leave (l : Latch) (widx : Nat) (p : Nat × Nat) : Latch :=
  if l.waiting.contains p then
    { l with waiting := l.waiting.erase p, wmask := if l.full then l.wmask &&& ~~~BitVec.ofNat 16 (2 ^ widx) else l.wmask }
  else l

/-- A split whose queue is discarded is at no rendezvous latch any more: it takes no part in a joint MMA that has still to
dispatch, for its MMA.j is not dispatched (R171, R237); the others there keep waiting (log 16). -/
def State.leaveLatches (s : State) (who : Who) : State :=
  if (s.core who.core).latches.isEmpty then s
  else s.modCore who.core fun k =>
    { k with latches := (k.latches.map fun l => l.leave (k.indexOf who.slot) (who.slot, who.entry)).filter fun l =>
        !l.waiting.isEmpty }

/-- A fault of a lane instruction that is not replayable (R171): the rest of the clause and the clauses behind it are
discarded and the fault waits for the split's next scalar boundary, held where the team stops or is stopped (R303). A
draining entry takes no trap: the registers are written, the team stops and the warp does not retire; where the team stops or is
stopped already, all this is held until it resumes (`State.takeHeld`). -/
def State.recordLaneFault (s : State) (who : Who) (t : PendTrap) : State :=
  match s.warp who.core who.slot with
  | none => s
  | some w =>
    let gone (w : Warp) : Warp :=
      if s.issuing who.core w.team then { w.setTrap t with held := w.held ++ [{ t with held := false }] }
      else { w with held := w.held ++ [{ t with held := true }] }
    match amFind w.splits who.entry with
    | none => (s.setWarp who.core who.slot (gone w)).stopTeam who.core w.team 1 t.cause.code
    | some sp =>
      if sp.live then
        let t := { t with held := !s.issuing who.core w.team }
        (s.leaveLatches who).modSplit who fun sp => { sp with cq := [], pend := sp.pend ++ [t], laneWait := .run }
      else
        let s := s.setWarp who.core who.slot ((gone w).modSplit who.entry fun sp => { sp with cq := [] })
        (s.modWarp who.core who.slot fun w => w.sweep who.entry).stopTeam who.core w.team 1 t.cause.code

/-- Traps of draining entries that were held while a team was stopped, as warp slot and trap, by slot (R171, R303). -/
def State.heldTraps (s : State) (core team : Nat) : List (Nat × PendTrap) :=
  ((s.core core).warps.filter fun w => w.2.team == team).flatMap fun w => (w.2.held.filter (·.held)).map fun t => (w.1, t)

/-- A team resumes: of the traps of draining entries held meanwhile the first is taken, which stops the team again; the others
stay held until it resumes the next time (R171, R303; log 100). -/
def State.takeHeld (s : State) (core team : Nat) : State :=
  match s.heldTraps core team with
  | [] => s
  | (slot, t) :: _ =>
    (s.modWarp core slot fun w =>
      { w.setTrap t with held := w.held.erase t ++ [{ t with held := false }] }).stopTeam core team 1 t.cause.code

/-- A lane trap's record (R171). -/
def laneTrap (c : Cause) (lane : Nat) (pc addr : VAddr) : PendTrap :=
  { laneSide := true, lane := lane, cause := c, pc := pc, addr := addr }

/-- The trap of a lane instruction whose feature is absent (R107, R347). -/
def absentTrap (pc : VAddr) (f : Nat) : PendTrap :=
  { laneSide := true, lane := 0, cause := .featureAbsent, pc := pc, addr := 0, feature := some f }

/-- An instruction that had counted stalls for a replay: it counts once, when it completes (R138). -/
def State.uncountInstr (s : State) (core team : Nat) : State :=
  s.modTeam core team fun t => { t with instr := t.instr - 1 }

/-- The dispatching instruction faults (R171). -/
def State.laneFault (s : State) (y : LCtx) (c : Cause) (lane : Nat) (addr : VAddr) : State :=
  s.recordLaneFault y.x.who (laneTrap c lane y.va addr)

/-- Residue checks apply: the feature is present, and the clause does not disable them under DBG (R69, R70). -/
def checksOn (s : State) (y : LCtx) : Bool :=
  s.hasFeature 27 && !(hdrNoCheck y.clause.header && y.x.core.sampleCtl.getLsbD 8)

/-- The lanes in which an instruction with active lanes reads its sources: HAD reads every lane (R204). -/
def readLanes (y : LCtx) : Instr → List Nat
  | .had _ => if y.act = 0 then [] else List.range 32
  | _ => y.lanes

/-- The lane registers an instruction names as sources other than its predicate. -/
def vOperands (i : Instr) : List Nat := (vSrcs i).take ((vSrcs i).length - (predRegs (instrPred i)).length)

/-- The lane an SHFL, BFLY or BCAST reads va from (R205). -/
def sourceLane (i : Instr) (y : LCtx) (l : Nat) : Nat :=
  match i with
  | .shfl a => (opBVal y.x.warp y.clause.gs a.b a.imm l).toNat % 32
  | .bfly a => l ^^^ ((opBVal y.x.warp y.clause.gs a.b a.imm l).toNat % 32)
  | .bcast a => (opBVal y.x.warp y.clause.gs a.b a.imm y.low).toNat % 32
  | _ => l

/-- The g registers an instruction reads from the clause's capture (R164). -/
def capturedRegs (i : Instr) : List Nat :=
  match encodeLane i with
  | some w => captureOf (BitVec.ofNat 96 w)
  | none => []

/-- The words of lane registers an instruction reads beside its predicate, as (register, lane): none without an active lane (R69,
R247). -/
def wordsRead (y : LCtx) (i : Instr) : List (Nat × Nat) :=
  let each (rs ls : List Nat) : List (Nat × Nat) := ls.flatMap fun l => rs.map fun r => (r, l)
  match i with
  | .shfl a | .bfly a | .bcast a => each (opBRegs a.b) y.lanes ++ (y.lanes.map fun l => (a.va.toNat, sourceLane i y l))
  | .qfence a => each [a.va.toNat, a.va.toNat + 1] (y.lanes.filter (· < 3))
  | .tqpop a | .tqsteal a => each [a.va.toNat, a.va.toNat + 1] (y.lanes.take 1)
  | .itopen a | .itsave a | .itload a => each [a.va.toNat] (y.lanes.take 1)
  | _ => each (vOperands i) (readLanes y i)

/-- The words of its predicate an instruction reads: one in each lane of EXEC (R5, R162). -/
def predRead (y : LCtx) (i : Instr) : List (Nat × Nat) :=
  (lanesOf y.clause.exec).flatMap fun l => (predRegs (instrPred i)).map fun r => (r, l)

/-- The first register check a dispatching instruction meets (R69): of the lane registers the one in the lowest lane
(R66), the captured g registers after them, and the unit's prediction last; without an active lane its predicate alone is read
(R247). The order among registers is the model's (log 70). -/
def laneCheck (s : State) (y : LCtx) (i : Instr) : Option VAddr :=
  if checksOn s y then
    match badWord y.x.warp (predRead y i ++ wordsRead y i) with
    | some r => some r
    | none =>
      if y.act = 0 then none
      else match (capturedRegs i).find? fun g => !cellGood (capturedCell y.clause.gs (BitVec.ofNat 6 g)) with
      | some g => some (checkAddr 1 g 0)
      | none => unitCheck y.x.warp i ((vDests i).headD 0) y.lanes
  else none

/-- An instruction whose operation goes on after dispatch and raises flags (R209, R229, R246: "LL"). -/
def isLong : Instr → Bool
  | .ld _ | .ldc _ | .gather _ | .gatherP _ | .st _ | .stc _ | .scatter _
  | .atomAdd _ | .atomMin _ | .atomMax _ | .atomAnd _ | .atomOr _ | .atomXor _ | .atomExch _ | .atomCas _
  | .redAdd _ | .redMin _ | .redMax _ | .redAnd _ | .redOr _ | .redXor _
  | .ldf _ | .ldfRc _ | .adja _ | .adjr _ | .adjrWait _ | .adjq _ | .phaseRel _ | .phaseAcq _
  | .mma _ | .mmaJ _ | .bld _ | .stacc _ | .zacc _ | .qpush _ | .qfence _ | .launch _
  | .barrive _ | .barriveBytes _ | .gbar _ | .fbar _ | .strag _ | .tqpop _ | .tqsteal _ | .tqdone _
  | .next _ | .nextBounded _ => true
  | _ => false

/-- An operation in flight that holds the warp's later lane instructions until it completes: a PHASE (R145), an
access or atomic with .acq (R147, R212), TQPOP and TQSTEAL, which acquire (R257), an MWAIT that waits (R244). -/
def holdsLater : Instr → Bool
  | .phaseRel _ | .phaseAcq _ | .tqpop _ | .tqsteal _ | .mwait _ => true
  | .ld x | .gather x | .gatherP x | .st x | .scatter x
  | .atomAdd x | .atomMin x | .atomMax x | .atomAnd x | .atomOr x | .atomXor x | .atomExch x | .atomCas x =>
    x.ord == .acq || x.ord == .acqRel
  | _ => false

/-- Flags that would pass 63 (R58). -/
def flagsFull (w : Warp) (m : BitVec 12) : Bool := (List.range 12).any fun i => m.getLsbD i && 63 ≤ w.flag i

/-- What any lane instruction may wait for before it dispatches: a lane register it reads or writes, or the g register it
writes, is still being written (R23, R56), an operation of its split waits for a replay or has failed (R171), a PHASE, an
acquire or an MWAIT of its warp is in flight (R145, R147, R244), a flag it would raise is full (R58). R23 speaks of reads
alone: that a write of the register waits too is the model's choice (log 71). -/
def laneWaits (y : LCtx) (i : Instr) : LaneWait :=
  if (vSrcs i ++ vDests i).any y.x.warp.vBusy || (gDest i).any y.x.warp.gBusy then .operand
  else if y.x.warp.clauseHeld y.x.who.entry then .operand
  else if y.x.warp.ops.any (fun o => holdsLater o.instr) then .phase
  else if isLong i && y.act != 0 && flagsFull y.x.warp (hdrFlags y.clause.header) then .flagFull
  else .run

/-- What every lane instruction goes through at dispatch: its gate and budget (R170), the waits of laneWaits,
the register checks of R69; then its own effect. With no active lane it changes nothing and counts once (R195, R212,
R230, R247). -/
def runLane (s : State) (i : Instr) (body : LCtx → State) : Host.Outcome State Fault Refusal :=
  match s.lctx (instrPred i) with
  | none => .fault .noSplit
  | some y => .next (
    if !s.hasFeature (gateOf i) then
      s.recordLaneFault y.x.who (absentTrap y.va (gateOf i))
    else if (budgetRegs i).any (y.x.warp.budget ≤ ·) then s.laneFault y .reservedField 0 0
    else match laneWaits y i with
      | .run =>
        (match laneCheck s y i with
        | some a => (s.spendFlip y.x.who a).laneFault y .registerCheck (a.toNat % 32) a
        | none => if y.act = 0 then s.dispatched y else body y)
      | r => s.laneHold y r)

/-- What a split's lane side does before an instruction executes: the head clause starts (R7) and its next word is
decoded; a decode fault is taken at the instruction with LANE 0 (R170). -/
def laneFetch (s : State) (x : Ctx) : State × Option Instr :=
  match x.split.headWord with
  | none => (s, none)
  | some (c, w) =>
    let s := s.modSplit x.who fun sp => match sp.cq with
      | [] => sp
      | h :: t => { sp with cq := { h with started := true } :: t }
    let pc := laneVa x.team (c.unit + 1 + c.next)
    match decodeLane w with
    | .ok i => (s, some i)
    | .error .illegalOp => (s.recordLaneFault x.who (laneTrap .illegalOp 0 pc 0), none)
    | .error (.reservedField g _) =>
      if s.hasFeature g then (s.recordLaneFault x.who (laneTrap .reservedField 0 pc 0), none)
      else (s.recordLaneFault x.who (absentTrap pc g), none)

/-- The flags an instruction raises: those of its clause, if it is a long-latency operation (R7, R58). -/
def opFlags (y : LCtx) (i : Instr) : BitVec 12 := if isLong i then hdrFlags y.clause.header else 0

/-- The number a new operation of the warp takes: no operation in flight has it. -/
def Warp.freshOp (w : Warp) : Nat := w.ops.foldl (fun m o => max m (o.id + 1)) w.nextId

/-- A new operation in flight: its flags rise and the clause moves on (R7, R58). One that stalls at its dispatch counts in
INSTR when it completes (R138). -/
def State.launchOp (s : State) (y : LCtx) (i : Instr) (accs : List Acc) (rel : RelSt) (aux : OpAux) : State :=
  let k := s.core y.x.who.core
  let stalls := accs.any (·.st.held)
  let s := s.setCore y.x.who.core { k with serial := k.serial + 1 }
  let s := s.modWarp y.x.who.core y.x.who.slot fun w =>
    let op : Op :=
      { id := w.freshOp, serial := k.serial, entry := y.x.who.entry, clauseSerial := y.clause.serial, unit := y.unit,
        instr := i, flags := opFlags y i, act := y.act, accs := accs, rel := rel, aux := aux, counted := !stalls
        clause := some y.clause }
    { w.raise (opFlags y i) with ops := w.ops ++ [op], nextId := w.freshOp + 1 }
  if stalls then s.moveOn y else s.dispatched y

/-- The operation of a warp with an id. -/
def Warp.op (w : Warp) (id : Nat) : Option Op := w.ops.find? (·.id == id)

/-- Replace an operation. -/
def Warp.setOp (w : Warp) (o : Op) : Warp := { w with ops := w.ops.map fun p => if p.id = o.id then o else p }

/-- Remove an operation and lower its flags (R7, R58). -/
def Warp.endOp (w : Warp) (o : Op) : Warp := { w.lower o.flags with ops := w.ops.filter (·.id != o.id) }

/-- Keep an operation in the state: where it has not changed, nothing does. One that has a lane stalled counts in INSTR once it
completes, and no more before (R138). -/
def State.setOp (s : State) (c w : Nat) (o : Op) : State :=
  match s.warp c w with
  | some v =>
    if v.op o.id = some o then s
    else if o.counted && o.accs.any (·.st.held) then
      (s.setWarp c w (v.setOp { o with counted := false })).uncountInstr c v.team
    else s.setWarp c w (v.setOp o)
  | none => s

/-- The operation an event names, with its warp and team. -/
def State.findOp (s : State) (c w id : Nat) : Option (Op × Warp × Team) :=
  match s.warp c w with
  | none => none
  | some x =>
    match x.op id, s.team c x.team with
    | some o, some t => some (o, x, t)
    | _, _ => none

/-- Every lane of an operation is over; once one has failed for good, those that wait for a replay are dropped
(R171). -/
def Op.isOver (o : Op) : Bool :=
  o.accs.all fun a => a.st.isOver || (a.st.held && o.accs.any (·.st.bad))

/-- A lane that failed, with its cause. -/
def Acc.failure (a : Acc) : Option (Nat × Cause × Nat) :=
  match a.st with
  | .failed c => some (a.lane, c, a.va)
  | _ => none

/-- An operation after whose completion the core performs PHASE.acq (R147, R212, R257). -/
def acquiresAfter : Instr → Bool
  | .tqpop _ | .tqsteal _ => true
  | .ld x | .gather x | .gatherP x | .st x | .scatter x => x.ord == .acq || x.ord == .acqRel
  | .atomAdd x | .atomMin x | .atomMax x | .atomAnd x | .atomOr x | .atomXor x | .atomExch x | .atomCas x =>
    (x.ord == .acq || x.ord == .acqRel) && x.imm.toNat % 4 != 1
  | _ => false

/-- End an operation whose lanes are all over (R7, R280): a failed lane is recorded against the split before the flags
fall; the lowest failing lane names the trap. -/
def State.finishOp (s : State) (c w : Nat) (o : Op) : State :=
  match s.findOp c w o.id with
  | none => s
  | some (_, x, t) =>
    let s := match o.accs.filterMap Acc.failure with
      | [] =>
        let s := if o.counted then s else s.countInstr c x.team
        if acquiresAfter o.instr then s.phaseAcq c else s
      | f :: _ =>
        let mma := match o.instr with
          | .mma _ | .mmaJ _ => true
          | _ => false
        s.recordLaneFault ⟨c, w, o.entry⟩
          { laneTrap f.2.1 f.1 (laneVa t o.unit) (BitVec.ofNat 54 f.2.2) with mma := mma }
    s.modWarp c w fun w => w.endOp o

/-- Keep an operation's new lanes, and end it once every lane is over. -/
def State.updateOp (s : State) (c w : Nat) (o : Op) : State :=
  if o.isOver then (s.setOp c w o).finishOp c w o else s.setOp c w o

/-- Write a result into lane registers of a warp (R53). -/
def State.writeV (s : State) (c w : Nat) (v : VReg) (l : Nat) (ws : List Word) : State :=
  s.modWarp c w fun x => x.setVs v.toNat l ws

end Sys2Proof.Machine
end

