-- ==== Sys2Proof/Machine/MemOp.lean ====
section
/-! DEFINITION. Lane memory operations from dispatch to completion: addresses, checks, the two fault policies, releases,
packets, and the order in which lanes may be performed (R141 to R147, R171, R209 to R213, R217). -/

namespace Sys2Proof.Machine

/-- What a lane memory instruction asks of its accesses (R209 to R213). -/
structure MemSpec where
  acc : Access
  n : Nat
  whole : Bool
  adj : Bool := false
  aligned : Bool := true
  rel : Bool := false
  /-- 0 device, 1 core, 2 cluster, 3 fabric (R168). -/
  scope : Nat := 0
  /-- KIND and operation of its packets (R320). -/
  kind : Nat := 1
  op : Nat := 0
  /-- Bytes at a lane's address that it may not pass a lower lane at (R87, R142, R219, R225); 0 where lanes are free. -/
  order : Nat := 0

/-- A lane of it stores: ST and SCATTER, an atomic or a reduction (R138, R320). -/
def MemSpec.stores (sp : MemSpec) : Bool := sp.kind == 2 || sp.kind == 3

/-- An ordering qualifier asks for a release. -/
def ordRel (o : Ord) : Bool := o == .rel || o == .acqRel

/-- The function number of an atomic (R168, R219). -/
def atomFn : Instr → Nat
  | .atomAdd _ => 0x08
  | .atomMin _ => 0x09
  | .atomMax _ => 0x0A
  | .atomAnd _ => 0x0B
  | .atomOr _ => 0x0C
  | .atomXor _ => 0x0D
  | .atomExch _ => 0x0E
  | .atomCas _ => 0x0F
  | .redAdd _ => 0x10
  | .redMin _ => 0x11
  | .redMax _ => 0x12
  | .redAnd _ => 0x13
  | .redOr _ => 0x14
  | .redXor _ => 0x15
  | _ => 0

/-- The fields and the accesses of a global memory instruction, if it is one. -/
def memSpec (i : Instr) : Option (MemArgs × MemSpec) :=
  match i with
  | .ld x => some (x, { acc := .read, n := x.w.bytes, whole := true, rel := ordRel x.ord })
  | .gather x => some (x, { acc := .read, n := x.w.bytes, whole := false, rel := ordRel x.ord, op := 3 })
  | .gatherP x =>
    some (x, { acc := .read, n := x.w.bytes, whole := false, adj := x.imm == 1, rel := ordRel x.ord
               kind := if x.imm = 1 then 4 else 1, op := if x.imm = 1 then 0 else 4 })
  | .st x =>
    some (x, { acc := .write, n := x.w.bytes, whole := true, rel := ordRel x.ord, kind := 2, order := x.w.bytes })
  | .scatter x =>
    some (x, { acc := .write, n := x.w.bytes, whole := false, rel := ordRel x.ord, kind := 2, op := 3
               order := x.w.bytes })
  | .ldf x => some (x, { acc := .read, n := x.w.bytes, whole := false, adj := true, kind := 4 })
  | .ldfRc x => some (x, { acc := .read, n := x.w.bytes, whole := false, adj := true, kind := 4, op := 1 })
  | .adja x =>
    some (x, { acc := .read, n := 4, whole := false, adj := true, aligned := false, kind := 4, op := 2, order := 64 })
  | .adjr x =>
    some (x, { acc := .read, n := x.w.bytes, whole := false, adj := true, aligned := false, kind := 4, op := 3, order := 1 })
  | .adjrWait x =>
    some (x, { acc := .read, n := x.w.bytes, whole := false, adj := true, aligned := false, kind := 4, op := 4, order := 1 })
  | .adjq x => some (x, { acc := .read, n := 4, whole := false, adj := true, aligned := false, kind := 4, op := 5 })
  | .atomAdd x | .atomMin x | .atomMax x | .atomAnd x | .atomOr x | .atomXor x | .atomExch x | .atomCas x
  | .redAdd x | .redMin x | .redMax x | .redAnd x | .redOr x | .redXor x =>
    some (x, { acc := .atomic, n := x.w.bytes, whole := false, rel := ordRel x.ord, scope := x.imm.toNat % 4, kind := 3
               op := atomFn i, order := x.w.bytes })
  | _ => none

/-- The bytes a lane of a store enables: all, or those of its mask under .m (R215). -/
def storeEnables (x : MemArgs) (w : Warp) (l : Nat) : Nat :=
  if x.imm = 1 then (w.vv x.vc.toNat l).toNat % 2 ^ x.w.bytes else 2 ^ x.w.bytes - 1

/-- One active lane's access at dispatch (R210, R211). -/
def laneAcc (y : LCtx) (i : Instr) (x : MemArgs) (sp : MemSpec) (l : Nat) : Acc :=
  let w := y.x.warp
  let en := match i with
    | .st _ => storeEnables x w l
    | _ => 2 ^ sp.n - 1
  let cmp := match i with
    | .atomCas _ => vGroup w x.vc x.w.regs l % 256 ^ sp.n
    | _ => 0
  { lane := l, va := globalAddr w y.clause.gs x.g x.va l, pa := 0, cnt := false, path := .l1
    data := vGroup w x.vb x.w.regs l % 256 ^ sp.n, cmp := cmp, en := en, ret := 0, st := .todo }

/-- The translated address of a lane, as its access uses it. -/
def Acc.xlat (a : Acc) : Xlat := ⟨a.pa, a.path == .home && !a.cnt, a.cnt⟩

/-- Translate and check one lane (R74, R81, R96, R211). A store that is checked as a whole also meets twin and shadow
addresses here (R90, R213). -/
def State.checkAcc (s : State) (core : Nat) (t : Team) (sp : MemSpec) (a : Acc) : State × Acc :=
  if sp.aligned && a.va % sp.n != 0 then (s, { a with st := .failed .misaligned })
  else if inAperture a.va then
    if 992 < aperturePeer a.va then (s, { a with st := .failed .outOfRange })
    else (s, { a with path := .fabric, st := .todo })
  else match s.translate core t.asid t.priv a.va sp.acc with
    | (s, .error c) => (s, { a with st := .failed c })
    | (s, .ok x) =>
      let home := sp.acc == .atomic || (sp.adj && (x.cnt || sp.kind != 4 || sp.op != 1))
      let a := { a with pa := x.pa, cnt := x.cnt, path := if home then .home else pathAt x, st := .todo }
      if sp.whole && sp.acc == .write && x.cnt then
        match s.gateStore t.asid t.priv a.va x sp.n a.en false with
        | (s, .error (c, _)) => (s, { a with st := .failed c })
        | (s, .ok _) => (s, a)
      else (s, a)

/-- Check lanes in ascending order. -/
def State.checkAccs (s : State) (core : Nat) (t : Team) (sp : MemSpec) : List Acc → State × List Acc
  | [] => (s, [])
  | a :: as =>
    let r := s.checkAcc core t sp a
    let q := r.1.checkAccs core t sp as
    (q.1, r.2 :: q.2)

/-- A lane that has met a replayable fault. -/
def Acc.soft (a : Acc) : Option Cause :=
  match a.st with
  | .failed c => if c.replayable then some c else none
  | _ => none

/-- A lane that has met a fault that is not replayable. -/
def Acc.hard (a : Acc) : Option Cause :=
  match a.st with
  | .failed c => if c.replayable then none else some c
  | _ => none

/-- Write one record per cause and page for the lanes with replayable faults, in lane order; each such lane stalls on
its record (R123, R171). `made` holds the records written so far. -/
def State.stallAccs (s : State) (core slot : Nat) (asid : Asid) (sp : MemSpec) (all : List Acc) :
    List Acc → List (Cause × Nat × Nat) → State × List Acc
  | [], _ => (s, [])
  | a :: as, made =>
    match a.soft with
    | none =>
      let r := s.stallAccs core slot asid sp all as made
      (r.1, a :: r.2)
    | some c =>
      match made.find? fun m => m.1 == c && m.2.1 == a.va / 8192 with
      | some m =>
        let r := s.stallAccs core slot asid sp all as made
        (r.1, { a with st := .stalled m.2.2 } :: r.2)
      | none =>
        let lanes := maskOf ((all.filter fun b => b.soft == some c && b.va / 8192 == a.va / 8192).map (·.lane))
        let f := s.addFault
          { va := a.va, cause := c, source := 0, flags := faultFlags true sp.acc sp.adj, unit := slot, core := core
            asid := asid, lanes := lanes, fseq := 0 }
        let r := f.1.stallAccs core slot asid sp all as ((c, a.va / 8192, f.2) :: made)
        (r.1, { a with st := .stalled f.2 } :: r.2)

/-- The packets of an operation's aperture lanes, sent in order; a lane whose peer cannot be reached fails (R108,
R319). -/
def State.sendGroups (s : State) (core slot id : Nat) (sp : MemSpec) (w : Nat) : List (List Acc) → State × List Acc
  | [] => (s, [])
  | g :: gs =>
    let p := lanePacket sp.kind sp.op sp.n w sp.scope (sp.kind != 1 && (sp.kind != 4 || sp.op == 2)) (sp.op == 0x0F) g
    let r := s.request p (.lane core slot id (maskOf (g.map (·.lane)))) core
    let g := g.map fun a => { a with st := match r.2 with | .ok tag => .sent tag | .error c => .failed c }
    let q := r.1.sendGroups core slot id sp w gs
    (q.1, g ++ q.2)

/-- Replace lanes of a list by lane number. -/
def putAccs (new : List Acc) (as : List Acc) : List Acc :=
  as.map fun a => (new.find? (·.lane == a.lane)).getD a

/-- Some lane of the operation has failed for good: its lanes that wait for a replay are dropped (R171). -/
def Op.failed (o : Op) : Bool := o.accs.any (·.st.bad)

/-- Some lane waits for a replay: a whole-checked instruction performs nothing meanwhile (R213). -/
def Op.blocked (o : Op) (sp : MemSpec) : Bool := sp.whole && o.accs.any (·.st.held) && !o.failed

/-- A lane of the operation may not be performed again by a rerun (R290): atomics, counting loads, ADJA and ADJR. -/
def MemSpec.once (sp : MemSpec) : Bool := sp.kind == 3 || (sp.kind == 4 && sp.op != 1 && sp.op != 5)

/-- IRREV of the team of a warp is set (R290). -/
def State.irrevWarp (s : State) (core slot : Nat) : State :=
  match s.warp core slot with
  | some w => s.irrevocable core w.team
  | none => s

/-- WBYTES counts a lane's bytes as they are performed behind the aperture (R138). -/
def State.countAcc (s : State) (core slot : Nat) (sp : MemSpec) (a : Acc) : State :=
  match s.warp core slot with
  | some w => s.countWrite core w.team a.va sp.n (if sp.kind = 2 then a.en else allBytes sp.n)
  | none => s

/-- The release an operation makes first is over. -/
def Op.released (o : Op) : Bool :=
  match o.rel with
  | .none | .done => true
  | _ => false

/-- The value at a position of a claim's notes. -/
def engVal (vals : List Nat) (i : Nat) : Nat := vals.getD i 0

/-- Word i of bytes read as one number. -/
def numWord (r i : Nat) : Nat := r / 2 ^ (64 * i) % 2 ^ 64

/-- The VA of entry i of a tile queue (R124). -/
def tqEntry (hdr i : Nat) : Nat := (hdr + 64 + 64 * i) % 2 ^ 54

/-- The VA of the slot a QFENCE has claimed, from its notes: word 0 of the descriptor and the slot number (R251). -/
def fenceSlot (vals : List Nat) : Nat :=
  (engVal vals 0 % 2 ^ 54 + engVal vals 1 % 2 ^ (engVal vals 0 / 2 ^ 58) * 64) % 2 ^ 54

/-- An instruction that reaches global memory by accesses of its own (R250, R251, R256 to R259). -/
def isInner : Instr → Bool
  | .qpush _ | .qfence _ | .tqpop _ | .tqsteal _ | .tqdone _ | .strag _ => true
  | _ => false

/-- The lines, by VA, that a lane of such an operation may still access; none while what it reads first has still to say
(R250, R251, R256 to R259). -/
def claimLines (o : Op) (a : Acc) : Option (List Nat) :=
  match o.instr, o.aux with
  | .qpush _, _ => some [a.va / 64]
  | .qfence _, .eng stage vals => if stage < 2 then none else some [a.va / 64, fenceSlot vals / 64]
  | .tqdone _, .eng stage vals =>
    if stage = 0 || (o.accs.find? fun b => !b.st.isOver).any (·.lane != a.lane) then none
    else some [a.va / 64, tqEntry a.va a.data / 64, numWord (engVal vals 0) 3 % 2 ^ 54 / 64]
  | .strag _, _ => some [a.va / 64, (a.va + 64 + 32 * a.data) % 2 ^ 54 / 64]
  | _, _ => none

/-- Such a lane may still access a line. -/
def Op.mayTouch (p : Op) (b : Acc) (line : Nat) : Bool :=
  !b.st.isOver && match claimLines p b with
    | none => true
    | some ls => ls.contains line

/-- A request that a peer performs as it comes: all but the adjoint ones, which it may refuse until later or make wait (R111,
R227). -/
def Op.performedInTurn (p : Op) : Bool :=
  match memSpec p.instr with
  | some (_, sp) => sp.kind != 4
  | none => false

/-- Two lanes of one instruction touch common bytes, by virtual or by physical address; `n` is 64 where a whole line counts
(R87, R142, R219). -/
def Acc.meets (a b : Acc) (n : Nat) : Bool :=
  let at_ (x : Nat) : Nat := if n = 64 then x / 64 * 64 else x
  overlaps (at_ a.va) n (at_ b.va) n || (a.path != .fabric && b.path != .fabric && overlaps (at_ a.pa) n (at_ b.pa) n)

/-- A lane behind the aperture may be sent: no earlier operation of the warp has still to access this lane's peer line from this
lane (R152). -/
def maySend (w : Warp) (o : Op) (a : Acc) : Bool :=
  w.ops.all fun p => o.id ≤ p.id || p.accs.all fun b =>
    b.lane != a.lane ||
    (if isInner p.instr then !p.mayTouch b (a.va / 64)
     else b.path != .fabric || b.va / 64 != a.va / 64 || b.st.isOver ||
      (b.st.isSent && p.performedInTurn))

/-- Of an operation's lanes behind the aperture those that may be sent now: none before a lower lane that touches its bytes
(R142, R152, R219). `held` are the lanes that stay. -/
def sendable (w : Warp) (o : Op) (n : Nat) : List Acc → List Acc → List Acc
  | _, [] => []
  | held, a :: as =>
    if a.path == .fabric && a.st == .todo then
      if maySend w o a && held.all fun b => !a.meets b n then a :: sendable w o n held as
      else sendable w o n (a :: held) as
    else sendable w o n held as

/-- Send the aperture lanes of an operation that may go on (R152, R213, R319). -/
def State.sendLanes (s : State) (core slot : Nat) (o : Op) : State × Op :=
  match memSpec o.instr, s.warp core slot with
  | none, _ | _, none => (s, o)
  | some (x, sp), some w =>
    if o.blocked sp || !o.released then (s, o)
    else
      let r := s.sendGroups core slot o.id sp (accCode x.w)
        (packLanes sp.n (sendable w o sp.order [] o.accs))
      let sent := r.2.any fun a => match a.st with | .sent _ => true | _ => false
      (if sent && sp.once then r.1.irrevWarp core slot else r.1, { o with accs := putAccs r.2 o.accs })

/-- Keep an operation after a change: its aperture lanes go out, and it ends where its lanes are over. -/
def State.settle (s : State) (core slot : Nat) (o : Op) : State :=
  let r := s.sendLanes core slot o
  r.1.updateOp core slot r.2

/-- Dispatch a global memory instruction (R209 to R213): whole-checked instructions fault before any lane is
performed; replayable faults stall; the operation is then in flight. -/
def memDispatch (s : State) (i : Instr) : Host.Outcome State Fault Refusal :=
  match memSpec i with
  | none => .next s
  | some (x, sp) =>
    runLane s i fun y =>
      let c := y.x.who.core
      let r := s.checkAccs c y.x.team sp (y.lanes.map (laneAcc y i x sp))
      match (if sp.whole then r.2.find? (·.hard.isSome) else none) with
      | some a => r.1.laneFault y (a.hard.getD .misaligned) a.lane (BitVec.ofNat 54 a.va)
      | none =>
        let q := r.1.stallAccs c y.x.who.slot y.x.team.asid sp r.2 r.2 []
        let s := q.1.launchOp y i q.2 (if sp.rel then .pending else .none) .none
        match s.findOp c y.x.who.slot y.x.warp.freshOp with
        | none => s
        | some o => s.settle c y.x.who.slot o.1

/-! ### Going on -/

/-- After a REPLAY, translate again the lanes to be retried (R171, R213, R228). -/
def State.retryOp (s : State) (core slot : Nat) (t : Team) (sp : MemSpec) (o : Op) : State × Op :=
  let todo := o.accs.filter fun a => a.st == .retry
  if todo.isEmpty || o.accs.any (·.st.bad) then (s, o)
  else
    let r := s.checkAccs core t sp todo
    if sp.whole && r.2.any (·.hard.isSome) then
      let bad := r.2.filter (·.hard.isSome)
      (r.1, { o with accs := (putAccs bad o.accs).map fun a => if a.st.bad then a else { a with st := .done } })
    else
      let q := r.1.stallAccs core slot t.asid sp r.2 r.2 []
      (q.1, { o with accs := putAccs q.2 o.accs })

/-- The operation ends with one fault in its lowest lane, at an address, with no further lane performed (R83, R152). -/
def Op.failAll (o : Op) (c : Cause) (va : Option Nat) : Op :=
  match o.accs with
  | [] => { o with accs := [{ lane := (lanesOf o.act).headD 0, va := va.getD 0, pa := 0, cnt := false, path := .l1
                              data := 0, cmp := 0, en := 0, ret := 0, st := .failed c }] }
  | a :: as => { o with accs := { a with st := .failed c, va := va.getD a.va } :: as.map fun b => { b with st := .done } }

/-- One lane fails in an instruction that goes on with its next lane, from that lane's release on (R213, R259). -/
def Op.failLane (o : Op) (lane : Nat) (c : Cause) (va : Nat) : Op :=
  { o with
    rel := .pending
    aux := .eng 0 []
    accs := o.accs.map fun a => if a.lane = lane then { a with va := va, st := .failed c } else a }

/-- The release an operation makes first fails (R83, R152): the operation ends, or of a TQDONE the lane whose release it
was (R259). -/
def Op.failRel (o : Op) (c : Cause) (va : Option Nat) : Op :=
  match o.instr, o.accs.find? fun a => !a.st.isOver with
  | .tqdone _, some a => o.failLane a.lane c (va.getD a.va)
  | _, _ => { o.failAll c va with rel := .done }

/-- An operation accesses memory: its lanes do (R142, R145), or it uses AM or the névé slice (R141). -/
def Op.isMem (o : Op) : Bool :=
  !o.accs.isEmpty || (match o.aux with
    | .mma _ _ _ _ _ _ | .mmaShare _ _ | .bld _ | .acc _ => true
    | _ => false)

/-- Every memory access the warp dispatched before an operation has been performed (R145, R147, R148). -/
def Warp.priorDone (w : Warp) (id : Nat) : Bool := w.ops.all fun o => id ≤ o.id || !o.isMem

/-- An outstanding request was made before the operation of that place in its core's order dispatched (R147, R148). -/
def Outstanding.before (s : State) (serial : Nat) (q : Outstanding) : Bool :=
  match q.who with
  | .lane c w id _ => (match s.findOp c w id with
    | some (p, _, _) => p.serial < serial
    | none => true)
  | _ => true

/-- Fabric stores, atomics and multicasts of a core, made before a place in its order, that are not acknowledged (R147, R148,
R152). -/
def State.unacked (s : State) (core serial : Nat) : List Nat :=
  ((s.fab.outstanding.filter fun q => q.core == core && (q.packet.kind == 2 || q.packet.kind == 3 ||
    q.packet.kind == 5) && q.before s serial).map (·.tag))

/-- An operation has stores or atomics still to make, as its instruction and its notes say (R147, R148, R250 to R259). -/
def Op.hasStores (p : Op) : Bool :=
  match p.instr, p.aux with
  | .strag _, _ => false
  | .qpush _, .eng stage _ => stage < 2
  | i, _ => match memSpec i with
    | some (_, sp) => sp.stores
    | none => isInner i

/-- A lane of an operation has still to send a fabric store or atomic (R147, R148, R152). -/
def Op.unsent (p : Op) : Bool :=
  p.hasStores && p.accs.any fun b => b.path == .fabric && !b.st.isOver && !b.st.isSent

/-- A fabric store or atomic that a core dispatched before a place in its order has still to be sent. -/
def Core.unsent (k : Core) (serial : Nat) : Bool := k.warps.any fun w => w.2.ops.any fun p => p.serial < serial && p.unsent

/-- The scope of an operation's release (R168, R259). -/
def relScope (o : Op) : Nat :=
  match memSpec o.instr with
  | some (_, sp) => sp.scope
  | none => match o.instr with
    | .tqdone _ => (match o.accs.find? fun a => !a.st.isOver with
      | some a => if a.path == .fabric then 3 else 0
      | none => 0)
    | _ => 0

/-- Go on with the release an operation makes before its own effect (R83, R147, R152, R212). -/
def State.releaseStep (s : State) (core : Nat) (w : Warp) (o : Op) : State × Op :=
  match o.rel with
  | .none | .done => (s, o)
  | .pending =>
    if !w.priorDone o.id then (s, o)
    else if relScope o = 1 then (s, { o with rel := .done })
    else
      match s.phaseRel core (some w.team) with
      | (s, some va) => (s, o.failRel .memoryUncorrectable (some va))
      | (s, none) =>
        if relScope o = 3 then
          if (s.core core).unsent o.serial then (s, o)
          else match s.unacked core o.serial with
          | [] => (s, { o with rel := .done })
          | ts => (s, { o with rel := .fab ts none })
        else (s, { o with rel := .done })
  | .fab tags fail =>
    if tags.any fun t => s.fab.outstanding.any fun q => q.tag == t then (s, o)
    else match fail with
      | some c => (s, o.failRel c none)
      | none => (s, { o with rel := .done })

/-- A lane whose page is not known, because its translation has met a replayable fault: it may belong to any path. -/
def Acc.vague (a : Acc) : Bool := a.st.held && a.path == .l1

/-- An access of a warp waits for an earlier one of it (R142): both take the L1 path, or both go home from one lane to one
line. A lane whose translation is stalled may turn out to take either path to any line. -/
def Acc.behind (a b : Acc) : Bool :=
  !b.st.isOver && a.path != .fabric && b.path != .fabric && a.path != .lm && b.path != .lm &&
  ((a.path == .l1 && b.path == .l1) || (a.path == .home && a.lane == b.lane &&
    (b.vague || (b.path == .home && (a.va / 64 == b.va / 64 || a.pa / 64 == b.pa / 64)))))

/-- A lane of an earlier operation of the warp that an access waits for (R142). -/
def Op.ahead (p : Op) (b a : Acc) : Bool :=
  if isInner p.instr then a.path == .home && a.lane == b.lane && p.mayTouch b (a.va / 64) else a.behind b

/-- Home accesses of a core to a line that were dispatched before an operation and for which its copy of the line has not
been dropped yet (R144). -/
def Core.undropped (k : Core) (o : Op) (line : Nat) : List Op :=
  k.warps.flatMap fun v => v.2.ops.filter fun p => p.serial < o.serial && !isInner p.instr && p.accs.any fun b =>
    !b.st.isOver && b.path == .home && b.pa / 64 == line && !b.drop

/-- The L1-path accesses of a core to a line that were dispatched before an operation are over. -/
def Core.l1Done (k : Core) (o : Op) (line : Nat) : Bool :=
  k.warps.all fun v => v.2.ops.all fun p => o.serial ≤ p.serial || p.accs.all fun b =>
    b.st.isOver || b.path != .l1 || b.pa / 64 != line

/-- A lane may be performed (R142, R144, R219): the warp's earlier accesses it waits for and lower lanes at the same bytes
are over or dropped (R171), and so are the core's earlier L1-path accesses to its line, for an L1-path lane those before an earlier access at
home for which the line has still to be dropped. -/
def mayPerform (k : Core) (w : Warp) (o : Op) (a : Acc) (n : Nat) : Bool :=
  (w.ops.all fun p => o.id ≤ p.id || p.accs.all fun b => !p.ahead b a) &&
  (o.accs.all fun b => a.lane ≤ b.lane || b.st.isOver || (b.st.held && o.failed) || !a.meets b n) &&
  (a.path != .home || a.drop || k.l1Done o (a.pa / 64)) &&
  (a.path != .l1 || (k.undropped o (a.pa / 64)).all fun p => k.l1Done p (a.pa / 64))

/-- A claim or STRAG of a core that was dispatched before an operation may still access a line of global memory at home. -/
def State.innerTouches (s : State) (core : Nat) (o : Op) (line : Nat) : Bool :=
  (s.core core).warps.any fun v => v.2.ops.any fun p => p.serial < o.serial && isInner p.instr && p.accs.any fun b =>
    !b.st.isOver && match claimLines p b, s.team core v.2.team with
      | some ls, some t => ls.any fun l => match (s.translate core t.asid t.priv (l * 64) .read).2 with
        | .ok x => x.pa / 64 == line
        | .error _ => false
      | _, _ => true

/-- Before an L1-path access to a line, the copy of the line is dropped for every access at home dispatched earlier, in
dispatch order (R144); for one that a claim or STRAG has still to make, each time (log 87). -/
def State.dropEarlier (s : State) (core : Nat) (o : Op) (line : Nat) : State :=
  let ps := (s.core core).undropped o line
  if ps.isEmpty && !s.innerTouches core o line then s
  else (s.evict core line).modCore core fun k => { k with
    warps := k.warps.map fun v => (v.1, { v.2 with ops := v.2.ops.map fun (p : Op) =>
      if p.serial < o.serial then
        { p with accs := p.accs.map fun (b : Acc) =>
            if b.path == .home && b.pa / 64 == line then { b with drop := true } else b }
      else p }) }

/-- A lane that meets a replayable fault at home stalls on a record of its own (R171, R222). -/
def State.stallLane (s : State) (core slot : Nat) (asid : Asid) (sp : MemSpec) (a : Acc) (c : Cause) (va : Nat) :
    State × Acc :=
  let f := s.addFault
    { va := va, cause := c, source := 0, flags := faultFlags true sp.acc sp.adj, unit := slot, core := core
      asid := asid, lanes := maskOf [a.lane], fseq := 0 }
  (f.1, { a with st := .stalled f.2 })

/-- A fault found at home: a replayable one stalls the lane, another fails it. -/
def State.homeFault (s : State) (core slot : Nat) (asid : Asid) (sp : MemSpec) (a : Acc) (c : Cause) (va : Nat) :
    State × Acc :=
  if c.replayable then s.stallLane core slot asid sp a c va else (s, { a with st := .failed c })

/-- Perform the named lanes of an operation one by one, as far as each may be. -/
def State.performLanes (s : State) (core slot id : Nat) (n : Nat) (f : State → Team → Op → Acc → State × Acc) :
    List Nat → State
  | [] => s
  | l :: ls =>
    match s.findOp core slot id with
    | none => s
    | some (o, w, t) =>
      match o.accs.find? (·.lane == l) with
      | none => s.performLanes core slot id n f ls
      | some a =>
        if a.st == .todo && a.path != .fabric && mayPerform (s.core core) w o a n then
          let r := f (if a.path == .l1 then s.dropEarlier core o (a.pa / 64) else s) t o a
          let s := match r.1.findOp core slot id with
            | none => r.1
            | some q => r.1.setOp core slot { q.1 with accs := putAccs [r.2] q.1.accs }
          s.performLanes core slot id n f ls
        else s.performLanes core slot id n f ls

/-- What every event that performs lanes of a global memory operation does: retried lanes are translated again, the
release goes on, then the named lanes are performed, and the operation ends where it can. -/
def State.memEvent (s : State) (core slot id : Nat) (lanes : Lanes) (mine : Instr → Bool)
    (f : MemSpec → MemArgs → State → Team → Op → Acc → State × Acc) : State :=
  match s.findOp core slot id with
  | none => s
  | some (o, w, t) =>
    match memSpec o.instr with
    | none => s
    | some (x, sp) =>
      if !mine o.instr then s
      else
        let r := s.retryOp core slot t sp o
        let q := r.1.releaseStep core w r.2
        let o := q.2
        let s := q.1.settle core slot o
        if o.blocked sp || !o.released then s
        else
          let s := s.performLanes core slot id sp.order (f sp x) (lanesOf lanes)
          match s.findOp core slot id with
          | none => s
          | some (o, _, _) => s.settle core slot o

end Sys2Proof.Machine
end

