-- ==== Sys2Proof/Machine/LaneMem.lean ====
section
/-! DEFINITION. Loads and stores of lanes: global memory, LM, cluster LM, GATHER.P, PREF, and the tag table (R103,
R209 to R218, R221); the events that perform them. -/

namespace Sys2Proof.Machine

/-! ### Results -/

/-- The words an instruction writes into vd from what a lane received (R210). -/
def resultWords (i : Instr) (x : MemArgs) (ret : Nat) : List Word :=
  match i with
  | .ld _ | .ldc _ | .gather _ | .gatherP _ | .ldf _ | .ldfRc _ | .adjr _ | .adjrWait _ | .adjq _
  | .atomAdd _ | .atomMin _ | .atomMax _ | .atomAnd _ | .atomOr _ | .atomXor _ | .atomExch _ | .atomCas _ =>
    loadWords x.w ret
  | _ => []

/-- A lane completes with what it received: its destination is written, and for GATHER.P its mask (R212, R217). -/
def State.land (s : State) (core slot : Nat) (i : Instr) (x : MemArgs) (a : Acc) (ret : Nat) : State × Acc :=
  let s := s.writeV core slot x.vd a.lane (resultWords i x ret)
  let s := match i with
    | .gatherP _ => s.writeV core slot x.vc a.lane [1]
    | _ => s
  (s, { a with ret := ret, st := .done })

/-! ### Global loads and stores -/

/-- LD (R214). -/
def execLd (x : MemArgs) (s : State) : Host.Outcome State Fault Refusal := memDispatch s (.ld x)

/-- GATHER (R214). -/
def execGather (x : MemArgs) (s : State) : Host.Outcome State Fault Refusal := memDispatch s (.gather x)

/-- ST, with its mask form (R215). -/
def execSt (x : MemArgs) (s : State) : Host.Outcome State Fault Refusal := memDispatch s (.st x)

/-- SCATTER (R215). -/
def execScatter (x : MemArgs) (s : State) : Host.Outcome State Fault Refusal := memDispatch s (.scatter x)

/-- One lane of GATHER.P is looked up in the TLBs (R217); a miss is marked NOT_PRESENT and a host-owned page MIGRATION,
neither of which stalls here, and only then is the lane checked as GATHER's is. -/
def State.peekAcc (s : State) (core : Nat) (t : Team) (sp : MemSpec) (a : Acc) : State × Acc :=
  if inAperture a.va then s.checkAcc core t sp a
  else match s.tlbLookup core t.asid a.va with
    | (s, none) => (s, { a with st := .failed .notPresent })
    | (s, some e) =>
      if e.own then (s, { a with st := .failed .migration })
      else if a.va % sp.n != 0 then (s, { a with st := .failed .misaligned })
      else match s.checkEntry e t.priv a.va .read with
      | .error c => (s, { a with st := .failed c })
      | .ok x => (s, { a with pa := x.pa, cnt := x.cnt, path := if sp.adj then .home else pathAt x, st := .todo })

/-- Look up lanes in ascending order. -/
def State.peekAccs (s : State) (core : Nat) (t : Team) (sp : MemSpec) : List Acc → State × List Acc
  | [] => (s, [])
  | a :: as =>
    let r := s.peekAcc core t sp a
    let q := r.1.peekAccs core t sp as
    (q.1, r.2 :: q.2)

/-- A walk in flight is one to the page, or to the group, of an address: the leaf it would install covers it (R99). -/
def State.sameWalk (s : State) (v : Walk) (asid : Asid) (va : Nat) : Bool :=
  v.asid == asid && (v.va / 8192 == va / 8192 ||
    (match (s.walk (stackOf v.core) asid v.va).2 with
      | .ok e => e.hits asid va
      | .error _ => false))

/-- Start a walk that nothing waits for, or join the one in flight for this ASID and page or group (R99, R217). -/
def State.startWalk (s : State) (core slot : Nat) (asid : Asid) (va lane : Nat) : State :=
  let same (v : Walk) : Bool := v.gatherP && stackOf v.core == stackOf core && s.sameWalk v asid va
  let joined (v : Walk) : Walk :=
    if same v && v.core == core && v.slot == slot then { v with lanes := v.lanes ||| maskOf [lane] } else v
  let new : Walk :=
    { asid := asid, va := va, core := core, started := false, gatherP := true, lanes := maskOf [lane], slot := slot }
  let ws := if s.hub.walks.any same then s.hub.walks.map joined else s.hub.walks ++ [new]
  { s with hub := { s.hub with walks := ws } }

/-- GATHER.P: a load that reports a lane whose page is in no TLB as incomplete (R217). -/
def execGatherP (x : MemArgs) (s : State) : Host.Outcome State Fault Refusal :=
  runLane s (.gatherP x) fun y =>
    match memSpec (.gatherP x) with
    | none => s
    | some (_, sp) =>
      let c := y.x.who.core
      let w := y.x.who.slot
      let r := s.peekAccs c y.x.team sp (y.lanes.map (laneAcc y (.gatherP x) x sp))
      let miss := r.2.filter fun a => a.soft == some .notPresent
      let own := r.2.filter fun a => a.soft == some .migration
      let s := miss.foldl (fun s a => s.startWalk c w y.x.team.asid a.va a.lane) r.1
      let s := (s.stallAccs c w y.x.team.asid sp own own []).1
      let accs := r.2.map fun a => if a.soft.isSome then { a with st := .done } else a
      let s := s.launchOp y (.gatherP x) accs (if sp.rel then .pending else .none) .none
      let s := (miss ++ own).foldl (fun s a => s.writeV c w x.vc a.lane [0]) s
      match s.findOp c w y.x.warp.freshOp with
      | none => s
      | some o => s.settle c w o.1

/-- PREF: the lines of L1-path lanes are fetched; a home-path line is asked of its home slice, of which nothing shows but the error
of a firn line behind a port that is down (R339; log 49). A lane that cannot be fetched is dropped (R218). -/
def execPref (x : MemArgs) (s : State) : Host.Outcome State Fault Refusal :=
  runLane s (.pref x) fun y =>
    let c := y.x.who.core
    (y.lanes.foldl (fun s l =>
      let va := globalAddr y.x.warp y.clause.gs x.g x.va l
      if inAperture va then s
      else match s.translate c y.x.team.asid y.x.team.priv va .read with
        | (s, .error _) => s
        | (s, .ok p) =>
          if pathAt p == .l1 then (s.fetchLine c (p.pa / 64)).1 else if p.cnt || hubRange p.pa then s else s.unheard p.pa) s).dispatched y

/-! ### LM of the own core (R216) -/

/-- The fault a lane of LDL or STL meets before any is performed (R74, R76). -/
def lmFault (t : Team) (off n : Nat) : Option Cause :=
  if off % n != 0 then some .misaligned else if t.lmSize ≤ off then some .lmOutOfRange else none

/-- Run LDL or STL: all lanes are checked, then performed in ascending order; the lowest failing lane traps (R213,
R216). -/
def State.lmRun (s : State) (y : LCtx) (va : VReg) (imm : Word) (n : Nat)
    (f : State → Nat → Nat → State × Option Cause) : State :=
  let offs := y.lanes.map fun l => (l, localAddr y.x.warp va imm l)
  match offs.findSome? fun p => (lmFault y.x.team p.2 n).map fun c => (p, c) with
  | some (p, c) => s.laneFault y c p.1 (BitVec.ofNat 54 p.2)
  | none =>
    let r := offs.foldl (fun (r : State × Option (Nat × Nat × Cause)) p =>
      match f r.1 p.1 (y.x.team.lmBase + p.2) with
      | (s, none) => (s, r.2)
      | (s, some c) => (s, some (r.2.getD (p.1, p.2, c)))) (s, none)
    match r.2 with
    | some (l, off, c) => r.1.laneFault y c l (BitVec.ofNat 54 off)
    | none => r.1.dispatched y

/-- LDL: from the team's partition into vd (R216). -/
def execLdl (x : MemArgs) (s : State) : Host.Outcome State Fault Refusal :=
  runLane s (.ldl x) fun y =>
    s.lmRun y x.va x.imm x.w.bytes fun s l a =>
      match (s.core y.x.who.core).lmRead a x.w.bytes with
      | .ok bs => (s.writeV y.x.who.core y.x.who.slot x.vd l (loadWords x.w (leNat bs)), none)
      | .error c => (s, some c)

/-- STL: from vb into the team's partition (R216). -/
def execStl (x : MemArgs) (s : State) : Host.Outcome State Fault Refusal :=
  runLane s (.stl x) fun y =>
    s.lmRun y x.va x.imm x.w.bytes fun s l a =>
      match (s.core y.x.who.core).lmWrite a (leBytes x.w.bytes (vGroup y.x.warp x.vb x.w.regs l)) with
      | .ok k => (s.setCore y.x.who.core k, none)
      | .error c => (s, some c)

/-! ### Cluster LM (R77, R216) -/

/-- The team of a gang on a core. -/
def Core.gangTeam (k : Core) (gang : Nat) : Option (Nat × Team) := k.teams.find? fun t => t.2.gang == gang

/-- The device-wide core a cluster LM address names, seen from a core of the cluster (R71). -/
def clusterCore (core a : Nat) : Nat := core / 16 * 16 + a / 2 ^ 20 % 16

/-- A lane of LDC or STC at dispatch: the address must fit, name a core that holds a team of the gang, and lie within
that team's partition (R77, R211). `pa` keeps the target core and the offset. -/
def State.clusterAcc (s : State) (y : LCtx) (x : MemArgs) (n data l : Nat) : Acc :=
  let a := localAddr y.x.warp x.va x.imm l
  let tc := clusterCore y.x.who.core a
  let st : AccSt :=
    if a % n != 0 then .failed .misaligned
    else if a / 2 ^ 24 != 0 then .failed .lmOutOfRange
    else match (s.core tc).gangTeam y.x.team.gang with
      | none => .failed .lmOutOfRange
      | some t => if t.2.lmSize ≤ a % 2 ^ 20 then .failed .lmOutOfRange else .todo
  { lane := l, va := a, pa := tc * 2 ^ 20 + a % 2 ^ 20, cnt := false, path := .lm, data := data, cmp := 0
    en := 2 ^ n - 1, ret := 0, st := st }

/-- LDC: from the LM of a core of the cluster (R216). -/
def execLdc (x : MemArgs) (s : State) : Host.Outcome State Fault Refusal :=
  runLane s (.ldc x) fun y =>
    let s' := s.launchOp y (.ldc x) (y.lanes.map (s.clusterAcc y x x.w.bytes 0)) .none .none
    match s'.findOp y.x.who.core y.x.who.slot y.x.warp.freshOp with
    | none => s'
    | some o => s'.updateOp y.x.who.core y.x.who.slot o.1

/-- STC: into the LM of a core of the cluster (R216). -/
def execStc (x : MemArgs) (s : State) : Host.Outcome State Fault Refusal :=
  runLane s (.stc x) fun y =>
    let s' := s.launchOp y (.stc x)
      (y.lanes.map fun l => s.clusterAcc y x x.w.bytes (vGroup y.x.warp x.vb x.w.regs l % 256 ^ x.w.bytes) l)
      .none .none
    match s'.findOp y.x.who.core y.x.who.slot y.x.warp.freshOp with
    | none => s'
    | some o => s'.updateOp y.x.who.core y.x.who.slot o.1

/-- A lane of LDC or STC may be performed: accesses of its lane to the same core in program order, lanes aimed at one
core ascending (R77, R216). -/
def mayCluster (w : Warp) (o : Op) (a : Acc) : Bool :=
  (w.ops.all fun p => o.id ≤ p.id || p.accs.all fun b =>
    b.st.isOver || b.path != .lm || b.lane != a.lane || b.pa / 2 ^ 20 != a.pa / 2 ^ 20) &&
  o.accs.all fun b => a.lane ≤ b.lane || b.st.isOver || b.pa / 2 ^ 20 != a.pa / 2 ^ 20

/-- Perform one lane of LDC or STC at the target core (R77, R216). -/
def State.clusterLane (s : State) (core slot : Nat) (t : Team) (i : Instr) (a : Acc) : State × Acc :=
  let tc := a.pa / 2 ^ 20
  match (s.core tc).gangTeam t.gang with
  | none => (s, { a with st := .failed .lmOutOfRange })
  | some u =>
    let at_ := u.2.lmBase + a.pa % 2 ^ 20
    match i with
    | .ldc x =>
      (match (s.core tc).lmRead at_ x.w.bytes with
      | .ok bs => s.land core slot i x a (leNat bs)
      | .error c => (s, { a with st := .failed c }))
    | .stc x =>
      (match (s.core tc).lmWrite at_ (leBytes x.w.bytes a.data) with
      | .ok k => (s.setCore tc k, { a with st := .done })
      | .error c => (s, { a with st := .failed c }))
    | _ => (s, a)

/-- Perform the named lanes of an LDC or STC, as far as each may be. -/
def State.clusterLanes (s : State) (core slot id : Nat) : List Nat → State
  | [] => s
  | l :: ls =>
    match s.findOp core slot id with
    | none => s
    | some (o, w, t) =>
      match o.accs.find? (·.lane == l) with
      | none => s.clusterLanes core slot id ls
      | some a =>
        if a.st == .todo && a.path == .lm && mayCluster w o a then
          let r := s.clusterLane core slot t o.instr a
          let s := match r.1.findOp core slot id with
            | none => r.1
            | some q => r.1.updateOp core slot { q.1 with accs := putAccs [r.2] q.1.accs }
          s.clusterLanes core slot id ls
        else s.clusterLanes core slot id ls

/-- CLUSTER_LM_ACK: lanes of an STC are performed at the target core and acknowledged (R77). -/
def execClusterLmAck (core slot op : Nat) (lanes : Lanes) (s : State) : Host.Outcome State Fault Refusal :=
  .next <| match s.findOp core slot op with
  | some (o, _, _) =>
    (match o.instr with
    | .stc _ => s.clusterLanes core slot op (lanesOf lanes)
    | _ => s)
  | none => s

/-! ### Loads land, stores are performed -/

/-- LDF.rc on a counted page is classed as LDF is, and loads a primary address alone (R223). -/
def State.classRc (s : State) (core slot : Nat) (t : Team) (sp : MemSpec) (a : Acc) (x : MemArgs) (i : Instr) :
    State × Acc :=
  match s.classAdj (homeOf a.pa).1 t.asid a.va a.cnt with
  | (s, .error c) => s.homeFault core slot t.asid sp a c a.va
  | (s, .ok .none) => (s, { a with st := .failed .adjNotCounted })
  | (s, .ok (.primary _)) =>
    (match s.loadAt core a.xlat sp.n a.drop with
    | (s, .ok v) => s.land core slot i x a v
    | (s, .error c) => (s, { a with st := .failed c }))
  | (s, .ok _) => (s, { a with st := .failed .protection })

/-- ADJQ reads the count word of a primary granule at home (R226). -/
def State.queryCount (s : State) (core slot : Nat) (t : Team) (sp : MemSpec) (a : Acc) (x : MemArgs) (i : Instr) :
    State × Acc :=
  let stack := (homeOf a.pa).1
  match (s.dropLine core a.pa a.drop).classify stack t.asid a.va a.cnt with
  | (s, .error c) => s.homeFault core slot t.asid sp a c a.va
  | (s, .ok .none) => (s, { a with st := .failed .adjNotCounted })
  | (s, .ok (.primary e)) =>
    (match s.countAt stack t.asid t.priv e a.va .read with
    | (s, .error c) => s.homeFault core slot t.asid sp a c (e.countVa a.va)
    | (s, .ok (w, _)) => s.land core slot i x a w)
  | (s, .ok _) => (s, { a with st := .failed .protection })

/-- LOAD_DATA_LANDS performs lanes of a load that does not count. -/
def isPlainLoad : Instr → Bool
  | .ld _ | .gather _ | .ldfRc _ | .adjq _ => true
  | .gatherP x => x.imm != 1
  | _ => false

/-- One lane of a load is performed on its path and its data lands (R7, R79, R141). -/
def State.loadLane (s : State) (core slot : Nat) (sp : MemSpec) (x : MemArgs) (t : Team) (o : Op) (a : Acc) :
    State × Acc :=
  match o.instr with
  | .adjq _ => s.queryCount core slot t sp a x o.instr
  | .ldfRc _ =>
    if a.cnt then s.classRc core slot t sp a x o.instr
    else match s.loadAt core a.xlat sp.n a.drop with
      | (s, .ok v) => s.land core slot o.instr x a v
      | (s, .error c) => (s, { a with st := .failed c })
  | _ => match s.loadAt core a.xlat sp.n a.drop with
    | (s, .ok v) => s.land core slot o.instr x a v
    | (s, .error c) => (s, { a with st := .failed c })

/-- Lanes of a load are performed and written (R7, R58). -/
def State.loadEvent (s : State) (core slot op : Nat) (lanes : Lanes) : State :=
  s.memEvent core slot op lanes isPlainLoad fun sp x s t o a => s.loadLane core slot sp x t o a

/-- One lane of a store is performed on its path (R89, R90, R141, R215). -/
def State.storeLane (s : State) (core slot : Nat) (sp : MemSpec) (t : Team) (a : Acc) : State × Acc :=
  match s.warp core slot with
  | none => (s, a)
  | some w =>
    match s.storeAt core w.team t.asid t.priv a.va a.xlat sp.n a.data a.en a.drop with
    | (s, .ok _) => (s, { a with st := .done })
    | (s, .error (c, va)) => s.homeFault core slot t.asid sp a c va

/-- STORE_PERFORMED: lanes of a store are performed, and the store ends with its last lane (R141, R215). -/
def execStorePerformed (core slot op : Nat) (lanes : Lanes) (s : State) : Host.Outcome State Fault Refusal :=
  .next <| s.memEvent core slot op lanes
    (fun i => match i with | .st _ | .scatter _ => true | _ => false)
    fun sp _ s t _ a => s.storeLane core slot sp t a

/-- L1_WRITEBACK: a dirty line is written home and leaves the L1 (R79). -/
def execL1Writeback (core line : Nat) (s : State) : Host.Outcome State Fault Refusal :=
  .next <| match (s.core core).line line with
  | some x => if x.dirty = 0 then s else s.evict core line
  | none => s

/-! ### The tag table (R103, R221) -/

/-- The keys of the eight ways of a tag's set in a team's banks (R103). -/
def tagWays (banks : List Nat) (tag : Word) : List Nat :=
  let h := tag.toNat * 0x9E3779B1 % 2 ^ 32
  let set := h / 2 ^ 16 % (32 * banks.length)
  (List.range 8).map fun way => banks.getD (set / 32) 0 * 256 + set % 32 * 8 + way

/-- The way that holds a tag. -/
def Core.tagFind (k : Core) (banks : List Nat) (tag : Word) : Option Nat :=
  (tagWays banks tag).find? fun i =>
    let e := amGet TagEntry.reset k.tags i
    e.v && e.tag == tag

/-- TAGL: the slot of a tag, or all ones (R221). -/
def execTagl (x : MemArgs) (s : State) : Host.Outcome State Fault Refusal :=
  runLane s (.tagl x) fun y =>
    if y.x.team.banks.isEmpty then s.laneFault y .tagInvalid y.low 0
    else
      (y.lanes.foldl (fun s l =>
        let r := match y.x.core.tagFind y.x.team.banks (y.x.warp.vv x.va.toNat l) with
          | some i => (amGet TagEntry.reset y.x.core.tags i).slot
          | none => 0xFFFFFFFF
        s.writeV y.x.who.core y.x.who.slot x.vd l [r]) s).dispatched y

/-- TAGSET lane by lane: `seen` holds the tags of lower lanes; the lane that cannot be installed is answered. -/
def Core.tagSet (k : Core) (banks : List Nat) : List (Nat × Word × Word) → List Word → Core × Option Nat
  | [], _ => (k, none)
  | (l, tag, slot) :: rest, seen =>
    if seen.contains tag then k.tagSet banks rest seen
    else if slot = 0xFFFFFFFF then (k, some l)
    else
      let way := match k.tagFind banks tag with
        | some i => some i
        | none => (tagWays banks tag).find? fun i => !(amGet TagEntry.reset k.tags i).v
      match way with
      | none => (k, some l)
      | some i =>
        ({ k with tags := smPut TagEntry.reset k.tags i ⟨true, tag, slot⟩ }).tagSet banks rest (tag :: seen)

/-- TAGSET: install tags in ascending lane order (R221). -/
def execTagset (x : MemArgs) (s : State) : Host.Outcome State Fault Refusal :=
  runLane s (.tagset x) fun y =>
    if y.x.team.banks.isEmpty then s.laneFault y .tagInvalid y.low 0
    else
      let r := y.x.core.tagSet y.x.team.banks
        (y.lanes.map fun l => (l, y.x.warp.vv x.va.toNat l, y.x.warp.vv x.vb.toNat l)) []
      let s := s.setCore y.x.who.core r.1
      match r.2 with
      | some l => s.laneFault y .tagInvalid l 0
      | none => s.dispatched y

/-- TAGINV: the entries of the lanes' tags become invalid (R221). -/
def execTaginv (x : MemArgs) (s : State) : Host.Outcome State Fault Refusal :=
  runLane s (.taginv x) fun y =>
    if y.x.team.banks.isEmpty then s.laneFault y .tagInvalid y.low 0
    else
      (s.modCore y.x.who.core fun k => y.lanes.foldl (fun k l =>
        match k.tagFind y.x.team.banks (y.x.warp.vv x.va.toNat l) with
        | some i => { k with tags := amPut k.tags i { amGet TagEntry.reset k.tags i with v := false } }
        | none => k) k).dispatched y

end Sys2Proof.Machine
end

