-- ==== Sys2Proof/Machine/Atomic.lean ====
section
/-! DEFINITION. Atomics, the adjoint unit and PHASE: their dispatch, and the events that perform them at home (R49,
R50, R86 to R90, R145, R147, R219 to R227). -/

namespace Sys2Proof.Machine

/-! ### Atomics -/

/-- ATOM.add (R219). -/
def execAtomAdd (x : MemArgs) (s : State) : Host.Outcome State Fault Refusal := memDispatch s (.atomAdd x)

/-- ATOM.min (R219). -/
def execAtomMin (x : MemArgs) (s : State) : Host.Outcome State Fault Refusal := memDispatch s (.atomMin x)

/-- ATOM.max (R219). -/
def execAtomMax (x : MemArgs) (s : State) : Host.Outcome State Fault Refusal := memDispatch s (.atomMax x)

/-- ATOM.and (R219). -/
def execAtomAnd (x : MemArgs) (s : State) : Host.Outcome State Fault Refusal := memDispatch s (.atomAnd x)

/-- ATOM.or (R219). -/
def execAtomOr (x : MemArgs) (s : State) : Host.Outcome State Fault Refusal := memDispatch s (.atomOr x)

/-- ATOM.xor (R219). -/
def execAtomXor (x : MemArgs) (s : State) : Host.Outcome State Fault Refusal := memDispatch s (.atomXor x)

/-- ATOM.exch (R219). -/
def execAtomExch (x : MemArgs) (s : State) : Host.Outcome State Fault Refusal := memDispatch s (.atomExch x)

/-- ATOM.cas (R219). -/
def execAtomCas (x : MemArgs) (s : State) : Host.Outcome State Fault Refusal := memDispatch s (.atomCas x)

/-- RED.add (R219). -/
def execRedAdd (x : MemArgs) (s : State) : Host.Outcome State Fault Refusal := memDispatch s (.redAdd x)

/-- RED.min (R219). -/
def execRedMin (x : MemArgs) (s : State) : Host.Outcome State Fault Refusal := memDispatch s (.redMin x)

/-- RED.max (R219). -/
def execRedMax (x : MemArgs) (s : State) : Host.Outcome State Fault Refusal := memDispatch s (.redMax x)

/-- RED.and (R219). -/
def execRedAnd (x : MemArgs) (s : State) : Host.Outcome State Fault Refusal := memDispatch s (.redAnd x)

/-- RED.or (R219). -/
def execRedOr (x : MemArgs) (s : State) : Host.Outcome State Fault Refusal := memDispatch s (.redOr x)

/-- RED.xor (R219). -/
def execRedXor (x : MemArgs) (s : State) : Host.Outcome State Fault Refusal := memDispatch s (.redXor x)

/-- A W code names a signed integer type (R161). -/
def signedCode (w : Nat) : Bool := w == 0xB || w == 0xD || w == 5 || w == 6

/-- Bytes of a W code (R161, R210). -/
def codeBytes (w : Nat) : Nat :=
  match w with
  | 0x0 | 0x5 => 1
  | 0x1 | 0x6 | 0x8 | 0x9 => 2
  | 0x3 | 0xA | 0xD | 0xE => 8
  | 0x4 => 16
  | _ => 4

/-- The smaller or larger of two integers of a type. -/
def pickInt (sgn : Bool) (n m b : Nat) (less : Bool) : Nat :=
  let lt (a b : Nat) : Bool := intOf sgn (8 * n) a < intOf sgn (8 * n) b
  if less then (if lt b m then b else m) else (if lt m b then b else m)

/-- The new memory value of an atomic by function number and W code, from the old value and its operands (R219). -/
def atomValue (fn w m b c : Nat) : Nat :=
  let n := codeBytes w
  match fn % 8 with
  | 0 => if w = 7 then fAdd .f32 m b else (m + b) % 256 ^ n
  | 1 => if w = 7 then fMin m b else pickInt (signedCode w) n m b true
  | 2 => if w = 7 then fMax m b else pickInt (signedCode w) n m b false
  | 3 => m &&& b
  | 4 => m ||| b
  | 5 => m ^^^ b
  | 6 => b
  | _ => if m = b then c else m

/-- One lane of an atomic is performed at home (R80, R89, R90, R144, R147, R219). The register range keeps no memory:
an atomic there returns 0 and writes nothing (R331). -/
def State.atomicLane (s : State) (core slot : Nat) (sp : MemSpec) (x : MemArgs) (t : Team) (o : Op) (a : Acc) :
    State × Acc :=
  if hubRange a.pa then s.land core slot o.instr x a 0
  else
    let s := s.dropLine core a.pa a.drop
    match s.gateStore t.asid t.priv a.va a.xlat sp.n (allBytes sp.n) true with
    | (s, .error (c, va)) => s.homeFault core slot t.asid sp a c va
    | (s, .ok _) =>
      match s.homeRead a.pa sp.n with
      | .error c => (s.unheard a.pa, { a with st := .failed c })
      | .ok bs =>
        let m := leNat bs
        match s.homeWrite a.pa (leBytes sp.n (atomValue sp.op (accCode x.w) m a.data a.cmp)) with
        | .error c => (s.unheard a.pa, { a with st := .failed c })
        | .ok s =>
          let s := if sp.op % 8 = 0 then s.noteClaim a.pa m (m + a.data) else s
          let s := match s.warp core slot with
            | some w => (s.countWrite core w.team a.va sp.n (allBytes sp.n)).irrevocable core w.team
            | none => s
          s.land core slot o.instr x a m

/-- The atomics and reductions. -/
def isAtomic : Instr → Bool
  | .atomAdd _ | .atomMin _ | .atomMax _ | .atomAnd _ | .atomOr _ | .atomXor _ | .atomExch _ | .atomCas _
  | .redAdd _ | .redMin _ | .redMax _ | .redAnd _ | .redOr _ | .redXor _ => true
  | _ => false

/-- Lanes of an atomic are performed at home (R219). -/
def State.atomicEvent (s : State) (core slot op : Nat) (lanes : Lanes) : State :=
  s.memEvent core slot op lanes isAtomic fun sp x s t o a => s.atomicLane core slot sp x t o a

/-! ### The adjoint unit (R222) -/

/-- LDF (R223). -/
def execLdf (x : MemArgs) (s : State) : Host.Outcome State Fault Refusal := memDispatch s (.ldf x)

/-- LDF.rc (R223). -/
def execLdfRc (x : MemArgs) (s : State) : Host.Outcome State Fault Refusal := memDispatch s (.ldfRc x)

/-- ADJA (R224). -/
def execAdja (x : MemArgs) (s : State) : Host.Outcome State Fault Refusal := memDispatch s (.adja x)

/-- ADJR (R225). -/
def execAdjr (x : MemArgs) (s : State) : Host.Outcome State Fault Refusal := memDispatch s (.adjr x)

/-- ADJR.wait (R225). -/
def execAdjrWait (x : MemArgs) (s : State) : Host.Outcome State Fault Refusal := memDispatch s (.adjrWait x)

/-- ADJQ (R226). -/
def execAdjq (x : MemArgs) (s : State) : Host.Outcome State Fault Refusal := memDispatch s (.adjq x)

/-- Write a count word at its home. -/
def State.putCount (s : State) (pa w : Nat) : State :=
  match s.homeWrite pa (leBytes 4 w) with
  | .ok s => s
  | .error _ => s

/-- What an adjoint operation at home ends with: a value, a wait for COUNT with the ADT's time limit in µs, or a
fault with its address. -/
inductive AdjRes where
  | value (v : Nat)
  | early (tmo : Nat)
  | fault (c : Cause) (va : Nat)
  deriving DecidableEq, Repr

/-- A counting load at the home of its granule (R86, R128, R222): COUNT rises by 1 as the data is read. -/
def State.countedLoad (s : State) (asid : Asid) (priv : Bool) (va pa : Nat) (cnt : Bool) (n : Nat) : State × AdjRes :=
  let stack := (homeOf pa).1
  match s.classAdj stack asid va cnt with
  | (s, .error c) => (s, .fault c va)
  | (s, .ok .none) => (s, .fault .adjNotCounted va)
  | (s, .ok (.twin _)) | (s, .ok (.shadow _)) => (s, .fault .protection va)
  | (s, .ok (.primary e)) =>
    match s.countAt stack asid priv e va .atomic with
    | (s, .error c) => (s, .fault c (e.countVa va))
    | (s, .ok (w, cpa)) =>
      if countOf w = 2 ^ 24 - 1 then (s, .fault .adjCountOverflow va)
      else match s.homeRead pa n with
        | .error c => (s.unheard pa, .fault c va)
        | .ok bs =>
          let w := if countOf w = 0 then w - w / 2 ^ 24 % 2 * 2 ^ 24 else w
          (s.putCount cpa (w + 1), .value (leNat bs))

/-- The exact add to an fx64 twin: the new element, and whether the add saturated or received NaN (R50). -/
def adjFx (e : Nat) (x : XVal) (scale : Nat) : Nat × Bool :=
  let q : Int × Bool := match x with
    | .nan _ _ => (0, true)
    | .inf neg => (if neg then -(2 ^ 63) else 2 ^ 63 - 1, true)
    | .fin _ _ _ =>
      (match roundInt false (xscale x scale) with
      | none => (0, true)
      | some y => if 2 ^ 63 - 1 < y then (2 ^ 63 - 1, true) else if y < -(2 ^ 63) then (-(2 ^ 63), true) else (y, false))
  let t := intOf true 64 e + q.1
  if 2 ^ 63 - 1 < t then (intBits true 64 (2 ^ 63 - 1), true)
  else if t < -(2 ^ 63) then (intBits true 64 (-(2 ^ 63)), true)
  else (intBits true 64 t, q.2)

/-- The new twin element for an addend, and the sticky indication (R49, R50, R224). -/
def AdtEnt.accumulate (e : AdtEnt) (old addend : Nat) : Nat × Bool :=
  if e.tf then adjFx old (decodeF .f32 addend) e.scale else (fAdd .f32 old addend, false)

/-- An adjoint accumulate at the home of its granule (R87, R222, R224). -/
def State.accumulate (s : State) (asid : Asid) (priv : Bool) (va pa : Nat) (cnt : Bool) (addend : Nat) :
    State × AdjRes :=
  let stack := (homeOf pa).1
  match s.classAdj stack asid va cnt with
  | (s, .error c) => (s, .fault c va)
  | (s, .ok .none) => (s, .fault .adjNotCounted va)
  | (s, .ok (.twin _)) | (s, .ok (.shadow _)) => (s, .fault .protection va)
  | (s, .ok (.primary e)) =>
    if (va - e.pbase) % 2 ^ e.esz != 0 then (s, .fault .misaligned va)
    else match s.translateStack stack asid priv (e.twinVa va) .atomic with
      | (s, .error c) => (s, .fault c (e.twinVa va))
      | (s, .ok tw) =>
        match s.countAt stack asid priv e va .atomic with
        | (s, .error c) => (s, .fault c (e.countVa va))
        | (s, .ok (w, cpa)) =>
          if countOf w = 0 then (s, .fault .adjSurplusStore va)
          else match s.homeRead tw.pa e.tsize with
            | .error c => (s.unheard tw.pa, .fault c (e.twinVa va))
            | .ok bs =>
              let r := e.accumulate (leNat bs) addend
              match s.homeWrite tw.pa (leBytes e.tsize r.1) with
              | .error c => (s.unheard tw.pa, .fault c (e.twinVa va))
              | .ok s => (s.putCount cpa ((w - 1) ||| (if r.2 then 2 ^ 24 else 0)), .value 0)

/-- What an fx64 element reads as f32 (R50). -/
def fxToF32 (e scale : Nat) : Nat := roundF .f32 (xscale (xOfInt (intOf true 64 e) 0 false) (-(scale : Int)))

/-- An adjoint read at the home of its granule (R88, R222, R225). -/
def State.adjRead (s : State) (asid : Asid) (priv : Bool) (va pa : Nat) (cnt wide wait : Bool) : State × AdjRes :=
  let stack := (homeOf pa).1
  match s.classAdj stack asid va cnt with
  | (s, .error c) => (s, .fault c va)
  | (s, .ok .none) => (s, .fault .adjNotCounted va)
  | (s, .ok (.twin _)) | (s, .ok (.shadow _)) => (s, .fault .protection va)
  | (s, .ok (.primary e)) =>
    if (va - e.pbase) % 2 ^ e.esz != 0 then (s, .fault .misaligned va)
    else if wide && !e.tf then (s, .fault .protection va)
    else match s.translateStack stack asid priv (e.twinVa va) .atomic with
      | (s, .error c) => (s, .fault c (e.twinVa va))
      | (s, .ok tw) =>
        match s.countAt stack asid priv e va .read with
        | (s, .error c) => (s, .fault c (e.countVa va))
        | (s, .ok (w, _)) =>
          if countOf w ≠ 0 then
            (s, if wait || e.eblk then .early e.tmo else .fault .adjEarlyRead va)
          else match s.homeRead tw.pa e.tsize with
            | .error c => (s.unheard tw.pa, .fault c (e.twinVa va))
            | .ok bs =>
              match s.homeWrite tw.pa (List.replicate e.tsize 0) with
              | .error c => (s.unheard tw.pa, .fault c (e.twinVa va))
              | .ok s => (s, .value (if e.tf && !wide then fxToF32 (leNat bs) e.scale else leNat bs))

/-- A fault of an adjoint operation at home. A lane of GATHER.P never stalls: it is reported incomplete, with a record on
which nothing waits (R217, R228). -/
def State.adjFault (s : State) (core slot : Nat) (sp : MemSpec) (x : MemArgs) (t : Team) (o : Op) (a : Acc) (c : Cause)
    (va : Nat) : State × Acc :=
  match o.instr with
  | .gatherP _ =>
    if c.replayable then
      let r := s.stallLane core slot t.asid sp a c va
      (r.1.writeV core slot x.vc a.lane [0], { a with st := .done })
    else (s, { a with st := .failed c })
  | _ => s.homeFault core slot t.asid sp a c va

/-- The lane of an adjoint instruction after its operation at home. -/
def State.adjLand (s : State) (core slot : Nat) (sp : MemSpec) (x : MemArgs) (t : Team) (o : Op) (a : Acc) (r : AdjRes)
    (deadline : Option Nat → Option Nat) : State × Acc :=
  match r with
  | .value v =>
    let s := match s.warp core slot with
      | some w => s.irrevocable core w.team
      | none => s
    s.land core slot o.instr x a v
  | .early tmo => (s, { a with st := .waiting (deadline (if tmo = 0 then none else some (s.clock.toNat + tmo * 940))) })
  | .fault c va =>
    s.adjFault core slot (if va = a.va then sp else { sp with acc := .atomic }) x t o a c va

/-- COUNTED_LOAD_AT_HOME (R86). -/
def execCountedLoadAtHome (core slot op : Nat) (lanes : Lanes) (s : State) : Host.Outcome State Fault Refusal :=
  .next <| s.memEvent core slot op lanes
    (fun i => match i with | .ldf _ => true | .gatherP x => x.imm == 1 | _ => false)
    fun sp x s t o a =>
      let s := s.dropLine core a.pa a.drop
      let r := s.countedLoad t.asid t.priv a.va a.pa a.cnt sp.n
      r.1.adjLand core slot sp x t o a r.2 id

/-- ADJA_AT_HOME (R87). -/
def execAdjaAtHome (core slot op : Nat) (lanes : Lanes) (s : State) : Host.Outcome State Fault Refusal :=
  .next <| s.memEvent core slot op lanes (fun i => match i with | .adja _ => true | _ => false)
    fun sp x s t o a =>
      let s := s.dropLine core a.pa a.drop
      let r := s.accumulate t.asid t.priv a.va a.pa a.cnt a.data
      r.1.adjLand core slot sp x t o a r.2 id

/-- The ADJR forms. -/
def isAdjr : Instr → Bool
  | .adjr _ | .adjrWait _ => true
  | _ => false

/-- One lane of ADJR reads at home, or waits (R88, R225). -/
def State.adjrLane (s : State) (core slot : Nat) (sp : MemSpec) (x : MemArgs) (t : Team) (o : Op) (a : Acc)
    (deadline : Option Nat → Option Nat) : State × Acc :=
  let s := s.dropLine core a.pa a.drop
  let r := s.adjRead t.asid t.priv a.va a.pa a.cnt (x.w == .fx64) (sp.op == 4)
  r.1.adjLand core slot sp x t o a r.2 deadline

/-- ADJR_AT_HOME (R88). -/
def execAdjrAtHome (core slot op : Nat) (lanes : Lanes) (s : State) : Host.Outcome State Fault Refusal :=
  .next <| s.memEvent core slot op lanes isAdjr fun sp x s t o a => s.adjrLane core slot sp x t o a id

/-- Change each waiting lane of an ADJR among those named. -/
def State.adjrWaiters (s : State) (core slot op : Nat) (lanes : Lanes)
    (f : State → Team → Op → MemSpec → MemArgs → Acc → Option Nat → State × Acc) : State :=
  (lanesOf lanes).foldl (fun s l =>
    match s.findOp core slot op with
    | none => s
    | some (o, _, t) =>
      match memSpec o.instr, o.accs.find? (·.lane == l) with
      | some (x, sp), some a =>
        (match a.st with
        | .waiting d =>
          let r := f s t o sp x a d
          (match r.1.findOp core slot op with
          | none => r.1
          | some q => r.1.settle core slot { q.1 with accs := putAccs [r.2] q.1.accs })
        | _ => s)
      | _, _ => s) s

/-- ADJR_WAIT_RELEASE: a waiting lane reads where its granule's COUNT has reached zero; otherwise it waits on, to the
same deadline (R88). -/
def execAdjrWaitRelease (core slot op : Nat) (lanes : Lanes) (s : State) : Host.Outcome State Fault Refusal :=
  .next <| s.adjrWaiters core slot op lanes fun s t o sp x a d => s.adjrLane core slot sp x t o a fun _ => d

/-- ADJR_WAIT_TIMEOUT: a wait past the ADT's limit ends with ADJ_EARLY_READ (R88, R225). -/
def execAdjrWaitTimeout (core slot op : Nat) (lanes : Lanes) (s : State) : Host.Outcome State Fault Refusal :=
  .next <| s.adjrWaiters core slot op lanes fun s _ _ _ _ a d =>
    match d with
    | some n => if n ≤ s.clock.toNat then (s, { a with st := .failed .adjEarlyRead }) else (s, a)
    | none => (s, a)

/-! ### PHASE (R145, R220) -/

/-- PHASE.rel: dispatches after the warp's earlier memory accesses, over the lines dirty now (R145, R220). -/
def execPhaseRel (x : EngArgs) (s : State) : Host.Outcome State Fault Refusal :=
  runLane s (.phaseRel x) fun y =>
    if !y.x.warp.priorDone y.x.warp.freshOp then s.laneHold y .phase
    else s.launchOp y (.phaseRel x) [] .none (.phase y.x.core.dirtyLines)

/-- PHASE.acq: over the lines clean now (R145, R220). -/
def execPhaseAcq (x : EngArgs) (s : State) : Host.Outcome State Fault Refusal :=
  runLane s (.phaseAcq x) fun y =>
    if !y.x.warp.priorDone y.x.warp.freshOp then s.laneHold y .phase
    else s.launchOp y (.phaseAcq x) [] .none (.phase ((y.x.core.l1.filter fun l => l.dirty = 0).map (·.line)))

/-- The lines of a PHASE.rel are written home; of the lost ones of the team, the lowest VA is answered and the others
are reported (R83). -/
def State.phaseLines (s : State) (core team : Nat) (asid : Asid) (lines : List Nat) : State × Option Nat :=
  match s.releaseLines core (some team) lines with
  | (s, []) => (s, none)
  | (s, v :: vs) =>
    let low := vs.foldl min v
    let rec_ (va : Nat) : FaultRec :=
      { va := va, cause := .memoryUncorrectable, source := 6, flags := 2, unit := 0, core := core, asid := asid,
        lanes := 0, fseq := 0 }
    (((v :: vs).erase low).foldl (fun s va => (s.addFault (rec_ va)).1) s, some low)

/-- A PHASE.acq drops its lines: one that another warp has dirtied since keeps its dirty bytes, and its clean bytes are
fetched again (R145, R220). -/
def State.acqLine (s : State) (core line : Nat) : State :=
  match (s.core core).line line with
  | none => s
  | some x =>
    s.modCore core fun k =>
      if x.dirty = 0 then k.dropLine line
      else k.setLine { x with
        data := BitVec.ofNat 512 (leNat ((List.range 64).map fun i =>
          if x.dirty.getLsbD i then BitVec.ofNat 8 (x.data.toNat / 256 ^ i) else Memory.read s.mem (line * 64 + i)))
        bad := BitVec.ofNat 8 (maskOf ((List.range 8).filter fun u =>
          if unitDirty x.dirty u = 0 then s.unitBad (line * 8 + u) else x.bad.getLsbD u)).toNat }

/-- PHASE_COMPLETE: the write-backs are acknowledged or the drop is done (R145, R220). -/
def execPhaseComplete (core slot op : Nat) (s : State) : Host.Outcome State Fault Refusal :=
  .next <| match s.findOp core slot op with
  | none => s
  | some (o, w, t) =>
    match o.instr, o.aux with
    | .phaseRel _, .phase lines =>
      (match s.phaseLines core w.team t.asid lines with
      | (s, none) => s.finishOp core slot o
      | (s, some va) => s.finishOp core slot (o.failAll .memoryUncorrectable (some va)))
    | .phaseAcq _, .phase lines =>
      (lines.foldl (fun s l => s.acqLine core l) s).finishOp core slot o
    | _, _ => s

end Sys2Proof.Machine
end

