-- ==== Sys2Proof/Machine/Matrix.lean ====
section
/-! DEFINITION. The matrix array: format blocks, MMA and joint MMA, GANG and its latches, BLD, AM reads and writes, the
duplication map, MWAIT (R45 to R48, R78, R106, R150, R229 to R244). -/

namespace Sys2Proof.Machine

/-! ### The format block (R231, R232) -/

/-- The fields of a format block (R231); `rsv` says that a reserved field is nonzero. -/
structure FmtBlk where
  cfa : Nat
  sfa : Nat
  cfb : Nat
  out : Nat
  nb : Nat
  sca : Bool
  scb : Bool
  red : Bool
  accm : Nat
  abase : Nat
  apitch : Nat
  aside : Nat
  bbase : Nat
  bside : Nat
  acc : Nat
  kbase : Nat
  ktot : Nat
  map : Nat
  rsv : Bool
  deriving DecidableEq, Repr

/-- A format block from its four words (R231). -/
def parseBlk (w0 w1 w2 w3 : Nat) : FmtBlk :=
  { cfa := w0 / 2 ^ 56 % 256, sfa := w0 / 2 ^ 48 % 256, cfb := w0 / 2 ^ 40 % 256, out := w0 / 2 ^ 38 % 4
    nb := if bitAt w0 37 then 32 else 16, sca := bitAt w0 36, scb := bitAt w0 35, red := bitAt w0 34
    accm := w0 / 2 ^ 32 % 4, abase := w0 % 2 ^ 20, apitch := w1 / 2 ^ 44 % 2 ^ 20, aside := w1 / 2 ^ 24 % 2 ^ 20
    bbase := w1 % 2 ^ 18, bside := w2 / 2 ^ 46 % 2 ^ 18, acc := w2 / 2 ^ 30 % 2 ^ 16, kbase := w2 % 2 ^ 16
    ktot := w3 / 2 ^ 48 % 2 ^ 16, map := w3 / 2 ^ 28 % 2 ^ 20
    rsv := w0 / 2 ^ 20 % 2 ^ 12 != 0 || w1 / 2 ^ 18 % 2 ^ 6 != 0 || w2 / 2 ^ 16 % 2 ^ 14 != 0 || w3 % 2 ^ 28 != 0 }

/-- A code is e4m3 or e5m2 (R161). -/
def isF8 (c : Nat) : Bool := c == 0x13 || c == 0x14

/-- The K-slice a compute format fixes (R45, R232). -/
def sliceOf (cfa : Nat) : Nat := if isF8 cfa then 32 else if cfa = 0x16 then 64 else 16

/-- The formats, block length and scale bits go together (R232). -/
def FmtBlk.formatsOk (f : FmtBlk) : Bool :=
  (isF8 f.cfa && isF8 f.cfb) ||
  (f.cfa == 0x16 && f.cfb == 0x16 && !f.sca && !f.scb) ||
  ((f.cfa == 0x12 || f.cfa == 0x11) && f.cfb == f.cfa && f.nb == 16 && !f.sca && !f.scb)

/-- SFA is a float format or CFA itself (R231). -/
def FmtBlk.sfaOk (f : FmtBlk) : Bool := f.sfa == f.cfa || f.sfa == 0x10 || f.sfa == 0x11 || f.sfa == 0x12

/-- A's side array is read (R232). -/
def FmtBlk.aSide (f : FmtBlk) : Bool := f.sfa == f.cfa && (f.cfa == 0x16 || (isF8 f.cfa && f.sca))

/-- B's side array is read (R232). -/
def FmtBlk.bSide (f : FmtBlk) : Bool := f.cfb == 0x16 || (isF8 f.cfb && f.scb)

/-- The K-slice of a block. -/
def FmtBlk.ks (f : FmtBlk) : Nat := sliceOf f.cfa

/-- Bytes of one row of A as stored (R233). -/
def FmtBlk.rowSpan (f : FmtBlk) : Nat :=
  if f.sfa = 0x10 then f.ks * 4 else if f.sfa = 0x11 ∨ f.sfa = 0x12 then f.ks * 2
  else if f.sfa = 0x16 then f.ks / 2 else f.ks

/-- Bytes of side entries of one row or column. -/
def FmtBlk.sideRow (f : FmtBlk) : Nat := 2 * (f.ks / f.nb)

/-- Step 4 of R234. A field the formats and outlier mode do not use is ignored (R231). -/
def FmtBlk.ok (f : FmtBlk) : Bool :=
  !f.rsv && f.formatsOk && f.sfaOk && f.out != 3 && f.accm < 2 &&
  f.abase % 16 == 0 && f.apitch % 16 == 0 && (!f.aSide || f.aside % 2 == 0) && f.bbase % 32 == 0 &&
  (!f.bSide || f.bside % 2 == 0) && f.acc % 128 == 0 && f.acc ≤ 57344 && f.rowSpan ≤ f.apitch &&
  (f.out != 1 || (f.ktot != 0 && f.kbase < f.ktot))

/-- Step 5 of R234: the first A row or side entry outside the partition, or B column or side entry outside the névé
slice. -/
def FmtBlk.rangeFault (f : FmtBlk) (lm : Nat) : Option (Cause × Nat) :=
  match (List.range 64).find? fun i => lm < f.abase + i * f.apitch + f.rowSpan with
  | some i => some (.lmOutOfRange, f.abase + i * f.apitch)
  | none =>
    if f.aSide && lm < f.aside + 64 * f.sideRow then some (.lmOutOfRange, f.aside + 64 * f.sideRow - 2)
    else if 2 ^ 18 < f.bbase + 4096 then some (.outOfRange, f.bbase)
    else if f.bSide && 2 ^ 18 < f.bside + 128 * f.sideRow then some (.outOfRange, f.bside)
    else none

/-- Step 2 of R234: the fault of an immediate that names a format block. -/
def blkFault (t : Team) (imm : Nat) : Option (Cause × Nat) :=
  if imm / 2 ^ 20 != 0 then some (.reservedField, 0)
  else if imm % 32 != 0 then some (.misaligned, imm)
  else if t.lmSize < imm + 32 then some (.lmOutOfRange, imm)
  else none

/-- A block asks for a feature that is absent (R346): kb4, the 8-bit and 16-bit float formats, Hadamard, the duplication map,
redundant mode. -/
def FmtBlk.absent (f : FmtBlk) (feat : BitVec 512) : Bool :=
  let cs := [f.cfa, f.cfb]
  (cs.contains 0x16 && !feat.getLsbD 3) || (cs.any isF8 && !feat.getLsbD 4) ||
  ((cs.contains 0x11 || cs.contains 0x12) && !feat.getLsbD 5) || (f.out == 2 && !feat.getLsbD 6) ||
  (f.out == 1 && !feat.getLsbD 7) || (f.red && !feat.getLsbD 8)

/-- Read the format block at an LM offset. -/
def readBlk (k : Core) (t : Team) (imm : Nat) : Except (Cause × Nat) FmtBlk :=
  match k.lmRead (t.lmBase + imm) 32 with
  | .error c => .error (c, imm)
  | .ok bs =>
    let w (i : Nat) := leNat ((bs.drop (8 * i)).take 8)
    .ok (parseBlk (w 0) (w 1) (w 2) (w 3))

/-- An MMA's block, checked (R234 steps 4 and 5, R346). -/
def checkedBlk (feat : BitVec 512) (k : Core) (t : Team) (imm : Nat) : Except (Cause × Nat) FmtBlk :=
  match readBlk k t imm with
  | .error e => .error e
  | .ok f =>
    if !f.ok || f.absent feat then .error (.formatBlockInvalid, 0)
    else match f.rangeFault t.lmSize with
      | some e => .error e
      | none => .ok f

/-! ### Operands (R233) -/

/-- The float format of a type code. -/
def fmtOf (c : Nat) : Fmt :=
  match c with
  | 0x10 => .f32
  | 0x11 => .f16
  | 0x12 => .bf16
  | 0x13 => .e4m3
  | _ => .e5m2

/-- The values of one row or column from its bytes and side bytes (R232, R233). -/
def decodeRow (code ks nb : Nat) (side : Bool) (bs sides : List Byte) : List XVal :=
  (List.range ks).map fun k =>
    let s := (sides.getD (2 * (k / nb)) 0).toNat
    let p := (sides.getD (2 * (k / nb) + 1) 0).toNat
    match code with
    | 0x16 => decodeKb4 s p ((bs.getD (k / 2) 0).toNat / 16 ^ (k % 2) % 16)
    | 0x13 | 0x14 =>
      let x := decodeF (fmtOf code) (bs.getD k 0).toNat
      if side then (if s = 0xFF then .nan false 0 else xscale x ((s : Int) - 127)) else x
    | 0x10 => decodeF .f32 (leNat ((bs.drop (4 * k)).take 4))
    | _ => decodeF (fmtOf code) (leNat ((bs.drop (2 * k)).take 2))

/-- Rows i to i + n − 1 of A, or the first bad read with its offset. -/
def readA (k : Core) (t : Team) (f : FmtBlk) : Nat → Nat → Except (Cause × Nat) (List (List XVal))
  | _, 0 => .ok []
  | i, n + 1 =>
    let off := f.abase + i * f.apitch
    let so := f.aside + i * f.sideRow
    match k.lmRead (t.lmBase + off) f.rowSpan, (if f.aSide then k.lmRead (t.lmBase + so) f.sideRow else .ok []) with
    | .error c, _ => .error (c, off)
    | _, .error c => .error (c, so)
    | .ok bs, .ok ss =>
      match readA k t f (i + 1) n with
      | .error e => .error e
      | .ok rs => .ok (decodeRow f.sfa f.ks f.nb f.aSide bs ss :: rs)

/-- Columns i to i + n − 1 of B. -/
def readB (k : Core) (f : FmtBlk) : Nat → Nat → Except (Cause × Nat) (List (List XVal))
  | _, 0 => .ok []
  | i, n + 1 =>
    let off := f.bbase + 32 * i
    let so := f.bside + i * f.sideRow
    match k.neveRead off 32, (if f.bSide then k.neveRead so f.sideRow else .ok []) with
    | .error c, _ => .error (c, off)
    | _, .error c => .error (c, so)
    | .ok bs, .ok ss =>
      match readB k f (i + 1) n with
      | .error e => .error e
      | .ok rs => .ok (decodeRow f.cfb f.ks f.nb f.bSide bs ss :: rs)

/-- A zero. -/
def xZero : XVal := .fin false 0 0

/-- The listed channels that fall in the slice, by ascending map index, relative to KBASE (R47, R235). -/
def dupHits (k : Core) (f : FmtBlk) : List Nat :=
  if f.out = 1 then
    ((k.dupCh.take k.dupN).filter fun c => f.kbase ≤ c.toNat && c.toNat < f.kbase + f.ks).map (·.toNat - f.kbase)
  else []

/-- A row of A with its listed channels split in halves, the second halves appended (R47). -/
def splitRow (hits : List Nat) (row : List XVal) : List XVal :=
  let half (c : Nat) : XVal := xscale (row.getD c xZero) (-1)
  ((List.range row.length).map fun c => if hits.contains c then half c else row.getD c xZero) ++ hits.map half

/-- Pad a row to a length with zeros. -/
def padTo (n : Nat) (row : List XVal) : List XVal := row ++ List.replicate (n - row.length) xZero

/-- Cut a list into blocks of n. -/
def blocksOf (n : Nat) (xs : List XVal) : List (List XVal) :=
  (List.range ((xs.length + n - 1) / n)).map fun b => (xs.drop (b * n)).take n

/-- The transform of R48 of one block. -/
def hadBlock (xs : List XVal) : List XVal :=
  (List.range xs.length).map fun i => hadOut xs i (if xs.length = 32 then -3 else -2)

/-- The A converter on one block: quantised and decoded exactly (R41, R203, R235). -/
def convertBlock (f : FmtBlk) (xs : List XVal) : List XVal :=
  if f.cfa = 0x16 then
    let q := quantKb4 xs
    q.1.map (decodeKb4 q.2.1 q.2.2)
  else if isF8 f.cfa && f.sca then
    let q := quantE8 (fmtOf f.cfa) (if f.cfa = 0x13 then 448 else 57344) xs
    q.1.map fun c => if q.2 = 0xFF then .nan false 0 else xscale (decodeF (fmtOf f.cfa) c) ((q.2 : Int) - 127)
  else xs.map fun x => decodeF (fmtOf f.cfa) (roundF (fmtOf f.cfa) x)

/-- A row as the array multiplies it (R235): split, padded, transformed, converted. -/
def rowOf (f : FmtBlk) (hits : List Nat) (kt : Nat) (row : List XVal) : List XVal :=
  let x := padTo kt (splitRow hits row)
  let x := if f.out = 2 then (blocksOf f.nb x).flatMap hadBlock else x
  if f.sfa ≠ f.cfa ∨ f.out ≠ 0 then (blocksOf f.nb x).flatMap (convertBlock f) else x

/-- The exact sum of one output element over the slice's own and appended channels (R45, R46). -/
def dotOf (n : Nat) (a b : List XVal) : XVal :=
  xsum (List.zipWith xmul (a.take n) (b.take n))

/-- What an MMA's dispatch reads: the sums of its 8,192 outputs in tile order, and its passes (R235, R236). -/
def mmaSums (k : Core) (t : Team) (f : FmtBlk) : Except (Cause × Nat) (List XVal × Nat) :=
  match readA k t f 0 64, readB k f 0 128 with
  | .error e, _ => .error e
  | _, .error e => .error e
  | .ok a, .ok b =>
    let hits := dupHits k f
    let p := 1 + (hits.length + f.ks - 1) / f.ks
    let a := a.map (rowOf f hits (p * f.ks))
    let b := b.map fun c => c ++ hits.map fun h => c.getD h xZero
    .ok (a.flatMap fun r => b.map fun c => dotOf (f.ks + hits.length) r c, if f.red then 2 * p else p)

/-! ### Dispatch -/

/-- The block of an MMA, checked, and what its dispatch reads. -/
def mmaWork (feat : BitVec 512) (k : Core) (t : Team) (imm : Nat) : Except (Cause × Nat) (FmtBlk × (List XVal × Nat)) :=
  match checkedBlk feat k t imm with
  | .error e => .error e
  | .ok f =>
    match mmaSums k t f with
    | .error e => .error e
    | .ok r => .ok (f, r)

/-- What an MMA, MMA.j or DUPMAP meets before it reads its block: a team without the matrix role (R78), a bad immediate
(R234 step 2, R243). -/
def mmaFault (t : Team) (imm : Nat) : Option (Cause × Nat) :=
  if !t.matrix then some (.reservedField, 0) else blkFault t imm

/-- The array is free: a pass may begin (R236). -/
def Core.arrayFree (k : Core) : Bool := k.mmaBusy == 0

/-- Put an MMA into flight in a split, with what its shares are (R236, R240). -/
def State.launchMma (s : State) (y : LCtx) (i : Instr) (f : FmtBlk) (r : List XVal × Nat) (joint : List (Nat × Nat)) :
    State :=
  (s.launchOp y i [] .none (.mma f.acc (f.accm == 1) (s.clock.toNat + 32 * r.2) r.1 joint
    (if f.red then some false else none))).modCore y.x.who.core fun k =>
    { k with mmaBusy := 32 * r.2 }

/-- MMA (R234 to R236). -/
def execMma (x : EngArgs) (s : State) : Host.Outcome State Fault Refusal :=
  runLane s (.mma x) fun y =>
    match mmaFault y.x.team x.imm.toNat with
      | some e => s.laneFault y e.1 y.low (BitVec.ofNat 54 e.2)
      | none =>
        if !y.x.core.arrayFree then s.laneHold y .array
        else match mmaWork s.feat y.x.core y.x.team x.imm.toNat with
          | .error e => s.laneFault y e.1 y.low (BitVec.ofNat 54 e.2)
          | .ok r => s.launchMma y (.mma x) r.1 r.2 []

/-! ### GANG and its latches (R238 to R240) -/

/-- GANGSET (R238). -/
def execGangset (x : EngArgs) (s : State) : Host.Outcome State Fault Refusal :=
  runLane s (.gangset x) fun y =>
    let v := captured y.clause.gs x.g
    if v.toNat / 2 ^ 16 != 0 then s.laneFault y .reservedField y.low 0
    else if v = 0 then (s.modWarp y.x.who.core y.x.who.slot fun w => { w with gang := 0 }).dispatched y
    else if !y.x.team.matrix || !v.getLsbD y.x.warp.widx || v.toNat / 2 ^ y.x.team.warps.length != 0 then
      s.laneFault y .gangInvalid y.low 0
    else (s.modWarp y.x.who.core y.x.who.slot fun w => { w with gang := 0x80000000 ||| v }).dispatched y

/-- The head instruction of a split's queue with its context. -/
def State.headInstr (s : State) (who : Who) : Option (LCtx × Instr) :=
  match s.ctxOf who with
  | none => none
  | some x =>
    match x.split.headWord with
    | none => none
    | some (_, w) =>
      match decodeLane w with
      | .error _ => none
      | .ok i => (s.lctxOf who (instrPred i)).map fun y => (y, i)

/-- A fault of a latch in one of its warps (R240): a non-replayable lane fault at its MMA.j. -/
def State.latchFault (s : State) (core : Nat) (c : Cause) (addr : Nat) (p : Nat × Nat) : State :=
  match s.headInstr ⟨core, p.1, p.2⟩ with
  | some (y, _) => s.laneFault y c y.low (BitVec.ofNat 54 addr)
  | none => s

/-- Faults in every warp of some latches, which are dropped. -/
def State.failLatches (s : State) (core : Nat) (c : Cause) (addr : Nat) (bad : Latch → Bool) : State :=
  let ls := (s.core core).latches.filter bad
  let s := s.modCore core fun k => { k with latches := k.latches.filter fun l => !bad l }
  ls.foldl (fun s l => l.waiting.foldl (fun s p => s.latchFault core c addr p) s) s

/-- The leader of a latch: its lowest warp index (R239). -/
def Core.leader (k : Core) (l : Latch) : Option (Nat × Nat) :=
  match l.waiting with
  | [] => none
  | p :: ps => some (ps.foldl (fun a b => if k.indexOf b.1 < k.indexOf a.1 then b else a) p)

/-- A warp of a latch may raise its clause's flags (R58). -/
def State.roomFor (s : State) (core : Nat) (p : Nat × Nat) : Bool :=
  match s.headInstr ⟨core, p.1, p.2⟩ with
  | some (y, _) => !flagsFull y.x.warp (hdrFlags y.clause.header)
  | none => true

/-- A joint MMA that could dispatch but for the array: its latch has released, every participant may raise its flags (R58,
R240). -/
def State.jointReady (s : State) (core : Nat) (l : Latch) : Bool := l.full && l.waiting.all (s.roomFor core)

/-- The joint MMA of a full latch dispatches, if the array is free (R236, R240). -/
def State.dispatchJoint (s : State) (core : Nat) (l : Latch) : State :=
  let k := s.core core
  match k.leader l, s.team core l.team with
  | some lead, some t =>
    if !k.arrayFree || !s.jointReady core l then s
    else
      let same (m : Latch) : Bool := m == l
      match mmaWork s.feat k t l.imm.toNat with
      | .error e => s.failLatches core e.1 e.2 same
      | .ok (f, r) =>
        let s := s.modCore core fun k => { k with latches := k.latches.filter fun m => !same m }
        match s.headInstr ⟨core, lead.1, lead.2⟩ with
        | none => s
        | some (y, i) =>
          let rest := l.waiting.filter (· != lead)
          let ids := rest.filterMap fun p => (s.warp core p.1).map fun w => (p.1, w.freshOp)
          let s := s.launchMma y i f r ids
          rest.foldl (fun s p =>
            match s.headInstr ⟨core, p.1, p.2⟩ with
            | some (z, j) => s.launchOp z j [] .none (.mmaShare lead.1 y.x.warp.freshOp)
            | none => s) s
  | _, _ => s

/-- Some listed warp of a mask has retired (R240). -/
def Core.listedRetired (k : Core) (team : Nat) (m : BitVec 16) : Bool :=
  k.warps.any fun w => w.2.team == team && w.2.retired && m.getLsbD w.2.widx

/-- A warp arrives at the latch of its GANG (R239, R240). -/
def State.arriveLatch (s : State) (y : LCtx) (imm : Word) : State :=
  let core := y.x.who.core
  let me := (y.x.who.slot, y.x.who.entry)
  let m : BitVec 16 := BitVec.ofNat 16 y.x.warp.gang.toNat
  let mine (l : Latch) : Bool := l.team == y.x.warp.team && !l.full
  let k := y.x.core
  let clash (l : Latch) : Bool := mine l && l.wmask != m && l.wmask &&& m != 0
  let own (l : Latch) : Bool := mine l && l.wmask == m
  if k.latches.any clash then
    (s.failLatches core .gangInvalid 0 fun l => clash l || own l).latchFault core .gangInvalid 0 me
  else if k.latches.any fun l => own l && l.imm != imm then
    (s.failLatches core .gangInvalid 0 own).latchFault core .gangInvalid 0 me
  else if k.listedRetired y.x.warp.team m then
    (s.failLatches core .gangInvalid 0 own).latchFault core .gangInvalid 0 me
  else
    let l : Latch := match k.latches.find? own with
      | some l => { l with waiting := l.waiting ++ [me] }
      | none => { team := y.x.warp.team, wmask := m, imm := imm, waiting := [me] }
    let s := (s.modCore core fun k => { k with latches := k.latches.filter (fun l => !own l) ++ [l] }).laneHold y .latch
    if l.full then s.dispatchJoint core l else s

/-- MMA_J: arrives at the latch, or, released and held by the busy array, dispatches with its leader (R236, R239,
R240). -/
def execMmaJ (x : EngArgs) (s : State) : Host.Outcome State Fault Refusal :=
  runLane s (.mmaJ x) fun y =>
    match mmaFault y.x.team x.imm.toNat with
      | some e => s.laneFault y e.1 y.low (BitVec.ofNat 54 e.2)
      | none =>
        match y.x.core.latches.find? fun l => l.waiting.contains (y.x.who.slot, y.x.who.entry) with
        | some l =>
          if y.x.core.arrayFree && y.x.core.leader l == some (y.x.who.slot, y.x.who.entry) then
            s.dispatchJoint y.x.who.core l
          else s.laneHold y .array
        | none =>
          if !y.x.warp.gang.getLsbD 31 then s.laneFault y .gangInvalid y.low 0
          else s.arriveLatch y x.imm

/-- A listed warp retires while others wait (R240). -/
def State.latchRetire (s : State) (core team widx : Nat) : State :=
  s.failLatches core .gangInvalid 0 fun l => l.team == team && !l.full && l.wmask.getLsbD widx

/-- The latch at which a split waits with its MMA.j. -/
def Core.latchOf (k : Core) (who : Who) : Option Latch := k.latches.find? fun l => l.waiting.contains (who.slot, who.entry)

/-- MMA_DISPATCH: an MMA at the head of a split's queue that waits for the array dispatches once a pass may begin (R236). A
warp at a rendezvous latch dispatches nothing but its joint MMA (R28, R239). The event names the split, which its side has chosen
in this cycle: a HALT of its team in the same cycle does not keep it (R26). -/
def execMmaDispatch (core slot op : Nat) (s : State) : Host.Outcome State Fault Refusal :=
  let who : Who := ⟨core, slot, op⟩
  match s.headInstr who with
  | none => .next s
  | some (y, i) =>
    if y.x.split.laneWait != .array || !y.x.core.arrayFree then .next s
    else match i with
      | .mma x => if y.x.core.inLatch slot then .next s else execMma x { s.noteIssue who true with cur := who }
      | .mmaJ x =>
        if y.x.core.inLatch slot && (y.x.core.latchOf who).isNone then .next s
        else execMmaJ x { s.noteIssue who true with cur := who }
      | _ => .next s

/-! ### AM writes and completion (R150, R237, R242) -/

/-- The AM words an operation will write, as index and length. -/
def Op.amRanges (o : Op) : List (Nat × Nat) :=
  match o.aux with
  | .mma acc _ _ _ _ _ => [(acc, 8192)]
  | .acc parts => parts.map fun p => (p.1, p.2.length)
  | _ => []

/-- Every earlier AM write of the core to the operation's words has been applied (R150). -/
def Core.amFirst (k : Core) (o : Op) : Bool :=
  k.warps.all fun w => w.2.ops.all fun p => o.serial ≤ p.serial ||
    p.amRanges.all fun a => o.amRanges.all fun b => !overlaps a.1 a.2 b.1 b.2

/-- Write consecutive AM words; a unit of two words that is covered whole is good again (R83). -/
def Core.amStore (k : Core) (i : Nat) (xs : List Word) : Core :=
  let k := (xs.zipIdx i).foldl (fun k p => k.amWrite p.2 p.1) k
  { k with amBad := k.amBad.filter fun u => !(i ≤ 2 * u && 2 * u + 2 ≤ i + xs.length) }

/-- The new word of an accumulator (R45, R46): any NaN gives the default NaN. -/
def accWord (old : Word) (s : XVal) : Word :=
  let r := xadd (decodeF .f32 old.toNat) s
  BitVec.ofNat 32 (roundF .f32 (if r.isNan then xDefault else r))

/-- Matrix work that MWAIT waits for (R244). -/
def isMatrix : Instr → Bool
  | .mma _ | .mmaJ _ | .bld _ | .stacc _ | .zacc _ => true
  | _ => false

/-- An MWAIT's earlier work is over (R244). -/
def Core.mwaitOver (k : Core) (slot : Nat) (o : Op) : Bool :=
  match o.aux with
  | .mwait all =>
    k.warps.all fun w => (!all && w.1 != slot) || w.2.ops.all fun p => o.serial ≤ p.serial || !isMatrix p.instr
  | _ => false

/-- MWAITs whose work is over end. -/
def Core.endWaits (k : Core) : Core :=
  { k with warps := k.warps.map fun w => (w.1, { w.2 with ops := w.2.ops.filter fun o => !k.mwaitOver w.1 o }) }

/-- A matrix operation ends, with a fault or without. -/
def State.endMatrix (s : State) (core slot : Nat) (o : Op) (fault : Option (Cause × Nat)) : State :=
  let o := match fault with
    | some e => o.failAll e.1 (some e.2)
    | none => o
  (s.finishOp core slot o).modCore core Core.endWaits

/-- The lowest AM word of a tile that reads as uncorrectable (R83, R237). That an MMA reports the lowest one, and of the two words
of its unit the even one, is the model's choice (log 98). -/
def Core.badTile (k : Core) (acc : Nat) : Option Nat :=
  ((sortAsc k.amBad).find? fun u => acc ≤ 2 * u + 1 && 2 * u < acc + 8192).map (2 * ·)

/-- MMA_COMPLETE: the last pass has ended, earlier AM writes to the tile are applied; the tile is written and every
participant's flags fall (R150, R235 to R237). Halves of redundant mode that differ, or an old word that cannot be read, leave
the tile (R237; log 45). -/
def execMmaComplete (core slot op : Nat) (s : State) : Host.Outcome State Fault Refusal :=
  .next <| match s.findOp core slot op with
  | none => s
  | some (o, _, _) =>
    match o.aux with
    | .mma acc isOver endsAt sums joint half =>
      if s.clock.toNat < endsAt || !(s.core core).amFirst o then s
      else
        let fault := if half = some true then some (Cause.matrixMismatch, 0) else if isOver then none else ((s.core core).badTile acc).map fun i => (Cause.memoryUncorrectable, i)
        let s := match fault with
          | some _ => s
          | none => s.modCore core fun k =>
            k.amStore acc ((sums.zipIdx acc).map fun (p : XVal × Nat) => accWord (if isOver then 0 else amGet 0 k.am p.2) p.1)
        let s := s.endMatrix core slot o fault
        joint.foldl (fun s p => match s.findOp core p.1 p.2 with
          | some (q, _, _) => s.endMatrix core p.1 q fault
          | none => s) s
    | _ => s

/-! ### BLD, LDACC, STACC, ZACC (R241, R242) -/

/-- The first lane that fails a check, in ascending order, with its cause and address. -/
def firstFault (ls : List Nat) (f : Nat → Option (Cause × Nat)) : Option (Nat × Cause × Nat) :=
  ls.findSome? fun l => (f l).map fun e => (l, e.1, e.2)

/-- BLD: LM bytes into the névé slice; whole-instruction checks, all LM bytes read at dispatch (R241). -/
def execBld (x : EngArgs) (s : State) : Host.Outcome State Fault Refusal :=
  runLane s (.bld x) fun y =>
    let n := x.imm.toNat
    let src (l : Nat) := (y.x.warp.vv x.va.toNat l).toNat
    let dst (l : Nat) := (y.x.warp.vv x.vb.toNat l).toNat
    if !y.x.team.matrix then s.laneFault y .reservedField y.low 0
    else match firstFault y.lanes fun l =>
        if src l % 16 != 0 then some (.misaligned, src l)
        else if dst l % 16 != 0 then some (.misaligned, dst l)
        else if y.x.team.lmSize < src l + n then some (.lmOutOfRange, src l)
        else if 2 ^ 18 < dst l + n then some (.outOfRange, dst l) else none with
      | some (l, c, a) => s.laneFault y c l (BitVec.ofNat 54 a)
      | none =>
        let rd (l : Nat) := y.x.core.lmRead (y.x.team.lmBase + src l) n
        let parts := y.lanes.filterMap fun l => match rd l with
          | .ok bs => some (dst l, bs)
          | .error _ => none
        let bad := firstFault y.lanes fun l => match rd l with
          | .ok _ => none
          | .error c => some (c, src l)
        let s := s.launchOp y (.bld x) [] .none (.bld parts)
        match bad with
        | none => s
        | some (l, c, a) => s.recordLaneFault y.x.who (laneTrap c l y.va (BitVec.ofNat 54 a))

/-- BLD_COMPLETE: the bytes are in the névé slice, higher lanes last (R241). -/
def execBldComplete (core slot op : Nat) (s : State) : Host.Outcome State Fault Refusal :=
  .next <| match s.findOp core slot op with
  | none => s
  | some (o, _, _) =>
    match o.aux with
    | .bld parts =>
      (s.modCore core fun k => parts.foldl (fun k p => k.neveWrite p.1 p.2) k).endMatrix core slot o none
    | _ => s

/-- The AM index a lane addresses (R242). -/
def amIndex (y : LCtx) (x : EngArgs) (l : Nat) : Nat := (y.x.warp.vv x.va.toNat l + x.imm).toNat

/-- The whole-instruction checks of an AM access of c words (R242). -/
def amFault (y : LCtx) (x : EngArgs) (c : Nat) : Option (Nat × Cause × Nat) :=
  firstFault y.lanes fun l =>
    if amIndex y x l % c != 0 then some (.misaligned, amIndex y x l)
    else if 65536 < amIndex y x l + c then some (.outOfRange, amIndex y x l) else none

/-- LDACC: AM words into lane registers at dispatch (R242); a lane that meets an uncorrectable word faults with its own address
(R83, R213). -/
def execLdacc (x : EngArgs) (s : State) : Host.Outcome State Fault Refusal :=
  runLane s (.ldacc x) fun y =>
    let c := accWidth x.q6
    let rd (l : Nat) := (List.range c).map fun i => amIndex y x l + i
    let bad (l : Nat) := (rd l).any fun i => y.x.core.amBad.contains (i / 2)
    if !y.x.team.matrix then s.laneFault y .reservedField y.low 0
    else match amFault y x c with
      | some (l, e, a) => s.laneFault y e l (BitVec.ofNat 54 a)
      | none =>
        let s := (y.lanes.filter fun l => !bad l).foldl (fun s l =>
          s.writeV y.x.who.core y.x.who.slot x.vd l ((rd l).map fun i => amGet 0 y.x.core.am i)) s
        match firstFault y.lanes fun l => if bad l then some (.memoryUncorrectable, amIndex y x l) else none with
        | some (l, e, a) => s.laneFault y e l (BitVec.ofNat 54 a)
        | none => s.dispatched y

/-- STACC: lane registers into AM, applied in order (R242). -/
def execStacc (x : EngArgs) (s : State) : Host.Outcome State Fault Refusal :=
  runLane s (.stacc x) fun y =>
    let c := accWidth x.q6
    if !y.x.team.matrix then s.laneFault y .reservedField y.low 0
    else match amFault y x c with
      | some (l, e, a) => s.laneFault y e l (BitVec.ofNat 54 a)
      | none =>
        let parts := y.lanes.map fun l => (amIndex y x l, wordsOf c (vGroup y.x.warp x.vb c l))
        s.launchOp y (.stacc x) [] .none (.acc parts)

/-- ZACC: rows of 128 AM words become +0 (R242). -/
def execZacc (x : EngArgs) (s : State) : Host.Outcome State Fault Refusal :=
  runLane s (.zacc x) fun y =>
    if !y.x.team.matrix then s.laneFault y .reservedField y.low 0
    else match amFault y x 128 with
      | some (l, e, a) => s.laneFault y e l (BitVec.ofNat 54 a)
      | none => s.launchOp y (.zacc x) [] .none (.acc (y.lanes.map fun l => (amIndex y x l, List.replicate 128 0)))

/-- A store of words covers an uncorrectable unit only in part (R83). -/
def Core.amPartBad (k : Core) (i n : Nat) : Bool :=
  k.amBad.any fun u => overlaps (2 * u) 2 i n && !(i ≤ 2 * u && 2 * u + 2 ≤ i + n)

/-- ACC_WRITE_APPLIED: a STACC or ZACC is applied after every earlier AM write to its words, lanes ascending (R150,
R242). A lane that would write an uncorrectable unit in part faults with its own address (R83, R213). -/
def execAccWriteApplied (core slot op : Nat) (s : State) : Host.Outcome State Fault Refusal :=
  .next <| match s.findOp core slot op with
  | none => s
  | some (o, _, _) =>
    match o.aux with
    | .acc parts =>
      if !(s.core core).amFirst o then s
      else
        let r := ((lanesOf o.act).zip parts).foldl (fun (r : Core × Option (Nat × Nat)) p =>
          if r.1.amPartBad p.2.1 p.2.2.length then (r.1, some (r.2.getD (p.1, p.2.1)))
          else (r.1.amStore p.2.1 p.2.2, r.2)) (s.core core, none)
        let s := s.setCore core r.1
        match r.2 with
        | none => s.endMatrix core slot o none
        | some (l, i) => s.endMatrix core slot { o with act := maskOf [l] } (some (.memoryUncorrectable, i))
    | _ => s

/-! ### The duplication map and MWAIT (R243, R244) -/

/-- The map source's content is valid for KTOT (R243). -/
def mapOk (ktot n : Nat) (ch : List (BitVec 16)) : Bool :=
  n ≤ 64 && (ch.take n).all (fun c => c.toNat < ktot) && (ch.take n).eraseDups.length == n

/-- DUPMAP: loads the duplication map at dispatch (R243). Of the format block it reads word 3 alone, which holds KTOT and
MAP (R231). -/
def execDupmap (x : EngArgs) (s : State) : Host.Outcome State Fault Refusal :=
  runLane s (.dupmap x) fun y =>
    let bad (c : Cause) (a : Nat) := s.laneFault y c y.low (BitVec.ofNat 54 a)
    match mmaFault y.x.team x.imm.toNat with
      | some e => bad e.1 e.2
      | none =>
        match y.x.core.lmRead (y.x.team.lmBase + x.imm.toNat + 24) 8 with
        | .error c => bad c (x.imm.toNat + 24)
        | .ok w3 =>
          let f := parseBlk 0 0 0 (leNat w3)
          if f.map % 2 != 0 || f.ktot = 0 then bad .formatBlockInvalid 0
          else if y.x.team.lmSize < f.map + 130 then bad .lmOutOfRange f.map
          else match y.x.core.lmRead (y.x.team.lmBase + f.map) 130 with
            | .error c => bad c f.map
            | .ok bs =>
              let n := leNat (bs.take 2)
              let ch := (List.range 64).map fun j => BitVec.ofNat 16 (leNat ((bs.drop (2 + 2 * j)).take 2))
              if mapOk f.ktot n ch then
                (s.modCore y.x.who.core fun k => { k with dupN := n, dupCh := ch }).dispatched y
              else bad .formatBlockInvalid 0

/-- MWAIT: later lane instructions of the warp wait for its earlier matrix work, or the core's (R244). -/
def execMwait (x : EngArgs) (s : State) : Host.Outcome State Fault Refusal :=
  runLane s (.mwait x) fun y =>
    (s.launchOp y (.mwait x) [] .none (.mwait (x.q6.getLsbD 0))).modCore y.x.who.core Core.endWaits

end Sys2Proof.Machine
end

