-- ==== Sys2Proof/Machine/Straggler.lean ====
section
/-! DEFINITION. Straggler records at their home: a member's arrival, the update at a phase's end (R134, R135, R370). -/

namespace Sys2Proof.Machine

/-- Bits `[lo + n − 1 : lo]` of a number replaced. -/
def putField (w lo n v : Nat) : Nat := w - w / 2 ^ lo % 2 ^ n * 2 ^ lo + v % 2 ^ n * 2 ^ lo

/-- The header of a straggler record (R134). -/
structure SrecHead where
  t : Nat
  l : Nat
  us : Bool
  n : Nat
  phases : Nat
  deriving DecidableEq, Repr

/-- The header in 64 bytes, unless it is malformed (R134). -/
def parseSrec (bs : List Byte) : Option SrecHead :=
  let w := leNat (bs.take 8)
  let h : SrecHead :=
    { t := w / 2 ^ 56, l := w / 2 ^ 51 % 32, us := bitAt w 50, n := w % 2 ^ 11
      phases := leNat ((bs.drop 8).take 4) }
  if w / 2 ^ 11 % 2 ^ 39 != 0 || h.n == 0 || h.l == 0 || h.t == 255 then none else some h

/-- How an access to a straggler record ends. -/
inductive SrecRes where
  | ok
  | wait (c : Cause) (va : Nat)
  | bad
  deriving DecidableEq, Repr

/-- A translation with the needs of the record. -/
abbrev Translator := State → Nat → State × Except Cause Nat

/-- A fault of the record: replayable ones are waited for, any other makes it malformed (R370). -/
def srecFault (c : Cause) (va : Nat) : SrecRes := if c.replayable then .wait c va else .bad

/-- Reach n bytes of the record at home. -/
def srecTouch (tr : Translator) (s : State) (va n : Nat) : State × Except SrecRes (Nat × List Byte) :=
  match tr s va with
  | (s, .error c) => (s, .error (srecFault c va))
  | (s, .ok pa) =>
    match s.homeRead pa n with
    | .error c => (s.unheard pa, .error (srecFault c va))
    | .ok bs => (s, .ok (pa, bs))

/-- Write bytes at home that were read there. -/
def State.homePut (s : State) (pa : Nat) (bs : List Byte) : State :=
  match s.homeWrite pa bs with
  | .ok s => s
  | .error _ => s

/-- The reserved bytes and bits of an entry are zero (R134). -/
def entryOk (e : List Byte) : Bool := leNat (e.drop 26) == 0 && (e.getD 25 0).toNat / 4 == 0

/-- Entries i to i + n − 1 of a record. -/
def srecEntries (tr : Translator) (s : State) (srec : Nat) :
    Nat → Nat → State × Except SrecRes (List (Nat × List Byte))
  | _, 0 => (s, .ok [])
  | i, n + 1 =>
    match srecTouch tr s (srec + 64 + 32 * i) 32 with
    | (s, .error r) => (s, .error r)
    | (s, .ok e) =>
      match srecEntries tr s srec (i + 1) n with
      | (s, .error r) => (s, .error r)
      | (s, .ok es) => (s, .ok (e :: es))

/-- A whole record that is well formed throughout: where its header lies, its first 64 bytes, the header's fields, and every entry
with where it lies (R134). -/
def srecLoad (tr : Translator) (s : State) (srec : Nat) :
    State × Except SrecRes (Nat × List Byte × SrecHead × List (Nat × List Byte)) :=
  match srecTouch tr s srec 64 with
  | (s, .error r) => (s, .error r)
  | (s, .ok (pa, hd)) =>
    match parseSrec hd with
    | none => (s, .error .bad)
    | some h =>
      match srecEntries tr s srec 0 h.n with
      | (s, .error r) => (s, .error r)
      | (s, .ok es) => if es.all fun e => entryOk e.2 then (s, .ok (pa, hd, h, es)) else (s, .error .bad)

/-- What an arrival that writes nothing into the record meets in it (R134). -/
def srecCheck (tr : Translator) (s : State) (srec : Nat) : State × SrecRes :=
  match srecLoad tr s srec with
  | (s, .error r) => (s, r)
  | (s, .ok _) => (s, .ok)

/-- A member's arrival: ARRIVE and VERDICT bit 1 of its entry, in a record that is well formed throughout (R134, R135). -/
def srecArrive (tr : Translator) (s : State) (srec m time : Nat) : State × SrecRes :=
  match srecLoad tr s srec with
  | (s, .error r) => (s, r)
  | (s, .ok (_, _, _, es)) =>
    match es[m]? with
    | none => (s, .bad)
    | some (pa, e) =>
      (s.homePut (pa + 16) (leBytes 8 time ++ [e.getD 24 0, BitVec.ofNat 8 ((e.getD 25 0).toNat ||| 2)]), .ok)

/-- ARRIVE of an entry. -/
def entryArrive (e : List Byte) : Nat := leNat ((e.drop 16).take 8)

/-- VERDICT bit 1 of an entry. -/
def entryHere (e : List Byte) : Bool := bitAt (e.getD 25 0).toNat 1

/-- The lateness of a member in units, from its time past the median (R135). -/
def lateUnits (us dev : Bool) (d : Nat) : Nat :=
  min 255 (if dev then (if us then d else d * 940 / 64) else if us then d / 940 else d / 64)

/-- An entry after the update of R135. -/
def updateEntry (h : SrecHead) (med : Nat) (dev : Bool) (e : List Byte) : List Byte :=
  let d := if entryHere e then lateUnits h.us dev (entryArrive e - med) else 0
  let slots := (e.take 16).set (h.phases % 16) (BitVec.ofNat 8 d)
  let late := (slots.filter fun b => h.t < b.toNat).length
  slots ++ (e.drop 16).take 8 ++ [BitVec.ofNat 8 late, if h.l ≤ late then 1 else 0] ++ e.drop 26

/-- The update at a phase's end; the entries after it are answered (R135). -/
def srecUpdate (tr : Translator) (s : State) (srec : Nat) (dev : Bool) : State × SrecRes × List (List Byte) :=
  match srecLoad tr s srec with
  | (s, .error r) => (s, r, [])
  | (s, .ok (pa, hd, h, es)) =>
    let times := sortAsc ((es.filter fun e => entryHere e.2).map fun e => entryArrive e.2)
    let med := times.getD ((times.length - 1) / 2) 0
    let new := es.map fun e => (e.1, updateEntry h med dev e.2)
    let s := new.foldl (fun s e => s.homePut e.1 e.2) s
    (s.homePut (pa + 8) (leBytes 4 (h.phases + 1) ++ (hd.drop 12).take 4 ++ leBytes 8 med), .ok, new.map (·.2))

end Sys2Proof.Machine
end

