-- ==== Sys2Proof/Machine/Barrier.lean ====
section
/-! DEFINITION. Barrier objects and the barrier port: initialisation, arrivals, byte deliveries, completion of team-,
gang- and fabric-kind phases (R130 to R133, R148, R253 to R255, R329, R370). -/

namespace Sys2Proof.Machine

/-! ### Objects (R130) -/

/-- The four words of the object at an LM address. -/
structure Bar where
  w0 : Nat
  w1 : Nat
  w2 : Nat
  w3 : Nat
  deriving DecidableEq, Repr

/-- Read an object. -/
def Core.bar (k : Core) (a : Nat) : Bar := ⟨k.lmWord a, k.lmWord (a + 8), k.lmWord (a + 16), k.lmWord (a + 24)⟩

/-- Write an object's words 0 to 2; the port leaves word 3. -/
def Core.setBar (k : Core) (a : Nat) (b : Bar) : Core :=
  ((k.setLmWord a b.w0).setLmWord (a + 8) b.w1).setLmWord (a + 16) b.w2

/-- KIND. -/
def Bar.kind (b : Bar) : Nat := b.w0 / 2 ^ 62

/-- PHASE. -/
def Bar.phase (b : Bar) : Bool := bitAt b.w0 61

/-- LDONE. -/
def Bar.ldone (b : Bar) : Bool := bitAt b.w0 60

/-- BRK. -/
def Bar.brk (b : Bar) : Bool := bitAt b.w0 59

/-- EXPECTED. -/
def Bar.expected (b : Bar) : Nat := b.w0 / 2 ^ 48 % 32

/-- ARRIVED. -/
def Bar.arrived (b : Bar) : Nat := b.w0 / 2 ^ 40 % 32

/-- PENDING, signed. -/
def Bar.pending (b : Bar) : Int := intOf true 48 b.w1

/-- PCOUNT. -/
def Bar.pcount (b : Bar) : Nat := b.w2 / 2 ^ 32

/-- SV. -/
def Bar.sv (b : Bar) : Bool := bitAt b.w3 63

/-- SREC. -/
def Bar.srec (b : Bar) : Nat := b.w3 % 2 ^ 54

/-- The object with BRK set. -/
def Bar.broken (b : Bar) : Bar := { b with w0 := putField b.w0 59 1 1 }

/-- The object with another PENDING. -/
def Bar.setPending (b : Bar) (p : Int) : Bar := { b with w1 := putField b.w1 0 48 (BitVec.ofInt 48 p).toNat }

/-- PENDING stays within 48 signed bits (R133). -/
def pendingOk (p : Int) : Bool := -(2 ^ 47) ≤ p && p < 2 ^ 47

/-- The object after a completed phase: PHASE flips, PCOUNT rises, ARRIVED, MASK and LDONE are 0 (R131). -/
def Bar.flip (b : Bar) : Bar :=
  { b with
    w0 := putField (putField (putField (putField b.w0 61 1 (if b.phase then 0 else 1)) 60 1 0) 40 5 0) 0 16 0
    w2 := putField b.w2 32 32 (b.pcount + 1) }

/-- The object after an arrival of warp i (R131). -/
def Bar.arrive (b : Bar) (i : Nat) (clock : Nat) : Bar :=
  { b with
    w0 := putField (putField b.w0 i 1 1) 40 5 (b.arrived + 1)
    w2 := if b.arrived = 0 then putField b.w2 0 32 clock else b.w2 }

/-- A team of a core, or a partition kept for copies after its gang finished (R76). -/
def Core.part (k : Core) (key : Nat) : Option Team :=
  match amFind k.teams key with
  | some t => some t
  | none => amFind k.reserved key

/-- Words of the object that read as uncorrectable. -/
def Core.barBad (k : Core) (a : Nat) : Bool := (unitsOf a 32).any k.lmBad.contains

/-- The port waits for the straggler record of an object (R370). -/
def Core.barHeld (k : Core) (team off : Nat) : Bool := k.held.any fun h => h.team == team && h.off == off

/-- Translation for the record by the port of a core (R370). -/
def portTr (core : Nat) (t : Team) : Translator := fun s va =>
  if inAperture va then (s, .error .outOfRange)
  else match s.translate core t.asid t.priv va .atomic with
    | (s, .error c) => (s, .error c)
    | (s, .ok x) => (s.evict core (x.pa / 64), .ok x.pa)

/-- The key of a gang's team on its core. -/
def teamKey (gang i : Nat) : Nat := gang * 8 + i

/-- A team notes an object that the barrier port updated and that was not declared (R308). -/
def Team.noteObject (t : Team) (off : Nat) : Team :=
  if t.declared.contains off || t.objects.contains off then t else { t with objects := insertAsc off t.objects }

/-- Write an object of a team. -/
def State.putBar (s : State) (core : Nat) (t : Team) (off : Nat) (f : Bar → Bar) : State :=
  (s.modCore core fun k => k.setBar (t.lmBase + off) (f (k.bar (t.lmBase + off)))).modTeam core
    (teamKey t.gang t.teamId) (·.noteObject off)

/-- Update an object of a team. One that reads as uncorrectable stays as it is, and whoever reads it raises (R83; log
73). -/
def State.modBar (s : State) (core : Nat) (t : Team) (off : Nat) (f : Bar → Bar) : State :=
  if (s.core core).barBad (t.lmBase + off) then s else s.putBar core t off f

/-- Note the root the last FBAR named, or CLOCK at a local completion. -/
def Core.noteLocal (k : Core) (a : Nat) (f : Nat × Nat → Nat × Nat) : Core :=
  let old := match k.locals.find? fun x => x.1 == a with
    | some x => x.2
    | none => (0, 0)
  { k with locals := k.locals.filter (fun x => x.1 != a) ++ [(a, f old)] }

/-- What was noted for an object. -/
def Core.localOf (k : Core) (a : Nat) : Nat × Nat :=
  match k.locals.find? fun x => x.1 == a with
  | some x => x.2
  | none => (0, 0)

/-- Hold the port's update of an object on a fault record (R370). -/
def State.holdBar (s : State) (core team off : Nat) (asid : Asid) (c : Cause) (va : Nat) (op : Option (Nat × Nat))
    (completing : Bool) : State :=
  let r := s.addFault (hubFault va c 5 (faultFlags true .atomic false) 0 asid)
  r.1.modCore core fun k => { k with held := k.held ++ [{ team := team, off := off, hold := .waiting r.2, op := op,
                                                          completing := completing }] }

/-- The port makes no update of an object: it waits for the straggler record itself, or, of a gang-kind object, the crossbar does
(R370). -/
def State.barWaits (s : State) (core team off : Nat) : Bool :=
  (s.core core).barHeld team off ||
  match (s.core core).part team with
  | some t => s.hub.gangBars.any fun g => g.gang == t.gang && g.off == off && g.hold.isSome
  | none => false

/-- An object has a straggler record; without the feature SV is ignored (R130, R346). -/
def State.barSv (s : State) (b : Bar) : Bool := b.sv && s.hasFeature 15

/-! ### The completion test (R131) -/

/-- A barrier message (R320, R329). -/
def barrierPacket (kind dst : Nat) (asid : Asid) (off pcount verdict : Nat) : Packet :=
  { blankPacket kind (if kind = 8 then 1 else 0) dst 0 with
    barAsid := asid, barOff := off, pcount := BitVec.ofNat 32 pcount, verdict := verdict }

/-- Send a message that has no reply (R316, R329). -/
def State.sendMessage (s : State) (p : Packet) : State :=
  s.sendPacket { p with src := s.fab.device, inc := s.fab.inc }

/-- The report of one member: its object is broken where its release failed or the root cannot be reached (R152, R329;
log 17). -/
def State.memberReport (s : State) (m : MemberRep) : State :=
  if m.fail || (s.peerError m.root).isSome then
    match s.team m.core m.team with
    | some t => s.modBar m.core t m.off Bar.broken
    | none => s
  else s.sendMessage (barrierPacket 8 m.root m.asid m.off m.pcount 0)

/-- A member's release once everything that its core dispatched before it has been sent: it waits for what is not acknowledged
(R148). -/
def MemberRep.sent (s : State) (m : MemberRep) : MemberRep :=
  if m.waits && !(s.core m.core).unsent m.serial then { m with waits := false, tags := s.unacked m.core m.serial } else m

/-- Members whose release is over report to their root (R148, R329). -/
def State.fabReports (s : State) : State :=
  if s.fab.members.isEmpty then s
  else
    let ms := s.fab.members.map (MemberRep.sent s)
    let isOver (m : MemberRep) : Bool := m.fail || (!m.waits && !(m.tags.any fun t => s.fab.outstanding.any (·.tag == t)))
    (ms.filter isOver).foldl State.memberReport { s with fab := { s.fab with members := ms.filter fun m => !isOver m } }

/-- A completed local part of a fabric-kind object: the member releases, and reports once its earlier fabric accesses
are acknowledged (R148, R329). -/
def State.joinFabric (s : State) (core team off root : Nat) (asid : Asid) (pcount : Nat) : State :=
  let s := (s.phaseRel core none).1
  let m : MemberRep :=
    { core := core, team := team, off := off, asid := asid, pcount := pcount, root := root, tags := [], fail := false
      serial := (s.core core).serial, waits := true }
  { s with fab := { s.fab with members := s.fab.members ++ [m] } }.fabReports

/-- The completion test after an update (R131). `op` is the arrival that made it, held with the completion where the
record cannot be reached. Answers whether the update is over. -/
def State.barTest (s : State) (core team : Nat) (t : Team) (off : Nat) (op : Option (Nat × Nat)) : State × Bool :=
  let a := t.lmBase + off
  let b := (s.core core).bar a
  if b.arrived != b.expected || b.pending != 0 || b.ldone || b.brk || b.kind == 3 then (s, true)
  else if b.kind = 0 then
    if s.barSv b then
      match srecUpdate (portTr core t) s b.srec false with
      | (s, .ok, _) => (s.modBar core t off Bar.flip, true)
      | (s, .bad, _) => (s.modBar core t off Bar.broken, true)
      | (s, .wait c va, _) => (s.holdBar core team off t.asid c va op true, false)
    else (s.modBar core t off Bar.flip, true)
  else
    let s := (s.modBar core t off fun b => { b with w0 := putField b.w0 60 1 1 }).modCore core fun k =>
      k.noteLocal a fun p => (p.1, s.clock.toNat)
    if b.kind = 2 then (s.joinFabric core team off ((s.core core).localOf a).1 t.asid b.pcount, true) else (s, true)

/-! ### Byte deliveries (R131, R133) -/

/-- A delivery of n bytes to an object: subtracted unless it is broken, whatever its kind, and then the completion test. -/
def State.barBytes (s : State) (core team : Nat) (t : Team) (off n : Nat) : State :=
  let b := (s.core core).bar (t.lmBase + off)
  if n = 0 || b.brk || (s.core core).barBad (t.lmBase + off) then s
  else if pendingOk (b.pending - n) then
    ((s.modBar core t off fun b => b.setPending (b.pending - n)).barTest core team t off none).1
  else s.modBar core t off Bar.broken

/-! ### What a gang has reported (R132, R370) -/

/-- The report of a gang's object. -/
def Hub.gangBar (h : Hub) (gang off : Nat) : GangBar :=
  match h.gangBars.find? fun b => b.gang == gang && b.off == off with
  | some b => b
  | none => { gang := gang, off := off, reported := [], hold := none }

/-- Replace a gang's report. -/
def State.setGangBar (s : State) (b : GangBar) : State :=
  let rest := s.hub.gangBars.filter fun c => !(c.gang == b.gang && c.off == b.off)
  { s with hub := { s.hub with gangBars := rest ++ [b] } }

/-- Every team of a gang, as core and team. -/
def State.gangTeams (s : State) (gang : Nat) : List (Nat × Nat × Team) :=
  s.cores.flatMap fun c => (c.2.teams.filter fun t => t.2.gang == gang).map fun t => (c.1, t.1, t.2)

/-- Translation by the hub for a record of a team (R370). -/
def hubTr (asid : Asid) (priv : Bool) : Translator := fun s va =>
  if inAperture va then (s, .error .outOfRange)
  else (s, match s.translateHub asid priv va .atomic with | .error c => .error c | .ok x => .ok x.pa)

/-- Change the object at an offset in every team of a gang. -/
def State.modGangBars (s : State) (ts : List (Nat × Nat × Team)) (off : Nat) (f : Bar → Bar) : State :=
  ts.foldl (fun s t => s.modBar t.1 t.2.2 off f) s

/-- Forget the reports of a gang's object. -/
def State.dropGangBar (s : State) (gang off : Nat) : State :=
  { s with hub := { s.hub with gangBars := s.hub.gangBars.filter fun c => !(c.gang == gang && c.off == off) } }

/-- A gang's object is broken in every team's copy, and what was reported of it is forgotten (R370). -/
def State.breakGangBar (s : State) (gang off : Nat) : State :=
  (s.modGangBars (s.gangTeams gang) off Bar.broken).dropGangBar gang off

/-- A team has reported the local completion of a gang's object (R132). -/
def State.reportGangBar (s : State) (gang off teamId : Nat) : State :=
  let g := s.hub.gangBar gang off
  s.setGangBar { g with reported := g.reported ++ [teamId] }

/-! ### Arrivals (R131, R133, R254) -/

/-- How an arrival ends. -/
inductive ArrRes where
  | isOver
  | held
  | bad (c : Cause)
  deriving DecidableEq, Repr

/-- The kinds an arriving instruction accepts (R254). -/
def kindOk (i : Instr) (kind : Nat) : Bool :=
  match i with
  | .barrive _ => kind == 0
  | .barriveBytes _ => kind == 0 || kind == 1
  | .gbar _ => kind == 1
  | .fbar _ => kind == 2
  | _ => false

/-- The arrival of warp index i with its operation (R131, R133, R254). One that completes the local part of a gang-kind
object with a record is its team's arrival there: the record takes it, or it raises and changes nothing, and the team
reports after a PHASE.rel (R132, R134, R135, R148, R370). Any other arrival there raises too if the record is malformed (R134). -/
def State.arrival (s : State) (core slot : Nat) (w : Warp) (t : Team) (o : Op) (off : Nat) (bytes root : Option Nat) :
    State × ArrRes :=
  let a := t.lmBase + off
  let b := (s.core core).bar a
  let p := b.pending + ((bytes.getD 0 : Nat) : Int)
  if (s.core core).barBad a then (s, .bad .memoryUncorrectable)
  else if !kindOk o.instr b.kind || bitAt b.w0 w.widx || b.ldone || b.brk then (s, .bad .barrierInvalid)
  else if !pendingOk p then (s.modBar core t off Bar.broken, .bad .barrierInvalid)
  else
    let reports := b.kind == 1 && s.barSv b && b.arrived + 1 == b.expected && p == 0
    let r : State × SrecRes :=
      if b.kind = 0 && s.barSv b then srecArrive (portTr core t) s b.srec w.widx s.clock.toNat
      else if reports then srecArrive (portTr core t) s b.srec t.teamId s.clock.toNat
      else if b.kind = 1 && s.barSv b then srecCheck (portTr core t) s b.srec
      else (s, .ok)
    match r with
    | (s, .bad) => (s, .bad .barrierInvalid)
    | (s, .wait c va) => (s.holdBar core w.team off t.asid c va (some (slot, o.id)) false, .held)
    | (s, .ok) =>
      let s := s.modBar core t off fun b => (b.arrive w.widx s.clock.toNat).setPending p
      let s := match root with
        | some r => s.modCore core fun k => k.noteLocal a fun q => (r, q.2)
        | none => s
      let s := s.modWarp core slot fun w => { w with lastBar := some off }
      let q := s.barTest core w.team t off (some (slot, o.id))
      let s := if reports then ((q.1.phaseRel core none).1).reportGangBar t.gang off t.teamId else q.1
      (s, if q.2 then .isOver else .held)

/-- In this cycle the port may still perform an arrival from a slot: none from a higher one has been performed (R131). -/
def Core.portAdmits (k : Core) (slot : Nat) : Bool :=
  match k.portLast with
  | none => true
  | some l => l ≤ slot

/-- An arrival's operation after its arrival. -/
def endArrival (core slot : Nat) (o : Op) : State × ArrRes → State
  | (s, .isOver) => s.finishOp core slot o
  | (s, .held) => s
  | (s, .bad c) => s.finishOp core slot (o.failAll c (some 0))

/-- ARRIVAL_PERFORMED: an arrival whose warp's earlier lane memory accesses are all performed updates its object
(R131, R148). In one cycle arrivals go by ascending slot, after every byte delivery (R131). -/
def execArrivalPerformed (core slot op : Nat) (s : State) : Host.Outcome State Fault Refusal :=
  .next <| match s.findOp core slot op with
  | none => s
  | some (o, w, t) =>
    match o.aux with
    | .arrive off bytes root =>
      if !w.priorDone o.id || s.barWaits core w.team off || !(s.core core).portAdmits slot then s
      else
        let s := s.modCore core fun k => { k with portLast := some slot }
        endArrival core slot o (s.arrival core slot w t o off bytes root)
    | _ => s

/-- Dispatch an arrival: its offset is checked, and it goes into flight (R246, R254). -/
def arriveDispatch (s : State) (i : Instr) (x : EngArgs) (bytes root : LCtx → Option Nat) :
    Host.Outcome State Fault Refusal :=
  runLane s i fun y =>
    match blkFault y.x.team x.imm.toNat with
    | some e => s.laneFault y e.1 y.low (BitVec.ofNat 54 e.2)
    | none =>
      match root y with
      | some r =>
        if 992 < r then s.laneFault y .barrierInvalid y.low 0
        else s.launchOp y i [] .none (.arrive x.imm.toNat (bytes y) (some r))
      | none => s.launchOp y i [] .none (.arrive x.imm.toNat (bytes y) none)

/-- BARRIVE (R254). -/
def execBarrive (x : EngArgs) (s : State) : Host.Outcome State Fault Refusal :=
  arriveDispatch s (.barrive x) x (fun _ => none) fun _ => none

/-- BARRIVE.bytes (R254). -/
def execBarriveBytes (x : EngArgs) (s : State) : Host.Outcome State Fault Refusal :=
  arriveDispatch s (.barriveBytes x) x (fun y => some (captured y.clause.gs x.g).toNat) fun _ => none

/-- GBAR (R254). -/
def execGbar (x : EngArgs) (s : State) : Host.Outcome State Fault Refusal :=
  arriveDispatch s (.gbar x) x (fun _ => none) fun _ => none

/-- FBAR (R254). -/
def execFbar (x : EngArgs) (s : State) : Host.Outcome State Fault Refusal :=
  arriveDispatch s (.fbar x) x (fun _ => none) fun y => some (captured y.clause.gs x.g).toNat

/-! ### BARINIT and BARTRY (R253, R255) -/

/-- The initial value of BARINIT is valid (R253). -/
def barinitOk (v : Nat) : Bool :=
  v / 2 ^ 10 == 0 && v / 2 ^ 5 % 8 == 0 && 1 ≤ v % 32 && v % 32 ≤ 16 && v / 2 ^ 8 % 4 != 3

/-- What a BARINIT meets at dispatch (R83, R253): a bad offset, a word 0 that it cannot read, a bad initial value, an object in
use. -/
def barinitFault (y : LCtx) (x : EngArgs) : Option (Cause × Nat) :=
  match blkFault y.x.team x.imm.toNat with
  | some e => some e
  | none =>
    let a := y.x.team.lmBase + x.imm.toNat
    let b := y.x.core.bar a
    if (unitsOf a 8).any y.x.core.lmBad.contains then some (.memoryUncorrectable, x.imm.toNat)
    else if !barinitOk (captured y.clause.gs x.g).toNat || (!b.brk && (b.arrived != 0 || b.ldone)) then
      some (.barrierInvalid, 0)
    else none

/-- BARINIT (R253). -/
def execBarinit (x : EngArgs) (s : State) : Host.Outcome State Fault Refusal :=
  runLane s (.barinit x) fun y =>
    match barinitFault y x with
    | some e => s.laneFault y e.1 y.low (BitVec.ofNat 54 e.2)
    | none =>
      let off := x.imm.toNat
      let v := (captured y.clause.gs x.g).toNat
      if s.barWaits y.x.who.core y.x.warp.team off then s.laneHold y .operand
      else
        (s.putBar y.x.who.core y.x.team off fun b =>
          { b with w0 := v / 2 ^ 8 % 4 * 2 ^ 62 + v % 32 * 2 ^ 48, w1 := 0, w2 := 0 }).dispatched y

/-- BARTRY's result (R255). -/
def Bar.tryWord (b : Bar) : Word :=
  BitVec.ofNat 32 ((if b.phase then 1 else 0) + (if b.ldone then 2 else 0) + b.arrived * 4 + b.pcount % 2 ^ 16 * 2 ^ 16)

/-- BARTRY: the object's state into vd (R255). -/
def execBartry (x : EngArgs) (s : State) : Host.Outcome State Fault Refusal :=
  runLane s (.bartry x) fun y =>
    match blkFault y.x.team x.imm.toNat with
    | some e => s.laneFault y e.1 y.low (BitVec.ofNat 54 e.2)
    | none =>
      let a := y.x.team.lmBase + x.imm.toNat
      let b := y.x.core.bar a
      if y.x.core.barBad a then s.laneFault y .memoryUncorrectable y.low (BitVec.ofNat 54 x.imm.toNat)
      else if b.kind = 3 || b.brk then s.laneFault y .barrierInvalid y.low 0
      else (y.lanes.foldl (fun s l => s.writeV y.x.who.core y.x.who.slot x.vd l [b.tryWord]) s).dispatched y

/-! ### Held updates (R370) -/

/-- A held update of an operation goes on, or ends with its record malformed (R370). -/
def State.heldOp (s : State) (core slot : Nat) (t : Team) (h : HeldObj) (id : Nat) (failed : Bool) : State :=
  match s.findOp core slot id with
  | none => s
  | some (o, w, _) =>
    match o.aux with
    | .arrive aoff bytes root =>
      if h.completing then
        if failed then (s.modBar core t h.off Bar.broken).finishOp core slot o
        else
          let r := s.barTest core h.team t h.off h.op
          if r.2 then r.1.finishOp core slot o else r.1
      else if failed then s.finishOp core slot (o.failAll .barrierInvalid (some 0))
      else endArrival core slot o (s.arrival core slot w t o aoff bytes root)
    | _ => s

/-- STRAGGLER_RECORD_REPLAYED: an update held on a straggler record goes on once its fault record was replayed, that of a
delivery into a partition whose team has left too (R292, R370). Ended through REPLAY_FAIL, the record counts as
malformed. An arrival that goes on takes its turn among its cycle's arrivals (R131). -/
def execStragglerRecordReplayed (core off : Nat) (s : State) : Host.Outcome State Fault Refusal :=
  .next <| match (s.core core).held.find? fun h => h.off == off && (match h.hold with | .waiting _ => false | _ => true) with
  | none => s
  | some h =>
    match (s.core core).part h.team with
    | none => s
    | some t =>
      let first := h.op.filter fun _ => !h.completing
      if first.any fun p => !(s.core core).portAdmits p.1 then s
      else
      let s' := s.modCore core fun k =>
        { k with held := k.held.filter (· != h), portLast := (first.map (·.1)).orElse fun _ => k.portLast }
      let failed := match h.hold with
        | .failed _ => true
        | _ => false
      match h.op with
      | some (slot, id) => s'.heldOp core slot t h id failed
      | none =>
        if h.completing then
          if failed then s'.modBar core t off Bar.broken else (s'.barTest core h.team t off none).1
        else if failed then s'.breakGangBar t.gang off
        else s'

/-! ### Gang barriers (R132, R148, R370) -/

/-- GANG_BARRIER_REPORT: a team whose local part is complete performs PHASE.rel and reports to the crossbar (R132, R148).
Where a delivery and no arrival completed it, the team's arrival is written into the record here, and a malformed record
breaks the object in every copy (R370; log 46). -/
def execGangBarrierReport (core team off : Nat) (s : State) : Host.Outcome State Fault Refusal :=
  .next <| match s.team core team with
  | none => s
  | some t =>
    let a := t.lmBase + off
    let b := (s.core core).bar a
    let g := s.hub.gangBar t.gang off
    if b.kind != 1 || !b.ldone || b.brk || g.reported.contains t.teamId || (s.core core).barHeld team off then s
    else
      let s := (s.phaseRel core none).1
      let r : State × SrecRes :=
        if s.barSv b then srecArrive (portTr core t) s b.srec t.teamId ((s.core core).localOf a).2 else (s, .ok)
      match r with
      | (s, .bad) => s.breakGangBar t.gang off
      | (s, .wait c va) => s.holdBar core team off t.asid c va none false
      | (s, .ok) => s.reportGangBar t.gang off t.teamId

/-- GANG_BARRIER_COMPLETE: every team has reported; the record is updated once, every core performs PHASE.acq, and the
phase flips in every object together (R132, R148, R370). -/
def execGangBarrierComplete (gang off : Nat) (s : State) : Host.Outcome State Fault Refusal :=
  .next <|
    let g := s.hub.gangBar gang off
    let ts := s.gangTeams gang
    let bars := ts.map fun t => (s.core t.1).bar (t.2.2.lmBase + off)
    let waits : Bool := match g.hold with
      | some (.waiting _) => true
      | _ => false
    match ts, bars with
    | (_, _, t) :: _, b :: _ =>
      if waits || !(ts.all fun t => g.reported.contains t.2.2.teamId) then s
      else
        let same := !s.hasFeature 15 || bars.all fun c => c.sv == b.sv && c.srec == b.srec
        let failed : Bool := match g.hold with
          | some (.failed _) => true
          | _ => false
        if !same || failed then (s.modGangBars ts off Bar.broken).dropGangBar gang off
        else
          let r : State × SrecRes × List (List Byte) :=
            if s.barSv b then srecUpdate (hubTr t.asid t.priv) s b.srec false else (s, .ok, [])
          match r with
          | (s, .bad, _) => (s.modGangBars ts off Bar.broken).dropGangBar gang off
          | (s, .wait c va, _) =>
            let f := s.addFault (hubFault va c 5 (faultFlags true .atomic false) 0 t.asid)
            f.1.setGangBar { g with hold := some (.waiting f.2) }
          | (s, .ok, _) =>
            ((ts.foldl (fun s t => s.phaseAcq t.1) s).modGangBars ts off Bar.flip).dropGangBar gang off
    | _, _ => s

end Sys2Proof.Machine
end

