-- ==== Sys2Proof/Machine/Copy.lean ====
section
/-! DEFINITION. Copy channels: KICK, WPTR, and the events that begin, deliver and finish a record (R62, R63, R115 to
R118, R149, R248, R249). -/

namespace Sys2Proof.Machine

/-! ### KICK and WPTR -/

/-- A channel of a core. -/
def Core.chan (k : Core) (c : Nat) : Chan := amGet Chan.reset k.chans c

/-- Change a channel. -/
def Core.modChan (k : Core) (c : Nat) (f : Chan → Chan) : Core := { k with chans := amPut k.chans c (f (k.chan c)) }

/-- The LM offset of the first record a KICK value names (R62). -/
def kickFirst (v : Nat) : Nat := v / 4 % 2 ^ 20 * 4

/-- COUNT of a KICK value. -/
def kickCount (v : Nat) : Nat := v / 2 ^ 22 % 256

/-- What a KICK of a value meets at dispatch (R62, R248). -/
def kickFault (y : LCtx) (v : Nat) : Option (Cause × Nat) :=
  if v / 2 ^ 30 != 0 then some (.reservedField, 0)
  else if v / 4 % 8 != 0 then some (.misaligned, kickFirst v)
  else if kickCount v != 0 && y.x.team.lmSize < kickFirst v + 32 * kickCount v then some (.lmOutOfRange, kickFirst v)
  else none

/-- An operation in flight that still writes LM for its warp: an STC, a NEXT, which writes iterator objects and their
bitmaps, and an arrival, which writes its barrier object (R75, R131, R149). -/
def writesLm : Instr → Bool
  | .stc _ | .next _ | .nextBounded _ | .barrive _ | .barriveBytes _ | .gbar _ | .fbar _ => true
  | _ => false

/-- What a KICK waits for: a place in its channel's queue (R248), and the warp's earlier LM writes (R149). -/
def kickWait (y : LCtx) (x : EngArgs) : LaneWait :=
  let v := (captured y.clause.gs x.g).toNat
  if (kickFault y v).isSome || kickCount v == 0 then .run
  else if 8 ≤ (y.x.core.chan (v % 4)).kicks.length then .kickFull
  else if y.x.warp.ops.any (fun o => writesLm o.instr) then .operand
  else .run

/-- KICK (R62, R248). It is performed after the warp's earlier LM writes (R149). -/
def execKick (x : EngArgs) (s : State) : Host.Outcome State Fault Refusal :=
  runLane s (.kick x) fun y =>
    let v := (captured y.clause.gs x.g).toNat
    let k : Kick := { team := y.x.warp.team, gang := y.x.team.gang, first := kickFirst v, count := kickCount v }
    match kickFault y v with
    | some e => s.laneFault y e.1 y.low (BitVec.ofNat 54 e.2)
    | none =>
      if k.count = 0 then s.dispatched y
      else match kickWait y x with
        | .run =>
          (s.modCore y.x.who.core fun c => c.modChan (v % 4) fun ch => { ch with kicks := ch.kicks ++ [k] }).dispatched y
        | r => s.laneHold y r

/-- The word WPTR_c reads as (R63). -/
def Chan.wptr (c : Chan) : Word := BitVec.ofNat 32 (c.seq.toNat * 2 ^ 20 + c.off.toNat)

/-- WPTR (R249). -/
def execWptr (x : EngArgs) (s : State) : Host.Outcome State Fault Refusal :=
  runLane s (.wptr x) fun y =>
    (y.lanes.foldl (fun s l =>
      s.writeV y.x.who.core y.x.who.slot x.vd l [(y.x.core.chan (x.imm.toNat % 4)).wptr]) s).dispatched y

/-! ### Records (R115, R116) -/

/-- A word of a record. -/
def CopyRec.w (r : CopyRec) (i : Nat) : Nat := (r.words.getD i 0).toNat

/-- OP. -/
def CopyRec.op (r : CopyRec) : Nat := r.w 0 / 2 ^ 60

/-- SRC. -/
def CopyRec.src (r : CopyRec) : Nat := r.w 0 % 2 ^ 54

/-- DST. -/
def CopyRec.dst (r : CopyRec) : Nat := r.w 1 % 2 ^ 54

/-- BV. -/
def CopyRec.bv (r : CopyRec) : Bool := bitAt (r.w 2) 54

/-- The LM offset of the barrier object. -/
def CopyRec.bar (r : CopyRec) : Nat := r.w 2 / 2 ^ 38 % 2 ^ 15 * 32

/-- ROWS. -/
def CopyRec.rows (r : CopyRec) : Nat := r.w 2 / 2 ^ 20 % 2 ^ 16

/-- WIDTH. -/
def CopyRec.width (r : CopyRec) : Nat := r.w 2 % 2 ^ 20

/-- LPITCH, or IDX. -/
def CopyRec.lpitch (r : CopyRec) : Nat := r.w 3 / 2 ^ 32 % 2 ^ 20

/-- GPITCH. -/
def CopyRec.gpitch (r : CopyRec) : Nat := r.w 3 % 2 ^ 32

/-- OWN. -/
def CopyRec.own (r : CopyRec) : Nat := r.w 3 / 2 ^ 36 % 2 ^ 20

/-- RSTRIDE. -/
def CopyRec.rstride (r : CopyRec) : Nat := r.w 3 / 2 ^ 16 % 2 ^ 20

/-- RMASK. -/
def CopyRec.rmask (r : CopyRec) : Nat := r.w 3 % 2 ^ 16

/-- B, the bytes delivered to each destination (R116). -/
def CopyRec.total (r : CopyRec) : Nat :=
  if r.op < 5 then r.rows * r.width else if r.op = 5 then r.width + r.own else 0

/-- Store-outs. -/
def CopyRec.out (r : CopyRec) : Bool := r.op == 3 || r.op == 4

/-- The receiving cores of a record, by rank (R116). -/
def CopyRec.receivers (r : CopyRec) (core : Nat) : List Nat :=
  if r.op = 5 then ((List.range 16).filter (bitAt r.rmask)).map (core / 16 * 16 + ·) else [core]

/-- The partition of a gang on a core, with its key. -/
def Core.gangPart (k : Core) (gang : Nat) : Option (Nat × Team) :=
  match k.gangTeam gang with
  | some t => some t
  | none => k.reserved.find? fun t => t.2.gang == gang

/-- The partition a receiver of a record delivers into. -/
def State.receiver (s : State) (core : Nat) (r : CopyRec) (c : Nat) : Option (Nat × Team) :=
  if r.op = 5 then (s.core c).gangPart r.gang else ((s.core core).part r.team).map fun t => (r.team, t)

/-- Step 1 of R117: reserved operations and fields, short pitches, multicast rows. -/
def CopyRec.reservedBad (r : CopyRec) : Bool :=
  5 < r.op || r.w 0 / 2 ^ 54 % 2 ^ 6 != 0 || r.w 1 / 2 ^ 54 != 0 ||
  (if r.out then r.src / 2 ^ 20 != 0 else r.dst / 2 ^ 20 != 0) ||
  bitAt (r.w 2) 53 || r.w 2 / 2 ^ 36 % 4 != 0 ||
  (if r.op = 5 then r.w 3 / 2 ^ 56 != 0 else r.w 3 / 2 ^ 52 != 0) ||
  ((r.op == 1 || r.op == 4) && 1 < r.rows && (r.lpitch < r.width || r.gpitch < r.width)) ||
  (r.op == 5 && r.rows != 1)

/-- Step 2 of R117. -/
def CopyRec.misaligned (r : CopyRec) : Bool :=
  r.src % 16 != 0 || r.dst % 16 != 0 || r.width % 16 != 0 ||
  (if r.op = 5 then r.own % 16 != 0 || r.rstride % 16 != 0
   else r.gpitch % 16 != 0 || r.lpitch % (if r.op = 2 then 4 else 16) != 0)

/-- One past the highest LM byte a record touches in a partition, by its data. -/
def CopyRec.lmEnd (r : CopyRec) : Nat :=
  if r.total = 0 then 0
  else match r.op with
    | 1 => r.dst + (r.rows - 1) * r.lpitch + r.width
    | 3 => r.src + r.total
    | 4 => r.src + (r.rows - 1) * r.lpitch + r.width
    | _ => r.dst + r.total

/-- Step 3 of R117 before the barrier object: extents and receivers. Whether an extent of no bytes can be outside is open
(log 85). -/
def State.copyOutside (s : State) (core : Nat) (t : Team) (r : CopyRec) : Bool :=
  (r.op == 2 && t.lmSize < r.lpitch + 4 * r.rows) ||
  (r.receivers core).any fun c => match s.receiver core r c with
    | none => true
    | some u => u.2.lmSize < r.lmEnd

/-- Step 3 of R117: the barrier object does not lie whole inside a partition it is placed in. -/
def State.copyBarOutside (s : State) (core : Nat) (r : CopyRec) : Bool :=
  r.bv && (r.receivers core).any fun c => match s.receiver core r c with
    | none => true
    | some u => u.2.lmSize < r.bar + 32

/-- A record's operation is of a feature that is absent: gather-on-fill, multicast (R346). -/
def State.copyAbsent (s : State) (r : CopyRec) : Bool := (r.op == 2 && !s.hasFeature 23) || (r.op == 5 && !s.hasFeature 24)

/-- The checks of R117, with whether no barrier is to be updated. -/
def State.copyCheck (s : State) (core : Nat) (t : Team) (r : CopyRec) : Option Cause × Bool :=
  if r.reservedBad || s.copyAbsent r then (some .reservedField, false)
  else if r.misaligned then (some .misaligned, false)
  else if s.copyOutside core t r then (some .lmOutOfRange, false)
  else if s.copyBarOutside core r then (some .lmOutOfRange, true)
  else (none, false)

/-- Change the record a channel works on. -/
def State.modRec (s : State) (core chan : Nat) (f : CopyRec → CopyRec) : State :=
  s.modCore core fun k => k.modChan chan fun c => { c with cur := c.cur.map f }

/-- COPY_RECORD_BEGIN: the channel reads and checks its next record (R117). Nothing of it is delivered: OFF is 0 (R63; log
44). One whose own 32 bytes read as uncorrectable finishes with that cause and updates no barrier (log 74). One that names
no receiver delivers nothing (R116). -/
def execCopyRecordBegin (core chan : Nat) (s : State) : Host.Outcome State Fault Refusal :=
  .next <|
    let c := (s.core core).chan chan
    match c.cur, c.kicks with
    | none, q :: qs =>
      (match (s.core core).part q.team with
      | none => s.modCore core fun k => k.modChan chan fun c => { c with kicks := qs }
      | some t =>
        let rest := if q.count ≤ 1 then qs else { q with first := q.first + 32, count := q.count - 1 } :: qs
        let rd := (s.core core).lmRead (t.lmBase + q.first) 32
        let bs := match rd with | .ok bs => bs | .error _ => []
        let r : CopyRec :=
          { team := q.team, gang := q.gang, off := q.first
            words := (List.range 4).map fun i => BitVec.ofNat 64 (leNat ((bs.drop (8 * i)).take 8))
            pos := 0, sub := 0, status := none, noBar := false, stall := none, sent := none, asked := 0, got := none }
        let v : Option Cause × Bool := match rd with
          | .error e => (some e, true)
          | .ok _ => s.copyCheck core t r
        let st : Option (Option Cause) := match v.1 with
          | some e => some (some e)
          | none => if r.total = 0 || (r.receivers core).isEmpty then some none else none
        s.modCore core fun k => k.modChan chan fun c =>
          { c with off := 0, kicks := rest, cur := some { r with status := st, noBar := v.2 } })
    | _, _ => s

/-! ### Delivery (R116 to R118) -/

/-- What the channel moves next: the global address (none where a gather index passes the address space), the LM
offset, the length at most, and the receiving cores. -/
structure CopyRun where
  glob : Option Nat
  lm : Nat
  n : Nat
  cores : List Nat

/-- The next run of a record at its position (R116). -/
def CopyRec.next (r : CopyRec) (core : Nat) (k : Core) (t : Team) : CopyRun :=
  let i := r.pos / max r.width 1
  let c := r.pos % max r.width 1
  let cap (g : Nat) : Option Nat := if g < 2 ^ 54 then some g else none
  match r.op with
  | 0 => ⟨cap (r.src + r.pos), r.dst + r.pos, r.total - r.pos, [core]⟩
  | 1 => ⟨cap (r.src + i * r.gpitch + c), r.dst + i * r.lpitch + c, r.width - c, [core]⟩
  | 2 =>
    let n := leNat (byteRead k.lm (t.lmBase + r.lpitch + 4 * i) 4)
    ⟨cap (r.src + n * r.gpitch + c), r.dst + i * r.width + c, r.width - c, [core]⟩
  | 3 => ⟨cap (r.dst + r.pos), r.src + r.pos, r.total - r.pos, []⟩
  | 4 => ⟨cap (r.dst + i * r.gpitch + c), r.src + i * r.lpitch + c, r.width - c, []⟩
  | _ =>
    if r.pos < r.width then ⟨cap (r.src + r.pos), r.dst + r.pos, r.width - r.pos, r.receivers core⟩
    else
      ⟨cap (r.src + r.width + r.sub * r.rstride + (r.pos - r.width)), r.dst + r.pos, 16,
       [(r.receivers core).getD r.sub 0]⟩

/-- The port of a barrier object that the record will update takes no delivery now: the object is held (R370), or the port
has gone on to the arrivals of this cycle (R131). -/
def State.copyHeld (s : State) (core : Nat) (r : CopyRec) : Bool :=
  r.bv && !r.noBar && (r.receivers core).any fun c => (s.core c).portLast.isSome || match s.receiver core r c with
    | some u => s.barWaits c u.1 r.bar
    | none => false

/-- Subtract delivered bytes from the barrier in one receiving core (R117). No byte is counted on an object that does not lie
within the partition: of a record refused for its first words or its extents, which names such an object too, R117 says that the
barrier is updated and not which; the model updates none (log 105). -/
def State.copyBar (s : State) (core : Nat) (r : CopyRec) (c n : Nat) : State :=
  if r.bv && !r.noBar then
    match s.receiver core r c with
    | some u => if r.bar + 32 ≤ u.2.lmSize then s.barBytes c u.1 u.2 r.bar n else s
    | none => s
  else s

/-- The position after n more bytes of a run. -/
def CopyRec.step (r : CopyRec) (core n : Nat) : CopyRec :=
  if r.op = 5 ∧ r.width ≤ r.pos then
    if r.sub + 1 < (r.receivers core).length then { r with sub := r.sub + 1 } else { r with sub := 0, pos := r.pos + n }
  else { r with pos := r.pos + n }

/-- MOVED of the kicking team (R138). -/
def State.copyMoved (s : State) (core : Nat) (r : CopyRec) (n : Nat) : State :=
  s.modTeam core r.team fun t => { t with moved := t.moved + BitVec.ofNat 64 n }

/-- STATUS and DONE are written into the record (R117 step 1). A word of it that cannot be read stays as it is: they are only a
part of it (R83; log 98). -/
def State.copyMark (s : State) (core : Nat) (r : CopyRec) (code : Nat) : State :=
  match (s.core core).part r.team with
  | none => s
  | some t =>
    let a := t.lmBase + r.off + 16
    s.modCore core fun k => if k.lmBad.contains (a / 8) then k else k.setLmWord a (putField (putField (k.lmWord a) 56 8 code) 55 1 1)

/-- The bytes just delivered to a receiver of a multicast are the last of its own slice, and another receiver has still to get its
own: they stay on its barrier until the last receiver has its bytes, so that a warp which it releases finds DONE written (R117). -/
def CopyRec.withholds (r : CopyRec) (core n : Nat) : Bool :=
  r.op == 5 && r.width ≤ r.pos && r.total ≤ r.pos + n && r.sub + 1 < (r.receivers core).length

/-- After bytes were delivered: position, WPTR.OFF, MOVED and barriers. With the last of them the record is done, which its
STATUS and DONE say before any barrier does (R63, R117). -/
def State.copyDone (s : State) (core chan : Nat) (r : CopyRec) (run : CopyRun) (n : Nat) : State :=
  let r' := r.step core n
  let whole := r'.pos != r.pos
  let ends := r'.total ≤ r'.pos
  let s := s.modCore core fun k => k.modChan chan fun c =>
    let off := if whole && c.off.toNat < run.lm + n then BitVec.ofNat 20 (run.lm + n) else c.off
    { c with off := off, cur := some { r' with status := if ends then some none else none } }
  let s := if ends then s.copyMark core r 0 else s
  let cores := if r.out then [core] else run.cores
  let off := if r.withholds core n then [] else if ends && r.op = 5 && r.width ≤ r.pos then r.receivers core else cores
  off.foldl (fun s c => s.copyBar core r c n) (s.copyMoved core r (n * cores.length))

/-- A fault of the record (R118): a replayable one stalls the channel, another decides the outcome. -/
def State.copyFault (s : State) (core chan : Nat) (t : Team) (r : CopyRec) (c : Cause) (va : Nat) : State :=
  if c.replayable then
    let f := s.addFault
      { va := va, cause := c, source := 2, flags := faultFlags true (if r.out then .write else .read) false, unit := chan
        core := core, asid := t.asid, lanes := 0, fseq := 0 }
    f.1.modRec core chan fun r => { r with stall := some f.2 }
  else s.modRec core chan fun r => { r with status := some (some c) }

/-- A 64-byte line at home holds an uncorrectable unit (R83). -/
def State.badLine (s : State) (pa : Nat) : Bool := (unitsOf (pa / 64 * 64) 64).any s.unitBad

/-- Bytes of fill data into every receiver of a run (R118: whole 16-byte units). -/
def State.copyFill (s : State) (core chan : Nat) (r : CopyRec) (run : CopyRun) (bs : List Byte) : State :=
  let s := run.cores.foldl (fun s c => match s.receiver core r c with
    | some u => s.modCore c fun k => k.lmPut (u.2.lmBase + run.lm) bs
    | none => s) s
  s.copyDone core chan r run bs.length

/-- Read up to one 16-byte unit at its home for a fill (R116, R118). -/
def State.engineRead (s : State) (core : Nat) (t : Team) (va : Nat) : State × Except Cause (List Byte) :=
  match s.translate core t.asid t.priv va .read with
  | (s, .error c) => (s, .error c)
  | (s, .ok x) =>
    if hubRange x.pa then (s, .ok (s.regBytes x.pa 16))
    else if s.badLine x.pa then (s.unheard x.pa, .error .memoryUncorrectable)
    else (s, .ok (Memory.readN s.mem x.pa 16))

/-- Write one 16-byte unit at its home for a store-out (R89, R90, R116). -/
def State.engineWrite (s : State) (core team : Nat) (t : Team) (va : Nat) (bs : List Byte) :
    State × Except (Cause × Nat) Unit :=
  match s.translate core t.asid t.priv va .write with
  | (s, .error c) => (s, .error (c, va))
  | (s, .ok x) =>
    if hubRange x.pa then (s, .ok ())
    else match s.gateStore t.asid t.priv va x bs.length (allBytes bs.length) true with
      | (s, .error c) => (s, .error c)
      | (s, .ok _) =>
        match s.homeWrite x.pa bs with
        | .error c => (s.unheard x.pa, .error (c, va))
        | .ok s => (s.countWrite core team va bs.length (allBytes bs.length), .ok ())

/-- The packet of an engine's run of bytes within a block (R319 to R321). -/
def runPacket (kind cls va : Nat) (n : Nat) (bs : List Byte) : Packet :=
  let o := va % 64
  let parts := (o + n + 63) / 64
  let be := BitVec.ofNat 64 ((2 ^ min n (64 - o) - 1) * 2 ^ o)
  let last := (o + n - 1) % 64 + 1
  { blankPacket kind cls (aperturePeer va) (apertureOff va / 64 * 64) with
    be := be
    bel := if kind = 2 && 1 < parts then BitVec.ofNat 64 (2 ^ last - 1) else 0
    data := if bs.isEmpty then [] else
      List.replicate o 0 ++ bs ++ List.replicate (parts * 64 - o - n) 0 }

/-- The bytes one packet may carry from an address on (R319, R321): reads and multicast writes go line by line, other
writes up to the end of the 256-byte block. -/
def sendCap (write : Bool) (g : Nat) : Nat :=
  if write && apertureOff g / 2 ^ 32 != 1022 then 256 - g % 256 else 64 - g % 64

/-- The bytes of an LM run in the 16-byte units before the first that holds an uncorrectable one (R118). -/
def Core.goodRun (k : Core) (a n : Nat) : Nat :=
  match (List.range ((n + 15) / 16)).find? fun i => (unitsOf (a + 16 * i) 16).any k.lmBad.contains with
  | some i => 16 * i
  | none => n

/-- Send a run of a record through the fabric (R319): of a store-out the bytes before a failing 16-byte unit, at which the
record ends (R118). -/
def State.copySend (s : State) (core chan : Nat) (t : Team) (r : CopyRec) (run : CopyRun) (g : Nat) : State :=
  let m := min run.n (sendCap r.out g)
  let n := if r.out then (s.core core).goodRun (t.lmBase + run.lm) m else m
  match (if r.out then (s.core core).lmRead (t.lmBase + run.lm) (if n = 0 then m else n) else .ok []) with
  | .error c => s.copyFault core chan t r c run.lm
  | .ok bs =>
    match s.request (runPacket (if r.out then 2 else 1) 3 g n bs) (.chan core chan) core with
    | (s, .error c) => s.copyFault core chan t r c g
    | (s, .ok tag) => s.modRec core chan fun r => { r with sent := some tag, asked := n }

/-- Deliver the next unit of a record, or send for it (R116 to R118). -/
def State.copyUnit (s : State) (core chan : Nat) (t : Team) (r : CopyRec) : State :=
  let run := r.next core (s.core core) t
  match run.glob with
  | none => s.copyFault core chan t r .outOfRange 0
  | some g =>
    if r.op = 2 && (unitsOf (t.lmBase + r.lpitch + 4 * (r.pos / max r.width 1)) 4).any (s.core core).lmBad.contains then
      s.copyFault core chan t r .memoryUncorrectable g
    else if inAperture g then s.copySend core chan t r run g
    else if r.out then
      match (s.core core).lmRead (t.lmBase + run.lm) 16 with
      | .error c => s.copyFault core chan t r c run.lm
      | .ok bs =>
        match s.engineWrite core r.team t g bs with
        | (s, .error e) => s.copyFault core chan t r e.1 e.2
        | (s, .ok _) => s.copyDone core chan r run 16
    else
      match s.engineRead core t g with
      | (s, .error c) => s.copyFault core chan t r c g
      | (s, .ok bs) => s.copyFill core chan r run bs

/-- A fabric reply that has come is applied: fill data is delivered, a store-out counts as acknowledged and in WBYTES, a
failure decides (R118, R138, R318). -/
def State.copyTake (s : State) (core chan : Nat) (t : Team) (r : CopyRec) (res : Option Cause × List Byte) : State :=
  let r := { r with got := none }
  let s := s.modRec core chan fun r => { r with got := none }
  let run := r.next core (s.core core) t
  match res.1, run.glob with
  | some c, _ => s.copyFault core chan t r c 0
  | none, none => s
  | none, some g =>
    if r.out then (s.countWrite core r.team g r.asked (allBytes r.asked)).copyDone core chan r run r.asked
    else s.copyFill core chan r run ((res.2.drop (g % 64)).take r.asked)

/-- The next thing a record does: a reply is applied, or a unit delivered or sent for. -/
def State.copyNext (s : State) (core chan : Nat) (t : Team) (r : CopyRec) : State :=
  match r.got with
  | some res => s.copyTake core chan t r res
  | none => s.copyUnit core chan t r

/-- Up to a number of units, as long as the record goes on. -/
def State.copyUnits (s : State) (core chan : Nat) : Nat → State
  | 0 => s
  | n + 1 =>
    match ((s.core core).chan chan).cur with
    | none => s
    | some r =>
      if r.status.isSome || r.stall.isSome || r.sent.isSome || s.copyHeld core r then s
      else match (s.core core).part r.team with
        | none => s
        | some t => (s.copyNext core chan t r).copyUnits core chan n

/-- COPY_BYTES_DELIVERED: the channel delivers 16-byte units, each with its bytes off the barrier (R117, R118). -/
def execCopyBytesDelivered (core chan units : Nat) (s : State) : Host.Outcome State Fault Refusal :=
  .next (s.copyUnits core chan units)

/-- A fabric reply for a channel: it is applied at once, or once the barrier port takes the delivery (R118, R131, R318,
R370). -/
def State.copyReply (s : State) (core chan tag : Nat) (res : Except Cause (List Byte)) : State :=
  match ((s.core core).chan chan).cur with
  | none => s
  | some r =>
    if r.sent != some tag then s
    else
      let got : Option Cause × List Byte := match res with
        | .error c => (some c, [])
        | .ok bs => (none, bs)
      (s.modRec core chan fun r => { r with sent := none, got := some got }).copyUnits core chan 1

/-! ### Finishing (R117) -/

/-- The bytes of a record a receiver of some rank still lacks. -/
def CopyRec.lacks (r : CopyRec) (rank : Nat) : Nat :=
  r.total - (r.pos + if r.op = 5 ∧ r.width ≤ r.pos ∧ rank < r.sub ∧ r.pos + 16 < r.total then 16 else 0)

/-- A copy of a gang is queued or in progress somewhere in a cluster. -/
def State.copiesOf (s : State) (cluster gang : Nat) : Bool :=
  s.cores.any fun c => clusterOf c.1 == cluster && c.2.chans.any fun h =>
    h.2.kicks.any (·.gang == gang) || (match h.2.cur with | some r => r.gang == gang | none => false)

/-- Partitions kept for copies are freed once none is in flight, but not those of a gang whose LM is still to be saved
(R18, R76, R292). -/
def State.freeParts (s : State) : State :=
  let keep (c : Nat) (r : Nat × Team) : Bool :=
    s.copiesOf (clusterOf c) r.2.gang || s.hub.saving.any fun v => v.gang.key == r.2.gang
  { s with cores := s.cores.map fun c => (c.1, { c.2 with reserved := c.2.reserved.filter (keep c.1) }) }

/-- The entry of a channel in what a stopping team notes (R308). -/
def stopNote (recs : List (Nat × Nat × Nat)) (chan off code : Nat) : List (Nat × Nat × Nat) :=
  (List.range 4).map fun c =>
    let e := recs.getD c (0, 0xFFFFFFFF, 0)
    if c = chan then (e.1 + 1, if code != 0 && e.2.1 == 0xFFFFFFFF then (off, code) else e.2) else e

/-- A record of a stopping team has finished (R303 step 3, R308). -/
def State.noteFinish (s : State) (core chan : Nat) (r : CopyRec) (code : Nat) : State :=
  s.modTeam core r.team fun t => match t.run with
    | .stopping _ => { t with stop := { t.stop with recs := stopNote t.stop.recs chan r.off code } }
    | _ => t

/-- The channel has finished a record: SEQ advances, and where another record follows OFF is 0, for nothing of it is
delivered (R63; log 44). Where none follows OFF stays at the record's end, as in R313's example. -/
def Chan.finish (c : Chan) : Chan :=
  { c with cur := none, seq := c.seq + 1, off := if c.kicks.isEmpty then c.off else 0 }

/-- A record's STATUS and DONE were written with its last byte. -/
def CopyRec.marked (r : CopyRec) : Bool := r.status == some none && 0 < r.total && r.total ≤ r.pos

/-- COPY_RECORD_FINISH: STATUS and DONE are written, unless they were with the last byte: software may have changed the record
since. The rest of B leaves the barrier, SEQ advances (R117). -/
def execCopyRecordFinish (core chan : Nat) (s : State) : Host.Outcome State Fault Refusal :=
  .next <| match ((s.core core).chan chan).cur with
  | none => s
  | some r =>
    match r.status, (s.core core).part r.team with
    | some st, some _ =>
      if s.copyHeld core r then s
      else
        let code := match st with
          | some c => c.code
          | none => 0
        let s := if r.marked then s else s.copyMark core r code
        let s := ((r.receivers core).zipIdx).foldl (fun (s : State) (p : Nat × Nat) =>
          s.copyBar core r p.1 (r.lacks p.2)) s
        ((s.modCore core fun k => k.modChan chan Chan.finish).noteFinish core chan r code).freeParts
    | _, _ => s

end Sys2Proof.Machine
end

