-- ==== Sys2Proof/Machine/Join.lean ====
section
/-! DEFINITION. Join objects and continuation queues at the hub: decrements, what follows the last one, appends (R9 to
R11, R18, R113, R114, R129). -/

namespace Sys2Proof.Machine

/-! ### Records and queues -/

/-- Word i of a continuation record (R9). -/
def recWord (r : List Byte) (i : Nat) : Nat := leNat ((r.drop (8 * i)).take 8)

/-- JOIN of a continuation record. -/
def recJoin (r : List Byte) : Nat := recWord r 2 % 2 ^ 54

/-- Replace a continuation queue. -/
def State.setQueue (s : State) (q : Nat) (c : CQueue) : State :=
  { s with hub := { s.hub with queues := amPut s.hub.queues q c } }

/-- Records a queue can still take. -/
def CQueue.room (c : CQueue) : Nat := 2 ^ c.log2.toNat - (c.tail - c.head).toNat

/-- The PA of record j of a queue (R113). -/
def CQueue.slot (c : CQueue) (j : Nat) : Nat := c.base.toNat * 2048 + j % 2 ^ c.log2.toNat * 32

/-- A batch of LAUNCH has reserved room in a queue that it has not filled yet (R30). -/
def Hub.reservedAt (h : Hub) (q : Nat) : Bool := h.reservations.any (·.1 == q)

/-- Bytes written at home whatever stood there. -/
def State.hubPut (s : State) (pa : Nat) (bs : List Byte) : State :=
  match s.homeWrite pa bs with
  | .ok s => s
  | .error _ => { s with mem := Memory.writeN s.mem pa bs }.noteWatch pa bs.length

/-- The place of record j of a queue is populated memory (R72, R362). -/
def State.queueUp (s : State) (c : CQueue) (j : Nat) : Bool := s.populated (c.slot j)

/-- A queue that holds records has its head record noted, in the order in which records reach their heads (R12, R20). R83 does not
say what the hub does with a record that cannot be read: it takes the bits as they stand (log 98). -/
def State.noteHead (s : State) (q : Nat) : State :=
  let c := s.hub.queue q
  if c.head = c.tail || s.hub.heads.any (·.1 == q) || !s.queueUp c c.head.toNat then s
  else
    let h : Head :=
      { record := Memory.readN s.mem (c.slot c.head.toNat) 32, checked := false, desc := [], next := 0, task := none
        regions := [], entered := none, waitSince := none, asked := false, gone := none }
    { s with hub := { s.hub with heads := s.hub.heads ++ [(q, h)] } }

/-- Write records into a queue's body and advance TAIL (R114). -/
def State.append (s : State) (q : Nat) : List (List Byte) → State
  | [] => s
  | r :: rs =>
    let c := s.hub.queue q
    ((((s.hubPut (c.slot c.tail.toNat) r).setQueue q { c with tail := c.tail + 1 })).noteHead q).append q rs

/-- The hub records a QUEUE_INVALID (R11, R14, R114). -/
def State.queueInvalid (s : State) (asid : Asid) (va source unit : Nat) : State :=
  (s.addFault (hubFault va .queueInvalid source 0 unit asid)).1

/-! ### The dependence unit's table -/

/-- The regions of the tasks that name a join object leave the dependence unit; the tasks are complete (R10, R11). -/
def State.removeRegions (s : State) (asid : Asid) (join : Nat) : State :=
  { s with hub := { s.hub with
      table := s.hub.table.filter fun e => !(e.asid == asid && e.join == join)
      tasks := s.hub.tasks.filter fun t => !(t.asid == asid && recJoin t.record == join) } }

/-! ### Decrements (R11) -/

/-- A join object as the hub reads it. -/
structure JoinObj where
  pa : Nat
  count : Nat
  sq : Nat
  notify : Nat
  bad : Bool
  succ : List Byte

/-- Read a join object (R10, R11). -/
def State.joinRead (s : State) (asid : Asid) (va : Nat) : Except Cause JoinObj :=
  if va % 64 != 0 || inAperture va then .error .queueInvalid
  else match s.translateHub asid true va .atomic with
    | .error c => .error c
    | .ok x =>
      match s.homeRead x.pa 64 with
      | .error c => .error c
      | .ok bs =>
        let w1 := leNat ((bs.drop 8).take 8)
        .ok { pa := x.pa, count := leNat (bs.take 4), sq := (bs.getD 4 0).toNat, notify := w1 % 2 ^ 54
              bad := bitAt (bs.getD 4 0).toNat 6 || leNat ((bs.drop 5).take 3) != 0 || w1 / 2 ^ 54 != 0 ||
                leNat ((bs.drop 16).take 16) != 0
              succ := bs.drop 32 }

/-- Tell who waits that a decrement has been performed (R259). -/
def State.ackDec (s : State) (a : DecAck) : State :=
  match a with
  | .none => s
  | .lane core slot op l =>
    (match s.findOp core slot op with
    | some (o, _, _) =>
      s.updateOp core slot
        { o with accs := o.accs.map fun a => if a.lane = l then { a with st := .done } else a }
    | none => s)
  | .peer p => s.answer p 0 []

/-- Put a decrement back among those the hub still has to make. -/
def State.pushDec (s : State) (d : JoinDec) : State := { s with hub := { s.hub with decs := s.hub.decs ++ [d] } }

/-- A decrement that is refused or has been made is over: who waits learns of it, and the regions that wait for it leave. -/
def State.decOver (s : State) (d : JoinDec) : State :=
  (match d.after with
    | some va => s.removeRegions d.asid va
    | none => s).ackDec d.ack

/-- The hub records a QUEUE_INVALID at a join object; what follows goes on once the fault queue holds the record (R11, R123). -/
def State.refuseDec (s : State) (d : JoinDec) : State :=
  let f := s.addFault (hubFault d.va .queueInvalid 5 0 0 d.asid)
  if s.faultRoom then f.1.decOver d else f.1.pushDec { d with noted := some f.2 }

/-- Make a decrement, and what follows it as long as nothing waits (R11). `fuel` bounds the chain of NOTIFY objects made
in this step; the rest of a longer chain is made by later ones. -/
def State.decrement : Nat → State → JoinDec → State
  | 0, s, d => s.pushDec { d with hold := .ready }
  | fuel + 1, s, d =>
    match s.joinRead d.asid d.va with
    | .error c =>
      if c.replayable then
        let f := s.addFault (hubFault d.va c 5 (faultFlags true .atomic false) 0 d.asid)
        f.1.pushDec { d with hold := .waiting f.2 }
      else (s.unheardAt d.asid d.va c).refuseDec { d with hold := .ready, after := none }
    | .ok j =>
      if j.count = 0 then s.refuseDec { d with hold := .ready }
      else
        let s := (s.hubPut j.pa (leBytes 4 (j.count - 1))).decOver d
        if j.count ≠ 1 then s
        else if j.bad then s.refuseDec { d with hold := .ready, ack := .none, after := some d.va }
        else if bitAt j.sq 7 then
          let x : Successor :=
            { queue := j.sq % 64, asid := d.asid, record := j.succ, notify := j.notify, join := d.va }
          { s with hub := { s.hub with successors := s.hub.successors ++ [x] } }
        else if j.notify ≠ 0 then
          s.decrement fuel { asid := d.asid, va := j.notify, hold := .ready, ack := .none, after := some d.va }
        else s.removeRegions d.asid d.va

/-- The hub decrements a join object (R11). -/
def State.joinDecrement (s : State) (asid : Asid) (va : Nat) (ack : DecAck) : State :=
  s.decrement 64 { asid := asid, va := va, hold := .ready, ack := ack, after := none }

/-- After a successor's append, the NOTIFY decrement, then the regions (R11). -/
def State.afterSucc (s : State) (x : Successor) : State :=
  if x.notify ≠ 0 then
    s.decrement 64 { asid := x.asid, va := x.notify, hold := .ready, ack := .none, after := some x.join }
  else s.removeRegions x.asid x.join

/-- A successor that may not be appended is recorded and dropped; what follows goes on once the fault queue holds the record
(R114, R123). -/
def State.refuseSucc (s : State) (x : Successor) : State :=
  let s' : State := { s with hub := { s.hub with successors := s.hub.successors.erase x } }
  let f := s'.addFault (hubFault x.join .queueInvalid 5 0 0 x.asid)
  if s.faultRoom then f.1.afterSucc x
  else { f.1 with hub := { f.1.hub with successors := s.hub.successors.map fun y => if y = x then { x with noted := some f.2 } else y } }

/-- SUCCESSOR_APPEND: the oldest successor that waits for a queue is appended once there is room, or refused (R11,
R114), as it is where the body lies in no memory (R362; log 101). -/
def execSuccessorAppend (q : Nat) (s : State) : Host.Outcome State Fault Refusal :=
  .next <| match s.hub.successors.find? (·.queue == q) with
  | none => s
  | some x =>
    let c := s.hub.queue q
    let s' := { s with hub := { s.hub with successors := s.hub.successors.erase x } }
    match x.noted with
    | some f => if s.recorded f then s'.afterSucc x else s
    | none =>
      if !c.v || c.asid != x.asid || !s.queueUp c c.tail.toNat then s.refuseSucc x
      else if s.hub.reservedAt q || c.room = 0 then s
      else (s'.append q [x.record]).afterSucc x

/-- JOIN_DECREMENT_REPLAYED: a decrement the hub still has to make is made once its fault record was replayed; ended
through REPLAY_FAIL, it is dropped (R11, R287). One that was refused is over once its record is written (R123). -/
def execJoinDecrementReplayed (n : Nat) (s : State) : Host.Outcome State Fault Refusal :=
  .next <| match s.hub.decs[n]? with
  | none => s
  | some d =>
    let s' := { s with hub := { s.hub with decs := s.hub.decs.eraseIdx n } }
    match d.noted, d.hold with
    | some f, _ => if s.recorded f then s'.decOver d else s
    | none, .waiting _ => s
    | none, .ready => s'.decrement 64 d
    | none, .failed _ => s'.refuseDec { d with hold := .ready, after := none }

/-- LAUNCH raises COUNT of the launching task's join object by n (R129, R252). -/
def State.joinAdd (s : State) (asid : Asid) (va n : Nat) : Except Cause State :=
  match s.joinRead asid va with
  | .error c => .error c
  | .ok j =>
    if 2 ^ 32 ≤ j.count + n then .error .queueInvalid else .ok (s.hubPut j.pa (leBytes 4 (j.count + n)))

end Sys2Proof.Machine
end

