-- ==== Sys2Proof/Machine/Rings.lean ====
section
/-! DEFINITION. What the hub writes for software: MSI-X vectors, the fault queue, the orphan-count log and the capture
ring (R112, R123, R302, R310, R336). -/

namespace Sys2Proof.Machine

/-! ### MSI-X (R336) -/

/-- A vector is masked: bit 32 of the second word of its table entry (log 2). -/
def Hub.masked (h : Hub) (v : Nat) : Bool := bitAt (h.msixTable.getD (2 * v + 1) (BitVec.ofNat 64 (2 ^ 32))).toNat 32

/-- Send a vector, or hold it pending where it is masked (R336). -/
def State.msix (s : State) (v : Nat) : State :=
  s.modHub fun h =>
    if h.masked v then { h with msixPending := h.msixPending ||| BitVec.ofNat 8 (2 ^ v) }
    else { h with msixSent := h.msixSent ++ [v] }

/-- Pending vectors that are no longer masked are sent (R336). -/
def State.msixUnmask (s : State) : State :=
  (List.range 8).foldl (fun s v =>
    if s.hub.msixPending.getLsbD v && !s.hub.masked v then
      s.modHub fun h => { h with msixPending := h.msixPending &&& ~~~ BitVec.ofNat 8 (2 ^ v), msixSent := h.msixSent ++ [v] }
    else s) s

/-! ### Rings -/

/-- Units of 32 bytes used in a ring. -/
def ringUsed (widx ridx : Nat) : Nat := (widx + 2 ^ 64 - ridx) % 2 ^ 64

/-- Write consecutive 32-byte units into a ring from an index on; the ring wraps. -/
def State.ringPut (s : State) (base size widx : Nat) : List (List Byte) → State
  | [] => s
  | u :: us =>
    let pa := base + widx % (size / 32) * 32
    let s := match s.homeWrite pa u with
      | .ok s => s
      | .error _ => { s with mem := Memory.writeN s.mem pa u }.noteWatch pa u.length
    s.ringPut base size (widx + 1) us

/-- Cut bytes into 32-byte units, the last one padded with zeros. -/
def unitsOf32 (bs : List Byte) : List (List Byte) :=
  (List.range ((bs.length + 31) / 32)).map fun i => ((bs.drop (32 * i)).take 32 ++ List.replicate 32 0).take 32

/-- The sample or capture ring has reached half full with this write (R336). -/
def reachesHalf (size before after : Nat) : Bool := before < size / 64 && size / 64 ≤ after

/-! ### The fault queue (R123) -/

/-- The 32 bytes of a record. -/
def FaultRec.bytes (r : FaultRec) (time : Nat) : List Byte :=
  leBytes 8 r.va ++ leBytes 1 r.cause.code ++ leBytes 1 r.source ++ leBytes 1 r.flags ++ leBytes 1 r.unit ++
  leBytes 2 r.core ++ leBytes 2 r.asid.toNat ++ leBytes 4 r.lanes.toNat ++ leBytes 4 r.fseq ++ leBytes 8 time

/-- FAULT_RECORD_WRITE: the oldest record the hub holds goes into the ring once the ring is valid and has room (R123). -/
def execFaultRecordWrite (s : State) : Host.Outcome State Fault Refusal :=
  .next <| match s.hub.faultQ with
  | [] => s
  | r :: rest =>
    let g := s.hub.regs
    if !s.ringOk g.fqBase.toNat g.fqSize.toNat 24 || ringRoom g.fqSize.toNat g.fqWidx.toNat g.fqRidx.toNat = 0 then s
    else
      let s := s.ringPut g.fqBase.toNat g.fqSize.toNat g.fqWidx.toNat [r.bytes s.clock.toNat]
      let s := s.modHub fun h => { h with faultQ := rest, regs := { h.regs with fqWidx := h.regs.fqWidx + 1 } }
      if g.fqWidx = g.fqRidx then s.msix 0 else s

/-! ### The orphan-count log (R112) -/

/-- The 32 bytes of an orphan-count record. -/
def orphanBytes (granule : Nat) (net : Int) (peer : Nat) (inc : BitVec 16) (time : Nat) (mark : Bool) : List Byte :=
  leBytes 8 granule ++ leBytes 4 (BitVec.ofInt 32 net).toNat ++ leBytes 2 peer ++ leBytes 2 inc.toNat ++
  leBytes 8 time ++ leBytes 4 (if mark then 1 else 0) ++ leBytes 4 0

/-- Write one record, or count it where the ring has no room (R112); without the log nothing is written (R346). R112 says what
becomes of records while the ring is full alone: a ring that is not valid, as at reset, is taken for a full one (log 101). -/
def State.orphan (s : State) (r : Remote) : State :=
  let g := s.hub.regs
  if !s.hasFeature 36 then s
  else if s.ringOk g.olBase.toNat g.olSize.toNat 24 && ringRoom g.olSize.toNat g.olWidx.toNat g.olRidx.toNat != 0 then
    let s := s.ringPut g.olBase.toNat g.olSize.toNat g.olWidx.toNat
      [orphanBytes r.granule r.net r.peer r.inc s.clock.toNat s.hub.olMark]
    let s := s.modHub fun h => { h with olMark := false, regs := { h.regs with olWidx := h.regs.olWidx + 1 } }
    if g.olWidx = g.olRidx then s.msix 1 else s
  else s.modHub fun h => { h with olMark := true, regs := { h.regs with olLost := h.regs.olLost + 1 } }

/-! ### Capture (R310) -/

/-- Inbound events of an ASID are captured (R310, R346). -/
def State.captures (s : State) (asid : Nat) : Bool :=
  s.hasFeature 29 && bitAt s.hub.regs.captureCtl.toNat 31 && s.hub.regs.captureCtl.toNat % 2 ^ 12 == asid

/-- A capture record: its head and payload (R310). -/
def captureBytes (kind clock va peer inc : Nat) (payload : List Byte) : List Byte :=
  leBytes 4 kind ++ leBytes 4 payload.length ++ leBytes 8 clock ++ leBytes 8 va ++ leBytes 2 peer ++ leBytes 2 inc ++
  leBytes 4 0 ++ payload

/-- Inbound events that one action performs, with n payload bytes each, wait: a record is still to be written, or the ring
has no room for theirs (R310). -/
def State.captureWaitsAll (s : State) (asid : Nat) (ns : List Nat) : Bool :=
  let g := s.hub.regs
  s.captures asid && !ns.isEmpty && (!s.hub.capture.isEmpty ||
    !s.ringOk g.captureBase.toNat g.captureSize.toNat 26 ||
    ringRoom g.captureSize.toNat g.captureWidx.toNat g.captureRidx.toNat < (ns.map fun n => 1 + (n + 31) / 32).sum)

/-- An inbound event with n payload bytes waits (R310). -/
def State.captureWaits (s : State) (asid n : Nat) : Bool := s.captureWaitsAll asid [n]

/-- Note an inbound event for the ring (R310). -/
def State.capture (s : State) (asid kind va peer inc : Nat) (payload : List Byte) : State :=
  if s.captures asid then
    s.modHub fun h => { h with capture := h.capture ++ [captureBytes kind s.clock.toNat va peer inc payload] }
  else s

/-! ### Host writes (R153, R310, R333) -/

/-- The address space whose inbound events are captured, for a host write (R310; log 32). -/
def State.captureAsid (s : State) : Nat := s.hub.regs.captureCtl.toNat % 2 ^ 12

/-- The claims a write made that changed WIDX of a BTE queue's descriptor (R120, R311). -/
def State.noteWidx (s before : State) (pa n : Nat) : State :=
  (List.range ((pa % 8 + n + 7) / 8)).foldl (fun s i =>
    let a := pa / 8 * 8 + 8 * i
    let old := Memory.readNat before.mem a 8
    let new := Memory.readNat s.mem a 8
    if old = new then s else s.noteClaim a old new) s

/-- A host write is performed at the home of its address, and captured as it is; one that cannot be is lost (R83, R310,
R333). -/
def State.hostPut (s : State) (pa : Nat) (bs : List Byte) : State :=
  let s := s.capture s.captureAsid 2 pa 0xFFFF 0 bs
  match s.homeWrite pa bs with
  | .ok t => t.noteWidx s pa bs.length
  | .error _ => s

/-- The posted writes that are still to be performed are performed, oldest first (R153). -/
def State.drainPosted (s : State) : State :=
  if s.hub.posted.isEmpty then s
  else s.hub.posted.foldl (fun (s : State) (p : Posted) => s.hostPut p.pa p.data) (s.modHub fun h => { h with posted := [] })

/-- A host access that wakes the device and passes no posted write before it (R153, R366); it waits while the capture ring
has no room for those (R310). -/
def State.hostIn (s : State) (f : State → State) : State :=
  if s.captureWaitsAll s.captureAsid (s.hub.posted.map (·.data.length)) then s else f s.wake.drainPosted

/-- CAPTURE_RECORD_WRITE: the oldest noted event goes into the ring (R310). -/
def execCaptureRecordWrite (s : State) : Host.Outcome State Fault Refusal :=
  .next <| match s.hub.capture with
  | [] => s
  | r :: rest =>
    let g := s.hub.regs
    let us := unitsOf32 r
    if !s.ringOk g.captureBase.toNat g.captureSize.toNat 26 ||
        ringRoom g.captureSize.toNat g.captureWidx.toNat g.captureRidx.toNat < us.length then s
    else
      let before := ringUsed g.captureWidx.toNat g.captureRidx.toNat
      let s := s.ringPut g.captureBase.toNat g.captureSize.toNat g.captureWidx.toNat us
      let s := s.modHub fun h =>
        { h with capture := rest
                 regs := { h.regs with captureWidx := h.regs.captureWidx + BitVec.ofNat 64 us.length } }
      if reachesHalf g.captureSize.toNat before (before + us.length) then s.msix 6 else s

end Sys2Proof.Machine
end

