-- ==== Sys2Proof/Machine/Bte.lean ====
section
/-! DEFINITION. Block transfer engines: taking a packet, copy, reduce-copy, fill, fence and launch, and the completion
record (R51, R119 to R122, R154, R311, R322, R330). -/

namespace Sys2Proof.Machine

/-! ### Queues -/

/-- Stage 0 has been reached: the start sequence has not stopped before it (R361, R363, R367). -/
def Boot.begun (b : Boot) : Bool := b.fail == 0 || (b.fail == 4 && !b.stacksBad.getLsbD 0)

/-- A queue is registered and its BTE works at this stage (R119, R361, R367; log 22). -/
def State.bteServed (s : State) (q : Nat) : Bool :=
  q < 256 && (s.hub.bteq q).desc != 0 && s.boot.begun && (s.boot.stage != 0 || q % 16 == 0)

/-- Change the packet of a queue. -/
def State.modBte (s : State) (q : Nat) (f : BteQ → BteQ) : State :=
  s.modHub fun h => { h with bte := amPut h.bte q (f (h.bteq q)) }

/-- Change the packet in progress. -/
def State.modPkt (s : State) (q : Nat) (f : BtePkt → BtePkt) : State := s.modBte q fun b => { b with cur := b.cur.map f }

/-- A BTE reads bytes at home (R121, R122): never through an L1, and nothing of a line that holds an uncorrectable unit (R83).
Its rights are those of a team that is not privileged (log 22). -/
def State.bteRead (s : State) (asid : Asid) (va n : Nat) : Except Cause (Nat × List Byte) :=
  match s.translateHub asid false va .read with
  | .error c => .error c
  | .ok x =>
    if hubRange x.pa then .ok (x.pa, s.regBytes x.pa n)
    else if s.badLine x.pa then .error .memoryUncorrectable
    else match s.homeRead x.pa n with
      | .error c => .error c
      | .ok bs => .ok (x.pa, bs)

/-- A BTE writes bytes at home (R89, R90, R122). -/
def State.bteWrite (s : State) (asid : Asid) (va : Nat) (bs : List Byte) : State × Except (Cause × Nat) Unit :=
  match s.translateHub asid false va .write with
  | .error c => (s, .error (c, va))
  | .ok x =>
    if hubRange x.pa then (s.regStore x.pa bs.length (leNat bs) (allBytes bs.length), .ok ())
    else match s.gateStore asid false va x bs.length (allBytes bs.length) true with
      | (s, .error e) => (s, .error e)
      | (s, .ok _) =>
        match s.homeWrite x.pa bs with
        | .error c => (s.unheard x.pa, .error (c, va))
        | .ok s => (s, .ok ())

/-- The VA of a word of a queue's descriptor (R119). -/
def BteQ.wordVa (b : BteQ) (i : Nat) : Nat := (b.desc.toNat + 8 * i) % 2 ^ 54

/-- A word of a queue's descriptor, read at home, with where it lies. -/
def State.bteWordAt (s : State) (q i : Nat) : Except Cause (Nat × List Byte) :=
  s.bteRead (s.hub.bteq q).asid ((s.hub.bteq q).wordVa i) 8

/-- A word of a queue's descriptor, read at home. -/
def State.bteWord (s : State) (q i : Nat) : Except Cause Nat :=
  match s.bteWordAt q i with
  | .error c => .error c
  | .ok r => .ok (leNat r.2)

/-- A host memory address (R72). -/
def hostPa (pa : Nat) : Bool := 2 ^ 51 ≤ pa && pa < 0xC000000000000

/-- The reads one action of a BTE makes, as (PA, bytes): those of host memory are captured, and with no room for them the
action waits (R310). -/
def State.bteSees (s : State) (a : Asid) (rs : List (Nat × List Byte)) : Option State :=
  let hs := rs.filter fun r => hostPa r.1
  if s.captureWaitsAll a.toNat (hs.map fun r => r.2.length) then none
  else some (hs.foldl (fun s r => s.capture a.toNat 3 (r.1 - 2 ^ 51) 0xFFFF 0 r.2) s)

/-- A packet stalls on a fault record, of its own queue's address space or of the one given (R122, R123). -/
def State.bteStallIn (s : State) (q : Nat) (a : Asid) (c : Cause) (va : Nat) (acc : Access) : State :=
  let f := s.addFault { hubFault va c 3 (faultFlags true acc false) (q % 256) a with core := 0xFFFF }
  f.1.modPkt q fun p => { p with stall := some f.2 }

/-- A packet stalls on a fault record of its queue (R122, R123). -/
def State.bteStall (s : State) (q : Nat) (c : Cause) (va : Nat) (acc : Access) : State :=
  s.bteStallIn q (s.hub.bteq q).asid c va acc

/-! ### Packets (R121) -/

/-- A word of a packet. -/
def BtePkt.w (p : BtePkt) (i : Nat) : Nat := (p.words.getD i 0).toNat

/-- KIND. -/
def BtePkt.kind (p : BtePkt) : Nat := p.w 0 / 2 ^ 48 % 256

/-- MODE of a reduce-copy. -/
def BtePkt.mode (p : BtePkt) : Nat := p.w 4 / 2 ^ 56 % 4

/-- LEN, or N. -/
def BtePkt.len (p : BtePkt) : Nat := (if p.kind = 2 then p.w 4 else p.w 3) % 2 ^ 48

/-- Words i and above are zero. -/
def BtePkt.zeroFrom (p : BtePkt) (i : Nat) : Bool := (List.range 8).all fun k => k < i || p.w k == 0

/-- The reserved bits and unused fields of a packet are zero (R121). -/
def BtePkt.reservedOk (p : BtePkt) : Bool :=
  p.w 0 % 2 ^ 48 == 0 && p.w 0 / 2 ^ 56 % 2 ^ 7 == 0 &&
  (match p.kind with
    | 1 => p.w 1 / 2 ^ 54 == 0 && p.w 2 / 2 ^ 54 == 0 && p.w 3 / 2 ^ 48 == 0 && p.zeroFrom 4
    | 2 => p.w 1 / 2 ^ 54 == 0 && p.w 2 / 2 ^ 54 == 0 && p.w 3 / 2 ^ 54 == 0 &&
      p.w 4 / 2 ^ 48 % 2 ^ 8 == 0 && p.w 4 / 2 ^ 58 == 0 && p.zeroFrom 5
    | 3 => p.w 2 / 2 ^ 54 == 0 && p.w 3 / 2 ^ 48 == 0 && p.zeroFrom 4
    | 4 => ([1, 2, 3].all fun i => p.w i / 2 ^ 40 % 2 ^ 23 == 0) && p.zeroFrom 4
    | 5 => p.w 1 / 2 ^ 6 == 0 && p.w 2 == 0 && p.w 3 == 0
    | _ => false)

/-- The alignment a packet's addresses need (R121). -/
def BtePkt.aligned (p : BtePkt) : Bool :=
  match p.kind with
  | 2 => p.w 1 % 2 == 0 && p.w 2 % 4 == 0 && p.w 3 % (if p.mode = 2 then 4 else 2) == 0
  | 3 => p.w 2 % 8 == 0 && p.len % 8 == 0
  | _ => true

/-- The streams a packet reads: base and element bytes. -/
def BtePkt.reads (p : BtePkt) : List (Nat × Nat) :=
  match p.kind with
  | 1 => [(p.w 1, 1)]
  | 2 => if p.mode = 0 then [(p.w 2, 4)] else [(p.w 1, 2), (p.w 2, 4)]
  | _ => []

/-- The streams a packet writes, its destination first. -/
def BtePkt.writes (p : BtePkt) : List (Nat × Nat) :=
  match p.kind with
  | 1 => [(p.w 2, 1)]
  | 2 => (p.w 3, if p.mode = 2 then 4 else 2) :: (if p.mode = 3 then [(p.w 2, 4)] else [])
  | 3 => [(p.w 2, 8)]
  | _ => []

/-- Elements of a packet. -/
def BtePkt.total (p : BtePkt) : Nat := if p.kind = 3 then p.len / 8 else p.len

/-- The address of a stream at the packet's position. -/
def BtePkt.at (p : BtePkt) (st : Nat × Nat) : Nat := (st.1 + p.pos * st.2) % 2 ^ 54

/-- Elements of the next run (R122, R319): no stream crosses a 64-byte line in it, but where it writes through the aperture the
write may reach the end of its 256-byte block; where a line could not be read, those before it. -/
def BtePkt.run (p : BtePkt) : Nat :=
  let far := p.writes.any fun st => inAperture (p.at st)
  let cap (write : Bool) (st : Nat × Nat) : Nat :=
    (if write && inAperture (p.at st) then sendCap true (p.at st) else 64 - p.at st % 64) / st.2
  let n := p.writes.foldl (fun n st => min n (cap true st)) (p.total - p.pos)
  let n := if far then n else p.reads.foldl (fun n st => min n (cap false st)) n
  match p.cut with
  | some (m, _) => min n m
  | none => n

/-- Bytes of a read stream the run at work has read. -/
def BtePkt.got (p : BtePkt) (j : Nat) : Nat := (p.buf.getD j []).length

/-- The next read of the run at work: its stream, address and bytes, up to the end of a line. -/
def BtePkt.nextRead (p : BtePkt) : Option (Nat × Nat × Nat) :=
  p.reads.zipIdx.findSome? fun (st, j) =>
    let left := p.run * st.2 - p.got j
    let va := (p.at st + p.got j) % 2 ^ 54
    if left = 0 then none else some (j, va, min left (64 - va % 64))

/-- f32 bits of a bf16. -/
def bfToF32 (x : Nat) : Nat := x * 2 ^ 16

/-- bf16 bits of an f32, rounded (R51). -/
def f32ToBf (x : Nat) : Nat := roundF .bf16 (decodeF .f32 x)

/-- Element i of n-byte elements. -/
def elemAt (bs : List Byte) (n i : Nat) : Nat := leNat ((bs.drop (n * i)).take n)

/-- The bytes of each write stream for k elements (R51, R121). Of two NaNs SRC's is the sum: the model's choice (log 33). -/
def BtePkt.out (p : BtePkt) (k : Nat) : List (List Byte) :=
  match p.kind with
  | 1 => [p.buf.getD 0 []]
  | 2 =>
    if p.mode = 0 then [(List.range k).flatMap fun i => leBytes 2 (f32ToBf (elemAt (p.buf.getD 0 []) 4 i))]
    else
      let t (i : Nat) : Nat := fAdd .f32 (bfToF32 (elemAt (p.buf.getD 0 []) 2 i)) (elemAt (p.buf.getD 1 []) 4 i)
      let wide := (List.range k).flatMap fun i => leBytes 4 (t i)
      let narrow := (List.range k).flatMap fun i => leBytes 2 (f32ToBf (t i))
      if p.mode = 1 then [narrow] else if p.mode = 2 then [wide] else [narrow, wide]
  | _ => [(List.range k).flatMap fun _ => leBytes 8 (p.w 1)]

/-! ### Taking a packet (R120) -/

/-- Under DET a queue's turn comes in the order of the slot claims, one packet of the ASID at a time (R311). A slot that no claim
was noted for was claimed before its queue was registered: it comes first (log 19). -/
def State.bteTurn (s : State) (q n : Nat) : Bool :=
  let a := (s.hub.bteq q).asid
  if s.det a then
    (!s.hub.bteOrder.contains (q, n) || match s.hub.bteOrder.find? fun c => (s.hub.bteq c.1).asid == a with
      | some c => c == (q, n)
      | none => true) &&
    (s.hub.bte.all fun b => b.1 == q || b.2.asid != a || b.2.cur.isNone)
  else true

/-- The packet in the 64 bytes of a slot. -/
def btePacketOfBytes (n : Nat) (bs : List Byte) : BtePkt :=
    let p : BtePkt :=
      { seq := n % 2 ^ 32, words := (List.range 8).map fun i => BitVec.ofNat 64 (elemAt bs 8 i), pos := 0, bytes := 0
        buf := [], wr := 0, result := none, stall := none, sent := none }
    let bad : Option Cause := if !p.reservedOk then some .queueInvalid
      else if (p.kind == 1 || p.kind == 3) && p.len == 0 then none else if !p.aligned then some .misaligned else none
    { p with result := match bad with
        | some c => some (some c)
        | none => if p.kind < 4 && p.total == 0 then some none else none }

/-- A packet's kind is of a feature that is absent: reduce-copy, fence, launch (R346). -/
def State.bteAbsent (s : State) (p : BtePkt) : Bool :=
  (p.kind == 2 && !s.hasFeature 25) || (p.kind == 4 && !s.hasFeature 37) || (p.kind == 5 && !s.hasFeature 38)

/-- The packet in the 64 bytes of a slot as this device takes it (R120, R346). -/
def State.packetOf (s : State) (n : Nat) (bs : List Byte) : BtePkt :=
  let p := btePacketOfBytes n bs
  if s.bteAbsent p then { p with result := some (some .queueInvalid) } else p

/-- The packet at an address, as a BTE reads it. -/
def State.btePacket (s : State) (q va n : Nat) : Except Cause BtePkt :=
  match s.bteRead (s.hub.bteq q).asid va 64 with
  | .error c => .error c
  | .ok r => .ok (s.packetOf n r.2)

/-- The BTE has looked for a packet of a queue (R120). -/
def State.looked (s : State) (q : Nat) : State := { s with bells := s.bells.filter (· != q) }

/-- A fault met while looking for a packet: a replayable one is recorded, and an empty packet waits on it; another ends the
look. -/
def State.bteLookFault (s : State) (q n : Nat) (c : Cause) (va : Nat) : State :=
  if c.replayable then
    let p : BtePkt :=
      { seq := n % 2 ^ 32, words := [], pos := 0, bytes := 0, buf := [], wr := 0, result := none, stall := none, sent := none }
    (s.modBte q fun b => { b with cur := some p }).bteStall q c va .read
  else s.looked q

/-- BTE_BELL: after a write of BELL, and after each packet it completes, the BTE looks for the packet of slot RIDX and takes
it where RDY has the slot's parity (R120). A device at rest wakes first (R366). What it cannot take for its turn under DET it
looks for again (R311; log 19). -/
def execBteBell (q : Nat) (s : State) : Host.Outcome State Fault Refusal :=
  .next <|
    let b := s.hub.bteq q
    let busy : Bool := match b.cur with
      | some p => !p.words.isEmpty || p.stall.isSome || p.result.isSome
      | none => false
    if !s.bteServed q || busy || !s.bells.contains q || s.boot.rest != 0 then s
    else match s.bteWordAt q 0, s.bteWordAt q 2 with
      | .error c, _ => (s.unheardAt b.asid (b.wordVa 0) c).bteLookFault q 0 c (b.wordVa 0)
      | _, .error c => (s.unheardAt b.asid (b.wordVa 2) c).bteLookFault q 0 c (b.wordVa 2)
      | .ok r0, .ok r2 =>
        let w0 := leNat r0.2
        let n := leNat r2.2
        let log2 := w0 / 2 ^ 58
        let va := (w0 % 2 ^ 54 + n % 2 ^ log2 * 64) % 2 ^ 54
        let bad := log2 < 4 || 16 < log2 || w0 / 2 ^ 54 % 16 != 0
        if !bad && !s.bteTurn q n then s
        else
          let rd := if bad then .error .queueInvalid else s.bteRead b.asid va 64
          match s.bteSees b.asid (match rd with | .ok r => [r0, r2, r] | .error _ => [r0, r2]) with
          | none => s
          | some s => match rd with
            | .error c => if bad then s.looked q else (s.unheardAt b.asid va c).bteLookFault q n c va
            | .ok r =>
              let p := s.packetOf n r.2
              let s := s.looked q
              if bitAt (p.w 0) 63 == (n / 2 ^ log2 % 2 == 0) then
                (s.modBte q fun b => { b with cur := some p }).modHub fun h =>
                  { h with bteOrder := h.bteOrder.filter (· != (q, n)) }
              else s

/-! ### Moving data -/

/-- The bytes of a packet's destination that are written: those of a run whose further writes are still to be made among them (R122). -/
def BtePkt.wrote (p : BtePkt) : Nat := p.bytes + if 0 < p.wr then p.run * (p.writes.headD (0, 0)).2 else 0

/-- A fault of a packet: a replayable one stalls it, another ends it (R122). -/
def State.bteFault (s : State) (q : Nat) (c : Cause) (va : Nat) (acc : Access) : State :=
  if c.replayable then s.bteStall q c va acc
  else s.modPkt q fun p => { p with bytes := p.wrote, sent := none, result := some (some c) }

/-- A packet has written bytes at an address: their line, where it is one of host memory (R336). -/
def State.bteLine (s : State) (q va : Nat) : State :=
  match s.translateHub (s.hub.bteq q).asid false va .write with
  | .ok x => if hostPa x.pa then s.modPkt q fun p => { p with lines := addBad (x.pa / 64) p.lines } else s
  | .error _ => s

/-- The run at work is whole: the position advances (R122). -/
def State.bteStep (s : State) (q : Nat) (p : BtePkt) : State :=
  let k := p.run
  let pos := p.pos + k
  s.modPkt q fun _ =>
    { p with pos := pos, bytes := p.bytes + k * ((p.writes.headD (0, 0)).2), buf := [], wr := 0, sent := none
             result := match p.cut with
               | some (_, c) => some (some c)
               | none => if p.total ≤ pos then some none else none }

/-- After a read of stream j of the run at work. -/
def State.bteGot (s : State) (q : Nat) (p : BtePkt) (j : Nat) (bs : List Byte) : State :=
  s.modPkt q fun _ =>
    { p with buf := (List.range p.reads.length).map (fun i => p.buf.getD i [] ++ if i = j then bs else []), sent := none }

/-- A line of stream j cannot be read: the elements before it are still performed, and then the packet ends (R122). -/
def State.bteCut (s : State) (q : Nat) (p : BtePkt) (j : Nat) (c : Cause) : State :=
  let m := p.got j / (p.reads.getD j (0, 1)).2
  s.modPkt q fun _ =>
    if m = 0 then { p with result := some (some c), sent := none } else { p with cut := some (m, c), sent := none }

/-- After a write of the run at work. -/
def State.bteWrote (s : State) (q : Nat) (p : BtePkt) : State :=
  if p.wr + 1 < p.writes.length then s.modPkt q fun _ => { p with wr := p.wr + 1, sent := none } else s.bteStep q p

/-- The packet of a BTE's run: copies and fills are offload packets with a deadline, the writes of a reduce-copy travel
as C1 (R319, R322, R330). -/
def State.btePacketOf (s : State) (p : BtePkt) (write : Bool) (va n : Nat) (bs : List Byte) : Packet :=
  let cls := if p.kind = 2 && write then 1 else 3
  let d := if cls = 3 then s.hub.regs.offloadDl.toNat else 0
  { runPacket (if write then 2 else 1) cls va n bs with dlOrig := d, dlLeft := d }

/-- One access of the run at work: its next read, or its next write (R121, R122). -/
def State.bteAccess (s : State) (q : Nat) (p : BtePkt) : State :=
  let a := (s.hub.bteq q).asid
  let k := p.run
  match p.nextRead with
  | some (j, va, n) =>
    if inAperture va then
      match s.request (s.btePacketOf p false va n []) (.bte q) 0xFFFF with
      | (s, .error c) => s.bteCut q p j c
      | (s, .ok tag) => s.modPkt q fun p => { p with sent := some tag }
    else match s.bteRead a va n with
      | .error c => if c.replayable then s.bteStall q c va .read else (s.unheardAt a va c).bteCut q p j c
      | .ok r =>
        match s.bteSees a [r] with
        | none => s
        | some s => s.bteGot q p j r.2
  | none =>
    match p.writes[p.wr]? with
    | none => s
    | some st =>
      let va := p.at st
      let bs := (p.out k).getD p.wr []
      if inAperture va then
        match s.request (s.btePacketOf p true va bs.length bs) (.bte q) 0xFFFF with
        | (s, .error c) => s.bteFault q c va .write
        | (s, .ok tag) => s.modPkt q fun p => { p with sent := some tag }
      else match s.bteWrite a va bs with
        | (s, .error e) => s.bteFault q e.1 e.2 .write
        | (s, .ok _) =>
          let s := s.bteLine q va
          s.bteWrote q (((s.hub.bteq q).cur).getD p)

/-- Up to n accesses of the packet in progress, of a kind, as long as it goes on. -/
def State.bteRun (s : State) (q kind : Nat) : Nat → State
  | 0 => s
  | n + 1 =>
    match (s.hub.bteq q).cur with
    | none => s
    | some p =>
      if p.kind != kind || p.result.isSome || p.stall.isSome || p.sent.isSome || p.words.isEmpty || !s.bteServed q then s
      else (s.bteAccess q p).bteRun q kind n

/-- BTE_COPY (R121). -/
def execBteCopy (q lines : Nat) (s : State) : Host.Outcome State Fault Refusal := .next (s.bteRun q 1 (2 * lines))

/-- BTE_REDUCE_COPY (R51, R121, R330). -/
def execBteReduceCopy (q lines : Nat) (s : State) : Host.Outcome State Fault Refusal := .next (s.bteRun q 2 (4 * lines))

/-- BTE_FILL (R121). -/
def execBteFill (q lines : Nat) (s : State) : Host.Outcome State Fault Refusal := .next (s.bteRun q 3 lines)

/-- A peer's answer to a BTE's request (R122, R318). -/
def State.bteReply (s : State) (q tag : Nat) (res : Except Cause (List Byte)) : State :=
  match (s.hub.bteq q).cur with
  | none => s
  | some p =>
    if p.sent != some tag then s
    else match res with
      | .error c =>
        (match p.nextRead with
        | some (j, _, _) => s.bteCut q p j c
        | none => s.bteFault q c 0 .write)
      | .ok bs =>
        match p.nextRead with
        | some (j, va, n) => s.bteGot q p j ((bs.drop (va % 64)).take n)
        | none => s.bteWrote q p

/-! ### Fence and launch (R121) -/

/-- How one pair of a fence stands: over, waiting, or invalid. -/
def State.fencePair (s : State) (q : Nat) (p : BtePkt) (i : Nat) : Except Cause Bool :=
  let w := p.w i
  let t := w / 2 ^ 32 % 256
  let seq := w % 2 ^ 32
  if !bitAt w 63 then .ok true
  else if (s.hub.bteq t).desc = 0 || (t = q && (seq + 2 ^ 32 - p.seq) % 2 ^ 32 < 2 ^ 31) then .error .queueInvalid
  else match s.bteWord t 2 with
    | .error c => .error c
    | .ok r => .ok ((r + 2 ^ 33 - seq - 1) % 2 ^ 32 < 2 ^ 31)

/-- BTE_FENCE: the fence completes once every valid pair is over (R121); an index it cannot read ends it (R83, R122). -/
def execBteFence (q : Nat) (s : State) : Host.Outcome State Fault Refusal :=
  .next <| match (s.hub.bteq q).cur with
  | none => s
  | some p =>
    if p.kind != 4 || p.result.isSome || p.stall.isSome || p.words.isEmpty then s
    else
      let rs := [1, 2, 3].map fun i => (s.hub.bteq (p.w i / 2 ^ 32 % 256), s.fencePair q p i)
      match rs.findSome? fun r => match r.2 with | .error c => some (r.1, c) | .ok _ => none with
      | some (b, c) =>
        if c.replayable then s.bteStallIn q b.asid c (b.wordVa 2) .read
        else (s.unheardAt b.asid (b.wordVa 2) c).modPkt q fun p => { p with result := some (some c) }
      | none =>
        if rs.all fun r => match r.2 with | .ok b => b | .error _ => false then
          let seen := ([1, 2, 3].filter fun i => bitAt (p.w i) 63).filterMap fun i =>
            match s.bteWordAt (p.w i / 2 ^ 32 % 256) 2 with
            | .ok r => some r
            | .error _ => none
          match s.bteSees (s.hub.bteq q).asid seen with
          | none => s
          | some s => s.modPkt q fun p => { p with result := some none }
        else s

/-- BTE_LAUNCH: the record is appended once the queue has room, or refused (R114, R121); a body in no memory is out of range (R362;
log 101). -/
def execBteLaunch (q : Nat) (s : State) : Host.Outcome State Fault Refusal :=
  .next <| match (s.hub.bteq q).cur with
  | none => s
  | some p =>
    if p.kind != 5 || p.result.isSome || p.stall.isSome || p.words.isEmpty then s
    else
      let t := p.w 1 % 64
      let c := s.hub.queue t
      if !c.v || c.asid != (s.hub.bteq q).asid then s.modPkt q fun p => { p with result := some (some .queueInvalid) }
      else if !s.queueUp c c.tail.toNat then s.modPkt q fun p => { p with result := some (some .outOfRange) }
      else if s.hub.reservedAt t || c.room = 0 then s
      else (s.append t [[4, 5, 6, 7].flatMap fun i => leBytes 8 (p.w i)]).modPkt q fun p => { p with result := some none }

/-! ### Completion (R122) -/

/-- The 16 bytes of completion record c. -/
def completionBytes (clog2 c q : Nat) (p : BtePkt) (st : Option Cause) : List Byte :=
  leBytes 1 ((c / 2 ^ clog2 + 1) % 2 * 128 + (if st.isSome then 1 else 0)) ++
  leBytes 1 (match st with | some e => e.code | none => 0) ++ leBytes 2 q ++ leBytes 4 p.seq ++ leBytes 8 p.bytes

/-- Write one word of a descriptor at home; a fault leaves it (log 22). -/
def State.bteSetWord (s : State) (q i v : Nat) : State :=
  let b := s.hub.bteq q
  (s.bteWrite b.asid ((b.desc.toNat + 8 * i) % 2 ^ 54) (leBytes 8 v)).1

/-- The packet is over: CWIDX and RIDX advance, and the BTE looks for the next one (R120, R122). -/
def State.bteNext (s : State) (q ridx c : Nat) : State :=
  (((s.bteSetWord q 4 (c + 1)).bteSetWord q 2 (ridx + 1)).modBte q fun b => { b with cur := none }).bell q

/-- Words 2 to 5 of a queue's descriptor with where they lie, or the fault of the first that cannot be read, with its VA. -/
def State.bteState (s : State) (q : Nat) : Except (Cause × Nat) (List (Nat × List Byte)) :=
  [2, 3, 4, 5].foldl (fun acc i =>
    match acc, s.bteWordAt q i with
    | .error e, _ => .error e
    | _, .error c => .error (c, (s.hub.bteq q).wordVa i)
    | .ok rs, .ok r => .ok (rs ++ [r])) (.ok [])

/-- The completion ring has no room (R122), by words 2 to 5 of the descriptor. A ring that R119 does not allow is waited for like
a full one (log 22). -/
def ringWaits (w : List Nat) : Bool :=
  let clog2 := w.getD 1 0 / 2 ^ 58
  clog2 < 4 || 16 < clog2 || w.getD 1 0 / 2 ^ 54 % 16 != 0 || w.getD 2 0 - w.getD 3 0 = 2 ^ clog2

/-- The completion record of a packet is written, then CWIDX and RIDX advance (R122): `w` are words 2 to 5 of the descriptor. In host
memory it does not pass its packet's data (R336). R122 does not say what a fault for good on this write does: the record is lost, and
both indexes advance all the same (log 106). -/
def State.bteComplete (s : State) (q : Nat) (p : BtePkt) (st : Option Cause) (w : List Nat) : State :=
  let clog2 := w.getD 1 0 / 2 ^ 58
  let c := w.getD 2 0
  let a := (s.hub.bteq q).asid
  let va := (w.getD 1 0 % 2 ^ 54 + c % 2 ^ clog2 * 16) % 2 ^ 54
  match s.bteWrite a va (completionBytes clog2 c q p st) with
  | (s, .error e) => if e.1.replayable then s.bteStall q e.1 e.2 .write else s.bteNext q (w.getD 0 0) c
  | (s, .ok _) =>
    let s := match s.translateHub a false va .write with
      | .ok x => s.noteRecord x.pa p.lines
      | .error _ => s
    s.bteNext q (w.getD 0 0) c

/-- BTE_COMPLETION_WRITE: the record is written once the completion ring has room, then CWIDX and RIDX advance, and the
next packet may be taken (R122). R122 does not say what a fault for good on reading the descriptor does here: the packet waits (log
106). -/
def execBteCompletionWrite (q : Nat) (s : State) : Host.Outcome State Fault Refusal :=
  .next <| match (s.hub.bteq q).cur with
  | none => s
  | some p =>
    match p.result, p.stall with
    | some st, none =>
      (match s.bteState q with
      | .error e => if e.1.replayable then s.bteStall q e.1 e.2 .read else s.unheardAt (s.hub.bteq q).asid e.2 e.1
      | .ok rs =>
        match s.bteSees (s.hub.bteq q).asid rs with
        | none => s
        | some t => if ringWaits (rs.map fun r => leNat r.2) then s else t.bteComplete q p st (rs.map fun r => leNat r.2))
    | _, _ => s

end Sys2Proof.Machine
end

