-- ==== Sys2Proof/Machine/Claims.lean ====
section
/-! DEFINITION. Claims: QPUSH, QFENCE, TQPOP, TQSTEAL, TQDONE and STRAG, each a run of accesses at the home of what it
claims, local or through the fabric aperture; LAUNCH and its append (R30, R119 to R125, R129, R250 to R252, R256 to
R259). -/

namespace Sys2Proof.Machine

/-! ### One access of a claim -/

/-- What a claim asks of a home: a read, an atomic on a 64-bit word, a write, or the decrement of the join object that
a tile-queue header names. -/
inductive EngReq where
  | read (va n : Nat)
  | atom (fn va b c : Nat)
  | write (va : Nat) (bs : List Byte)
  | dec (hdr join : Nat)
  deriving DecidableEq, Repr

/-- The address a request is made to. -/
def EngReq.va : EngReq → Nat
  | .read va _ | .atom _ va _ _ | .write va _ | .dec va _ => va

/-- The packet of a request (R319, R320). -/
def EngReq.packet (r : EngReq) : Packet :=
  let o := r.va % 64
  let line (n : Nat) (bs : List Byte) : List Byte :=
    List.replicate o 0 ++ bs ++ List.replicate (64 - o - n) 0
  let p (kind n : Nat) : Packet :=
    { blankPacket kind 2 (aperturePeer r.va) (apertureOff r.va / 64 * 64) with
      be := BitVec.ofNat 64 ((2 ^ n - 1) * 2 ^ o) }
  match r with
  | .read _ n => p 1 n
  | .atom fn _ b c =>
    { p 3 8 with op := fn, w := 3, data := line 8 (leBytes 8 b) ++ (if fn = 0x0F then line 8 (leBytes 8 c) else []) }
  | .write _ bs => { p 2 bs.length with data := line bs.length bs }
  | .dec _ _ => { p 3 8 with op := 0x03, w := 3, data := line 8 (leBytes 8 0) }

/-- What an access at home answers: its value, or a fault with its address. -/
inductive EngRes where
  | ok (v : Nat)
  | fault (c : Cause) (va : Nat)
  deriving DecidableEq, Repr

/-- What a request needs of its page; `write` says that a read is of a descriptor that has to be writable (R250). -/
def EngReq.access (write : Bool) : EngReq → Access
  | .read _ _ => if write then .atomic else .read
  | .write _ _ => .write
  | _ => .atomic

/-- A request performed at a home of this device (R80, R89, R90, R96, R144). -/
def State.engHome (s : State) (core : Nat) (t : Team) (write : Bool) (r : EngReq) : State × EngRes :=
  match s.translate core t.asid t.priv r.va (r.access write) with
  | (s, .error c) => (s, .fault c r.va)
  | (s, .ok x) =>
    if hubRange x.pa then
      match r with
      | .read _ n => (s, .ok (leNat (s.regBytes x.pa n)))
      | .write _ bs => (s.regStore x.pa bs.length (leNat bs) (allBytes bs.length), .ok 0)
      | _ => (s, .ok 0)
    else
      let s := s.evict core (x.pa / 64)
      match r with
      | .read _ n =>
        (match s.homeRead x.pa n with
        | .error c => (s.unheard x.pa, .fault c r.va)
        | .ok bs => (s, .ok (leNat bs)))
      | .atom fn _ b c =>
        (match s.gateStore t.asid t.priv r.va x 8 (allBytes 8) true with
        | (s, .error e) => (s, .fault e.1 e.2)
        | (s, .ok _) =>
          match s.homeRead x.pa 8 with
          | .error c => (s.unheard x.pa, .fault c r.va)
          | .ok bs =>
            match s.homeWrite x.pa (leBytes 8 (atomicValue fn (leNat bs) b c)) with
            | .error c => (s.unheard x.pa, .fault c r.va)
            | .ok s =>
              (if fn = 0x08 then s.noteClaim x.pa (leNat bs) (leNat bs + b) else s, .ok (leNat bs)))
      | .write _ bs =>
        (match s.gateStore t.asid t.priv r.va x bs.length (allBytes bs.length) true with
        | (s, .error e) => (s, .fault e.1 e.2)
        | (s, .ok _) =>
          match s.homeWrite x.pa bs with
          | .error c => (s.unheard x.pa, .fault c r.va)
          | .ok s => (s, .ok 0))
      | .dec _ _ => (s, .ok 0)
where
  /-- The two atomics of claims: add and compare-and-swap. -/
  atomicValue (fn m b c : Nat) : Nat := if fn = 0x0F then (if m = b then c else m) else (m + b) % 2 ^ 64

/-! ### The course of each claim -/

/-- What a claim does next. -/
inductive EngNext where
  | ask (r : EngReq)
  | done
  | fault (c : Cause)
  deriving DecidableEq, Repr

/-- A queue descriptor's word 0 is good (R119, R250). -/
def descOk (w0 : Nat) : Bool := 4 ≤ w0 / 2 ^ 58 && w0 / 2 ^ 58 ≤ 16 && w0 / 2 ^ 54 % 16 == 0

/-- A tile-queue header is good (R124, R257). -/
def tqOk (r : Nat) : Bool :=
  let w := numWord r
  1 ≤ w 1 && w 1 ≤ 1024 && w 2 / 2 ^ 32 == 0 && w 3 / 2 ^ 54 == 0 && w 4 / 2 ^ 10 == 0 &&
  w 5 == 0 && w 6 == 0 && w 7 == 0

/-- STATE of a state word. -/
def tqState (w : Nat) : Nat := w / 2 ^ 62

/-- The VA of word 0 of a peer's straggler page (R317). -/
def stragglerPage (peer : Nat) : Nat := 0x30000000000000 + peer * 2 ^ 42 + 0x3FF00000000

/-- A state word with STATE, THIEF and TINC of a theft (R125). -/
def tqStolen (w own inc : Nat) : Nat := putField (putField (putField w 62 2 2) 48 10 own) 32 16 inc

/-- TQDONE may finish an entry: CLAIMED at its owner, STOLEN by this device elsewhere (R125, R259). -/
def tqMayEnd (w owner own inc : Nat) : Bool :=
  if owner = own then tqState w == 1 else tqState w == 2 && w / 2 ^ 48 % 2 ^ 10 == own && w / 2 ^ 32 % 2 ^ 16 == inc

/-- The next access of a claim at a stage (R250, R251, R257 to R259). `a` is its lane at work, `k` the lanes it claims
for; `own` and `inc` name this device. -/
def engNext (i : Instr) (own inc : Nat) (a : Acc) (k : Nat) (stage : Nat) (vals : List Nat) : EngNext :=
  let v := engVal vals
  match i with
  | .qpush _ =>
    (match stage with
    | 0 => .ask (.read a.va 8)
    | 1 => if descOk (v 0) then .ask (.atom 0x08 (a.va + 8) k 0) else .fault .queueInvalid
    | _ => .ask (.read (a.va + 16) 8))
  | .qfence _ =>
    let log2 := v 0 / 2 ^ 58
    let slot := fenceSlot vals
    (match stage with
    | 0 => .ask (.read a.va 8)
    | 1 => if descOk (v 0) then .ask (.atom 0x08 (a.va + 8) 1 0) else .fault .queueInvalid
    | 2 => .ask (.read (a.va + 16) 8)
    | 3 => .ask (.write (slot + 8) (leBytes 56 a.data))
    | 4 => .ask (.write slot (leBytes 8 ((v 1 / 2 ^ log2 + 1) % 2 * 2 ^ 63 + 4 * 2 ^ 48)))
    | 5 => .ask (.write (a.va + 48) (leBytes 8 (v 2)))
    | _ => .done)
  | .tqpop _ =>
    (match stage with
    | 0 => .ask (.read a.va 64)
    | 1 =>
      if !tqOk (v 0) || numWord (v 0) 4 != own then .fault .queueInvalid
      else if numWord (v 0) 1 ≤ v 1 then .done
      else .ask (.atom 0x0F a.va (v 1) (v 1 + 1))
    | 2 => .ask (.read (tqEntry a.va (v 1)) 8)
    | 3 => .ask (.atom 0x0F (tqEntry a.va (v 1)) (v 2) (putField (v 2) 62 2 1))
    | _ => .done)
  | .tqsteal _ =>
    (match stage with
    | 0 => .ask (.read a.va 64)
    | 1 =>
      if !tqOk (v 0) || numWord (v 0) 4 == own then .fault .queueInvalid
      else .ask (.read (stragglerPage (numWord (v 0) 4)) 8)
    | 2 => if 16 ≤ v 2 then .done else .ask (.read a.va 8)
    | 3 => .ask (.read (tqEntry a.va (v 1 - 1)) 8)
    | 4 => .ask (.atom 0x0F (tqEntry a.va (v 1 - 1)) (v 3) (tqStolen (v 3) own inc))
    | _ => .done)
  | .tqdone _ =>
    (match stage with
    | 0 => .ask (.read a.va 64)
    | 1 =>
      if !tqOk (v 0) || numWord (v 0) 1 ≤ a.data then .fault .queueInvalid else .ask (.read (tqEntry a.va a.data) 8)
    | 2 =>
      if tqMayEnd (v 1) (numWord (v 0) 4) own inc then
        .ask (.atom 0x0F (tqEntry a.va a.data) (v 1) (putField (v 1) 62 2 3))
      else .fault .queueInvalid
    | _ => .ask (.dec a.va (numWord (v 0) 3)))
  | _ => .done

/-- Stage and notes after an answer (R125, R250, R251, R257 to R259). -/
def engGot (i : Instr) (stage : Nat) (vals : List Nat) (r : Nat) : Nat × List Nat :=
  let v := engVal vals
  match i with
  | .qpush _ => (match stage with | 0 => (1, [r]) | 1 => (2, [v 0, r]) | _ => (2, vals))
  | .qfence _ =>
    (match stage with
    | 0 => (1, [r, v 1, v 2])
    | 1 => (2, [v 0, r, v 2])
    | 2 => (if v 1 - r < 2 ^ (v 0 / 2 ^ 58) then 3 else 2, vals)
    | n => (n + 1, vals))
  | .tqpop _ =>
    (match stage with
    | 0 => (1, [r, numWord r 0])
    | 1 => if r = v 1 then (2, vals) else (1, [v 0, r])
    | 2 => if tqState r = 0 then (3, [v 0, v 1, r]) else (1, [v 0, v 1 + 1])
    | _ =>
      if r = v 2 then (4, [v 0, v 1, v 2, 1])
      else if tqState r = 0 then (3, [v 0, v 1, r]) else (1, [v 0, v 1 + 1]))
  | .tqsteal _ =>
    (match stage with
    | 0 => (1, [r])
    | 1 => if bitAt r 0 then (2, [v 0, numWord (v 0) 1, 0]) else (5, [v 0])
    | 2 => if v 1 < r + numWord (v 0) 2 + 1 then (5, [v 0]) else (3, vals)
    | 3 => if tqState r = 0 then (4, [v 0, v 1, v 2, r]) else (2, [v 0, v 1 - 1, v 2 + 1])
    | _ =>
      if r = v 3 then (5, [v 0, v 1, v 2, v 3, 1])
      else if tqState r = 0 then (4, [v 0, v 1, v 2, r]) else (2, [v 0, v 1 - 1, v 2 + 1]))
  | .tqdone _ =>
    (match stage with
    | 0 => (1, [r])
    | 1 => (2, [v 0, r])
    | 2 => if r = v 1 then (3, vals) else (2, [v 0, r])
    | _ => (0, []))
  | _ => (stage, vals)

/-- The step that an answer completed may not be made again by a rerun (R290): a claim, or a successful swap. -/
def engOnce (i : Instr) (stage : Nat) (vals : List Nat) (r : Nat) : Bool :=
  match i, stage with
  | .qpush _, 1 | .qfence _, 1 => true
  | .tqpop _, 3 => r == engVal vals 2
  | .tqsteal _, 4 => r == engVal vals 3
  | .tqdone _, 2 => r == engVal vals 1
  | _, _ => false

/-- The G result of a claim that ends (R257, R258). -/
def engResult (i : Instr) (vals : List Nat) : Option (GReg × Word) :=
  match i with
  | .tqpop x => some (x.g, if engVal vals 3 = 1 then BitVec.ofNat 32 (engVal vals 1) else 0xFFFFFFFF)
  | .tqsteal x => some (x.g, if engVal vals 4 = 1 then BitVec.ofNat 32 (engVal vals 1 - 1) else 0xFFFFFFFF)
  | _ => none

/-! ### The driver -/

/-- The claims. -/
def isClaim : Instr → Bool
  | .qpush _ | .qfence _ | .tqpop _ | .tqsteal _ | .tqdone _ => true
  | _ => false

/-- The descriptor is to be accessible as an atomic (R250). -/
def claimWrites : Instr → Bool
  | .qpush _ | .qfence _ => true
  | _ => false

/-- One lane of an operation that is performed as a whole fails, and the lanes above it are not performed (R171, R213). -/
def Op.failAt (o : Op) (lane : Nat) (c : Cause) (va : Nat) : Op :=
  { o with accs := o.accs.map fun a =>
      if a.lane = lane then { a with va := va, st := .failed c }
      else if a.st.isOver then a else { a with st := .done } }

/-- A claim fails in a lane: a TQDONE goes on with its next lane, from its release on (R213, R259); the others end. -/
def Op.failClaim (o : Op) (lane : Nat) (c : Cause) (va : Nat) : Op :=
  match o.instr with
  | .tqdone _ => o.failLane lane c va
  | _ => o.failAt lane c va

/-- Causes whose TRAP_ADDR is the address; the others give 0 (R66). -/
def Cause.hasAddr : Cause → Bool
  | .queueInvalid => false
  | _ => true

/-- The lanes of a QPUSH whose slots are free complete and receive their slot numbers (R250). -/
def State.pushLanes (s : State) (core slot : Nat) (x : EngArgs) (o : Op) (log2 n0 ridx : Nat) : State × Op :=
  let free (p : Acc × Nat) : Bool := !p.1.st.isOver && n0 + p.2 - ridx < 2 ^ log2
  let s := (o.accs.zipIdx).foldl (fun (s : State) (p : Acc × Nat) =>
    if free p then s.writeV core slot x.vd p.1.lane [BitVec.ofNat 32 (n0 + p.2)] else s) s
  (s, { o with accs := (o.accs.zipIdx).map fun (p : Acc × Nat) => if free p then { p.1 with st := .done } else p.1 })

/-- Take the answer of the access a claim made. -/
def State.claimGot (s : State) (core slot : Nat) (o : Op) (stage : Nat) (vals : List Nat) (r : Nat) : State :=
  let s := if engOnce o.instr stage vals r then s.irrevWarp core slot else s
  let q := engGot o.instr stage vals r
  let o := { o with aux := .eng q.1 q.2 }
  match o.instr with
  | .qpush x =>
    if stage = 2 then
      let p := s.pushLanes core slot x o (engVal vals 0 / 2 ^ 58) (engVal vals 1) r
      p.1.updateOp core slot p.2
    else s.updateOp core slot o
  | .tqdone _ =>
    if stage = 3 then
      let cur := (o.accs.find? fun a => !a.st.isOver).map (·.lane)
      s.updateOp core slot
        { o with rel := .pending, accs := o.accs.map fun a => if some a.lane = cur then { a with st := .done } else a }
    else s.updateOp core slot o
  | _ => s.updateOp core slot o

/-- A claim ends: its G result is written (R247). -/
def State.claimDone (s : State) (core slot : Nat) (o : Op) (vals : List Nat) : State :=
  let s := match engResult o.instr vals with
    | some r => s.modWarp core slot fun w => w.setG r.1 r.2
    | none => s
  s.updateOp core slot { o with accs := o.accs.map fun a => { a with st := .done } }

/-- A claim's request is to be accessible as an atomic: of a QPUSH or QFENCE, at its descriptor (R250). -/
def claimAtomic (i : Instr) (a : Acc) (r : EngReq) : Bool := claimWrites i && r.va < a.va + 64 && a.va ≤ r.va

/-- A claim's access to an address waits for the earlier accesses of its lane to the line and, at home, for the core's earlier
L1-path accesses to it (R142, R144, R152). -/
def State.claimHeld (s : State) (core : Nat) (w : Warp) (t : Team) (o : Op) (a : Acc) (va : Nat) : Bool :=
  if inAperture va then !maySend w o { a with va := va, path := .fabric }
  else match (s.translate core t.asid t.priv va .read).2 with
    | .error _ => false
    | .ok x =>
      (w.ops.any fun p => p.id < o.id && p.accs.any fun b => p.ahead b { a with va := va, pa := x.pa, path := .home }) ||
      !(s.core core).l1Done o (x.pa / 64)

/-- The access a claim makes now: at this device's home, or sent to a peer (R81, R259). -/
def State.claimAsk (s : State) (core slot : Nat) (t : Team) (o : Op) (a : Acc) (stage : Nat) (vals : List Nat)
    (r : EngReq) : State :=
  let put (s : State) (a : Acc) : State := s.setOp core slot { o with accs := putAccs [a] o.accs }
  if inAperture r.va then
    match s.request r.packet (.lane core slot o.id (maskOf [a.lane])) core with
    | (s, .error c) => s.updateOp core slot (o.failClaim a.lane c a.va)
    | (s, .ok tag) => put s { a with st := .sent tag }
  else match r with
    | .dec _ join =>
      let s := put s { a with st := .waiting none }
      (s.setOp core slot { o with
        accs := putAccs [{ a with st := .waiting none }] o.accs, aux := .eng 0 [], rel := .pending }).joinDecrement
        t.asid join (.lane core slot o.id a.lane)
    | _ =>
      match s.engHome core t (claimAtomic o.instr a r) r with
      | (s, .ok v) => s.claimGot core slot o stage vals v
      | (s, .fault c va) =>
        if c.replayable then
          let f := s.addFault
            { va := va, cause := c, source := 0, flags := faultFlags true (r.access (claimAtomic o.instr a r)) false, unit := slot
              core := core, asid := t.asid, lanes := maskOf [a.lane], fseq := 0 }
          put f.1 { a with st := .stalled f.2 }
        else s.updateOp core slot (o.failClaim a.lane c va)

/-- A claim goes on by one access, after its release where it makes one. -/
def State.claimStep (s : State) (core slot id : Nat) : State :=
  match s.findOp core slot id with
  | none => s
  | some (o, w, t) =>
    if !isClaim o.instr then s
    else
      match o.accs.find? fun a => !a.st.isOver with
      | none => s.updateOp core slot o
      | some a =>
        if a.st != .todo && a.st != .retry then s
        else
          let q := s.releaseStep core w o
          let s := q.1.setOp core slot q.2
          let o := q.2
          if o.isOver then s.updateOp core slot o
          else if !o.released then s
          else match o.aux with
            | .eng stage vals =>
              (match engNext o.instr s.fab.device s.fab.inc.toNat a o.accs.length stage vals with
              | .ask r =>
                if s.claimHeld core w t o a r.va then s else s.claimAsk core slot t o { a with st := .todo } stage vals r
              | .done => s.claimDone core slot o vals
              | .fault c => s.updateOp core slot (o.failClaim a.lane c (if c.hasAddr then a.va else 0)))
            | _ => s

/-- A failure after which nobody knows whether the peer performed the request (R152). -/
def Cause.unsure : Cause → Bool
  | .fabricTimeout | .peerReset | .peerUnreachable => true
  | _ => false

/-- A request that changes something at its home. -/
def EngReq.changes : EngReq → Bool
  | .read _ _ => false
  | _ => true

/-- The request a claim has under way, if it has one. -/
def State.claimReq (s : State) (o : Op) (a : Acc) (stage : Nat) (vals : List Nat) : Option EngReq :=
  match engNext o.instr s.fab.device s.fab.inc.toNat a o.accs.length stage vals with
  | .ask r => some r
  | _ => none

/-- A peer's answer to a claim (R152, R258, R318): data, or a failure. After one that leaves open whether the peer made the
claim, a rerun could make it a second time (R290). -/
def State.claimReply (s : State) (core slot id tag : Nat) (res : Except Cause (List Byte)) : State :=
  match s.findOp core slot id with
  | none => s
  | some (o, _, _) =>
    match o.accs.find? fun a => a.st == .sent tag, o.aux with
    | some a, .eng stage vals =>
      (match res with
      | .error c =>
        let s := if c.unsure && (s.claimReq o a stage vals).any (·.changes) then s.irrevWarp core slot else s
        s.updateOp core slot (o.failClaim a.lane c (if c.hasAddr then a.va else 0))
      | .ok bs =>
        let o := { o with accs := putAccs [{ a with st := .todo }] o.accs }
        match engNext o.instr s.fab.device s.fab.inc.toNat a o.accs.length stage vals with
        | .ask (.read va n) => s.claimGot core slot o stage vals (leNat ((bs.drop (va % 64)).take n))
        | .ask (.atom _ va _ _) => s.claimGot core slot o stage vals (leNat ((bs.drop (va % 64)).take 8))
        | .ask _ => s.claimGot core slot o stage vals 0
        | _ => s)
    | _, _ => s

/-! ### Dispatch -/

/-- A claim's lane at its start. -/
def claimAcc (lane va data : Nat) : Acc :=
  { lane := lane, va := va, pa := 0, cnt := false, path := if inAperture va then .fabric else .home, data := data
    cmp := 0, en := 0, ret := 0, st := .todo }

/-- QPUSH (R250). -/
def execQpush (x : EngArgs) (s : State) : Host.Outcome State Fault Refusal :=
  runLane s (.qpush x) fun y =>
    let va := capturedPair y.clause.gs x.g
    if va % 64 != 0 then s.laneFault y .misaligned y.low (BitVec.ofNat 54 va)
    else s.launchOp y (.qpush x) (y.lanes.map fun l => claimAcc l va 0) .none (.eng 0 [])

/-- The 64-bit value of an even–odd lane register pair. -/
def vPair (w : Warp) (v : VReg) (l : Nat) : Nat := vGroup w v 2 l

/-- Words 1 to 7 of the packet a QFENCE writes (R251). -/
def fenceBody (y : LCtx) (v : VReg) : Nat :=
  let word (k : Nat) : Nat :=
    if laneIn y.act k then 2 ^ 63 + vPair y.x.warp v k / 2 ^ 32 % 256 * 2 ^ 32 + vPair y.x.warp v k % 2 ^ 32 else 0
  word 0 + word 1 * 2 ^ 64 + word 2 * 2 ^ 128

/-- QFENCE (R251). The value it writes to BELL is open: any write wakes (R119; log 4). -/
def execQfence (x : EngArgs) (s : State) : Host.Outcome State Fault Refusal :=
  runLane s (.qfence x) fun y =>
    let va := capturedPair y.clause.gs x.g
    if va % 64 != 0 then s.laneFault y .misaligned y.low (BitVec.ofNat 54 va)
    else
      { s with nfree := s.nfree + 1 }.launchOp y (.qfence x) [claimAcc y.low va (fenceBody y x.va)] .none
        (.eng 0 [0, 0, (Config.freeWord s.nfree).toNat])

/-- TQPOP and TQSTEAL read their header's address in the lowest active lane (R257). -/
def claimHeader (y : LCtx) (v : VReg) : Nat := vPair y.x.warp v y.low % 2 ^ 54

/-- TQPOP (R257). -/
def execTqpop (x : EngArgs) (s : State) : Host.Outcome State Fault Refusal :=
  runLane s (.tqpop x) fun y =>
    let va := claimHeader y x.va
    if va % 64 != 0 then s.laneFault y .misaligned y.low (BitVec.ofNat 54 va)
    else s.launchOp y (.tqpop x) [claimAcc y.low va 0] .none (.eng 0 [])

/-- TQSTEAL (R258). -/
def execTqsteal (x : EngArgs) (s : State) : Host.Outcome State Fault Refusal :=
  runLane s (.tqsteal x) fun y =>
    let va := claimHeader y x.va
    if va % 64 != 0 then s.laneFault y .misaligned y.low (BitVec.ofNat 54 va)
    else s.launchOp y (.tqsteal x) [claimAcc y.low va 0] .none (.eng 0 [])

/-- A lane of a TQDONE at its start: header VA and entry index; one whose header is misaligned has failed (R259). -/
def tqdoneAcc (w : Warp) (v : VReg) (l : Nat) : Acc :=
  let p := vPair w v l
  let a := claimAcc l (p % 2 ^ 54) (p / 2 ^ 54)
  if p % 64 = 0 then a else { a with st := .failed .misaligned }

/-- TQDONE: in each active lane, ascending, whatever another lane does (R213, R247, R259). -/
def execTqdone (x : EngArgs) (s : State) : Host.Outcome State Fault Refusal :=
  runLane s (.tqdone x) fun y =>
    let accs := y.lanes.map (tqdoneAcc y.x.warp x.va)
    if accs.all (·.st.bad) then
      s.laneFault y .misaligned y.low (BitVec.ofNat 54 (accs.headD (claimAcc 0 0 0)).va)
    else s.launchOp y (.tqdone x) accs .pending (.eng 0 [])

/-! ### STRAG (R256) -/

/-- STRAG: the object is checked at dispatch, the members are read at the record's home (R256). -/
def execStrag (x : EngArgs) (s : State) : Host.Outcome State Fault Refusal :=
  runLane s (.strag x) fun y =>
    let off := x.imm.toNat % 2 ^ 20
    let grp := x.imm.toNat / 2 ^ 20 % 32
    if x.imm.toNat / 2 ^ 25 != 0 then s.laneFault y .reservedField y.low 0
    else match blkFault y.x.team off with
      | some e => s.laneFault y e.1 y.low (BitVec.ofNat 54 e.2)
      | none =>
        let a := y.x.team.lmBase + off
        let b := y.x.core.bar a
        if y.x.core.barBad a then s.laneFault y .memoryUncorrectable y.low (BitVec.ofNat 54 off)
        else if !b.sv || b.kind = 3 || b.brk then s.laneFault y .barrierInvalid y.low 0
        else s.launchOp y (.strag x) (y.lanes.map fun l => claimAcc l b.srec (32 * grp + l)) .none .none

/-- STRAG's result from the header and a member's entry (R256). -/
def stragWord (h : SrecHead) (e : List Byte) : Word :=
  let v := (e.getD 25 0).toNat
  BitVec.ofNat 32 (v % 2 + v / 2 % 2 * 2 + (e.getD 24 0).toNat % 32 * 2 ^ 8 +
    (e.getD ((h.phases + 2 ^ 32 - 1) % 16) 0).toNat * 2 ^ 16)

/-- Read bytes at home for STRAG, which needs A (R256). -/
def State.stragRead (s : State) (core : Nat) (t : Team) (va n : Nat) : State × Except (Cause × Nat) (List Byte) :=
  if inAperture va then (s, .error (.outOfRange, va))
  else match s.translate core t.asid t.priv va .read with
    | (s, .error c) => (s, .error (c, va))
    | (s, .ok p) =>
      let s := s.evict core (p.pa / 64)
      match s.homeRead p.pa n with
      | .error c => (s.unheard p.pa, .error (c, va))
      | .ok bs => (s, .ok bs)

/-- What a lane of STRAG reads. -/
def State.stragLane (s : State) (core : Nat) (t : Team) (srec m : Nat) : State × Except (Cause × Nat) Word :=
  match s.stragRead core t srec 64 with
  | (s, .error e) => (s, .error e)
  | (s, .ok hd) =>
    match parseSrec hd with
    | none => (s, .error (.barrierInvalid, 0))
    | some h =>
      if h.n ≤ m then (s, .ok 0)
      else match s.stragRead core t (srec + 64 + 32 * m) 32 with
        | (s, .error e) => (s, .error e)
        | (s, .ok e) => if entryOk e then (s, .ok (stragWord h e)) else (s, .error (.barrierInvalid, 0))

/-- Lanes of a STRAG read and land, ascending; the operation ends with its last lane. -/
def State.stragLanes (s : State) (core slot id : Nat) : List Nat → State
  | [] => s
  | l :: ls =>
    match s.findOp core slot id with
    | none => s
    | some (o, w, t) =>
      match o.instr, o.accs.find? (·.lane == l) with
      | .strag x, some a =>
        if (a.st == .todo || a.st == .retry) &&
            !((claimLines o a).getD []).any fun line => s.claimHeld core w t o a (line * 64) then
          let put (s : State) (a : Acc) : State := s.updateOp core slot { o with accs := putAccs [a] o.accs }
          let s := match s.stragLane core t a.va a.data with
            | (s, .ok v) => put (s.writeV core slot x.vd l [v]) { a with st := .done }
            | (s, .error (c, va)) =>
              if c.replayable then
                let f := s.addFault
                  { va := va, cause := c, source := 0, flags := faultFlags true .read false, unit := slot, core := core
                    asid := t.asid, lanes := maskOf [l], fseq := 0 }
                put f.1 { a with st := .stalled f.2 }
              else put s { a with va := if c == Cause.barrierInvalid then 0 else va, st := .failed c }
          s.stragLanes core slot id ls
        else s.stragLanes core slot id ls
      | _, _ => s

/-! ### LAUNCH (R30, R252) -/

/-- LAUNCH (R252): the queue and the alignment are checked at dispatch. -/
def execLaunch (x : EngArgs) (s : State) : Host.Outcome State Fault Refusal :=
  runLane s (.launch x) fun y =>
    let q := (captured y.clause.gs x.g).toNat
    let va (l : Nat) : Nat := vPair y.x.warp x.va l % 2 ^ 54
    if q / 2 ^ 6 != 0 then s.laneFault y .queueInvalid y.low 0
    else match y.lanes.find? fun l => va l % 32 != 0 with
      | some l => s.laneFault y .misaligned l (BitVec.ofNat 54 (va l))
      | none =>
        (s.modHub fun h => { h with launches := h.launches + 1 }).launchOp y (.launch x)
          (y.lanes.map fun l => claimAcc l (va l) 0) .pending (.launch q [] false s.hub.launches)

/-- Each lane's record as the hub reads it at home (R252 step 4), once; lanes through the aperture were read already. -/
def State.launchRead (s : State) (t : Team) (accs : List Acc) : List Acc :=
  accs.map fun a =>
    if a.path == .fabric || a.st.isWaiting then a
    else match s.translateHub t.asid t.priv a.va .read with
      | .error c => { a with st := .failed c }
      | .ok p =>
        if hubRange p.pa then { a with data := leNat (s.regBytes p.pa 32), st := .waiting none }
        else match s.homeRead p.pa 32 with
          | .error c => { a with st := .failed c }
          | .ok bs => { a with data := leNat bs, st := .waiting none }

/-- Send for the records that lie behind the aperture. -/
def State.launchSend (s : State) (core slot : Nat) (o : Op) : List Acc → State × List Acc
  | [] => (s, [])
  | a :: as =>
    let r : State × Acc :=
      if a.path == .fabric && a.st == .todo then
        match s.request (EngReq.packet (.read a.va 32)) (.lane core slot o.id (maskOf [a.lane])) core with
        | (s, .error c) => (s, { a with st := .failed c })
        | (s, .ok tag) => (s, { a with st := .sent tag })
      else (s, a)
    let q := r.1.launchSend core slot o as
    (q.1, r.2 :: q.2)

/-- The lowest failed lane ends the LAUNCH and nothing is appended (R213, R252). -/
def State.launchFail (s : State) (core slot : Nat) (o : Op) (c : Cause) (lane va : Nat) : State :=
  s.updateOp core slot (o.failAt lane c va)

/-- The LAUNCH is to run again from its reads (R252 step 4). -/
def relaunch (accs : List Acc) : List Acc :=
  accs.map fun a => match a.st with
    | .stalled _ => a
    | _ => { a with st := .todo }

/-- The operation is a LAUNCH to a queue. -/
def Op.launchesTo (o : Op) (q : Nat) : Bool :=
  match o.aux with
  | .launch q' _ _ _ => q' == q
  | _ => false

/-- A LAUNCH's place in the order of execution. -/
def Op.launchOrder (o : Op) : Nat :=
  match o.aux with
  | .launch _ _ _ n => n
  | _ => 0

/-- An earlier LAUNCH to the same queue, of any core, has not been appended (R30). -/
def State.launchFirst (s : State) (o : Op) (q : Nat) : Bool :=
  s.cores.any fun c => c.2.warps.any fun w => w.2.ops.any fun p =>
    p.launchesTo q && p.launchOrder < o.launchOrder

/-- Steps 5 to 7 of R252: the queue's checks, the places its records will take (R362; log 101), the reservation, the increment of the
join object, which the record of the executing gang names (R30). While it waits for room it keeps the records it has read. -/
def State.launchReserve (s : State) (core slot : Nat) (t : Team) (o : Op) (q : Nat) : State :=
  let c := s.hub.queue q
  let n := o.accs.length
  let low := (lanesOf o.act).headD 0
  if !c.v || c.asid != t.asid || 2 ^ c.log2.toNat < n then s.launchFail core slot o .queueInvalid low 0
  else if c.room < n || s.hub.reservedAt q || s.launchFirst o q then s.setOp core slot o
  else if !(List.range n).all fun i => s.queueUp c (c.tail.toNat + i) then s.launchFail core slot o .outOfRange low 0
  else
    let take (s : State) : State :=
      ({ s with hub := { s.hub with reservations := s.hub.reservations ++ [(q, core * 64 + slot, o.id)] } }).setOp core slot
        { o with aux := .launch q (o.accs.map fun (a : Acc) => leBytes 32 a.data) true o.launchOrder }
    match s.hub.gangs.find? (·.key == t.gang) with
    | none => take s
    | some k =>
      match s.joinAdd t.asid (recJoin k.record) n with
      | .ok s => take s
      | .error e =>
        if e.replayable then
          let f := s.addFault
            { va := recJoin k.record, cause := e, source := 0, flags := faultFlags true .atomic false, unit := slot
              core := core, asid := t.asid, lanes := maskOf [low], fseq := 0 }
          f.1.setOp core slot { o with accs := relaunch (o.accs.map fun a =>
            if a.lane = low then { a with st := .stalled f.2 } else a) }
        else s.launchFail core slot o e low (if e.hasAddr then recJoin k.record else 0)

/-- Step 4 of R252: the records are read, or faults are taken. After a replay the whole LAUNCH is made again, its release
first. -/
def State.launchGather (s : State) (core slot : Nat) (t : Team) (o : Op) (q : Nat) : State :=
  let held := o.accs.any fun a => match a.st with | .stalled _ | .sent _ => true | _ => false
  if held then s
  else if o.accs.any (fun a => a.st == .retry) then
    s.setOp core slot { o with accs := relaunch o.accs, rel := .pending }
  else if o.accs.all (·.st.isWaiting) then s.launchReserve core slot t o q
  else
    let r := s.launchSend core slot o o.accs
    let accs := r.1.launchRead t r.2
    let s := accs.foldl (fun (s : State) a => a.hard.elim s fun c => s.unheardAt t.asid a.va c) r.1
    match accs.find? fun a => a.hard.isSome with
    | some a => s.launchFail core slot o (a.hard.getD .queueInvalid) a.lane a.va
    | none =>
      if accs.any fun a => a.soft.isSome then
        let sp : MemSpec := { acc := .read, n := 32, whole := true }
        let f := s.stallAccs core slot t.asid sp accs accs []
        f.1.setOp core slot { o with accs := relaunch f.2 }
      else if accs.all (·.st.isWaiting) then
        s.launchReserve core slot t { o with accs := accs } q
      else s.setOp core slot { o with accs := accs }

/-- LAUNCH_APPEND: a LAUNCH goes on: its release, its reads, its reservation and increment, and at the next its append
(R30, R129, R252). The append does not look at V and ASID of the queue again: R114 does not say what becomes of a batch
whose room was reserved before (log 75). -/
def execLaunchAppend (core slot op : Nat) (s : State) : Host.Outcome State Fault Refusal :=
  .next <| match s.findOp core slot op with
  | none => s
  | some (o, w, t) =>
    match o.aux with
    | .launch q records true _ =>
      let left := s.hub.reservations.filter (· != (q, core * 64 + slot, op))
      let s := { s with hub := { s.hub with reservations := left } }
      let s := (s.append q records).irrevWarp core slot
      s.updateOp core slot { o with accs := o.accs.map fun a => { a with st := .done } }
    | .launch q _ false _ =>
      let r := s.releaseStep core w o
      let s := r.1.setOp core slot r.2
      if r.2.isOver then s.updateOp core slot r.2
      else if !r.2.released then s
      else s.launchGather core slot t r.2 q
    | _ => s

/-- A peer's answer to a LAUNCH's read of a record behind the aperture. -/
def State.launchReply (s : State) (core slot id tag : Nat) (res : Except Cause (List Byte)) : State :=
  match s.findOp core slot id with
  | none => s
  | some (o, _, _) =>
    match o.accs.find? fun a => a.st == .sent tag with
    | none => s
    | some a =>
      match res with
      | .error c => s.launchFail core slot o c a.lane a.va
      | .ok bs =>
        let a' := { a with data := leNat ((bs.drop (a.va % 64)).take 32), st := .waiting none }
        s.setOp core slot { o with accs := putAccs [a'] o.accs }

/-- QPUSH_SLOT_FREE: a claim that waits for its slots reads RIDX again (R250). -/
def execQpushSlotFree (core slot op : Nat) (lanes : Lanes) (s : State) : Host.Outcome State Fault Refusal :=
  .next <| match s.findOp core slot op with
  | none => s
  | some (o, _, _) =>
    match o.instr, o.aux with
    | .qpush _, .eng 2 _ | .qfence _, .eng 2 _ => if lanes = 0 then s else s.claimStep core slot op
    | _, _ => s

end Sys2Proof.Machine
end

