-- ==== Sys2Proof/Machine/Iter.lean ====
section
/-! DEFINITION. Adaptor objects and iterators: the shape test, pulls and commits, NEXT in both forms, and the iterator
instructions (R260 to R268, R285, R286); the events that land loads and perform what is done at home. -/

namespace Sys2Proof.Machine

/-! ### Adaptor objects (R260, R261) -/

/-- An object's four words. -/
abbrev Obj := Nat × Nat × Nat × Nat

/-- TYPE. -/
def objType (o : Obj) : Nat := o.1 / 2 ^ 56

/-- ADDR. -/
def objAddr (o : Obj) : Nat := o.1 % 2 ^ 54

/-- SECOND. -/
def objSecond (o : Obj) : Nat := o.1 % 8

/-- The low and the high half of a word. -/
def half (w i : Nat) : Nat := w / 2 ^ (32 * i) % 2 ^ 32

/-- What an adaptor takes: nothing, a single, a pair, two singles, or two of one kind. -/
inductive InKind where
  | source | single | pair | two | twoSame
  deriving DecidableEq, Repr

/-- The input of a type and the bits its ADDR, P1 and P2 may use, if the type exists (R260, R261). -/
def typeInfo (t : Nat) : Option (InKind × Nat × Nat × Nat) :=
  let w32 := 2 ^ 32
  match t with
  | 0x01 => some (.source, 1, w32, 2 ^ 64)
  | 0x02 => some (.source, 2 ^ 54, w32, 4)
  | 0x03 => some (.source, 2 ^ 54, w32, 1)
  | 0x10 => some (.single, 1, 2 ^ 64, 1)
  | 0x11 => some (.single, 2 ^ 54, w32, 1)
  | 0x12 => some (.single, 1, w32, w32)
  | 0x20 => some (.single, 1, w32, w32)
  | 0x21 | 0x22 => some (.single, 2 ^ 20, w32, 1)
  | 0x23 => some (.single, 1, w32, w32)
  | 0x30 => some (.two, 8, 1, 1)
  | 0x31 => some (.twoSame, 8, 1, 1)
  | 0x32 => some (.pair, 1, 1, 2 ^ 64)
  | _ => none

/-- The fields of an object are valid by themselves (R262 step 3). -/
def objOk (o : Obj) : Bool :=
  match typeInfo (objType o) with
  | none => false
  | some (_, a, p1, p2) =>
    objAddr o < a && !bitAt o.1 54 && o.2.1 < p1 && o.2.2.1 < p2 &&
    (match objType o with
      | 0x02 => o.2.2.1 % 4 != 3 && objAddr o % 2 ^ (o.2.2.1 % 4) == 0
      | 0x03 | 0x11 => objAddr o % 4 == 0
      | 0x12 => half o.2.2.1 0 != 0
      | 0x23 => half o.2.1 0 != 0
      | _ => true)

/-- start(j) and whether object j yields pairs, for objects from a list whose predecessors are known; none where the
shape test fails (R262). -/
def shapeOf : List Obj → List (Nat × Bool) → Option (List (Nat × Bool))
  | [], done => some done
  | o :: os, done =>
    let j := done.length
    let prev := done.getD (j - 1) (0, false)
    let sec := done.getD (objSecond o) (0, false)
    if !objOk o then none
    else match typeInfo (objType o) with
      | none => none
      | some (k, _) =>
        let two := 2 ≤ j && objSecond o < j - 1 && prev.1 == objSecond o + 1
        match k with
        | .source => shapeOf os (done ++ [(j, objType o == 0x03)])
        | .single => if 1 ≤ j && !prev.2 then shapeOf os (done ++ [(prev.1, false)]) else none
        | .pair => if 1 ≤ j && prev.2 then shapeOf os (done ++ [(prev.1, false)]) else none
        | .two => if two && !prev.2 && !sec.2 then shapeOf os (done ++ [(sec.1, true)]) else none
        | .twoSame => if two && prev.2 == sec.2 then shapeOf os (done ++ [(sec.1, prev.2)]) else none

/-- The shape of a stack of objects: every start and kind, valid only if the top's subtree starts at 0 (R262). -/
def stackShape (os : List Obj) : Option (List (Nat × Bool)) :=
  match shapeOf os [] with
  | none => none
  | some sh => if (sh.getD (os.length - 1) (1, false)).1 = 0 then some sh else none

/-- The top-most flatten: the highest index (log 21). -/
def topFlatten (os : List Obj) : Option Nat :=
  (List.range os.length).reverse.find? fun j => objType (os.getD j (0, 0, 0, 0)) == 0x32

/-- The bytes of a bitmap an object names. -/
def bitmapEnd (o : Obj) : Nat :=
  if objType o = 0x21 ∨ objType o = 0x22 then
    (if half o.2.1 0 = 0 then 0 else objAddr o % 2 ^ 20 + (half o.2.1 0 + 7) / 8)
  else 0

/-- Object j of a stack at an LM address. -/
def Core.obj (k : Core) (a : Nat) : Obj := (k.lmWord a, k.lmWord (a + 8), k.lmWord (a + 16), k.lmWord (a + 24))

/-- The objects of a stack at an LM offset of a team. -/
def Core.objs (k : Core) (t : Team) (base d : Nat) : List Obj :=
  (List.range d).map fun j => k.obj (t.lmBase + base + 32 * j)

/-- The checks of R262 before the claim, and the stack's shape. -/
def stackCheck (k : Core) (t : Team) (base d : Nat) (free : Bool) : Except (Cause × Nat) (List (Nat × Bool)) :=
  if base % 32 != 0 then .error (.misaligned, base)
  else if t.lmSize < base + 32 * d then .error (.lmOutOfRange, base)
  else if (unitsOf (t.lmBase + base) (32 * d)).any k.lmBad.contains then .error (.memoryUncorrectable, base)
  else
    let os := k.objs t base d
    match os.find? fun o => t.lmSize < bitmapEnd o with
    | some o => .error (.lmOutOfRange, objAddr o)
    | none =>
      if !free then .error (.iteratorInvalid, 0)
      else match stackShape os with
        | none => .error (.iteratorInvalid, 0)
        | some sh => .ok sh

/-! ### Iterators of a core -/

/-- An iterator by its number on the core. -/
def Core.iter (k : Core) (n : Nat) : Iter := amGet Iter.reset k.iters n

/-- The iterator a team names, if it claimed it (R285). -/
def Team.iter (t : Team) (n : Nat) : Option Nat := t.iters[n]?

/-- An iterator that may be opened: never opened, or ended by ENOUGH (R262). -/
def Iter.free (i : Iter) : Bool := !i.opn || i.ended

/-- Change an iterator. -/
def State.modIter (s : State) (core n : Nat) (f : Iter → Iter) : State :=
  s.modCore core fun k => { k with iters := smPut Iter.reset k.iters n (f (k.iter n)) }

/-- Set or clear LIVE in the objects of a stack, and where `fresh` zero their engine fields (R262, R265, R266). -/
def Core.setLive (k : Core) (a d : Nat) (live fresh : Bool) : Core :=
  (List.range d).foldl (fun (k : Core) (j : Nat) =>
    let at_ := a + 32 * j
    let o := k.obj at_
    let k := k.setLmWord at_ (putField o.1 55 1 (if live then 1 else 0))
    if fresh then
      (if objType o = 0x32 then k.setLmWord (at_ + 16) 0 else k).setLmWord (at_ + 24) 0
    else k) k

/-! ### Pulls (R263, R264) -/

/-- The engine's view of a stack while it pulls: committed words 2 and 3 of each object, the same with the uncommitted
work, first-occurrence bits not yet set (object, bit), and ranges begun by the top-most flatten; `base` parts hold what
any commit includes. -/
structure PullSt where
  cur : List (Nat × Nat)
  base : List (Nat × Nat)
  bits : List (Nat × Nat)
  baseBits : List (Nat × Nat)
  rng : Nat
  baseRng : Nat
  deriving DecidableEq, Repr

/-- How a pull ends: a value at its object, the end of the stream, a value dropped by the filter at an object, a read
behind the aperture that is still to be made, or a fault. -/
inductive PullRes where
  | val (v : Word × Word)
  | ended
  | drop (j : Nat)
  | need (va n : Nat)
  | fault (c : Cause) (va : Nat)
  deriving DecidableEq, Repr

/-- What a pull works on: the core and team, the objects' fixed words, starts, the top-most flatten, and the values
read behind the aperture. -/
structure PullCtx where
  core : Nat
  team : Team
  base : Nat
  objs : List Obj
  shape : List (Nat × Bool)
  topf : Option Nat
  got : List (Nat × Nat)

/-- The object with its engine words as the pull holds them. -/
def PullCtx.obj (x : PullCtx) (p : PullSt) (j : Nat) : Obj :=
  let o := x.objs.getD j (0, 0, 0, 0)
  let e := p.cur.getD j (0, 0)
  (o.1, o.2.1, e.1, e.2)

/-- Change an object's words in the uncommitted work. -/
def PullSt.put (p : PullSt) (j w2 w3 : Nat) : PullSt := { p with cur := p.cur.set j (w2, w3) }

/-- CUR of an object rises by 1. -/
def PullSt.up (p : PullSt) (j : Nat) : PullSt :=
  let e := p.cur.getD j (0, 0)
  p.put j e.1 (putField e.2 0 32 (half e.2 0 + 1))

/-- The work of objects `lo` to `hi` becomes part of every later commit. -/
def PullSt.settle (p : PullSt) (topf : Option Nat) (lo hi : Nat) : PullSt :=
  let here (j : Nat) : Bool := lo ≤ j && j ≤ hi
  { p with
    base := (p.base.zip p.cur).zipIdx.map fun (q : ((Nat × Nat) × (Nat × Nat)) × Nat) =>
      if here q.2 then q.1.2 else q.1.1
    baseBits := p.baseBits ++ p.bits.filter fun b => here b.1
    bits := p.bits.filter fun b => !here b.1
    baseRng := match topf with
      | some f => if here f then p.rng else p.baseRng
      | none => p.baseRng }

/-- The uncommitted work of objects `lo` to `hi` is discarded (R263). -/
def PullSt.discard (p : PullSt) (topf : Option Nat) (lo hi : Nat) : PullSt :=
  let here (j : Nat) : Bool := lo ≤ j && j ≤ hi
  { p with
    cur := (p.base.zip p.cur).zipIdx.map fun (q : ((Nat × Nat) × (Nat × Nat)) × Nat) =>
      if here q.2 then q.1.1 else q.1.2
    bits := p.bits.filter fun b => !here b.1
    rng := match topf with
      | some f => if here f then p.baseRng else p.rng
      | none => p.rng }

/-- Read n bytes at home for the engine (R261): never through an L1; behind the aperture through the fabric. -/
def State.pullRead (s : State) (x : PullCtx) (va n : Nat) : State × Except PullRes Nat :=
  if inAperture va then
    match x.got.find? fun g => g.1 == va with
    | some g => (s, .ok g.2)
    | none => (s, .error (.need va n))
  else match s.translate x.core x.team.asid x.team.priv va .read with
    | (s, .error c) => (s, .error (.fault c va))
    | (s, .ok q) =>
      if hubRange q.pa then (s, .ok (leNat (s.regBytes q.pa n)))
      else
        let s := s.evict x.core (q.pa / 64)
        match s.homeRead q.pa n with
        | .error c => (s.unheard q.pa, .error (.fault c va))
        | .ok bs => (s, .ok (leNat bs))

/-- Bit x of a bitmap, with the bits the pull will set (R261). -/
def State.pullBit (s : State) (x : PullCtx) (p : PullSt) (j v : Nat) : Except PullRes Bool :=
  let off := objAddr (x.objs.getD j (0, 0, 0, 0)) % 2 ^ 20 + v / 8
  match (s.core x.core).lmRead (x.team.lmBase + off) 1 with
  | .error c => .error (.fault c off)
  | .ok bs => .ok (bitAt (leNat bs) (v % 8) || (p.bits ++ p.baseBits).contains (j, v))

/-- A value from a source (R261). -/
def State.pullSource (s : State) (x : PullCtx) (p : PullSt) (j : Nat) : State × PullSt × PullRes :=
  let o := x.obj p j
  let c := half o.2.2.2 0
  match objType o with
  | 0x01 =>
    if half o.2.2.1 1 ≤ c then (s, p, .ended)
    else (s, p.up j, .val (BitVec.ofNat 32 (half o.2.1 0 + c * half o.2.2.1 0), 0))
  | 0x02 =>
    let n := 2 ^ (o.2.2.1 % 4)
    if half o.2.1 0 ≤ c then (s, p, .ended)
    else match s.pullRead x ((objAddr o + c * n) % 2 ^ 54) n with
      | (s, .error e) => (s, p, e)
      | (s, .ok v) => (s, p.up j, .val (BitVec.ofNat 32 v, 0))
  | _ =>
    if half o.2.1 0 ≤ c then (s, p, .ended)
    else match s.pullRead x ((objAddr o + 4 * c) % 2 ^ 54) 4 with
      | (s, .error e) => (s, p, e)
      | (s, .ok a) => match s.pullRead x ((objAddr o + 4 * c + 4) % 2 ^ 54) 4 with
        | (s, .error e) => (s, p, e)
        | (s, .ok b) => (s, p.up j, .val (BitVec.ofNat 32 a, BitVec.ofNat 32 b))

/-- A map or filter applied to the value its input yielded (R261). -/
def State.pullThrough (s : State) (x : PullCtx) (p : PullSt) (j : Nat) (v : Word) : State × PullSt × PullRes :=
  let o := x.obj p j
  let n := v.toNat
  let pass (p : PullSt) : State × PullSt × PullRes := (s, p.up j, .val (v, 0))
  let ifPass (b : Bool) : State × PullSt × PullRes := if b then pass p else (s, p, .drop j)
  match objType o with
  | 0x10 => (s, p.up j, .val (BitVec.ofNat 32 (half o.2.1 0 * n + half o.2.1 1), 0))
  | 0x11 =>
    if half o.2.1 0 ≤ n then (s, p, .fault .iteratorInvalid 0)
    else match s.pullRead x ((objAddr o + 4 * n) % 2 ^ 54) 4 with
      | (s, .error e) => (s, p, e)
      | (s, .ok a) => (s, p.up j, .val (BitVec.ofNat 32 a, 0))
  | 0x12 => (s, p.up j, .val (BitVec.ofNat 32 (n * half o.2.1 0 % 2 ^ 32 % half o.2.2.1 0), 0))
  | 0x20 => ifPass (half o.2.1 0 ≤ n && n < half o.2.2.1 0)
  | 0x23 => ifPass (n % half o.2.1 0 == half o.2.2.1 0)
  | t =>
    if half o.2.1 0 ≤ n then (s, p, .drop j)
    else match s.pullBit x p j n with
      | .error e => (s, p, e)
      | .ok b =>
        if t = 0x21 then ifPass b
        else if b then (s, p, .drop j) else pass { p with bits := p.bits ++ [(j, n)] }

/-- A flatten that has taken a pair begins its range, empty or not; the range's first value, where it has one (R261,
R263). -/
def PullSt.begin (p : PullSt) (x : PullCtx) (j : Nat) (v : Word × Word) : PullSt × Option Word :=
  let p := if x.topf = some j then { p with rng := p.rng + 1 } else p
  let e := p.cur.getD j (0, 0)
  let b := v.1.toNat
  if v.2.toNat ≤ b then
    ((p.put j (b + v.2.toNat * 2 ^ 32) (putField e.2 32 1 0)).settle x.topf (x.shape.getD j (0, false)).1 j, none)
  else
    let more : Nat := if b + 1 < v.2.toNat then 1 else 0
    ((p.put j (b + 1 + v.2.toNat * 2 ^ 32) (putField e.2 32 1 more)).up j, some v.1)

/-- The next value of an open range. -/
def PullSt.nextOf (p : PullSt) (j nxt fin : Nat) : PullSt :=
  let e := p.cur.getD j (0, 0)
  (p.put j (nxt + 1 + fin * 2 ^ 32) (putField e.2 32 1 (if nxt + 1 < fin then 1 else 0))).up j

/-- The next value of object j, with the work it takes left uncommitted (R261, R263). A chain whose first input ends goes on
with the other, and what was taken for a value of the first that did not come is discarded. `fuel` is above the length of any
stream. -/
def State.pull (x : PullCtx) : Nat → State → PullSt → Nat → State × PullSt × PullRes
  | 0, s, p, _ => (s, p, .ended)
  | fuel + 1, s, p, j =>
    let o := x.obj p j
    match typeInfo (objType o) with
    | none => (s, p, .ended)
    | some (.source, _) => s.pullSource x p j
    | some (.single, _) =>
      (match State.pull x fuel s p (j - 1) with
      | (s, p, .val v) => s.pullThrough x p j v.1
      | r => r)
    | some (.pair, _) =>
      if bitAt o.2.2.2 32 && half o.2.2.1 0 < half o.2.2.1 1 then
        (s, p.nextOf j (half o.2.2.1 0) (half o.2.2.1 1), .val (BitVec.ofNat 32 (half o.2.2.1 0), 0))
      else match State.pull x fuel s p (j - 1) with
        | (s, p, .val v) =>
          (match p.begin x j v with
          | (p, some w) => (s, p, .val (w, 0))
          | (p, none) => State.pull x fuel s p j)
        | r => r
    | some (.two, _) =>
      (match State.pull x fuel s p (j - 1) with
      | (s, p, .val a) =>
        (match State.pull x fuel s p (objSecond o) with
        | (s, p, .val b) => (s, p.up j, .val (a.1, b.1))
        | r => r)
      | r => r)
    | some (.twoSame, _) =>
      let other (s : State) (p : PullSt) : State × PullSt × PullRes :=
        match State.pull x fuel s p (j - 1) with
        | (s, p, .val v) => (s, p.up j, .val v)
        | r => r
      if bitAt o.2.2.2 32 then other s p
      else match State.pull x fuel s p (objSecond o) with
        | (s, p, .val v) => (s, p.up j, .val v)
        | (s, p, .ended) =>
          let p := p.discard x.topf (x.shape.getD (objSecond o) (0, false)).1 (objSecond o)
          let e := p.cur.getD j (0, 0)
          other s (p.put j e.1 (putField e.2 32 1 1))
        | r => r

/-- More steps than any pull takes: sources hold fewer than 2^32 values and stacks eight objects. -/
def pullFuel : Nat := 2 ^ 40

/-- The engine's view of an open iterator's stack. -/
def State.pullCtx (s : State) (core : Nat) (t : Team) (i : Iter) (got : List (Nat × Nat)) : PullCtx :=
  let os := (s.core core).objs t i.base (i.dm1 + 1)
  { core := core, team := t, base := i.base, objs := os, shape := (shapeOf os []).getD [], topf := topFlatten os
    got := got }

/-- The pull's start: nothing uncommitted. -/
def PullCtx.start (x : PullCtx) : PullSt :=
  let e := x.objs.map fun o => (o.2.2.1, o.2.2.2)
  { cur := e, base := e, bits := [], baseBits := [], rng := 0, baseRng := 0 }

/-- A unit of LM that holds an object of the stack is uncorrectable (R83). -/
def PullCtx.bad (x : PullCtx) (k : Core) : Bool :=
  (unitsOf (x.team.lmBase + x.base) (32 * x.objs.length)).any k.lmBad.contains

/-- A commit: cursors and flatten state, first-occurrence bits and RANGES (R263). -/
def State.commitPull (s : State) (x : PullCtx) (n : Nat) (p : PullSt) : State :=
  let s := s.modCore x.core fun k =>
    let k := (p.base.zipIdx).foldl (fun (k : Core) (q : (Nat × Nat) × Nat) =>
      let a := x.team.lmBase + x.base + 32 * q.2
      (k.setLmWord (a + 16) q.1.1).setLmWord (a + 24) q.1.2) k
    p.baseBits.foldl (fun (k : Core) (b : Nat × Nat) =>
      let a := x.team.lmBase + objAddr (x.objs.getD b.1 (0, 0, 0, 0)) % 2 ^ 20 + b.2 / 8
      k.lmPut a [BitVec.ofNat 8 ((amGet 0 k.lm a).toNat ||| 2 ^ (b.2 % 8))]) k
  s.modIter x.core n fun i => { i with ranges := i.ranges + BitVec.ofNat 32 p.baseRng }

/-- No filter and no zip stands between the top-most flatten and the top (R264): `fuel` objects are left. -/
def directFrom (os : List Obj) (shape : List (Nat × Bool)) (f : Nat) : Nat → Nat → Bool
  | 0, _ => true
  | fuel + 1, j =>
    if j = f then true
    else
      let o := os.getD j (0, 0, 0, 0)
      let t := objType o
      if (0x20 ≤ t ∧ t ≤ 0x23) ∨ t = 0x30 then false
      else if t = 0x31 ∧ f < (shape.getD (j - 1) (0, false)).1 then directFrom os shape f fuel (objSecond o)
      else directFrom os shape f fuel (j - 1)

/-! ### NEXT (R264, R286) -/

/-- The iterator number an instruction names. -/
def iterNo (x : EngArgs) : Nat := x.imm.toNat % 16

/-- The NEXT forms, with the bounded one marked. -/
def nextArgs : Instr → Option (EngArgs × Bool)
  | .next x => some (x, false)
  | .nextBounded x => some (x, true)
  | _ => none

/-- A NEXT in flight on an iterator of a team. -/
def Op.pullsOn (o : Op) (n : Nat) : Bool :=
  match nextArgs o.instr, o.aux with
  | some (x, _), .pull _ _ _ _ => iterNo x == n
  | _, _ => false

/-- Some NEXT of the team on an iterator is in flight, below a serial. -/
def Core.pulling (k : Core) (team n serial : Nat) : Bool :=
  k.warps.any fun w => w.2.team == team && w.2.ops.any fun o => o.serial < serial && o.pullsOn n

/-- The top-most flatten yields no further value that can reach the top: a chain above it has finished with the input it is in
(R261). -/
def PullCtx.passed (x : PullCtx) (cur : List (Nat × Nat)) : Bool :=
  match x.topf with
  | none => false
  | some f => (List.range x.objs.length).any fun j =>
      let o := x.objs.getD j (0, 0, 0, 0)
      objType o == 0x31 && (x.shape.getD (objSecond o) (0, false)).1 ≤ f && f ≤ objSecond o && bitAt (cur.getD j (0, 0)).2 32

/-- The top-most flatten's range of a stack is open and goes on to the top (R261, R286). -/
def PullCtx.rangeOpen (x : PullCtx) : Bool :=
  match x.topf with
  | none => false
  | some f =>
    let o := x.objs.getD f (0, 0, 0, 0)
    bitAt o.2.2.2 32 && half o.2.2.1 0 < half o.2.2.1 1 && !x.passed x.start.cur

/-- What a NEXT meets at dispatch (R264): an iterator that is not open or is broken, a pair destination that does not fit. -/
def nextBad (y : LCtx) (x : EngArgs) (it : Iter) : Bool :=
  !it.opn || it.brk ||
  (it.pair && (x.vd.toNat % 2 != 0 || y.x.warp.budget ≤ x.vd.toNat + 1 || x.vc.toNat == x.vd.toNat + 1))

/-- A NEXT waits while the carry buffer belongs to another warp (R268). -/
def carryWait (y : LCtx) (it : Iter) : LaneWait := if !it.carry.isEmpty && it.cw != y.x.warp.widx then .carry else .run

/-- NEXT and NEXT.bounded at dispatch: the iterator's and the pair's checks, the wait for the carry's owner, and the
carried values (R264, R268, R286). -/
def nextDispatch (i : Instr) (x : EngArgs) (bounded : Bool) (s : State) : Host.Outcome State Fault Refusal :=
  runLane s i fun y =>
    match y.x.team.iter (iterNo x) with
    | none => s.laneFault y .iteratorInvalid y.low 0
    | some n =>
      let it := y.x.core.iter n
      if nextBad y x it then s.laneFault y .iteratorInvalid y.low 0
      else if carryWait y it == .carry then s.laneHold y .carry
      else
        let stop := bounded && it.bnd && !it.carry.isEmpty
        let look := bounded && !it.carry.isEmpty && (s.pullCtx y.x.who.core y.x.team it []).rangeOpen
        (s.modIter y.x.who.core n fun i => { i with carry := [] }).launchOp y i [claimAcc y.low 0 0] .none
          (.pull it.carry stop look [])

/-- NEXT (R264). -/
def execNext (x : EngArgs) (s : State) : Host.Outcome State Fault Refusal := nextDispatch (.next x) x false s

/-- NEXT.bounded (R264, R286). -/
def execNextBounded (x : EngArgs) (s : State) : Host.Outcome State Fault Refusal :=
  nextDispatch (.nextBounded x) x true s

/-- A pull ends: its lanes are written together, and G (R264). -/
def State.pullDone (s : State) (core slot : Nat) (o : Op) (x : EngArgs) (pair : Bool) (out : List (Word × Word)) :
    State :=
  let s := (lanesOf o.act).zipIdx.foldl (fun (s : State) (p : Nat × Nat) =>
    match out[p.2]? with
    | some v => (s.writeV core slot x.vd p.1 (if pair then [v.1, v.2] else [v.1])).writeV core slot x.vc p.1 [1]
    | none => s.writeV core slot x.vc p.1 [0]) s
  let s := s.modWarp core slot fun w => w.setG x.g (BitVec.ofNat 32 out.length)
  s.updateOp core slot { o with accs := o.accs.map fun a => { a with st := .done } }

/-- A pull breaks its iterator: its committed values are discarded (R264). -/
def State.pullBreak (s : State) (core slot n : Nat) (o : Op) (c : Cause) (va : Nat) : State :=
  let low := (lanesOf o.act).headD 0
  (s.modIter core n fun i => { i with brk := true }).updateOp core slot
    (o.failAt low c (if c == Cause.iteratorInvalid then 0 else va))

/-- Keep a pull's progress. -/
def State.pullKeep (s : State) (core slot : Nat) (o : Op) (out : List (Word × Word)) (stop look : Bool)
    (got : List (Nat × Nat)) : State :=
  s.setOp core slot { o with aux := .pull out stop look got }

/-- The pull ends after its last value: BND records whether it stopped (R264). -/
def State.pullEnd (s : State) (core slot n : Nat) (o : Op) (x : EngArgs) (bounded pair : Bool) (out : List (Word × Word))
    (stop : Bool) : State :=
  (s.modIter core n fun i => { i with bnd := bounded && stop }).pullDone core slot o x pair out

/-- One step of a pull: the next value is committed and appended, a dropped value is committed, or the pull ends
(R263, R264, R286). A pull that looks past its last value stops where the range turns out to be over for the top: what comes of
another input of a chain, a fault among it, is left for the next pull. An object that cannot be read breaks the iterator (R83). -/
def State.pullStep (s : State) (core slot n : Nat) (t : Team) (o : Op) (x : EngArgs) (bounded : Bool)
    (out : List (Word × Word)) (look : Bool) (got : List (Nat × Nat)) : State :=
  let it := (s.core core).iter n
  let c := s.pullCtx core t it got
  let direct := match c.topf with
    | some f => directFrom c.objs c.shape f 8 it.dm1
    | none => true
  let m := (lanesOf o.act).length
  let full := m ≤ out.length
  if c.bad (s.core core) then s.pullBreak core slot n o .memoryUncorrectable it.base
  else if look && !c.rangeOpen then s.pullEnd core slot n o x bounded it.pair out true
  else if full && (!look || direct) then s.pullEnd core slot n o x bounded it.pair out false
  else
    match State.pull c pullFuel s c.start it.dm1 with
    | (s, p, .val v) =>
      if look && c.passed p.cur then s.pullEnd core slot n o x bounded it.pair out true
      else if full then s.pullEnd core slot n o x bounded it.pair out false
      else
        let s := s.commitPull c n (p.settle c.topf 0 it.dm1)
        let fromTop : Bool := match c.topf with
          | some f => half (p.cur.getD f (0, 0)).2 0 != half (c.start.cur.getD f (0, 0)).2 0
          | none => false
        s.pullKeep core slot o (out ++ [v]) false (bounded && fromTop) []
    | (s, p, .drop j) =>
      if look && c.passed p.cur then s.pullEnd core slot n o x bounded it.pair out true
      else (s.commitPull c n (p.settle c.topf (c.shape.getD j (0, false)).1 j)).pullKeep core slot o out false look []
    | (s, _, .ended) =>
      (s.modIter core n fun i => { i with exh := true }).pullEnd core slot n o x bounded it.pair out look
    | (s, p, .need va k) =>
      if look && c.passed p.cur then s.pullEnd core slot n o x bounded it.pair out true
      else (match s.request (EngReq.packet (.read va k)) (.lane core slot o.id (maskOf [(lanesOf o.act).headD 0])) core with
      | (s, .error e) => s.pullBreak core slot n o e va
      | (s, .ok tag) =>
        let accs := o.accs.map fun (a : Acc) => { a with va := va, data := k, st := AccSt.sent tag }
        s.setOp core slot { o with accs := accs })
    | (s, p, .fault e va) =>
      if look && c.passed p.cur then s.pullEnd core slot n o x bounded it.pair out true
      else if e.replayable then
        let f := s.addFault
          { va := va, cause := e, source := 0, flags := faultFlags true .read false, unit := slot, core := core
            asid := t.asid, lanes := maskOf [(lanesOf o.act).headD 0], fseq := 0 }
        let accs := o.accs.map fun (a : Acc) => { a with va := va, st := AccSt.stalled f.2 }
        f.1.setOp core slot { o with accs := accs }
      else s.pullBreak core slot n o e va

/-- A NEXT in flight goes on by one step, in its turn (R264, R268). A stalled read that ended through REPLAY_FAIL breaks
the iterator. -/
def State.pullEvent (s : State) (core slot id : Nat) : State :=
  match s.findOp core slot id with
  | none => s
  | some (o, w, t) =>
    match nextArgs o.instr, o.aux with
    | some (x, bounded), .pull out stop look got =>
      (match t.iter (iterNo x) with
      | none => s
      | some n =>
        let it := (s.core core).iter n
        if (s.core core).pulling w.team (iterNo x) o.serial then s
        else match o.accs.find? fun a => a.st.bad with
          | some a => (match a.st with
            | .failed c => s.pullBreak core slot n o c a.va
            | _ => s)
          | none =>
            if o.accs.any fun a => match a.st with | .stalled _ | .sent _ => true | _ => false then s
            else if it.brk then s.pullBreak core slot n o .iteratorInvalid 0
            else if stop || it.exh || it.ended then s.pullEnd core slot n o x bounded it.pair out stop
            else s.pullStep core slot n t o x bounded out look got)
    | _, _ => s

/-- A peer's answer to a pull's read behind the aperture. -/
def State.pullReply (s : State) (core slot id tag : Nat) (res : Except Cause (List Byte)) : State :=
  match s.findOp core slot id with
  | none => s
  | some (o, _, t) =>
    match nextArgs o.instr, o.aux, o.accs.find? fun a => a.st == .sent tag with
    | some (x, _), .pull out stop look got, some a =>
      (match t.iter (iterNo x), res with
      | some n, .error c => s.pullBreak core slot n o c a.va
      | _, .ok bs =>
        let v := leNat ((bs.drop (a.va % 64)).take a.data)
        let accs := o.accs.map fun (b : Acc) => { b with st := AccSt.todo }
        s.setOp core slot { o with accs := accs, aux := .pull out stop look (got ++ [(a.va, v)]) }
      | none, _ => s)
    | _, _, _ => s

/-! ### The other iterator instructions -/

/-- ITOPEN (R262). -/
def execItopen (x : EngArgs) (s : State) : Host.Outcome State Fault Refusal :=
  runLane s (.itopen x) fun y =>
    let d := x.imm.toNat / 2 ^ 4 % 8 + 1
    let base := (y.x.warp.vv x.va.toNat y.low).toNat
    let free := match y.x.team.iter (iterNo x) with
      | some n => (y.x.core.iter n).free
      | none => false
    match stackCheck y.x.core y.x.team base d free, y.x.team.iter (iterNo x) with
    | .error e, _ => s.laneFault y e.1 y.low (BitVec.ofNat 54 e.2)
    | .ok _, none => s
    | .ok sh, some n =>
      let s := s.modCore y.x.who.core fun k => k.setLive (y.x.team.lmBase + base) d true true
      (s.modIter y.x.who.core n fun _ =>
        { Iter.reset with opn := true, pair := (sh.getD (d - 1) (0, false)).2, dm1 := d - 1, base := base }).dispatched y

/-- A bounded pull has stopped at the end of a range, and its NEXT has still to land (R265, R269). -/
def State.pullStopped (s : State) (core n : Nat) (t : Team) (stop look : Bool) : Bool :=
  stop || (look && !(s.pullCtx core t ((s.core core).iter n) []).rangeOpen)

/-- A NEXT in flight on an iterator that ENOUGH ends lands with the values committed so far, and BND where its pull had stopped
(R264, R265). -/
def State.pullCut (s : State) (core n : Nat) (r : Nat × Nat) : State :=
  match s.findOp core r.1 r.2 with
  | none => s
  | some (o, _, t) =>
    match nextArgs o.instr, o.aux with
    | some (x, bounded), .pull out stop look _ =>
      s.pullEnd core r.1 n o x bounded ((s.core core).iter n).pair out (s.pullStopped core n t stop look)
    | _, _ => s

/-- The NEXTs of a team in flight on an iterator, as (slot, operation), in the order of their dispatch. -/
def Core.pulls (k : Core) (team n : Nat) : List (Nat × Nat) :=
  let ps := k.warps.flatMap fun w =>
    if w.2.team = team then (w.2.ops.filter (·.pullsOn n)).map fun o => (o.serial, w.1, o.id) else []
  ((sortAsc (ps.map (·.1))).filterMap fun n => ps.find? (·.1 == n)).map (·.2)

/-- ENOUGH: the iterator ends, and every NEXT in flight on it with the values committed so far (R265). An object whose word of
LIVE cannot be read raises MEMORY_UNCORRECTABLE and nothing ends (R83; log 98). -/
def execEnough (x : EngArgs) (s : State) : Host.Outcome State Fault Refusal :=
  runLane s (.enough x) fun y =>
    match y.x.team.iter (iterNo x) with
    | none => s.laneFault y .iteratorInvalid y.low 0
    | some n =>
      let c := y.x.who.core
      let it := y.x.core.iter n
      if it.free then s.dispatched y
      else if (s.pullCtx c y.x.team it []).bad y.x.core then s.laneFault y .memoryUncorrectable y.low (BitVec.ofNat 54 it.base)
      else
        let s := s.modCore c fun k => k.setLive (y.x.team.lmBase + it.base) (it.dm1 + 1) false false
        let s := ((s.core c).pulls y.x.warp.team (iterNo x)).foldl (fun s r => s.pullCut c n r) s
        (s.modIter c n fun i => { i with ended := true, carry := [] }).dispatched y

/-- The 320-byte image of an iterator with an OPEN bit (R266). -/
def Iter.imageWith (i : Iter) (opn : Bool) : List Byte :=
  let bit (b : Bool) (k : Nat) : Nat := if b then 2 ^ k else 0
  let w0 := bit opn 63 + bit i.exh 62 + bit i.ended 61 + bit i.brk 60 + bit i.bnd 59 + bit i.pair 58 +
    i.dm1 % 8 * 2 ^ 55 + i.cw % 32 * 2 ^ 50 + i.carry.length % 64 * 2 ^ 44 + i.base % 2 ^ 20
  let body := i.carry.flatMap fun v => if i.pair then leBytes 4 v.1.toNat ++ leBytes 4 v.2.toNat else leBytes 4 v.1.toNat
  (leBytes 8 w0 ++ leBytes 8 i.ranges.toNat ++ List.replicate 48 0 ++ body ++ List.replicate 256 0).take 320

/-- The image ITSAVE writes: a free iterator has OPEN clear (R266). -/
def Iter.image (i : Iter) : List Byte := i.imageWith (!i.free)

/-- ITSAVE (R266). -/
def execItsave (x : EngArgs) (s : State) : Host.Outcome State Fault Refusal :=
  runLane s (.itsave x) fun y =>
    let off := (y.x.warp.vv x.va.toNat y.low).toNat
    match y.x.team.iter (iterNo x) with
    | none => s.laneFault y .iteratorInvalid y.low 0
    | some n =>
      if y.x.team.lmSize < off + 320 then s.laneFault y .lmOutOfRange y.low (BitVec.ofNat 54 off)
      else (s.modCore y.x.who.core fun k => k.lmPut (y.x.team.lmBase + off) (k.iter n).image).dispatched y

/-- An iterator from its image (R266). -/
def iterOfImage (bs : List Byte) : Iter :=
  let w0 := leNat (bs.take 8)
  let pair := bitAt w0 58
  let word (k : Nat) : Word := BitVec.ofNat 32 (leNat ((bs.drop (64 + 4 * k)).take 4))
  { opn := bitAt w0 63, exh := bitAt w0 62, ended := bitAt w0 61, brk := bitAt w0 60, bnd := bitAt w0 59, pair := pair
    dm1 := w0 / 2 ^ 55 % 8, cw := w0 / 2 ^ 50 % 32
    carry := (List.range (w0 / 2 ^ 44 % 64)).map fun k => if pair then (word (2 * k), word (2 * k + 1)) else (word k, 0)
    base := w0 % 2 ^ 20, ranges := BitVec.ofNat 32 (leNat ((bs.drop 8).take 4)) }

/-- An image's own checks (R266). -/
def imageOk (bs : List Byte) : Bool :=
  let w0 := leNat (bs.take 8)
  w0 / 2 ^ 20 % 2 ^ 24 == 0 && leNat ((bs.drop 12).take 52) == 0 && w0 / 2 ^ 44 % 64 ≤ 32

/-- ITLOAD (R266): the image must lie at a multiple of 32 in the partition, as its objects must (R262; log 79). -/
def execItload (x : EngArgs) (s : State) : Host.Outcome State Fault Refusal :=
  runLane s (.itload x) fun y =>
    let off := (y.x.warp.vv x.va.toNat y.low).toNat
    if off % 32 != 0 then s.laneFault y .misaligned y.low (BitVec.ofNat 54 off)
    else if y.x.team.lmSize < off + 320 then s.laneFault y .lmOutOfRange y.low (BitVec.ofNat 54 off)
    else match y.x.core.lmRead (y.x.team.lmBase + off) 320 with
      | .error c => s.laneFault y c y.low (BitVec.ofNat 54 off)
      | .ok bs =>
        let i := iterOfImage bs
        let free := match y.x.team.iter (iterNo x) with
          | some n => (y.x.core.iter n).free
          | none => false
        match stackCheck y.x.core y.x.team i.base (i.dm1 + 1) free, y.x.team.iter (iterNo x) with
        | .error e, _ => s.laneFault y e.1 y.low (BitVec.ofNat 54 e.2)
        | .ok _, none => s
        | .ok sh, some n =>
          if imageOk bs && i.pair == (sh.getD i.dm1 (0, false)).2 then
            let s := s.modCore y.x.who.core fun k => k.setLive (y.x.team.lmBase + i.base) (i.dm1 + 1) true false
            (s.modIter y.x.who.core n fun _ => i).dispatched y
          else s.laneFault y .iteratorInvalid y.low 0

/-- ITSTAT's word (R267). -/
def Iter.stat (i : Iter) : Word :=
  let bit (b : Bool) (k : Nat) : Nat := if b then 2 ^ k else 0
  BitVec.ofNat 32 (bit i.opn 0 + bit i.exh 1 + bit i.ended 2 + bit i.brk 3 + bit i.bnd 4 + i.carry.length % 64 * 2 ^ 8 +
    i.ranges.toNat % 2 ^ 16 * 2 ^ 16)

/-- ITSTAT: after every NEXT dispatched before it has completed (R267). -/
def execItstat (x : EngArgs) (s : State) : Host.Outcome State Fault Refusal :=
  runLane s (.itstat x) fun y =>
    match y.x.team.iter (iterNo x) with
    | none => s.laneFault y .iteratorInvalid y.low 0
    | some n =>
      if y.x.core.pulling y.x.warp.team (iterNo x) y.x.core.serial then s.laneHold y .operand
      else
        (s.modWarp y.x.who.core y.x.who.slot fun w => w.setG x.g (y.x.core.iter n).stat).dispatched y

/-! ### Loads land; what is done at home is done -/

/-- LOAD_DATA_LANDS: lanes of a load are performed and written, and the load ends with its last lane (R7, R58); a STRAG
reads its members (R256); a NEXT goes on by one value (R264). -/
def execLoadDataLands (core slot op : Nat) (lanes : Lanes) (s : State) : Host.Outcome State Fault Refusal :=
  .next <| match s.findOp core slot op with
  | some (o, _, _) =>
    (match o.instr with
    | .ldc _ => s.clusterLanes core slot op (lanesOf lanes)
    | .strag _ => s.stragLanes core slot op (lanesOf lanes)
    | .next _ | .nextBounded _ => s.pullEvent core slot op
    | _ => s.loadEvent core slot op lanes)
  | none => s

/-- ATOMIC_AT_HOME: lanes of an atomic are performed at home (R219), or a claim makes its next access there (R250, R251,
R257 to R259). -/
def execAtomicAtHome (core slot op : Nat) (lanes : Lanes) (s : State) : Host.Outcome State Fault Refusal :=
  .next <| match s.findOp core slot op with
  | some (o, _, _) => if isClaim o.instr then s.claimStep core slot op else s.atomicEvent core slot op lanes
  | none => s

end Sys2Proof.Machine
end

