-- ==== Sys2Proof/Machine/Cycle.lean ====
section
/-! DEFINITION. One advance of CLOCK and what counts with it (R64, R131, R138, R139, R190, R236). -/

namespace Sys2Proof.Machine

/-- A quadrant's sampling counter falls by 1 while sampling is on and the counter is not 0 (R139). -/
def Quad.tick (on : Bool) (q : Quad) : Quad :=
  if on && q.counter != 0 then { q with counter := q.counter - 1 } else q

/-- YIELD holds its split through the cycle after the one it issues in (R190). -/
def Split.tick (sp : Split) : Split :=
  match sp.wait with
  | .yielded true => { sp with wait := .yielded false }
  | .yielded false => { sp with wait := .run }
  | _ => sp

/-- RESID counts the cycles a team is placed (R138). -/
def Team.tick (t : Team) : Team := { t with resid := t.resid + 1 }

/-- One core cycle of a core: the array's current pass, the barrier port's order, YIELD, RESID. -/
def Core.tick (k : Core) : Core :=
  { k with
    mmaBusy := k.mmaBusy - 1
    portLast := none
    teams := k.teams.map fun t => (t.1, t.2.tick)
    warps := k.warps.map fun w => (w.1, { w.2 with splits := w.2.splits.map fun e => (e.1, e.2.tick) }) }

/-- One advance of CLOCK. -/
def State.tick (s : State) : State :=
  { s with clock := s.clock + 1, cores := s.cores.map fun c => (c.1, c.2.tick) }

/-- A cycle: what ended the last one, one advance of CLOCK, and the issue of every quadrant (R26, R64). -/
def State.cycle (s : State) : State := { s with agenda := s.late ++ [.tick, .issue] ++ s.agenda, late := [] }

end Sys2Proof.Machine
end

