-- ==== Sys2Proof/Machine/Flags.lean ====
section
/-! DEFINITION. Conditions: the branch conditions of R167, the vote over lanes of R176, and the integer relations that
CMP and ICMP share (R173, R198). This hardware has no status flags; its completion flags are counters (R58). -/

namespace Sys2Proof.Machine

/-- 1 where a relation holds, else 0 (R173, R198). -/
def boolWord (b : Bool) : Word := if b then 1 else 0

/-- BR's condition of a g value (R167). -/
def brTaken (c : BrCond) (g : Word) : Bool :=
  match c with
  | .always => true
  | .z => g == 0
  | .nz => g != 0
  | .ltz => g.slt 0
  | .gez => !g.slt 0
  | .gtz => (0 : Word).slt g
  | .lez => !(0 : Word).slt g

/-- The lanes of a mask in which bit 0 of a lane register is 1. -/
def voteLanes (w : Warp) (v : Nat) (m : Lanes) : List Nat := (lanesOf m).filter fun l => (w.vv v l).getLsbD 0

/-- BRL's condition over bit 0 of a lane register in the lanes of EXEC (R167). -/
def brlTaken (c : BrlCond) (w : Warp) (v : Nat) (m : Lanes) : Bool :=
  let n := (voteLanes w v m).length
  let total := (lanesOf m).length
  match c with
  | .any => n != 0
  | .all => n == total
  | .none => n == 0
  | .notall => n != total

/-- VOTE's result (R176). -/
def voteWord (c : VoteMode) (w : Warp) (v : Nat) (m : Lanes) : Word :=
  let ls := voteLanes w v m
  match c with
  | .ballot => maskOf ls
  | .any => boolWord (ls.length != 0)
  | .all => boolWord (ls.length == (lanesOf m).length)
  | .count => BitVec.ofNat 32 ls.length

/-- ICMP's condition (R198). -/
def icmpHolds (q : Nat) (a b : Word) : Bool :=
  match q with
  | 0 => a == b
  | 1 => a != b
  | 2 => a.slt b
  | 3 => a.sle b
  | 4 => b.slt a
  | 5 => b.sle a
  | 6 => a.ult b
  | 7 => a.ule b
  | 8 => b.ult a
  | _ => b.ule a

/-- Set bits of a word (R173, R197). -/
def popcount (a : Word) : Word := BitVec.ofNat 32 ((List.range 32).filter a.getLsbD).length

/-- Leading zero bits of a word, 32 for zero (R173, R197). -/
def leadingZeros (a : Word) : Word := BitVec.ofNat 32 (if a = 0 then 32 else 31 - Nat.log2 a.toNat)

/-- Bits [63:32] of the signed product (R173, R196). -/
def mulHighS (a b : Word) : Word := BitVec.ofInt 32 (a.toInt * b.toInt / 2 ^ 32)

/-- Bits [63:32] of the unsigned product (R173, R196). -/
def mulHighN (a b : Word) : Word := BitVec.ofNat 32 (a.toNat * b.toNat / 2 ^ 32)

/-- The smaller, signed. -/
def minS (a b : Word) : Word := if b.slt a then b else a

/-- The larger, signed. -/
def maxS (a b : Word) : Word := if a.slt b then b else a

/-- The smaller, unsigned. -/
def minN (a b : Word) : Word := if b.ult a then b else a

/-- The larger, unsigned. -/
def maxN (a b : Word) : Word := if a.ult b then b else a

/-- A shift amount: the low five bits (R173, R197). -/
def shiftAmt (b : Word) : Nat := b.toNat % 32

end Sys2Proof.Machine
end

