-- ==== Sys2Proof/Machine/ScalarMem.lean ====
section
/-! DEFINITION. Scalar loads and stores, lane values into g registers, team registers and EXEC (R60, R175 to R179). -/

namespace Sys2Proof.Machine

/-- The address of LDG and STG: the pair plus the signed immediate, modulo 2^54 (R175). -/
def scalarAddr (w : Warp) (a : GReg) (i : BitVec 14) : VAddr := w.gPair a + i.signExtend 54

/-- A scalar access through the fabric aperture: one packet, and the split waits for its reply (R141, R175, R319). -/
def State.scalarFabric (s : State) (x : Ctx) (p : Packet) (va : VAddr) (w : Nat → Wait) : State :=
  match s.request p (.scalar x.who.core x.who.slot x.who.entry) x.who.core with
  | (s, .error c) => s.scalarFault x c va
  | (s, .ok tag) => s.hold x (w tag)

/-- The lane form of a scalar access, for its packet. -/
def scalarAcc (va data : Nat) : Acc :=
  { lane := 0, va := va, pa := 0, cnt := false, path := .fabric, data := data, cmp := 0, en := 15, ret := 0,
    st := .todo }

/-- LDG: one aligned 32-bit word into gd; the split waits for it (R175). -/
def execLdg (d a : GReg) (i : BitVec 14) (s : State) : Host.Outcome State Fault Refusal :=
  runScalar s (.ldg d a i) fun x =>
    let va := scalarAddr x.warp a i
    if va.toNat % 4 ≠ 0 then s.scalarFault x .misaligned va
    else if inAperture va.toNat then
      s.scalarFabric x (lanePacket 1 0 4 2 0 false false [scalarAcc va.toNat 0]) va fun t => .fabric t (some d)
    else match s.translate x.who.core x.team.asid x.team.priv va.toNat .read with
      | (s, .error c) => s.scalarMemFault x c va.toNat .read
      | (s, .ok p) => match s.loadAt x.who.core p 4 with
        | (s, .error c) => s.scalarFault x c va
        | (s, .ok v) => s.result x d (BitVec.ofNat 32 v)

/-- STG: one aligned 32-bit word of gd, performed before the split's next scalar instruction (R142, R175). -/
def execStg (d a : GReg) (i : BitVec 14) (s : State) : Host.Outcome State Fault Refusal :=
  runScalar s (.stg d a i) fun x =>
    let va := scalarAddr x.warp a i
    let v := (x.warp.gv d).toNat
    if va.toNat % 4 ≠ 0 then s.scalarFault x .misaligned va
    else if inAperture va.toNat then
      s.scalarFabric x (lanePacket 2 0 4 2 0 true false [scalarAcc va.toNat v]) va fun t => .fabric t none
    else match s.translate x.who.core x.team.asid x.team.priv va.toNat .write with
      | (s, .error c) => s.scalarMemFault x c va.toNat .write
      | (s, .ok p) =>
        match s.storeAt x.who.core x.warp.team x.team.asid x.team.priv va.toNat p 4 v (allBytes 4) with
        | (s, .error (c, b)) => s.scalarMemFault x c b .write
        | (s, .ok _) => s.advance x

/-- VOTE: bit 0 of a lane register over the lanes of EXEC (R176). -/
def execVote (d : GReg) (v : VReg) (m : VoteMode) (s : State) : Host.Outcome State Fault Refusal :=
  runScalar s (.vote d v m) fun x => s.result x d (voteWord m x.warp v.toNat x.split.exec)

/-- MOVG: one lane's value with its residue, in EXEC or not (R177). -/
def execMovg (d : GReg) (v : VReg) (l : BitVec 5) (s : State) : Host.Outcome State Fault Refusal :=
  runScalar s (.movg d v l) fun x =>
    (s.modWarp x.who.core x.who.slot fun w => w.setGCell d (x.warp.v_ v.toNat l.toNat)).advance x

/-- RDT: a team register into gd (R178). -/
def execRdt (d : GReg) (t : BitVec 5) (s : State) : Host.Outcome State Fault Refusal :=
  runScalar s (.rdt d t) fun x => s.result x d (x.team.ts_ t.toNat).val

/-- WRT: ga into a team register (R178). -/
def execWrt (t : BitVec 5) (a : GReg) (s : State) : Host.Outcome State Fault Refusal :=
  runScalar s (.wrt t a) fun x =>
    (s.modTeam x.who.core x.warp.team fun m => m.setTs t.toNat (x.warp.gv a)).advance x

/-- RDX: EXEC into gd (R179). -/
def execRdx (d : GReg) (s : State) : Host.Outcome State Fault Refusal :=
  runScalar s (.rdx d) fun x => s.result x d x.split.exec

/-- The lanes a split may enable: its own, and inside a call sequence those of the running group, since no other lane
executes until it is restored (R60, R187; log 14). -/
def Split.ownLanes (sp : Split) : Lanes :=
  match sp.seq with
  | some q => sp.lanes &&& q.group
  | none => sp.lanes

/-- The lanes a WRX may enable: those of the split, but in an open call sequence those guarded off and those of later groups,
which do not execute until they are restored (R60, R179, R187). -/
def Split.execLanes (sp : Split) : Lanes :=
  match sp.seq with
  | some q => sp.lanes &&& ~~~ (q.off ||| maskOf (q.left.map (·.1)))
  | none => sp.lanes

/-- WRX: EXEC becomes ga where that is nonzero and holds only lanes of the split (R60, R179). -/
def execWrx (a : GReg) (s : State) : Host.Outcome State Fault Refusal :=
  runScalar s (.wrx a) fun x =>
    let v := x.warp.gv a
    if v = 0 || v &&& ~~~ x.split.execLanes != 0 then s.scalarFault x .reservedField 0
    else (s.advance x).modSplit x.who fun sp => { sp with exec := v }

end Sys2Proof.Machine
end

