-- ==== Sys2Proof/Machine/Control.lean ====
section
/-! DEFINITION. Control flow of the scalar stream: branches, divergence and reconvergence, calls, issuing clauses,
waiting and exit (R24, R25, R180 to R193). -/

namespace Sys2Proof.Machine

/-! ### Branches -/

/-- A target a signed number of words from SPC (R158). -/
def wordTarget {n : Nat} (pc : VAddr) (o : BitVec n) : VAddr := pc + o.signExtend 54 * 4

/-- BR: taken under a condition of a g register, for the whole split (R180). -/
def execBr (c : BrCond) (g : GReg) (o : BitVec 14) (s : State) : Host.Outcome State Fault Refusal :=
  runScalar s (.br c g o) fun x =>
    if brTaken c (x.warp.gv g) then s.goto x (wordTarget x.split.spc o) else s.advance x

/-- BRL: taken under a condition of bit 0 of a lane register over EXEC (R180). -/
def execBrl (c : BrlCond) (v : VReg) (o : BitVec 14) (s : State) : Host.Outcome State Fault Refusal :=
  runScalar s (.brl c v o) fun x =>
    if brlTaken c x.warp v.toNat x.split.exec then s.goto x (wordTarget x.split.spc o) else s.advance x

/-- LOOP: decrement, and branch back while nonzero (R181). -/
def execLoop (g : GReg) (o : BitVec 14) (s : State) : Host.Outcome State Fault Refusal :=
  runScalar s (.loop g o) fun x =>
    let v := x.warp.gv g - 1
    let s := s.modWarp x.who.core x.who.slot fun w => w.setG g v
    if v = 0 then s.advance x else s.goto x (wordTarget x.split.spc o)

/-- JMP (R182). -/
def execJmp (i : BitVec 20) (s : State) : Host.Outcome State Fault Refusal :=
  runScalar s (.jmp i) fun x => s.goto x (wordTarget x.split.spc i)

/-- JMPR: to the pair's address, which must be word aligned (R182). -/
def execJmpr (a : GReg) (s : State) : Host.Outcome State Fault Refusal :=
  runScalar s (.jmpr a) fun x =>
    let t := x.warp.gPair a
    if t.toNat % 4 ≠ 0 then s.scalarFault x .misaligned 0 else s.goto x t

/-! ### Leaving and merging -/

/-- A split entry of a warp. -/
def Warp.entry (w : Warp) (e : Nat) : Option Split := amFind w.splits e

/-- The trap latch is released where the given entry holds it (R272). -/
def Warp.freeLatch (w : Warp) (e : Nat) : Warp := if w.latch = some e then { w with latch := none } else w

/-- The live splits of a call group (R187). -/
def Warp.groupSplits (w : Warp) (id : Nat) : List (Nat × Split) :=
  w.splits.filter fun e => e.2.live && (match e.2.seq with | some q => q.id == id | none => false)

/-- An entry gives up its split to the one that keeps the merge, and is free (R25). What its operations in flight and its
recorded traps concern is the merged split's from then on (R171, R280). -/
def Warp.giveUp (w : Warp) (e keep : Nat) : Warp :=
  match w.entry e with
  | none => w
  | some old =>
    let w := w.modSplit keep fun sp => { sp with pend := sp.pend ++ old.pend }
    let w := w.modSplit e fun sp =>
      { sp with live := false, lanes := 0, exec := 0, jw := false, atEnd := false, wait := .run, pend := [] }
    let w := if w.latch = some e then { w with latch := some keep } else w
    (w.recharge e keep).sweep e

/-- The next target group of a sequence: the lowest lane left, and every lane with its target (R187). -/
def nextGroup (left : List (Nat × VAddr)) : Option (Lanes × VAddr × List (Nat × VAddr)) :=
  match left with
  | [] => none
  | (_, t) :: _ => some (maskOf ((left.filter (·.2 == t)).map (·.1)), t, left.filter (·.2 != t))

/-- What a sequence does once every split of its running group has reached the end: its next group starts, or EXEC is
restored without the lanes that left and SPC is the address it returns to (R187). -/
def Split.nextOf (sp : Split) (q : CallSeq) : Split :=
  match nextGroup (q.left.filter fun p => laneIn sp.lanes p.1) with
  | some (m, t, rest) =>
    { sp with exec := m, spc := t, atEnd := false, jw := false, wait := .run
              seq := some { q with group := m, left := rest } }
  | none =>
    let e := q.save &&& sp.lanes
    { sp with exec := if e = 0 then sp.lanes else e
              spc := q.back, atEnd := false, jw := false, wait := .run, seq := none }

/-- Where every split of a call group waits at its end, they become one, and the sequence goes on (R187). Like a merge at a
JOIN (R25), the one of several splits waits until the queue of each entry that it frees has dispatched. -/
def Warp.endGroup (w : Warp) (id : Nat) : Warp :=
  match w.groupSplits id with
  | [] => w
  | (e, sp) :: rest =>
    if ((e, sp) :: rest).all (fun p => p.2.atEnd) && rest.all fun p => p.2.cq.isEmpty && p.2.pend.isEmpty then
      match sp.seq with
      | none => w
      | some q =>
        let lanes := rest.foldl (fun m p => m ||| p.2.lanes) sp.lanes
        let w := rest.foldl (fun w p => w.giveUp p.1 e) w
        w.modSplit e fun sp => { sp with lanes := lanes }.nextOf q
    else w

/-- The LIVE of an origin entry falls by 1 as a member of its family arrives or leaves (R102; log 13). -/
def Warp.lowerLive (w : Warp) (e : Nat) (origin : BitVec 5) : Warp :=
  if origin.toNat = e then w
  else w.modSplit origin.toNat fun sp => { sp with liveCount := if sp.liveCount = 0 then 0 else sp.liveCount - 1 }

/-- A split arrives at the JOIN of its family: its origin entry's LIVE falls where it counts the split there (R102; log 13). -/
def Warp.arriveLive (w : Warp) (e : Nat) (sp : Split) : Warp := if sp.counted then w.lowerLive e sp.origin else w

/-- A split's last lanes leave: it counts as arrived in its family, and with the last member of an inner family the member of the
outer one that opened it does too (R25, R102, R185; log 13). -/
def Warp.leaveLive (w : Warp) (e : Nat) (sp : Split) : Warp :=
  let last := w.splits.all fun p => p.1 == e || !p.2.live || p.2.fam != sp.fam
  let outer := if sp.counted then sp.out else (sp.origin, sp.orgFam)
  let w := w.arriveLive e sp
  if sp.jsave != 0 && last && outer.2 == sp.famSave then w.lowerLive e outer.1 else w

/-- A split's lanes leave (R187, R193): all of them, or inside a call group those of the group. A split that holds
other lanes of the sequence waits at the group's end. The trap latch is free once its holder has no lane left (R272). -/
def Warp.leave (w : Warp) (e : Nat) : Warp :=
  match w.entry e with
  | none => w
  | some sp =>
    let keep := sp.lanes &&& ~~~ sp.ownLanes
    let w :=
      if keep = 0 then
        (((w.leaveLive e sp).freeLatch e).modSplit e fun sp =>
          { sp with live := false, lanes := 0, exec := 0, jw := false, atEnd := false, wait := .run }).sweep e
      else w.modSplit e fun sp => { sp with lanes := keep, exec := 0, atEnd := true, wait := .join }
    match sp.seq with
    | some q => w.endGroup q.id
    | none => w

/-- A split counts as arrived for a merge of a family: it waits at the JOIN, it has left, or its group lanes have all
left, its queue has dispatched, and no trap of it is still to be taken, for which it leaves the JOIN (R25, R171, R185,
R187). -/
def Split.arrived (sp : Split) (fam : Nat) : Bool :=
  (!sp.live || (sp.jw && sp.fam == fam) || (sp.atEnd && sp.exec == 0)) && sp.cq.isEmpty && sp.pend.isEmpty

/-- The entries of a family: its members, and members that have an inner family open (R185). -/
def Warp.family (w : Warp) (fam : Nat) : List (Nat × Split) :=
  w.splits.filter fun p => p.2.fam == fam || p.2.famSave == fam

/-- The merge of a family at its JOIN (R25, R185): the lowest arrived entry keeps it. EXEC becomes all of its lanes but, in an open
call sequence, those that R187 keeps from executing (log 14). It stands in the outer family for the member that opened this
one (log 13). -/
def Warp.mergeFamily (w : Warp) (fam : Nat) : Warp :=
  let ms := w.family fam
  if fam != 0 && ms.all (·.2.arrived fam) then
    match ms.filter fun p => p.2.live && p.2.jw with
    | [] => w
    | (e, sp) :: _ =>
      let lanes := ms.foldl (fun m p => m ||| p.2.lanes) 0
      let w := (ms.filter (·.1 != e)).foldl (fun w p => w.giveUp p.1 e) w
      w.modSplit e fun _ =>
        let sp := { sp with lanes := lanes }
        let org := if sp.counted then sp.out else (sp.origin, sp.orgFam)
        { sp with exec := sp.execLanes, spc := sp.jpc + 4, jpc := sp.jsave, jsave := 0, fam := sp.famSave, famSave := 0
                  origin := org.1, orgFam := org.2, out := sp.outSave, outSave := (0, 0), jw := false, wait := .run }
  else w

/-! ### Divergence (R183 to R185) -/

/-- The lowest free entry of a split table (R25). -/
def Warp.freeEntry (w : Warp) : Nat := ((List.range 32).find? fun e => (w.entry e).isNone).getD 31

/-- SPLIT: lanes of EXEC whose bit is 1 go to the target; both sides nonempty divides the split (R183). -/
def execSplit (v : VReg) (o : BitVec 14) (s : State) : Host.Outcome State Fault Refusal :=
  runScalar s (.split v o) fun x =>
    let t := maskOf (voteLanes x.warp v.toNat x.split.exec)
    let e := x.split.exec &&& ~~~ t
    if e = 0 then s.goto x (wordTarget x.split.spc o)
    else if t = 0 then s.advance x
    else
      let n := x.warp.freeEntry
      let child : Split :=
        { newSplit0 with
          lanes := t, exec := t, spc := wordTarget x.split.spc o, lk := x.split.lk, jpc := x.split.jpc
          jsave := x.split.jsave, origin := BitVec.ofNat 5 x.who.entry, fam := x.split.fam, famSave := x.split.famSave
          orgFam := x.split.fam, out := (if x.split.counted then x.split.out else (x.split.origin, x.split.orgFam))
          outSave := x.split.outSave, seq := x.split.seq }
      (s.advance x).modWarp x.who.core x.who.slot fun w =>
        let w := w.modSplit x.who.entry fun sp =>
          { sp with lanes := sp.lanes &&& ~~~ t, exec := e, liveCount := sp.liveCount + 1 }
        { w with splits := amPut w.splits n child }

/-- JOINAT: opens a family of the executing split alone (R184). -/
def execJoinat (o : BitVec 14) (s : State) : Host.Outcome State Fault Refusal :=
  runScalar s (.joinat o) fun x =>
    if x.split.jsave != 0 then s.scalarFault x .reservedField 0
    else
      (s.advance x).modWarp x.who.core x.who.slot fun w =>
        let w := w.modSplit x.who.entry fun sp =>
          { sp with jsave := sp.jpc, jpc := wordTarget x.split.spc o, famSave := sp.fam, fam := w.nextId
                    outSave := if sp.counted then sp.out else (sp.origin, sp.orgFam) }
        { w with nextId := w.nextId + 1 }

/-- JOIN: the split waits for its family, or inside a JMPV group for the rest of the group (R185, R187). -/
def execJoin (s : State) : Host.Outcome State Fault Refusal :=
  runScalar s .join fun x =>
    let pc := x.split.spc
    let ends : Bool := match x.split.seq with
      | some q => q.jpc != 0 && q.jpc == pc
      | none => false
    let callV : Bool := match x.split.seq with
      | some q => q.kind == .callV
      | none => false
    if ends then
      if callV then s.scalarFault x .reservedField 0
      else
        (s.count x).modWarp x.who.core x.who.slot fun w =>
          let w := w.modSplit x.who.entry fun sp => { sp with atEnd := true, wait := .join }
          match x.split.seq with
          | some q => w.endGroup q.id
          | none => w
    else if x.split.jpc = 0 || x.split.jpc != pc then s.scalarFault x .reservedField 0
    else
      (s.count x).modWarp x.who.core x.who.slot fun w =>
        (w.modSplit x.who.entry fun sp => { sp with jw := true, wait := .join }).arriveLive x.who.entry x.split

/-- JOIN_MERGE: a family whose members have all arrived, or a call group whose splits have all reached its end, becomes one
split (R25, R185, R187). -/
def execJoinMerge (core slot fam : Nat) (s : State) : Host.Outcome State Fault Refusal :=
  .next (s.modWarp core slot fun w => (w.mergeFamily fam).endGroup fam)

/-! ### Calls (R186, R187) -/

/-- CALL: LK becomes the return address (R186); refused inside a call sequence (R187). -/
def execCall (i : BitVec 20) (s : State) : Host.Outcome State Fault Refusal :=
  runScalar s (.call i) fun x =>
    if x.split.seq.isSome then s.scalarFault x .reservedField 0
    else (s.goto x (wordTarget x.split.spc i)).modSplit x.who fun sp => { sp with lk := x.split.spc + 4 }

/-- CALLR: a zero pair is a call guarded off (R186). -/
def execCallr (a : GReg) (s : State) : Host.Outcome State Fault Refusal :=
  runScalar s (.callr a) fun x =>
    let t := x.warp.gPair a
    if x.split.seq.isSome then s.scalarFault x .reservedField 0
    else if t = 0 then s.advance x
    else if t.toNat % 4 ≠ 0 then s.scalarFault x .misaligned 0
    else (s.goto x t).modSplit x.who fun sp => { sp with lk := x.split.spc + 4 }

/-- RET: to LK; in a CALLV group, the group's end (R186, R187). -/
def execRet (s : State) : Host.Outcome State Fault Refusal :=
  runScalar s .ret fun x =>
    match x.split.seq with
    | some ⟨id, .callV, _, _, _, _, _, _⟩ =>
      (s.count x).modWarp x.who.core x.who.slot fun w =>
        (w.modSplit x.who.entry fun sp => { sp with atEnd := true, wait := .join }).endGroup id
    | _ => if x.split.lk = 0 then s.scalarFault x .reservedField 0 else s.goto x x.split.lk

/-- The per-lane targets of CALLV and JMPV over EXEC (R187). -/
def laneTargets (x : Ctx) (v : VReg) : List (Nat × VAddr) :=
  (lanesOf x.split.exec).map fun l => (l, pairVal (x.warp.vv v.toNat l) (x.warp.vv (v.toNat + 1) l))

/-- Open a call sequence over the lanes to run, lowest leading lane first (R187). -/
def State.openSeq (s : State) (x : Ctx) (kind : CallKind) (run : List (Nat × VAddr)) (back : VAddr) : State :=
  match nextGroup run with
  | none => s.advance x
  | some (m, t, rest) =>
    (s.goto x t).modWarp x.who.core x.who.slot fun w =>
      let q : CallSeq :=
        { id := w.nextId, kind := kind, group := m, save := x.split.exec, back := back, jpc := x.split.jpc, left := rest,
          off := x.split.exec &&& ~~~ maskOf (run.map (·.1)) }
      let w := w.modSplit x.who.entry fun sp =>
        { sp with exec := m, seq := some q, lk := if kind = .callV then x.split.spc + 4 else sp.lk }
      { w with nextId := w.nextId + 1 }

/-- CALLV: run the routines of the lanes whose target is nonzero, one target after another (R187). -/
def execCallv (v : VReg) (s : State) : Host.Outcome State Fault Refusal :=
  runScalar s (.callv v) fun x =>
    let run := (laneTargets x v).filter (·.2 != 0)
    if x.split.seq.isSome then s.scalarFault x .reservedField 0
    else if run.any fun p => p.2.toNat % 4 != 0 then s.scalarFault x .misaligned 0
    else s.openSeq x .callV run (x.split.spc + 4)

/-- JMPV: run every lane of EXEC at its target, up to the JOIN at JPC (R187). -/
def execJmpv (v : VReg) (s : State) : Host.Outcome State Fault Refusal :=
  runScalar s (.jmpv v) fun x =>
    let run := laneTargets x v
    if x.split.seq.isSome then s.scalarFault x .reservedField 0
    else if run.any fun p => p.2.toNat % 4 != 0 then s.scalarFault x .misaligned 0
    else s.openSeq x .jmpV run x.split.jpc

/-! ### Clauses, waiting and exit (R188 to R193) -/

/-- The g values of a capture set (R164). -/
def captureCells (w : Warp) (rs : List Nat) : SMap RWord :=
  rs.foldl (fun m r => smPut cellZero m r (w.g_ (BitVec.ofNat 6 r))) []

/-- ISSUE: read and check the clause, wait for pending writes of its capture set, capture, append (R22, R164, R188). -/
def execIssue (n : BitVec 4) (o : BitVec 22) (s : State) : Host.Outcome State Fault Refusal :=
  runScalar s (.issue n o) fun x =>
    match issueRead s x n.toNat o.toNat with
    | (s, .error (c, va)) => s.scalarMemFault x c va .fetch
    | (s, .ok (h, ws)) =>
      let rs := captureSet ws
      if rs.any fun g => x.warp.gPending (BitVec.ofNat 6 g) then s.hold x .pendingWrite
      else match (if s.hasFeature 27 then badG x.warp (rs.map (BitVec.ofNat 6)) else none) with
        | some a => s.scalarFault x .registerCheck a
        | none =>
          (s.advance x).modWarp x.who.core x.who.slot fun w =>
            let c : Clause :=
              { unit := o.toNat, len := n.toNat, header := h, words := ws, next := 0, owed := none, exec := x.split.exec
                gs := captureCells x.warp rs, started := false, serial := w.nextId }
            let w := w.modSplit x.who.entry fun sp => { sp with cq := sp.cq ++ [c] }
            { w with nextId := w.nextId + 1 }

/-- WAITF: completes once earlier clauses naming a flag of the mask have dispatched and the flags read zero (R189). -/
def execWaitf (m : BitVec 12) (s : State) : Host.Outcome State Fault Refusal :=
  runScalar s (.waitf m) fun x => s.advance x

/-- YIELD: the split is no scalar candidate in the next cycle, which begins once this one is over (R190). -/
def execYield (s : State) : Host.Outcome State Fault Refusal :=
  runScalar s .yield fun x => (s.advance x).modSplit x.who fun sp => { sp with wait := .yielded true }

/-- BARWAIT: completes once PHASE differs from p (R191). -/
def execBarwait (o : BitVec 15) (p : Bool) (s : State) : Host.Outcome State Fault Refusal :=
  runScalar s (.barwait o p) fun x =>
    let off := o.toNat * 32
    if x.team.lmSize < off + 32 then s.scalarFault x .lmOutOfRange (BitVec.ofNat 54 off)
    else match x.core.lmRead (x.team.lmBase + off) 8 with
      | .error c => s.scalarFault x c (BitVec.ofNat 54 off)
      | .ok bs => if barDead (leNat bs) then s.scalarFault x .barrierInvalid 0 else s.advance x

/-- The deadline of a QWAIT: 2^(t−1) µs of CLOCK from now, 940 cycles each (R135, R192). -/
def qwaitDeadline (clock : BitVec 64) (t : Nat) : Option Nat :=
  if t = 0 then none else some (clock.toNat + 2 ^ (t - 1) * 940)

/-- QWAIT: completes when the word at home differs from gB; otherwise the split sleeps (R192). -/
def execQwait (a b : GReg) (t : BitVec 8) (s : State) : Host.Outcome State Fault Refusal :=
  runScalar s (.qwait a b t) fun x =>
    let va := x.warp.gPair a
    let want := x.warp.gv b
    let dl := qwaitDeadline s.clock t.toNat
    if va.toNat % 4 ≠ 0 then s.scalarFault x .misaligned va
    else if inAperture va.toNat then
      s.scalarFabric x (lanePacket 1 0 4 2 0 false false [scalarAcc va.toNat 0]) va fun g => .fabricPoll g want dl
    else match s.translate x.who.core x.team.asid x.team.priv va.toNat .read with
      | (s, .error c) => s.scalarMemFault x c va.toNat .read
      | (s, .ok p) =>
        let s := s.evict x.who.core (p.pa / 64)
        if hubRange p.pa then
          if BitVec.ofNat 32 (leNat (s.regBytes p.pa 4)) = want then s.hold x (.qwait p.pa va.toNat want dl) else s.advance x
        else match s.homeRead p.pa 4 with
          | .error c => (s.unheard p.pa).scalarFault x c va
          | .ok bs => if BitVec.ofNat 32 (leNat bs) = want then s.hold x (.qwait p.pa va.toNat want dl) else s.advance x

/-- The word a sleeping QWAIT watches, as it stands at its home (R192). -/
def State.watched (s : State) (pa : Nat) : Except Cause Word :=
  if hubRange pa then .ok (BitVec.ofNat 32 (leNat (s.regBytes pa 4)))
  else match s.homeRead pa 4 with
    | .error c => .error c
    | .ok bs => .ok (BitVec.ofNat 32 (leNat bs))

/-- QWAIT_WAKE: a sleeping QWAIT compares again with its word at home (R192). -/
def execQwaitWake (core slot entry : Nat) (s : State) : Host.Outcome State Fault Refusal :=
  .next <| match s.ctxOf ⟨core, slot, entry⟩ with
  | none => s
  | some x =>
    match x.split.wait with
    | .qwait pa va want _ =>
      (match s.watched pa with
      | .error c => (s.unheard pa).scalarFault x c (BitVec.ofNat 54 va)
      | .ok v => if v = want then s else s.advance x)
    | _ => s

/-- A split sleeps in a QWAIT that a write of its line has ended, or whose word differs now (R192). -/
def State.mustWake (s : State) (who : Who) : Bool :=
  match s.split who with
  | some sp => (match sp.wait with
    | .qhit _ _ _ => true
    | .qwait pa _ want _ => (match s.watched pa with
      | .ok v => v != want
      | .error _ => false)
    | _ => false)
  | none => false

/-- Every split of the machine. -/
def State.allSplits (s : State) : List Who :=
  s.cores.flatMap fun c => c.2.warps.flatMap fun w => w.2.splits.map fun e => ⟨c.1, w.1, e.1⟩

/-- A QWAIT ends: with a fault where its word could not be read at the comparison (R83, R192). -/
def State.wakeSplit (s : State) (who : Who) : State :=
  match s.ctxOf who with
  | none => s
  | some x =>
    match x.split.wait with
    | .qhit pa va true => (s.unheard pa).scalarFault x .memoryUncorrectable (BitVec.ofNat 54 va)
    | _ => s.advance x

/-- Every QWAIT compares after each write of its line (R192): those whose word differs end, and those whose word differed or could
not be read after one of the writes (`State.noteWatch`). -/
def State.wakeWatchers (s : State) : State := (s.allSplits.filter s.mustWake).foldl State.wakeSplit s

/-- QWAIT_TIMEOUT: a QWAIT whose time is over ends (R192). -/
def execQwaitTimeout (core slot entry : Nat) (s : State) : Host.Outcome State Fault Refusal :=
  .next <| match s.ctxOf ⟨core, slot, entry⟩ with
  | none => s
  | some x =>
    match x.split.wait with
    | .qwait _ _ _ (some d) | .fabricPoll _ _ (some d) => if d ≤ s.clock.toNat then s.advance x else s
    | _ => s

/-- EXIT: the split's lanes leave the warp (R31, R193). -/
def execExit (s : State) : Host.Outcome State Fault Refusal :=
  runScalar s .exit fun x => (s.count x).modWarp x.who.core x.who.slot fun w => w.leave x.who.entry

end Sys2Proof.Machine
end

