-- ==== Sys2Proof/Machine/System.lean ====
section
/-! DEFINITION. System and trap instructions: traps and their return, system registers, TLBINV, HALT, FEAT, CLOCK
(R64 to R66, R100, R139, R270 to R279, R304). -/

namespace Sys2Proof.Machine

/-! ### Traps -/

/-- The instruction completes and its split traps past it (R273). -/
def State.trapAfter (s : State) (x : Ctx) (c : Cause) : State :=
  (s.advance x).raiseTrap x.who (scalarTrap c (x.split.spc + 4) 0)

/-- TRAP: USER_TRAP, past the instruction (R273). -/
def execTrap (c : BitVec 20) (s : State) : Host.Outcome State Fault Refusal :=
  runScalar s (.trap c) fun x => s.trapAfter x .userTrap

/-- BKPT stops the team under DBG_CTL (R304): BKSTOP is set and the ASID is that of DBG_CTL. -/
def bkptStops (s : State) (t : Team) : Bool :=
  s.hub.regs.dbgCtl.getLsbD 12 && s.hub.regs.dbgCtl.toNat % 4096 == t.asid.toNat

/-- BKPT: BREAKPOINT, past the instruction; under BKSTOP it writes the trap registers, takes no latch and stops the
team (R273, R304). -/
def execBkpt (t : BitVec 20) (s : State) : Host.Outcome State Fault Refusal :=
  runScalar s (.bkpt t) fun x =>
    if bkptStops s x.team then
      ((s.advance x).modWarp x.who.core x.who.slot fun w =>
        w.setTrap (scalarTrap .breakpoint (x.split.spc + 4) 0)).stopTeam x.who.core x.warp.team 2 Cause.breakpoint.code
    else s.trapAfter x .breakpoint

/-- RTT: back to TRAP_PC, or after a lane-side trap the split's lanes leave; the latch is released (R274). -/
def execRtt (s : State) : Host.Outcome State Fault Refusal :=
  runScalar s .rtt fun x =>
    if x.warp.trapCause.getLsbD 13 then
      (s.count x).modWarp x.who.core x.who.slot fun w => { w.leave x.who.entry with latch := none }
    else if x.warp.trapPc = 0 then s.scalarFault x .reservedField 0
    else (s.goto x x.warp.trapPc).modWarp x.who.core x.who.slot fun w => { w with latch := none }

/-- TRAP_ENTRY: a split with a trap not yet taken takes it at its next boundary, once the latch is free (R171, R272): not inside a
TLBINV or an access behind the aperture, which are held to their completion (R194, R276). -/
def execTrapEntry (core slot entry : Nat) (s : State) : Host.Outcome State Fault Refusal :=
  .next <| match s.ctxOf ⟨core, slot, entry⟩ with
  | none => s
  | some x =>
    match x.split.pend with
    | [] => s
    | t :: ts =>
      if x.split.live && teamRuns x.team && !x.warp.latchBusy entry && !x.split.midway then
        (s.modSplit x.who fun sp => { sp with pend := ts }).enterTrap x.who t
      else s

/-! ### System registers -/

/-- The low 32 bits. -/
def lo32 {n : Nat} (x : BitVec n) : Word := BitVec.ofNat 32 x.toNat

/-- The bits from 32 on. -/
def hi32 {n : Nat} (x : BitVec n) : Word := BitVec.ofNat 32 (x.toNat / 2 ^ 32)

/-- A system register by number, none where R64 lists no such number. -/
def sysRead (s : State) (x : Ctx) (n : Nat) : Option Word :=
  match n with
  | 0x00 => some (BitVec.ofNat 32 x.who.core)
  | 0x01 => some (BitVec.ofNat 32 x.team.teamId)
  | 0x02 => some (BitVec.ofNat 32 x.team.gangId)
  | 0x03 => some x.team.taskId
  | 0x04 => some (BitVec.ofNat 32 x.who.slot)
  | 0x05 => some (lo32 s.clock)
  | 0x06 => some (hi32 s.clock)
  | 0x07 => some (s.boot.stage.setWidth 32)
  | 0x08 => some (x.team.asid.setWidth 32)
  | 0x10 => some x.warp.trapCause
  | 0x11 => some (lo32 x.warp.trapPc)
  | 0x12 => some (hi32 x.warp.trapPc)
  | 0x13 => some (lo32 x.warp.trapAddr)
  | 0x14 => some (hi32 x.warp.trapAddr)
  | 0x15 => some (lo32 x.team.trapBase)
  | 0x16 => some (hi32 x.team.trapBase)
  | 0x18 => some (if s.hasFeature 28 then x.core.sampleCtl else x.core.sampleCtl &&& ~~~ 1)
  | n => if 0x20 ≤ n ∧ n < 0x30 then some (BitVec.ofNat 32 (s.feat.toNat / 2 ^ (32 * (n - 0x20)))) else none

/-- RDSR: a system register into gd (R65, R275). -/
def execRdsr (d : GReg) (n : BitVec 8) (s : State) : Host.Outcome State Fault Refusal :=
  runScalar s (.rdsr d n) fun x =>
    match sysRead s x n.toNat with
    | none => s.scalarFault x .reservedField 0
    | some v => s.result x d v

/-- The numbers whose write column admits some warp (R64). -/
def sysWritable (t : Team) (n : Nat) : Bool :=
  (0x10 ≤ n && n ≤ 0x16) || (n == 0x18 && t.priv)

/-- The value check of a WRSR (R66, R275). -/
def sysValueOk (n : Nat) (v : Word) : Bool :=
  match n with
  | 0x10 => v.toNat / 2 ^ 14 == 0
  | 0x11 | 0x15 => v.toNat % 4 == 0
  | 0x12 | 0x14 | 0x16 => v.toNat / 2 ^ 22 == 0
  | 0x18 => v.toNat / 2 ^ 9 == 0 && v.toNat / 2 ^ 5 % 8 == 0 && v.toNat / 2 % 16 ≤ 10
  | _ => true

/-- The low half of a 54-bit register replaced. -/
def putLo (x : VAddr) (v : Word) : VAddr := BitVec.ofNat 54 (x.toNat / 2 ^ 32 * 2 ^ 32 + v.toNat)

/-- Bits [53:32] of a 54-bit register replaced. -/
def putHi (x : VAddr) (v : Word) : VAddr := BitVec.ofNat 54 (x.toNat % 2 ^ 32 + v.toNat % 2 ^ 22 * 2 ^ 32)

/-- The sampling interval N of a SAMPLE_CTL value (R66). -/
def sampleInterval (v : Word) : Nat := 2 ^ (6 + v.toNat / 2 % 16)

/-- A write of SAMPLE_CTL reloads the sampling counters and pointers (R139). -/
def Core.setSample (k : Core) (v : Word) : Core :=
  { k with
    sampleCtl := v
    quads := (List.range 4).foldl (fun m q =>
      amPut m q { amGet Quad.reset m q with counter := BitVec.ofNat 16 (sampleInterval v - 1), pointer := 11 }) k.quads }

/-- Write a system register (R275). -/
def State.sysWrite (s : State) (x : Ctx) (n : Nat) (v : Word) : State :=
  let onWarp (f : Warp → Warp) := s.modWarp x.who.core x.who.slot f
  match n with
  | 0x10 => onWarp fun w => { w with trapCause := v }
  | 0x11 => onWarp fun w => { w with trapPc := putLo w.trapPc v }
  | 0x12 => onWarp fun w => { w with trapPc := putHi w.trapPc v }
  | 0x13 => onWarp fun w => { w with trapAddr := putLo w.trapAddr v }
  | 0x14 => onWarp fun w => { w with trapAddr := putHi w.trapAddr v }
  | 0x15 => s.modTeam x.who.core x.warp.team fun t => { t with trapBase := putLo t.trapBase v }
  | 0x16 => s.modTeam x.who.core x.warp.team fun t => { t with trapBase := putHi t.trapBase v }
  | _ => s.modCore x.who.core fun k => k.setSample v

/-- WRSR: ga into a system register, after the access and value checks (R65, R275). -/
def execWrsr (a : GReg) (n : BitVec 8) (s : State) : Host.Outcome State Fault Refusal :=
  runScalar s (.wrsr a n) fun x =>
    let v := x.warp.gv a
    if (sysRead s x n.toNat).isNone then s.scalarFault x .reservedField 0
    else if !sysWritable x.team n.toNat then s.scalarFault x .privilege 0
    else if !sysValueOk n.toNat v then s.scalarFault x .reservedField 0
    else (s.sysWrite x n.toNat v).advance x

/-! ### Invalidation, stop, mask and clock -/

/-- A lane access that was translated and has not been performed. -/
def Acc.open_ (a : Acc) : Bool :=
  (a.st == .todo || (match a.st with | .waiting _ => true | _ => false)) && (a.path == .l1 || a.path == .home)

/-- The accesses of an ASID that are open and lie in one of some spans, as core, warp slot, operation and lane (R100). -/
def State.usersOf (s : State) (asid : Asid) (spans : List (Nat × Nat)) : List (Nat × Nat × Nat × Nat) :=
  s.cores.flatMap fun k => k.2.warps.flatMap fun w =>
    match amFind k.2.teams w.2.team with
    | none => []
    | some t =>
      if t.asid != asid then []
      else w.2.ops.flatMap fun o =>
        match memSpec o.instr with
        | none => []
        | some (_, sp) =>
          (o.accs.filter fun a => a.open_ && spans.any fun p => overlaps a.va sp.n p.1 p.2).map fun a => (k.1, w.1, o.id, a.lane)

/-- Start a range invalidation (R100): every entry goes, and it is in progress until the accesses that had used one of
them are over; those made later use none of them. -/
def State.startInval (s : State) (asid : Asid) (start len : Nat) (host : Bool) : State × Nat :=
  let len := min len (2 ^ 54 - start)
  let id := s.hub.nextInval
  let v : Inval := { id := id, asid := asid, users := s.usersOf asid ((start, len) :: s.removedSpans asid start len), host := host }
  let s := s.removeRange asid start len
  ({ s with hub := { s.hub with invals := s.hub.invals ++ [v], nextInval := id + 1 } }, id)

/-- TLBINV: a range invalidation that holds its split until it completes (R276). -/
def execTlbinv (d a b : GReg) (s : State) : Host.Outcome State Fault Refusal :=
  runScalar s (.tlbinv d a b) fun x =>
    let asid := x.warp.gv d
    let hi := (x.warp.gv (oddG b)).toNat
    let len := (x.warp.gv b).toNat + hi % 2 ^ 23 * 2 ^ 32
    if asid.toNat / 2 ^ 12 ≠ 0 || hi / 2 ^ 23 ≠ 0 then s.scalarFault x .reservedField 0
    else if len = 0 then s.advance x
    else
      let r := s.startInval (BitVec.ofNat 12 asid.toNat) (x.warp.gPair a).toNat len false
      r.1.hold x (.tlbinv r.2)

/-- HALT: the team stops, with SPC past the instruction (R277, R303). -/
def execHalt (s : State) : Host.Outcome State Fault Refusal :=
  runScalar s .halt fun x => (s.advance x).stopTeam x.who.core x.warp.team 0 0

/-- NOP (R278). -/
def execNop (s : State) : Host.Outcome State Fault Refusal := runScalar s .nop fun x => s.advance x

/-- FEAT: one bit of the feature mask (R278). -/
def execFeat (d : GReg) (b : BitVec 9) (s : State) : Host.Outcome State Fault Refusal :=
  runScalar s (.feat d b) fun x => s.result x d (boolWord (s.hasFeature b.toNat))

/-- CLOCK: both halves of CLOCK, from one cycle (R278). -/
def execClock (d : GReg) (s : State) : Host.Outcome State Fault Refusal :=
  runScalar s (.clock d) fun x =>
    (s.modWarp x.who.core x.who.slot fun w => (w.setG d (lo32 s.clock)).setG (oddG d) (hi32 s.clock)).advance x

end Sys2Proof.Machine
end

