-- ==== Sys2Proof/Machine/Sched.lean ====
section
/-! DEFINITION. The quadrant schedulers: what holds each side of a split at the start of a cycle, the candidates, the choice
among them, their wait counts, and the order in which what issues in one cycle takes effect (R26 to R29, R65, R131, R139,
R216, R221, R236, R239, R243, R253, R255, R300). -/

namespace Sys2Proof.Machine

/-! ### What holds a split -/

/-- The state of R28 that holds a split's scalar side, or `run`: where the split stands at an instruction of R28, what that
instruction waits for. -/
def scalarWait (s : State) (x : Ctx) : Wait :=
  match x.split.wait with
  | .run | .issueFull | .pendingWrite | .waitf _ | .barwait _ =>
    (match (fetchDecode s x).2 with
      | .ok i => (match scalarHold x i with
        | .run => if issueHeld s x i then .pendingWrite else .run
        | w => w)
      | .error _ => .run)
  | w => w

/-- A split's next scalar instruction is ready (R26, R28). A trap not yet taken is taken at the next boundary
(R171), which a TLBINV or an access behind the aperture has still to reach (R194, R276). -/
def scalarReady (s : State) (who : Who) : Bool :=
  match s.ctxOf who with
  | none => false
  | some x =>
    x.split.live && teamRuns x.team &&
    (if x.split.pend.isEmpty then
      !x.core.atLatch who.slot && match scalarWait s x with
      | .run | .replayFailed _ _ => true
      | _ => false
    else !x.warp.latchBusy who.entry && !x.split.midway)

/-- The array is what an MMA waits for, if anything (R236). -/
def arrayWait (k : Core) : LaneWait := if k.arrayFree then .run else .array

/-- What holds an MMA.j (R236, R239, R284): at a latch that has not released its listed warps; at one that has, the array and
the flags, for its leader, which dispatches the joint MMA for every participant. -/
def jointWait (s : State) (who : Who) : LaneWait :=
  let k := s.core who.core
  match k.latchOf who with
  | none => .run
  | some l =>
    if !l.full then .latch
    else if k.leader l != some (who.slot, who.entry) then .array
    else if !s.jointReady who.core l then .flagFull
    else arrayWait k

/-- What an instruction waits for by its own rule, once it would dispatch (R145, R149, R236, R248, R264, R267, R370). -/
def ownWait (s : State) (y : LCtx) (i : Instr) : LaneWait :=
  let k := y.x.core
  let t := y.x.team
  match i with
  | .mma x => if (mmaFault t x.imm.toNat).isSome then .run else arrayWait k
  | .mmaJ x => if (mmaFault t x.imm.toNat).isSome then .run else jointWait s y.x.who
  | .kick x => kickWait y x
  | .phaseRel _ | .phaseAcq _ => if y.x.warp.priorDone y.x.warp.freshOp then .run else .phase
  | .next x | .nextBounded x =>
    (match t.iter (iterNo x) with
    | none => .run
    | some n => if nextBad y x (k.iter n) then .run else carryWait y (k.iter n))
  | .itstat x => if (t.iter (iterNo x)).isSome && k.pulling y.x.warp.team (iterNo x) k.serial then .operand else .run
  | .barinit x =>
    if (barinitFault y x).isNone && s.barWaits y.x.who.core y.x.warp.team x.imm.toNat then .operand else .run
  | _ => .run

/-- What holds a split's lane side, or `run` (R7, R23, R26, R28): its clause's flags, a latch of its warp, what its next
instruction waits for. An instruction that faults at dispatch waits for nothing but what stands before it (R170, R171). -/
def laneState (s : State) (x : Ctx) : LaneWait :=
  match x.split.headWord with
  | none => .run
  | some (c, w) =>
    if !(c.started || clauseMayStart x.warp c) then .flags
    else if x.core.inLatch x.who.slot && (x.core.latchOf x.who).isNone then .latch
    else if x.warp.clauseHeld x.who.entry then .operand
    else match decodeLane w with
      | .error _ => .run
      | .ok i =>
        match s.lctxOf x.who (instrPred i) with
        | none => .run
        | some y =>
          if !s.hasFeature (gateOf i) || (budgetRegs i).any (x.warp.budget ≤ ·) then .run
          else match laneWaits y i with
            | .run => if (laneCheck s y i).isSome || y.act = 0 then .run else ownWait s y i
            | r => r

/-- Nothing holds the next lane instruction of a split (R26). -/
def laneFree (s : State) (who : Who) : Bool :=
  match s.ctxOf who with
  | none => false
  | some x => x.split.headWord.isSome && laneState s x == .run

/-- A split is a lane candidate (R26): its team runs, its head clause has started or may start, and nothing holds its next
instruction. -/
def laneReady (s : State) (who : Who) : Bool :=
  match s.ctxOf who with
  | none => false
  | some x => teamRuns x.team && laneFree s who

/-- What held an MMA until now stays noted until it dispatches (R236). -/
def keepArray (old new : LaneWait) (i : Option Instr) : LaneWait :=
  match i with
  | some (.mma _) | some (.mmaJ _) => if new == .run && old == .array then .array else new
  | _ => new

/-- The next lane instruction of a split. -/
def nextLane (sp : Split) : Option Instr :=
  match sp.headWord with
  | none => none
  | some (_, w) => match decodeLane w with
    | .ok i => some i
    | .error _ => none

/-- Note what holds a split in this cycle, of a stopped team too (R28, R301). -/
def State.noteHold (s : State) (who : Who) : State :=
  match s.ctxOf who with
  | none => s
  | some x =>
    let w := if x.split.live && x.split.pend.isEmpty then scalarWait s x else x.split.wait
    let l := keepArray x.split.laneWait (laneState s x) (nextLane x.split)
    if w = x.split.wait ∧ l = x.split.laneWait then s
    else s.modSplit who fun sp => { sp with wait := w, laneWait := l }

/-! ### Candidates and choices (R26, R27) -/

/-- Role priority: matrix, then copy, then epilogue, then general (R26). -/
def Role.rank : Role → Nat
  | .matrix => 0
  | .copy => 1
  | .epilogue => 2
  | .general => 3

/-- Every split entry of a core whose warp has not retired. -/
def coreSplits (s : State) (core : Nat) : List Who :=
  ((s.core core).warps.filter fun w => !w.2.retired).flatMap fun w => w.2.splits.map fun e => ⟨core, w.1, e.1⟩

/-- Every split entry of a quadrant, with its role and wait count on a side. -/
def quadSplits (s : State) (core quad : Nat) (lane : Bool) : List (Who × Role × Nat) :=
  ((s.core core).warps.filter fun w => w.1 / 12 == quad && !w.2.retired).flatMap fun w =>
    w.2.splits.map fun e => (⟨core, w.1, e.1⟩, w.2.role, if lane then e.2.laneAge else e.2.scalarAge)

/-- The key by which a side chooses, smallest first (R26): aged candidates by oldest wait, then slot and entry; the
others by role, round-robin slot after the one issued last, entry. -/
def choiceKey (last : Nat) (c : Who × Role × Nat) : Nat × Nat × Nat × Nat :=
  if 256 ≤ c.2.2 then (0, 2 ^ 32 - c.2.2, c.1.slot, c.1.entry)
  else (1, c.2.1.rank, (c.1.slot % 12 + 12 - (last + 1) % 12) % 12, c.1.entry)

/-- Lexicographic comparison of choice keys. -/
def keyLt (a b : Nat × Nat × Nat × Nat) : Bool :=
  a.1 < b.1 || (a.1 == b.1 && (a.2.1 < b.2.1 || (a.2.1 == b.2.1 && (a.2.2.1 < b.2.2.1 ||
    (a.2.2.1 == b.2.2.1 && a.2.2.2 < b.2.2.2)))))

/-- The candidate a side chooses (R26). -/
def chooseOf (last : Nat) : List (Who × Role × Nat) → Option (Who × Role × Nat)
  | [] => none
  | c :: cs => match chooseOf last cs with
    | none => some c
    | some d => if keyLt (choiceKey last d) (choiceKey last c) then some d else some c

/-- The lane instruction a split would issue dispatches an MMA. -/
def nextMma (s : State) (who : Who) : Bool :=
  match (s.split who).bind nextLane with
  | some (.mma _) => true
  | some (.mmaJ _) => ((s.core who.core).latchOf who).isSome
  | _ => false

/-- Of the MMAs of a core that are ready in one cycle the one of the lowest slot dispatches (R236): the splits that could
dispatch one, but for it. -/
def laterMmas (s : State) (core : Nat) : List Who :=
  ((coreSplits s core).filter fun w => nextMma s w && laneReady s w).drop 1

/-- The candidates of a quadrant's side (R26, R236). -/
def candidates (s : State) (core quad : Nat) (lane : Bool) : List (Who × Role × Nat) :=
  (quadSplits s core quad lane).filter fun c =>
    if lane then laneReady s c.1 && !(laterMmas s core).contains c.1 else scalarReady s c.1

/-- A side of a quadrant that issues: its candidates and the one it chooses. -/
structure Side where
  lane : Bool
  cands : List (Who × Role × Nat)
  pick : Option Who

/-- The choice of a quadrant's side (R26). -/
def sideOf (s : State) (core : Nat) (p : Nat × Bool) : Side :=
  let q := amGet Quad.reset (s.core core).quads p.1
  let cs := candidates s core p.1 p.2
  { lane := p.2, cands := cs, pick := (chooseOf (if p.2 then q.lastLane else q.lastScalar) cs).map (·.1) }

/-- The choices of a core's four quadrants, scalar sides first. -/
def coreSides (s : State) (core : Nat) : List Side :=
  ((List.range 4).map fun q => sideOf s core (q, false)) ++ (List.range 4).map fun q => sideOf s core (q, true)

/-- The candidates a side did not choose have waited one cycle more (R27). -/
def State.ageSide (s : State) (d : Side) : State :=
  d.cands.foldl (fun s c => if d.pick = some c.1 then s else s.modSplit c.1 (setAge d.lane (c.2.2 + 1))) s

/-! ### The order of one cycle's issues -/

/-- Insert by a key, keeping earlier elements of the same key first. -/
def insertKey {α : Type} (k : α → Nat × Nat) (x : α) : List α → List α
  | [] => [x]
  | y :: ys => if (k x).1 < (k y).1 || ((k x).1 == (k y).1 && (k x).2 < (k y).2) then x :: y :: ys else y :: insertKey k x ys

/-- Sort by a key. -/
def sortKey {α : Type} (k : α → Nat × Nat) (xs : List α) : List α := xs.foldr (insertKey k) []

/-- The scalar instruction a chosen split issues; none where it takes a trap. -/
def pickedScalar (s : State) (who : Who) : Option Instr :=
  match s.ctxOf who with
  | none => none
  | some x =>
    if !x.split.pend.isEmpty then none
    else match (fetchDecode s x).2 with
      | .ok i => some i
      | .error _ => none

/-- Writes that no instruction of their cycle sees: after every other scalar instruction 1, after the lane instructions too
2 (R26, R29, R65). -/
def writeRank : Option Instr → Nat
  | some (.wrt _ _) => 1
  | some (.wrsr _ n) => if n = 0x18 then 2 else 1
  | some (.tlbinv _ _ _) => 2
  | _ => 0

/-- The slot at which a lane instruction of this cycle takes effect: its own, and for an MMA.j whose arrival, with those of
this cycle, fills its latch, the leader's (R236). -/
def effectSlot (s : State) (picks : List Who) (who : Who) : Nat :=
  match (s.split who).bind nextLane, s.warp who.core who.slot with
  | some (.mmaJ _), some w =>
    let m : BitVec 16 := BitVec.ofNat 16 w.gang.toNat
    let joins (p : Who) : Bool :=
      (match (s.split p).bind nextLane with | some (.mmaJ _) => true | _ => false) &&
      (match s.warp p.core p.slot with | some v => v.team == w.team && v.gang == w.gang | none => false)
    let here := ((s.core who.core).latches.filter fun l => l.team == w.team && l.wmask == m).flatMap fun l => l.waiting.map (·.1)
    let slots := here ++ (picks.filter joins).map (·.slot)
    if slots.length = maskCount m then
      (match ((s.core who.core).warps.filter fun v => v.2.team == w.team && slots.contains v.1 &&
          slots.all fun t => v.2.widx ≤ (s.core who.core).indexOf t).map (·.1) with
        | l :: _ => l
        | [] => who.slot)
    else who.slot
  | _, _ => who.slot

/-- Rank of a lane instruction among those of one cycle: a TAGL reads before any tag instruction writes (R221), a DUPMAP
whose cycle holds an MMA loads before it (R243); the others go by slot. -/
def laneOrder (s : State) (picks : List Who) : List Who :=
  let is (f : Instr → Bool) (w : Who) : Bool := match (s.split w).bind nextLane with | some i => f i | none => false
  let tagl := is fun i => match i with | .tagl _ => true | _ => false
  let dup := is fun i => match i with | .dupmap _ => true | _ => false
  let mma := is fun i => match i with | .mma _ | .mmaJ _ => true | _ => false
  let ps := sortKey (fun w => (effectSlot s picks w, w.slot)) picks
  let rest := ps.filter fun w => !tagl w
  let before := rest.takeWhile fun w => !mma w
  let after := rest.dropWhile fun w => !mma w
  ps.filter tagl ++ before ++ after.filter dup ++ after.filter fun w => !dup w

/-- BARINIT and BARTRY are the barrier port's, after the cycle's deliveries and arrivals (R253, R255). -/
def portLate (s : State) (who : Who) : Bool :=
  match (s.split who).bind nextLane with
  | some (.barinit _) | some (.bartry _) => true
  | _ => false

/-- What takes effect after the lane instructions of its cycle has issued with the others: what the barrier port performs at the
end of the cycle, and a scalar instruction of rank 2 (R26, R300). -/
def State.noteLate (s : State) (d : Side) : State :=
  match d.pick with
  | some who =>
    if d.lane then if portLate s who then s.noteIssue who true else s
    else if writeRank (pickedScalar s who) = 2 then s.noteIssue who false else s
  | none => s

/-- The action by which a chosen lane instruction issues: an MMA that waited for the array goes by MMA_DISPATCH (R236). -/
def laneAction (s : State) (who : Who) : Action :=
  match s.split who with
  | some sp => if sp.laneWait == .array then .event (.mmaDispatch who.core who.slot who.entry) else .lane who
  | none => .lane who

/-- What a core issues in a cycle, in the order in which it takes effect, and what it does at the cycle's end. What follows the
lane instructions sees no fault of theirs (R26). Where no rule gives the order it is the model's (log 48). -/
def coreIssue (s : State) (sides : List Side) : List Action × List Action :=
  let slotKey (w : Who) : Nat × Nat := (w.slot, w.entry)
  let sc := sortKey slotKey ((sides.filter fun d => !d.lane).filterMap (·.pick))
  let ln := sortKey slotKey ((sides.filter (·.lane)).filterMap (·.pick))
  let rank (n : Nat) : List Who := sc.filter fun w => writeRank (pickedScalar s w) == n
  ((rank 0 ++ rank 1).map .scalar ++ (laneOrder s (ln.filter fun w => !portLate s w)).map (laneAction s) ++
    (rank 2).map .issued,
   (ln.filter (portLate s)).map .lane)

/-! ### Sampling counters (R139) -/

/-- The quadrants of a core that take a sample in this cycle: their counter has reached 0. -/
def samplesDue (on : Bool) (c : Nat × Core) : List Action :=
  if on && c.2.sampleCtl.getLsbD 0 then
    (c.2.quads.filter fun q => q.2.counter == 0).map fun q => .sample c.1 q.1
  else []

/-! ### One cycle's issue -/

/-- A quadrant at the start of a cycle: it has issued nothing yet, and its sampling counter falls (R139, R300). -/
def Quad.atStart (on : Bool) (q : Quad) : Quad := { q.tick on with issuedScalar := none, issuedLane := none }

/-- The quadrants of a core at the start of a cycle. -/
def Core.atStart (on : Bool) (k : Core) : Core :=
  { k with quads := k.quads.map fun q => (q.1, q.2.atStart (on && k.sampleCtl.getLsbD 0)) }

/-- One cycle's issue: every quadrant notes what holds its splits and chooses on both sides, from the state as it stands at
the start of the cycle; the chosen splits issue next, then samples are taken, and what ends the cycle waits in `late`
(R26, R27, R139). -/
def State.issue (s : State) : State :=
  let on := s.hasFeature 28
  let due := s.cores.flatMap (samplesDue on)
  let s : State := { s with cores := s.cores.map fun c => (c.1, c.2.atStart on) }
  let cores := s.cores.map (·.1)
  let s := (cores.flatMap (coreSplits s)).foldl State.noteHold s
  let sides := cores.map fun c => coreSides s c
  let acts := sides.map (coreIssue s)
  let s := sides.flatten.foldl State.ageSide s
  let s := sides.flatten.foldl State.noteLate s
  { s with agenda := acts.flatMap (·.1) ++ due ++ s.agenda, late := acts.flatMap (·.2) }

end Sys2Proof.Machine
end

