-- ==== Sys2Proof/Machine/Fault.lean ====
section
/-! DEFINITION. Issue events, REPLAY and REPLAY_FAIL, page walks nothing waits for, range invalidations of the host,
page release (R7, R26, R27, R99, R100, R123, R217, R287, R337). -/

namespace Sys2Proof.Machine

/-! ### Issue -/

/-- CLAUSE_START: the head clause of a split starts once its wait flags are clear (R7). Behind an operation of its split that
stalls or has failed it does not start (R171). -/
def execClauseStart (core slot entry : Nat) (s : State) : Host.Outcome State Fault Refusal :=
  .next <| match s.ctxOf ⟨core, slot, entry⟩ with
  | none => s
  | some x =>
    match x.split.cq with
    | [] => s
    | c :: cs =>
      if teamRuns x.team && clauseMayStart x.warp c && !x.warp.clauseHeld entry then
        s.modSplit x.who fun sp => { sp with cq := { c with started := true } :: cs }
      else s

/-- WAIT_COUNT_AGED: a candidate that has waited at least 256 cycles takes precedence: where no other candidate of its side
has waited longer, the next cycle's issue is its own (R26, R27). -/
def execWaitCountAged (core slot entry : Nat) (laneSide : Bool) (s : State) : Host.Outcome State Fault Refusal :=
  .next <|
    let d := sideOf s core (slot / 12, laneSide)
    if d.pick = some ⟨core, slot, entry⟩ ∧ d.cands.any (fun c => c.1 == ⟨core, slot, entry⟩ && 256 ≤ c.2.2) then
      { s with agenda := .cycle :: s.agenda }
    else s

/-! ### Requesters stalled on a record (R123, R287) -/

/-- A lane stalled on a record. -/
def Acc.stalledOn (f : Nat) (a : Acc) : Bool := a.st == .stalled f

/-- A split stalled on a record. -/
def Split.stalledOn (f : Nat) (sp : Split) : Bool :=
  match sp.wait with
  | .replay g _ | .refetch g _ => g == f
  | _ => false

/-- A hold that waits for a record. -/
def Hold.on (f : Nat) (h : Hold) : Bool := h == .waiting f

/-- Some requester of a core is stalled on a record. -/
def Core.stalledOn (f : Nat) (k : Core) : Bool :=
  (k.warps.any fun w => (w.2.ops.any fun o => o.accs.any (·.stalledOn f)) || w.2.splits.any fun e => e.2.stalledOn f) ||
  (k.chans.any fun c => (c.2.cur.bind (·.stall)) == some f) || k.held.any fun h => h.hold.on f

/-- Some requester is stalled on a record. -/
def State.stalledOn (s : State) (f : Nat) : Bool :=
  (s.cores.any fun c => c.2.stalledOn f) || (s.hub.gangBars.any fun g => g.hold == some (.waiting f)) ||
  (s.hub.decs.any fun d => d.hold.on f) || (s.hub.bte.any fun b => (b.2.cur.bind (·.stall)) == some f) ||
  (s.fab.bars.any fun b => b.2.hold == some (.waiting f)) || s.fab.held.any (·.1 == f)

/-- A record number that names a record in the ring with a stalled requester. -/
def State.replayable (s : State) (f : Nat) : Bool := s.stalledOn f && !(s.hub.faultQ.any (·.fseq == f))

/-- How a hold on a record ends: with no cause its requester retries. -/
def Hold.endOn (f : Nat) (c : Option Cause) (h : Hold) : Hold :=
  if h.on f then (match c with | none => .ready | some e => .failed e) else h

/-- How a split's stall on a record ends. -/
def Split.endOn (f : Nat) (c : Option Cause) (sp : Split) : Split :=
  match sp.wait with
  | .replay g va | .refetch g va =>
    if g = f then { sp with wait := match c with | none => .run | some e => .replayFailed e va } else sp
  | _ => sp

/-- How a channel's stall on a record ends (R118, R287). -/
def Chan.endOn (f : Nat) (c : Option Cause) (ch : Chan) : Chan :=
  { ch with cur := ch.cur.map fun r =>
      if r.stall = some f then { r with stall := none, status := match c with | none => r.status | some e => some (some e) }
      else r }

/-- How a BTE's stall on a record ends (R122, R287). -/
def BteQ.endOn (f : Nat) (c : Option Cause) (b : BteQ) : BteQ :=
  { b with cur := b.cur.map fun p =>
      if p.stall = some f then { p with stall := none, result := match c with | none => p.result | some e => some (some e) }
      else p }

/-- Splits, channels and held port updates of a core. -/
def Core.endOn (f : Nat) (c : Option Cause) (k : Core) : Core :=
  { k with
    warps := k.warps.map fun w => (w.1, { w.2 with splits := w.2.splits.map fun e => (e.1, e.2.endOn f c) })
    chans := k.chans.map fun h => (h.1, h.2.endOn f c)
    held := k.held.map fun h => { h with hold := h.hold.endOn f c } }

/-- Everything but lane operations and requests of peers. -/
def State.endOn (s : State) (f : Nat) (c : Option Cause) : State :=
  { s with
    cores := s.cores.map fun k => (k.1, k.2.endOn f c)
    hub := { s.hub with
      gangBars := s.hub.gangBars.map fun g => { g with hold := g.hold.map (·.endOn f c) }
      decs := s.hub.decs.map fun d => { d with hold := d.hold.endOn f c }
      bte := s.hub.bte.map fun b => (b.1, b.2.endOn f c) }
    fab := { s.fab with bars := s.fab.bars.map fun b => (b.1, { b.2 with hold := b.2.hold.map (·.endOn f c) }) } }

/-- The operations with a lane stalled on a record, as core, slot and id. -/
def State.opsOn (s : State) (f : Nat) : List (Nat × Nat × Nat) :=
  s.cores.flatMap fun k => k.2.warps.flatMap fun w =>
    (w.2.ops.filter fun o => o.accs.any (·.stalledOn f)).map fun o => (k.1, w.1, o.id)

/-- Lanes stalled on a record are to be retried. -/
def Op.retryOn (f : Nat) (o : Op) : Op :=
  { o with accs := o.accs.map fun a => if a.stalledOn f then { a with st := .retry } else a }

/-- The address of the access a claim is stalled at. -/
def claimAddr (s : State) (o : Op) (a : Acc) : Nat :=
  match o.aux with
  | .eng stage vals =>
    (match engNext o.instr s.fab.device s.fab.inc.toNat a o.accs.length stage vals with
    | .ask r => r.va
    | _ => a.va)
  | _ => a.va

/-- A lane operation stalled on a record ends with a cause (R171, R213, R264, R287): in the lanes concerned, or, where
the instruction is checked or performed as a whole, with no further lane performed. -/
def State.failOn (s : State) (f : Nat) (c : Cause) (x : Nat × Nat × Nat) : State :=
  match s.findOp x.1 x.2.1 x.2.2 with
  | none => s
  | some (o, _, _) =>
    match o.accs.find? (·.stalledOn f) with
    | none => s
    | some a =>
      let lanes := o.accs.map fun a => if a.stalledOn f then { a with st := .failed c } else a
      if (nextArgs o.instr).isSome then (s.setOp x.1 x.2.1 { o with accs := lanes }).pullEvent x.1 x.2.1 x.2.2
      else if isClaim o.instr then s.updateOp x.1 x.2.1 (o.failClaim a.lane c (claimAddr s o a))
      else match o.instr, memSpec o.instr with
        | .launch _, _ => s.launchFail x.1 x.2.1 o c a.lane a.va
        | _, some (_, sp) =>
          if sp.whole then
            s.updateOp x.1 x.2.1 { o with accs := lanes.map fun a => if a.st.bad then a else { a with st := .done } }
          else s.updateOp x.1 x.2.1 { o with accs := lanes }
        | _, none => s.updateOp x.1 x.2.1 { o with accs := lanes }

/-- Requests of peers held on a record: they are performed again, before the later ones to their lines (R152), or answered with the
cause; a barrier report is taken up again by its root either way (R318, R329). -/
def State.heldOn (s : State) (f : Nat) (c : Option Cause) : State :=
  let mine := (s.fab.held.filter (·.1 == f)).map (·.2)
  let s := { s with fab := { s.fab with held := s.fab.held.filter (·.1 != f) } }
  match c with
  | none => { s with fab := { s.fab with sent := mine ++ s.fab.sent } }
  | some e =>
    let s : State := { s with fab := { s.fab with sent := mine.filter (·.kind == 8) ++ s.fab.sent } }
    (mine.filter (·.kind != 8)).foldl (fun (s : State) (p : Packet) => s.answer p e.code []) s

/-- A team stops or is stopped (R303). -/
def Team.stops (t : Team) : Bool :=
  match t.run with
  | .stopping _ | .stopped _ => true
  | _ => false

/-- The splits of teams that stop or are stopped whose scalar access is stalled on a record (R303). -/
def State.accessesOn (s : State) (f : Nat) : List Who :=
  s.cores.flatMap fun k => k.2.warps.flatMap fun w =>
    if (match amFind k.2.teams w.2.team with | some t => t.stops | none => false) then
      (w.2.splits.filter fun e => match e.2.wait with | .replay g _ => g == f | _ => false).map fun e => ⟨k.1, w.1, e.1⟩
    else []

/-- An access of an ASID, as core, warp slot, operation and lane, is open. -/
def State.accOpen (s : State) (asid : Asid) (u : Nat × Nat × Nat × Nat) : Bool :=
  match s.findOp u.1 u.2.1 u.2.2.1 with
  | some (o, _, t) => t.asid == asid && o.accs.any fun a => a.lane == u.2.2.2 && a.open_
  | none => false

/-- An access that is not open any more has used its entry: what a replay makes of it uses another (R100). -/
def State.pruneUsers (s : State) : State :=
  s.modHub fun h => { h with invals := h.invals.map fun v => { v with users := v.users.filter (s.accOpen v.asid) } }

/-- A write of REPLAY: every requester stalled on the record retries (R123), a scalar access of a stopped team at once
(R303). Reserved bits must be zero (R307; log 23). -/
def State.replayWrite (s : State) (v : BitVec 64) : State :=
  let f := v.toNat % 2 ^ 32
  if v.toNat / 2 ^ 32 != 0 || !s.replayable f then s
  else
    let s := (s.opsOn f).foldl (fun s x => s.modWarp x.1 x.2.1 fun w =>
      { w with ops := w.ops.map (Op.retryOn f) }) s.pruneUsers
    let again := (s.accessesOn f).map .issued
    let s := (s.endOn f none).heldOn f none
    { s with agenda := again ++ s.agenda }

/-- REPLAY (R123). -/
def execReplay (v : BitVec 64) (s : State) : Host.Outcome State Fault Refusal := .next (s.hostIn fun s => s.replayWrite v)

/-- The causes REPLAY_FAIL may name (R287). -/
def failCause : Nat → Option Cause
  | 0x11 => some .protection
  | 0x13 => some .outOfRange
  | 0x14 => some .memoryUncorrectable
  | _ => none

/-- A write of REPLAY_FAIL: every requester stalled on the record ends with CAUSE (R287, R346). -/
def State.replayFailWrite (s : State) (v : BitVec 64) : State :=
  let f := v.toNat % 2 ^ 32
  match failCause (v.toNat / 2 ^ 32 % 256) with
  | none => s
  | some c =>
    if v.toNat / 2 ^ 40 != 0 || !s.hasFeature 39 || !s.replayable f then s
    else
      let s := (s.opsOn f).foldl (fun s x => s.failOn f c x) s
      (s.endOn f (some c)).heldOn f (some c)

/-- REPLAY_FAIL (R287). -/
def execReplayFail (v : BitVec 64) (s : State) : Host.Outcome State Fault Refusal := .next (s.hostIn fun s => s.replayFailWrite v)

/-! ### Walks that nothing waits for (R99, R217) -/

/-- Walks of a stack. -/
def Hub.walksOf (h : Hub) (stack : Nat) : List Walk := h.walks.filter fun w => stackOf w.core == stack

/-- PAGE_WALK: the oldest waiting walk of a stack takes one of its 64 walkers (R99). -/
def execPageWalk (stack : Nat) (s : State) : Host.Outcome State Fault Refusal :=
  .next <|
    let ws := s.hub.walksOf stack
    if 64 ≤ (ws.filter (·.started)).length then s
    else match ws.find? (!·.started) with
      | none => s
      | some w => s.modHub fun h =>
          { h with walks := h.walks.map fun (v : Walk) => if v = w then { v with started := true } else v }

/-- PAGE_WALK_COMPLETE: a walk at work ends. A valid, well-formed leaf is installed; an entry with V = 0 writes one
record on which nothing stalls; a malformed one nothing (R99, R217). -/
def execPageWalkComplete (stack n : Nat) (s : State) : Host.Outcome State Fault Refusal :=
  .next <| match ((s.hub.walksOf stack).filter (·.started))[n]? with
  | none => s
  | some w =>
    let s := s.modHub fun h => { h with walks := h.walks.erase w }
    match s.walk stack w.asid w.va with
    | (s, .ok e) => s.install w.core e
    | (s, .error .notPresent) =>
      (s.addFault { va := w.va, cause := .notPresent, source := 0, flags := faultFlags true .read false, unit := w.slot
                    core := w.core, asid := w.asid, lanes := w.lanes, fseq := 0 }).1
    | (s, .error _) => s

/-! ### Range invalidation and page release (R100, R337) -/

/-- A write of TLBI_GO: an invalidation of the range the TLBI registers name; a write while one runs is ignored (R337). -/
def State.tlbiWrite (s : State) : State :=
  let r := s.hub.regs
  match r.tlbiGo with
  | some _ => s
  | none =>
    let len := r.tlbiLen.toNat % 2 ^ 55
    if len = 0 then s
    else
      let p := s.startInval (BitVec.ofNat 12 r.tlbiAsid.toNat) (r.tlbiStart.toNat % 2 ^ 54) len true
      p.1.modRegs fun g => { g with tlbiGo := some p.2 }

/-- TLBI_GO (R337). -/
def execTlbiGo (_v : BitVec 64) (s : State) : Host.Outcome State Fault Refusal := .next (s.hostIn State.tlbiWrite)

/-- An access that used a removed entry is not over (R100). -/
def State.rangeBusy (s : State) (v : Inval) : Bool := v.users.any (s.accOpen v.asid)

/-- TLB_INVALIDATION_COMPLETE: the n-th invalidation in progress ends once the accesses that used a removed entry are
over; the TLBINV that waits for it retires, or TLBI_GO reads 0 (R100, R276, R337). -/
def execTlbInvalidationComplete (n : Nat) (s : State) : Host.Outcome State Fault Refusal :=
  .next <| match s.hub.invals[n]? with
  | none => s
  | some v =>
    if s.rangeBusy v then s
    else
      let s := s.modHub fun h => { h with invals := h.invals.erase v }
      if v.host then s.modRegs fun g => if g.tlbiGo = some v.id then { g with tlbiGo := none } else g
      else
        let who : List Who := s.cores.flatMap fun k => k.2.warps.flatMap fun w =>
          (w.2.splits.filter fun e => e.2.wait == .tlbinv v.id).map fun e => ⟨k.1, w.1, e.1⟩
        who.foldl (fun s x => match s.ctxOf x with
          | some c => s.advance c
          | none => s) s

/-- A write of PGREL_GO: a release of the pages PGREL_PA and PGREL_LEN name starts, if both are multiples of 8 KiB and none
runs (R337); that one of other lengths is ignored R337 does not say (log 52). -/
def State.pgrelWrite (s : State) : State :=
  let r := s.hub.regs
  if r.pgrelBusy || r.pgrelPa.toNat % 8192 != 0 || r.pgrelLen.toNat % 8192 != 0 then s
  else s.modRegs fun g => { g with pgrelBusy := true, pgrelRange := (r.pgrelPa, r.pgrelLen), pgrelLost := false }

/-- PGREL_GO (R337). -/
def execPgrelGo (_v : BitVec 64) (s : State) : Host.Outcome State Fault Refusal := .next (s.hostIn State.pgrelWrite)

/-- A line lies in the range of the page release, as PGREL_GO found it. -/
def Regs.inRelease (r : Regs) (line : Nat) : Bool :=
  r.pgrelRange.1.toNat ≤ line * 64 && line * 64 < r.pgrelRange.1.toNat + r.pgrelRange.2.toNat

/-- One core writes back and drops its lines of the range; a lost line is reported and noted (R83, R337). -/
def State.releaseCore (s : State) (core : Nat) : State :=
  let lines := (s.core core).l1.filter fun x => s.hub.regs.inRelease x.line
  let s := lines.foldl (fun (s : State) (x : L1Line) =>
    if x.dirty = 0 then s
    else match s.writeBack x with
      | (s, true) => ((s.addFault (lostRecord core x)).1).modRegs fun g => { g with pgrelLost := true }
      | (s, false) => s) s
  s.modCore core fun k => { k with l1 := k.l1.filter fun x => !s.hub.regs.inRelease x.line }

/-- PGREL_COMPLETE: every core writes back and drops its lines of the range, then the stack-cache slices write back
and drop their dirty lines of host memory; PGREL_GO reads its result (R337). -/
def execPgrelComplete (s : State) : Host.Outcome State Fault Refusal :=
  .next <|
    if !s.hub.regs.pgrelBusy then s
    else
      let s := (s.cores.map (·.1)).foldl (fun s c => s.releaseCore c) s
      let s := (s.stale.filter fun x => s.hub.regs.inRelease x.1 && hostPa (x.1 * 64)).foldl (fun s x => s.writeBackLine x.1) s
      s.modRegs fun g => { g with pgrelBusy := false }

end Sys2Proof.Machine
end

