-- ==== Sys2Proof/Machine/Place.lean ====
section
/-! DEFINITION. What a new split, warp and team hold when they start (R6, R52, R57, R58). -/

namespace Sys2Proof.Machine

/-- The one split a warp starts with, in entry 0 (R6, R24, R52). -/
def newSplit (pc : VAddr) : Split :=
  { newSplit0 with lanes := 0xFFFFFFFF, exec := 0xFFFFFFFF, spc := pc }

/-- A warp at its start: g1 its index, g2:g3 the frame pointer, every other register zero (R6, R52). -/
def newWarp (team widx : Nat) (role : Role) (budget : Nat) (frame : VAddr) (pc : VAddr) : Warp :=
  let w : Warp :=
    { team := team, widx := widx, role := role, budget := budget, v := [], g := [], f := [], gang := 0, trapCause := 0,
      trapPc := 0, trapAddr := 0, latch := none, splits := [(0, newSplit pc)], ops := [], nextId := 1, held := [],
      lastBar := none, retired := false }
  ((w.setG 1 (BitVec.ofNat 32 widx)).setG 2 (BitVec.ofNat 32 frame.toNat)).setG 3 (BitVec.ofNat 32 (frame.toNat / 2 ^ 32))

/-- A team of one warp with no claims beyond it, for a placed instruction (log 3). -/
def plainTeam : Team :=
  { gang := 0, teamId := 0, gangId := 0, taskId := 0, asid := 0, priv := true, lmBase := 0, lmSize := 786432,
    banks := [], iters := [], matrix := true, warps := [0], roles := [(.general, 1, 256)], laneBase := 0, laneLen := 0,
    trapBase := 0, ts := [], instr := 0, moved := 0, wbytes := 0, wtotal := 0, resid := 0, irrev := false,
    run := .running, stop := StopRec.reset, declared := [], objects := [] }

/-- The micro-TLB entry that maps the page a placed instruction is fetched from. -/
def plainEntry : TlbEntry :=
  { asid := 0, vbase := 0, span := 13, frame := 0x20000, p := false, sh := false, cnt := false, own := false, x := true,
    w := true, a := true }

/-- Place a team of one warp on core 0 whose split 0 stands at VA 0x1000 with the given queue. -/
def State.placePlain (s : State) (cq : List Clause) : State :=
  let w := newWarp 0 0 .matrix 256 0 0x1000
  let w := w.modSplit 0 fun sp => { sp with cq := cq }
  let s := s.modCore 0 fun k =>
    { k with utlb := plainEntry :: k.utlb, teams := amPut k.teams 0 plainTeam, warps := amPut k.warps 0 w }
  { s with cur := ⟨0, 0, 0⟩ }

/-- A clause that holds one lane word, for a placed lane instruction. -/
def plainClause (w : BitVec 96) : Clause :=
  { unit := 0, len := 1, header := BitVec.ofNat 96 (0xF * 2 ^ 92 + 2 ^ 22), words := [w], next := 0, owed := none,
    exec := 0xFFFFFFFF, gs := [], started := true, serial := 0 }

/-- The instruction with these bytes stands where the next step fetches: four bytes at SPC, or a lane word at the
head of the clause queue; the next action is the issue of that split. -/
def State.placeWord (s : State) (lane : Bool) (w : Nat) : State :=
  if lane then { s.placePlain [plainClause (BitVec.ofNat 96 w)] with agenda := [.lane ⟨0, 0, 0⟩] }
  else
    let s := s.placePlain []
    { s with mem := Memory.writeN s.mem 0x21000 (leBytes 4 w), agenda := [.scalar ⟨0, 0, 0⟩] }

end Sys2Proof.Machine
end

