-- ==== Sys2Proof/Machine/Placer.lean ====
section
/-! DEFINITION. The gang placer: head records, team descriptors, the dependence unit, resource claims and placement; warps
that retire and gangs that finish (R6, R8, R13 to R21, R31, R75 to R78, R343). -/

namespace Sys2Proof.Machine

/-! ### Team descriptors (R343) -/

/-- A well-formed team descriptor: role entries as role, warps and budget, declared barriers as LM offset and count. -/
structure Desc where
  priv : Bool
  teams : Nat
  warps : Nat
  banks : Nat
  iters : Nat
  lm : Nat
  entry : Nat
  lbase : Nat
  llen : Nat
  tbase : Nat
  roles : List (Role × Nat × Nat)
  bars : List (Nat × Nat)
  deriving DecidableEq, Repr

/-- The role with a code. -/
def roleOf (n : Nat) : Role :=
  match n with
  | 0 => .matrix
  | 1 => .copy
  | 2 => .epilogue
  | _ => .general

/-- An 8-byte word of bytes. -/
def byteWord (bs : List Byte) (i : Nat) : Nat := leNat ((bs.drop (8 * i)).take 8)

/-- Four bytes at an offset. -/
def byteHalf (bs : List Byte) (off : Nat) : Nat := leNat ((bs.drop off).take 4)

/-- Each element occurs once. -/
def noRepeats {α : Type} [DecidableEq α] : List α → Bool
  | [] => true
  | x :: xs => !xs.contains x && noRepeats xs

/-- A role entry's four bytes are in range. -/
def roleEntryOk (e : Nat) : Bool :=
  e % 256 ≤ 3 && 1 ≤ e / 2 ^ 8 % 256 && e / 2 ^ 8 % 256 ≤ 16 && 1 ≤ e / 2 ^ 16 % 256 && e / 2 ^ 16 % 256 ≤ 32 && e / 2 ^ 24 == 0

/-- A barrier declaration's four bytes are in range, and the object lies in LM. -/
def barEntryOk (lm e : Nat) : Bool :=
  e % 32 == 0 && 1 ≤ e / 2 ^ 20 % 32 && e / 2 ^ 20 % 32 ≤ 16 && e / 2 ^ 25 == 0 && e % 2 ^ 20 + 32 ≤ lm

/-- The descriptor in 256 bytes, unless it is malformed (R343). -/
def parseDesc (bs : List Byte) : Option Desc :=
  let w := byteWord bs
  let nrole := w 0 / 2 ^ 43 % 8
  let nbar := w 0 / 2 ^ 37 % 64
  let rs := (List.range nrole).map fun i => byteHalf bs (0x40 + 4 * i)
  let bars := (List.range nbar).map fun i => byteHalf bs (0x50 + 4 * i)
  let d : Desc :=
    { priv := bitAt (w 0) 63, teams := w 0 / 2 ^ 60 % 8 + 1, warps := w 0 / 2 ^ 56 % 16 + 1, banks := w 0 / 2 ^ 51 % 32
      iters := w 0 / 2 ^ 46 % 32, lm := w 0 % 2 ^ 20, entry := w 1, lbase := w 2, llen := w 3, tbase := w 4
      roles := rs.map fun e => (roleOf (e % 256), e / 2 ^ 8 % 256, e / 2 ^ 16 % 256 * 8)
      bars := bars.map fun e => (e % 2 ^ 20, e / 2 ^ 20 % 32) }
  if w 0 / 2 ^ 20 % 2 ^ 17 == 0 && w 1 / 2 ^ 54 == 0 && w 2 / 2 ^ 54 == 0 && w 3 / 2 ^ 22 == 0 && w 4 / 2 ^ 54 == 0 &&
     w 5 == 0 && w 6 == 0 && w 7 == 0 && d.banks ≤ 16 && d.iters ≤ 16 && 1 ≤ nrole && nrole ≤ 4 && nbar ≤ 32 &&
     d.lm ≤ 786432 && d.entry % 4 == 0 && d.lbase % 4 == 0 &&
     leNat ((bs.drop (0x40 + 4 * nrole)).take (16 - 4 * nrole)) == 0 && leNat (bs.drop (0x50 + 4 * nbar)) == 0 &&
     rs.all roleEntryOk && bars.all (barEntryOk d.lm) && (rs.map fun e => e / 2 ^ 8 % 256).sum == d.warps &&
     noRepeats (rs.map fun e => e % 256) && noRepeats (bars.map fun e => e % 2 ^ 20) then some d
  else none

/-- Bytes of the LM partition: declared bytes rounded up to 4 KiB (R15). -/
def Desc.part (d : Desc) : Nat := (d.lm + 4095) / 4096 * 4096

/-- Role and budget by warp index (R17). -/
def Desc.warpRoles (d : Desc) : List (Role × Nat) := d.roles.flatMap fun r => List.replicate r.2.1 (r.1, r.2.2)

/-- The team claims AM and the névé slice (R78). -/
def Desc.matrix (d : Desc) : Bool := d.roles.any fun r => r.1 == .matrix

/-! ### Resource claims (R15, R78) -/

/-- What a team takes on a core: warp slots by warp index, LM base, banks, iterators. -/
structure Fit where
  slots : List Nat
  base : Nat
  banks : List Nat
  iters : List Nat
  deriving DecidableEq, Repr

/-- Warp-registers free in a quadrant, of the used (slot, budget) pairs. -/
def quadFree (used : List (Nat × Nat)) (q : Nat) : Nat := 1024 - ((used.filter fun u => u.1 / 12 == q).map (·.2)).sum

/-- The quadrant with the most free warp-registers, ties to the lowest. -/
def bestQuad (used : List (Nat × Nat)) : Nat :=
  [1, 2, 3].foldl (fun b q => if quadFree used b < quadFree used q then q else b) 0

/-- The slots of warps with these budgets, in ascending warp index (R15). -/
def placeWarps : List Nat → List (Nat × Nat) → Option (List Nat)
  | [], _ => some []
  | b :: bs, used =>
    let q := bestQuad used
    match ((List.range 12).map (q * 12 + ·)).find? fun sl => !used.any (·.1 == sl) with
    | none => none
    | some sl => if b ≤ quadFree used q then (placeWarps bs (used ++ [(sl, b)])).map (sl :: ·) else none

/-- The partitions of a core, freed ones that copies still aim at among them (R76). -/
def Core.parts (k : Core) : List (Nat × Nat) := (k.teams ++ k.reserved).map fun t => (t.2.lmBase, t.2.lmSize)

/-- The lowest base at which a partition of n bytes overlaps no other. -/
def Core.lmBaseFor (k : Core) (n : Nat) : Option Nat :=
  let ends := sortAsc (0 :: k.parts.map fun p => p.1 + p.2)
  ends.find? fun b => b + n ≤ 786432 && k.parts.all fun p => !overlaps b n p.1 p.2

/-- The first n of 16 things that are not in use. -/
def firstFree (n : Nat) (used : List Nat) : Option (List Nat) :=
  let free := (List.range 16).filter fun i => !used.contains i
  if n ≤ free.length then some (free.take n) else none

/-- What a team of these claims would take on a core, if it fits (R15, R78). -/
def Core.fit (k : Core) (budgets : List Nat) (part banks iters : Nat) (matrix : Bool) : Option Fit :=
  if matrix && k.teams.any (·.2.matrix) then none
  else
    match placeWarps budgets (k.warps.map fun w => (w.1, w.2.budget)), k.lmBaseFor part,
        firstFree banks (k.teams.flatMap (·.2.banks)), firstFree iters (k.teams.flatMap (·.2.iters)) with
    | some sl, some b, some bk, some it => some ⟨sl, b, bk, it⟩
    | _, _, _, _ => none

/-- What a team of a descriptor would take on a core. -/
def Core.fitDesc (k : Core) (d : Desc) : Option Fit :=
  k.fit (d.warpRoles.map (·.2)) d.part d.banks d.iters d.matrix

/-- A cluster may be used: it is up at the current stage, the start sequence has not failed, and the device is at rest state
S0 (R16, R361, R363, R366). -/
def State.clusterUp (s : State) (cl : Nat) : Bool :=
  cl < 64 && s.boot.fail == 0 && s.boot.rest == 0 && (s.boot.stage != 0 || cl == 0)

/-- The cores of a cluster. -/
def coresOf (cl : Nat) : List Nat := (List.range 16).map (cl * 16 + ·)

/-- A gang of these teams on a cluster: team i on the i-th lowest-numbered core that fits (R16). -/
def fitTeams : List (Core → Option Fit) → List (Nat × Core) → Option (List (Nat × Fit))
  | [], _ => some []
  | _ :: _, [] => none
  | f :: fs, k :: ks =>
    match f k.2 with
    | some x => (fitTeams fs ks).map ((k.1, x) :: ·)
    | none => fitTeams (f :: fs) ks

/-- Where a gang's teams would go on a cluster. -/
def State.fitCluster (s : State) (cl : Nat) (fs : List (Core → Option Fit)) : Option (List (Nat × Fit)) :=
  if s.clusterUp cl then fitTeams fs ((coresOf cl).map fun c => (c, s.core c)) else none

/-- The claims of a gang of a descriptor. -/
def Desc.claims (d : Desc) : List (Core → Option Fit) := List.replicate d.teams fun k => k.fitDesc d

/-- The first cluster of a list that a gang fits. -/
def State.findCluster (s : State) (fs : List (Core → Option Fit)) : List Nat → Option (Nat × List (Nat × Fit))
  | [] => none
  | c :: cs =>
    match s.fitCluster c fs with
    | some x => some (c, x)
    | none => s.findCluster fs cs

/-- The clusters round-robin, after the one placed on last (R16); under DET in ascending order (R311). -/
def State.clusterOrder (s : State) (asid : Asid) : List Nat :=
  if s.det asid then List.range 64 else (List.range 64).map fun i => (s.hub.lastCluster + 1 + i) % 64

/-! ### Regions (R19 to R21) -/

/-- Row [a, a + n) meets a byte of a region. -/
def rowMeets (a n : Nat) (r : Region) : Bool :=
  let k := if a < r.base + r.width || r.pitch = 0 then 0 else (a - r.base - r.width) / r.pitch + 1
  k < r.rows && r.base + k * r.pitch < a + n && a < r.base + k * r.pitch + r.width

/-- Two regions share a byte. -/
def regionsMeet (r q : Region) : Bool := (List.range r.rows).any fun i => rowMeets (r.base + i * r.pitch) r.width q

/-- Two tasks' regions conflict: a shared byte, written by one (R20). -/
def regionsConflict (rs qs : List Region) : Bool :=
  rs.any fun r => qs.any fun q => (r.write || q.write) && regionsMeet r q

/-- One entry of a region declaration block: none where it is unused (R19). -/
def parseRegion (bs : List Byte) : Except Cause (Option Region) :=
  let w0 := leNat (bs.take 8)
  let w1 := leNat ((bs.drop 8).take 8)
  let mode := w0 / 2 ^ 54 % 4
  let r : Region :=
    { write := mode == 2, base := w0 % 2 ^ 54, pitch := w1 / 2 ^ 40, rows := w1 / 2 ^ 20 % 2 ^ 20, width := w1 % 2 ^ 20 }
  if w0 / 2 ^ 56 != 0 || mode == 3 || (1 < r.rows && r.pitch < r.width) then .error .queueInvalid
  else if mode = 0 then .ok none
  else if r.width = 0 || r.rows = 0 then .error .queueInvalid
  else .ok (some r)

/-- The used entries of a block (R19). -/
def parseRegions (bs : List Byte) : Except Cause (List Region) :=
  (List.range 4).foldl (fun acc i =>
    match acc, parseRegion ((bs.drop (16 * i)).take 16) with
    | .ok rs, .ok (some r) => .ok (rs ++ [r])
    | .ok rs, .ok none => .ok rs
    | .error c, _ | _, .error c => .error c) (.ok [])

/-! ### Head records (R12 to R14) -/

/-- Bytes of an address space as the hub reads them, in pieces of 64; the first fault is answered. -/
def State.hubRead (s : State) (asid : Asid) (va : Nat) : Nat → Except Cause (List Byte)
  | 0 => .ok []
  | n + 1 =>
    if inAperture va || 2 ^ 54 ≤ va then .error .outOfRange
    else match s.translateHub asid true va .read with
      | .error c => .error c
      | .ok x =>
        match (if hubRange x.pa then .error .outOfRange else s.homeRead x.pa 64), s.hubRead asid (va + 64) n with
        | .ok b, .ok bs => .ok (b ++ bs)
        | .error c, _ | _, .error c => .error c

/-- CODE of a record. -/
def recCode (r : List Byte) : Nat := recWord r 0 % 2 ^ 54

/-- PRIO of a record. -/
def recPrio (r : List Byte) : Nat := recWord r 0 / 2 ^ 54 % 4

/-- The record is restartable. -/
def recRestart (r : List Byte) : Bool := bitAt (recWord r 0) 56

/-- FRAME of a record. -/
def recFrame (r : List Byte) : Nat := recWord r 1 % 2 ^ 54

/-- GANGS of a record. -/
def recGangs (r : List Byte) : Nat := recWord r 3 / 2 ^ 48

/-- VA of a record's region declaration block; 0 for none. -/
def recRegions (r : List Byte) : Nat := recWord r 3 % 2 ^ 48 * 64

/-- The fields of a record R14 tests without its descriptor. -/
def recOk (r : List Byte) : Bool :=
  recWord r 0 / 2 ^ 57 == 0 && recWord r 1 / 2 ^ 54 == 0 && recWord r 2 / 2 ^ 54 == 0 && recGangs r != 0 && recCode r % 64 == 0

/-- The descriptor and regions of a record that passes R14; without the dependence unit it may use none (R346). -/
def State.readHead (s : State) (asid : Asid) (r : List Byte) : Option (List Byte × List Region) :=
  if !recOk r then none
  else match s.hubRead asid (recCode r) 4 with
    | .error _ => none
    | .ok bs =>
      match parseDesc bs with
      | none => none
      | some d =>
        if (Core.reset.fitDesc d).isNone then none
        else if recRegions r = 0 then some (bs, [])
        else match s.hubRead asid (recRegions r) 1 with
          | .error _ => none
          | .ok b => match parseRegions b with
            | .error _ => none
            | .ok rs => if rs.isEmpty || s.hasFeature 26 then some (bs, rs) else none

/-- Change the head of a queue. -/
def State.modHead (s : State) (q : Nat) (f : Head → Head) : State :=
  s.modHub fun h => { h with heads := h.heads.map fun e => if e.1 = q then (e.1, f e.2) else e }

/-- The head record leaves its queue; the next one reaches the head (R12, R13). -/
def State.popHead (s : State) (q : Nat) : State :=
  let c := s.hub.queue q
  let s := s.setQueue q { c with head := c.head + 1 }
  (s.modHub fun h => { h with heads := h.heads.filter (·.1 != q) }).noteHead q

/-- A head record that fails R14, or that a forced unload removes, leaves its queue with a fault-queue record; while the fault
queue has no room it stands at the head until the record is written (R14, R123, R348). -/
def State.rejectHead (s : State) (q : Nat) (h : Head) (c : Cause) : State :=
  let f := s.addFault (hubFault (recCode h.record) c 4 0 q (s.hub.queue q).asid)
  if s.faultRoom then f.1.popHead q else f.1.modHead q fun h => { h with checked := true, desc := [], regions := [], gone := some f.2 }

/-- Head records whose rejection has been recorded leave their queues. -/
def State.popGone (s : State) : State :=
  (s.hub.heads.filter fun e => match e.2.gone with | some f => s.recorded f | none => false).foldl (fun s e => s.popHead e.1) s

/-- Check head records in the order in which they reached their heads (R14): one that fails is removed with a
fault-queue record. `fuel` bounds the records checked in one step. -/
def State.checkHeads : Nat → State → State
  | 0, s => s
  | fuel + 1, s =>
    match s.hub.heads.find? fun e => !e.2.checked && (s.hub.queue e.1).v with
    | none => s
    | some (q, h) =>
      let asid := (s.hub.queue q).asid
      (match s.readHead asid h.record with
      | some (bs, rs) => s.modHead q fun h => { h with checked := true, desc := bs, regions := rs }
      | none =>
        let s := if recOk h.record then s.unheardAt asid (recCode h.record) .memoryUncorrectable else s
        s.rejectHead q h .queueInvalid).checkHeads fuel

/-- Used region entries in the table (R21). -/
def Hub.tableUsed (h : Hub) : Nat := (h.table.map fun e => e.regions.length).sum

/-- Records enter the dependence unit in the order in which they reached their heads, as long as their entries fit; none
passes one that does not (R20, R21). -/
def State.enterUnit (s : State) : List (Nat × Head) → State
  | [] => s
  | (q, h) :: hs =>
    if !(s.hub.queue q).v || !h.checked || h.regions.isEmpty || h.entered.isSome then s.enterUnit hs
    else if 2048 < s.hub.tableUsed + h.regions.length then s
    else
      let e : TabEntry :=
        { key := s.hub.nextKey, asid := (s.hub.queue q).asid, join := recJoin h.record, regions := h.regions }
      ((s.modHub fun h => { h with table := h.table ++ [e], nextKey := h.nextKey + 1 }).modHead q fun h =>
        { h with entered := some e.key }).enterUnit hs

/-- A record is admitted: no earlier task of its ASID in the table conflicts with it (R20). -/
def Hub.admitted (h : Hub) (asid : Asid) (x : Head) : Bool :=
  x.regions.isEmpty || match x.entered with
    | none => false
    | some k => h.table.all fun e => k ≤ e.key || e.asid != asid || !regionsConflict e.regions x.regions

/-- Gangs of an ASID that have not finished (R311). -/
def Hub.gangsOf (h : Hub) (asid : Asid) : Bool :=
  h.gangs.any (·.asid == asid) || (h.saving ++ h.resume).any (·.gang.asid == asid)

/-- The first cluster that fits the next gang of an admitted head record (R13, R16). -/
def State.headCluster (s : State) (q : Nat) (h : Head) : Option (Nat × List (Nat × Fit)) :=
  let c := s.hub.queue q
  if c.v && h.checked && s.hub.admitted c.asid h then
    match parseDesc h.desc with
    | none => none
    | some d => s.findCluster d.claims (s.clusterOrder c.asid)
  else none

/-- Where a head record's next gang would go, if the record is eligible (R13): under DET only once no gang of the ASID is
unfinished (R311). -/
def State.headFit (s : State) (q : Nat) (h : Head) : Option (Nat × List (Nat × Fit)) :=
  let c := s.hub.queue q
  if s.det c.asid && s.hub.gangsOf c.asid then none else s.headCluster q h

/-- The queues of a level in the order the placer takes them (R13). -/
def Hub.queueOrder (h : Hub) (level : Nat) : List Nat :=
  let last := amGet (level * 16 + 15) h.lastQueue level
  (List.range 16).map fun i => level * 16 + (last + 1 + i) % 16

/-- The head record of a queue. -/
def Hub.headOf (h : Hub) (q : Nat) : Option Head := (h.heads.find? fun e => e.1 == q).map (·.2)

/-- Under DET a queue's turn has come: no lower-numbered queue of the ASID has an eligible head (R311). -/
def State.queueTurn (s : State) (q : Nat) : Bool :=
  let a := (s.hub.queue q).asid
  !s.det a || s.hub.heads.all fun e => q ≤ e.1 || (s.hub.queue e.1).asid != a || (s.headFit e.1 e.2).isNone

/-- The first queue of a list with an eligible head. -/
def State.firstEligible (s : State) : List Nat → Option (Nat × Head × Nat × List (Nat × Fit))
  | [] => none
  | q :: qs =>
    match s.hub.headOf q with
    | none => s.firstEligible qs
    | some h =>
      match (if s.queueTurn q then s.headFit q h else none) with
      | some f => some (q, h, f.1, f.2)
      | none => s.firstEligible qs

/-! ### Starting a gang (R6, R8, R16, R75, R103, R106) -/

/-- A byte table without the keys of a range. -/
def dropRange {α : Type} (m : SMap α) (a n : Nat) : SMap α := m.filter fun e => !(a ≤ e.1 && e.1 < a + n)

/-- A core before a team starts on it: its LM partition, AM, névé slice, banks and iterators as R75, R103, R106 give. -/
def Core.clearFor (k : Core) (f : Fit) (part : Nat) (matrix : Bool) : Core :=
  let k := { k with
    lm := dropRange k.lm f.base part
    lmBad := k.lmBad.filter fun u => !(f.base ≤ u * 8 && u * 8 < f.base + part)
    locals := k.locals.filter fun x => !(f.base ≤ x.1 && x.1 < f.base + part)
    tags := k.tags.filter fun e => !f.banks.contains (e.1 / 256)
    iters := k.iters.filter fun e => !f.iters.contains e.1 }
  if matrix then { k with am := [], amBad := [], neve := [], neveBad := [], dupN := 0 } else k

/-- Declared barriers are set (R8). -/
def Core.setBars (k : Core) (base : Nat) (bars : List (Nat × Nat)) : Core :=
  bars.foldl (fun k b => k.setBar (base + b.1) { w0 := b.2 * 2 ^ 48, w1 := 0, w2 := 0, w3 := 0 }) k

/-- Total write-mode region bytes of a task (R138). -/
def writeTotal (rs : List Region) : Nat := ((rs.filter (·.write)).map fun r => r.rows * r.width).sum

/-- One team as it starts (R57, R64, R138). -/
def newTeam (d : Desc) (f : Fit) (g : Gang) (i : Nat) (regions : List Region) : Team :=
  let share := recGangs g.record * d.teams
  { gang := g.key, teamId := i, gangId := g.gangId, taskId := g.task, asid := g.asid, priv := d.priv, lmBase := f.base
    lmSize := d.part, banks := f.banks, iters := f.iters, matrix := d.matrix, warps := f.slots, roles := d.roles
    laneBase := BitVec.ofNat 54 d.lbase, laneLen := d.llen, trapBase := BitVec.ofNat 54 d.tbase, ts := [], instr := 0
    moved := 0, wbytes := 0, wtotal := BitVec.ofNat 48 ((writeTotal regions + share - 1) / max share 1), resid := 0
    irrev := false, run := .running, stop := StopRec.reset, declared := d.bars.map (·.1)
    objects := [] }

/-- One team starts on a core: PHASE.acq, memories at their start values, declared barriers, warps (R6, R8, R16, R75). -/
def State.startTeam (s : State) (d : Desc) (g : Gang) (regions : List Region) (i : Nat) (c : Nat) (f : Fit) : State :=
  let s := s.phaseAcq c
  let key := teamKey g.key i
  let warps := (f.slots.zip d.warpRoles).zipIdx.map fun p =>
    (p.1.1, newWarp key p.2 p.1.2.1 p.1.2.2 (BitVec.ofNat 54 (recFrame g.record)) (BitVec.ofNat 54 d.entry))
  s.modCore c fun k =>
    let k := (k.clearFor f d.part d.matrix).setBars f.base d.bars
    { k with
      teams := amPut k.teams key (newTeam d f g i regions)
      warps := warps.foldl (fun ws w => amPut ws w.1 w.2) k.warps }

/-- A gang starts on its cluster. -/
def State.startGang (s : State) (d : Desc) (g : Gang) (regions : List Region) (fits : List (Nat × Fit)) : State :=
  let s := fits.zipIdx.foldl (fun s p => s.startTeam d g regions p.2 p.1.1 p.1.2) s
  let teams := fits.zipIdx.map fun p => (p.1.1, teamKey g.key p.2)
  s.modHub fun h => { h with gangs := h.gangs ++ [{ g with teams := teams }] }

/-- Payload of a capture record of a placed gang (R310). -/
def placedBytes (r : List Byte) (gangId : Nat) (task : Word) : List Byte := r ++ leBytes 2 gangId ++ leBytes 4 task.toNat

/-- The next gang of a head record is placed (R13, R16). -/
def State.placeHead (s : State) (q : Nat) (h : Head) (d : Desc) (cl : Nat) (fits : List (Nat × Fit)) : State :=
  let asid := (s.hub.queue q).asid
  let task := h.task.getD s.hub.nextTask
  if s.captureWaits asid.toNat 38 then s
  else
    let s := s.capture asid.toNat 1 (recCode h.record) 0xFFFF 0 (placedBytes h.record h.next task)
    let s := if h.task.isSome then s
      else
        let t : Task := { id := task, asid := asid, queue := q, record := h.record, regions := h.regions }
        s.modHub fun x => { x with nextTask := x.nextTask + 1, tasks := x.tasks ++ [t] }
    let g : Gang :=
      { key := s.hub.nextKey, task := task, gangId := h.next, asid := asid, queue := q, cluster := cl, record := h.record
        desc := h.desc, teams := [], state := .running, since := s.clock.toNat }
    let s := (s.modHub fun x =>
      { x with nextKey := x.nextKey + 1, lastQueue := amPut x.lastQueue (q / 16) q, lastCluster := cl }).startGang d g
        h.regions fits
    if h.next + 1 = recGangs h.record then s.popHead q
    else s.modHead q fun h => { h with next := h.next + 1, task := some task, waitSince := none, asked := h.asked }

/-- How long each admitted head record has found no cluster (R289). -/
def State.noteWaits (s : State) : State :=
  s.modHub fun x => { x with heads := x.heads.map fun e =>
    let c := x.queue e.1
    let waits := c.v && e.2.checked && x.admitted c.asid e.2 && (s.headCluster e.1 e.2).isNone
    (e.1, { e.2 with waitSince := if waits then some (e.2.waitSince.getD s.clock.toNat) else none }) }

/-- The claims of a saved gang's teams; a gang to be started again claims as at first (R296, R297). -/
def SavedGang.claims (v : SavedGang) : List (Core → Option Fit) :=
  if v.kind = .restart then
    match parseDesc v.gang.desc with
    | some d => d.claims
    | none => []
  else v.teams.map fun t => fun k =>
    k.fit (t.warps.map fun w => w.2.budget) t.team.lmSize t.team.banks.length t.team.iters.length t.team.matrix

/-- The first entry of a level's resume list (R296). -/
def Hub.resumeFirst (h : Hub) (level : Nat) : Option SavedGang := h.resume.find? fun v => v.gang.queue / 16 == level

/-- A slot of the save pool (R293). -/
def State.slotPa (s : State) (k : Nat) : Nat := s.hub.regs.saveBase.toNat + k * 2 ^ 22

/-- The CODE_GONE mark of a saved gang, in the header of its first slot (R294, R298). -/
def State.codeGone (s : State) (v : SavedGang) : Bool :=
  v.teams.any fun t => bitAt (Memory.readNat s.mem (s.slotPa t.slot) 4) 2

/-- The first entry of a level's resume list is to be served before the level's head records (R296). -/
def State.resumeReady (s : State) (level : Nat) : Bool :=
  match s.hub.resumeFirst level with
  | none => false
  | some v => s.codeGone v || (s.findCluster v.claims (s.clusterOrder v.gang.asid)).isSome

/-- The level the placer serves next, from 3 down, and the head record it places there; none where a resume list comes
first (R13, R296). -/
def State.nextPlace (s : State) : List Nat → Option (Nat × Head × Nat × List (Nat × Fit))
  | [] => none
  | l :: ls =>
    if s.resumeReady l then none
    else match s.firstEligible (s.hub.queueOrder l) with
      | some x => some x
      | none => s.nextPlace ls

/-- GANG_PLACE: head records are checked and enter the dependence unit, and one gang of an eligible one is placed (R13
to R16, R20, R21). -/
def execGangPlace (s : State) : Host.Outcome State Fault Refusal :=
  .next <|
    let s := s.popGone.checkHeads 4096
    let s := (s.enterUnit s.hub.heads).noteWaits
    match s.nextPlace [3, 2, 1, 0] with
    | none => s
    | some (q, h, cl, fits) =>
      match parseDesc h.desc with
      | none => s
      | some d => s.placeHead q h d cl fits

/-! ### Retiring and finishing (R18, R31) -/

/-- Every lane of a warp has left, its queues are drained, its operations over and its flags clear (R31). -/
def Warp.mayRetire (w : Warp) : Bool :=
  (w.splits.all fun e => !e.2.live && e.2.cq.isEmpty && e.2.pend.isEmpty) && w.ops.isEmpty && w.flagsClear 0xFFF && w.held.isEmpty

/-- WARP_RETIRE (R31): a latch that lists the warp is released with a fault (R239). -/
def execWarpRetire (core slot : Nat) (s : State) : Host.Outcome State Fault Refusal :=
  .next <| match s.warp core slot with
  | none => s
  | some w =>
    if w.retired || !w.mayRetire then s
    else (s.setWarp core slot { w with retired := true }).latchRetire core w.team w.widx

/-- Take a gang's teams off their cores: slots, registers, banks, iterators and latches are free, and each partition
stays reserved while a copy may still reach it (R18, R76). -/
def State.leaveCores (s : State) (g : Gang) : State :=
  let s := g.teams.foldl (fun s p =>
    match s.team p.1 p.2 with
    | none => s
    | some t => s.modCore p.1 fun k =>
      { k with
        teams := amDel k.teams p.2
        reserved := amPut k.reserved p.2 t
        warps := k.warps.filter fun w => w.2.team != p.2
        latches := k.latches.filter fun l => l.team != p.2
        held := k.held.filter fun h => h.team != p.2 }) s
  s.modHub fun h =>
    { h with
      gangs := h.gangs.filter (·.key != g.key)
      dumps := h.dumps.filter fun d => !g.teams.contains d }

/-- Every warp of every team of a gang has retired (R18). -/
def State.gangDone (s : State) (g : Gang) : Bool :=
  g.teams.all fun p => match s.team p.1 p.2 with
    | none => false
    | some t => t.warps.all fun sl => match s.warp p.1 sl with
      | some w => w.retired
      | none => true

/-- GANG_JOIN_DECREMENT: a gang whose warps have all retired finishes: PHASE.rel on each of its cores, then the decrement
of the task's join object, and its resources are freed (R11, R18). -/
def execGangJoinDecrement (gang : Nat) (s : State) : Host.Outcome State Fault Refusal :=
  .next <| match s.hub.gangs.find? (·.key == gang) with
  | none => s
  | some g =>
    if !s.gangDone g then s
    else
      let s := g.teams.foldl (fun s p => (s.phaseRel p.1 none).1) s
      let s := (s.leaveCores g).modHub fun h => { h with gangBars := h.gangBars.filter (·.gang != g.key) }
      (s.freeParts).joinDecrement g.asid (recJoin g.record) .none

end Sys2Proof.Machine
end

