-- ==== Sys2Proof/Machine/Preempt.lean ====
section
/-! DEFINITION. Pre-emption requests, the cost estimator, saving and restoring gangs, discards, thermal migration (R194,
R228, R245, R269, R287 to R299). -/

namespace Sys2Proof.Machine

/-- Core cycles in a µs (R64, R290). -/
def cyclesPerUs : Nat := 940

/-! ### The estimator (R290, R291, R294) -/

/-- State bytes of a team (R294). -/
def State.teamBytes (s : State) (c : Nat) (t : Team) : Nat :=
  let budgets := (t.warps.map fun sl => match s.warp c sl with | some w => w.budget | none => 0).sum
  4096 + 24576 * t.warps.length + 136 * budgets + 2048 * t.banks.length + 320 * t.iters.length + t.lmSize +
    (if t.matrix then 524288 else 0)

/-- What becomes of a gang (R290, R291). -/
inductive Choice where
  | drain | discard | save
  deriving DecidableEq, Repr

/-- Whether a team may drain: d ≤ deadline, the deadline in cycles (R290). -/
def drainOk (t : Team) (cycles : Nat) : Bool :=
  let wb := t.wbytes.toNat
  let wt := t.wtotal.toNat
  wt != 0 && wb != 0 && (wt ≤ wb || t.resid.toNat * (wt - wb) ≤ cycles * wb)

/-- The action one team chooses; without `drain`, draining is excluded (R290, R291). -/
def State.teamChoice (s : State) (c : Nat) (t : Team) (restart drain : Bool) (cycles : Nat) : Choice :=
  if drain && drainOk t cycles then .drain
  else if restart && !t.irrev && t.resid.toNat * 64000 < s.teamBytes c t * cyclesPerUs then .discard
  else .save

/-- The gang's action (R291). -/
def State.gangChoice (s : State) (g : Gang) (drain : Bool) (cycles : Nat) : Choice :=
  let cs := g.teams.filterMap fun p =>
    (s.team p.1 p.2).map fun t => s.teamChoice p.1 t (recRestart g.record) drain cycles
  if cs.contains .save then .save else if cs.contains .discard then .discard else .drain

/-! ### The save pool (R293) -/

/-- The slots in use. -/
def Hub.usedSlots (h : Hub) : List Nat := (h.saving ++ h.resume).flatMap fun v => v.teams.map (·.slot)

/-- Slots promised to gangs that are still to be saved or discarded. -/
def Hub.promised (h : Hub) : Nat :=
  (h.gangs.map fun g => match g.state with
    | .saveAsked _ _ _ _ | .migrateAsked _ _ _ => g.teams.length
    | _ => 0).sum

/-- The free slots, lowest first. -/
def State.freeSlots (s : State) : List Nat :=
  (List.range (min s.hub.regs.saveSlots.toNat 4096)).filter fun k =>
    s.dramRange (s.slotPa k) (2 ^ 22) && !s.hub.usedSlots.contains k

/-- A gang of n teams finds slots (R291). -/
def State.slotsFor (s : State) (n : Nat) : Bool := n + s.hub.promised ≤ s.freeSlots.length

/-! ### Requests (R289) -/

/-- Replace a gang's state. -/
def State.setGang (s : State) (g : Gang) (x : GangState) : State :=
  s.modHub fun h => { h with gangs := h.gangs.map fun k => if k.key = g.key then { k with state := x } else k }

/-- A gang takes the action of R290 and R291 with a deadline given as a value of CLOCK; without save pre-emption it drains
(R346). -/
def State.applyChoice (s : State) (g : Gang) (q deadline : Nat) (drain : Bool) : State :=
  let c := s.gangChoice g drain (deadline - s.clock.toNat)
  if c = .drain || !s.hasFeature 32 then s.setGang g (.draining deadline q false)
  else if s.slotsFor g.teams.length then
    (s.modHub fun h => { h with nextKey := h.nextKey + 1 }).setGang g
      (.saveAsked q s.hub.nextKey (decide (c = .discard)) false)
  else s.setGang g (.draining deadline q true)

/-- A request names a gang (R289): one that is being saved, discarded or migrated ignores it, one that drains takes the
smaller deadline. -/
def State.preemptGang (s : State) (key q us : Nat) : State :=
  match s.hub.gangs.find? (·.key == key) with
  | none => s
  | some g =>
    let d := s.clock.toNat + us * cyclesPerUs
    match g.state with
    | .running => s.applyChoice g q d true
    | .draining old _ noSlot => s.applyChoice g q (if noSlot then d else min old d) true
    | _ => s

/-- The gangs a write of PREEMPT_TGT names under a mode of PREEMPT_CTL (R289). -/
def Hub.named (h : Hub) (mode tgt : Nat) : List Nat :=
  (h.gangs.filter fun g => match mode with
    | 0 => g.task.toNat == tgt / 2 ^ 16 % 2 ^ 32 && g.gangId == tgt % 2 ^ 16
    | 1 => g.asid.toNat == tgt % 2 ^ 12
    | 2 => g.cluster == tgt % 2 ^ 6
    | _ => false).map (·.key)

/-- MODE of PREEMPT_CTL. -/
def State.preemptMode (s : State) : Nat := s.hub.regs.preemptCtl.toNat / 2 ^ 62

/-- A host write of PREEMPT_TGT: the request PREEMPT_CTL describes (R289). -/
def State.preemptWrite (s : State) (v : BitVec 64) : State :=
  let ctl := s.hub.regs.preemptCtl.toNat
  let s := s.modRegs fun g => { g with preemptTgt := v }
  (s.hub.named s.preemptMode v.toNat).foldl (fun s k => s.preemptGang k (ctl / 2 ^ 60 % 4) (ctl / 2 ^ 32 % 2 ^ 28)) s

/-- PREEMPT_GANG: PREEMPT_TGT written while PREEMPT_CTL names one gang (R289). -/
def execPreemptGang (v : BitVec 64) (s : State) : Host.Outcome State Fault Refusal :=
  .next (if s.preemptMode = 0 then s.hostIn fun s => s.preemptWrite v else s)

/-- PREEMPT_ASID: PREEMPT_TGT written while PREEMPT_CTL names every gang of an ASID (R289). -/
def execPreemptAsid (v : BitVec 64) (s : State) : Host.Outcome State Fault Refusal :=
  .next (if s.preemptMode = 1 then s.hostIn fun s => s.preemptWrite v else s)

/-- PREEMPT_CLUSTER: PREEMPT_TGT written while PREEMPT_CTL names every gang on a cluster (R289). -/
def execPreemptCluster (v : BitVec 64) (s : State) : Host.Outcome State Fault Refusal :=
  .next (if s.preemptMode = 2 then s.hostIn fun s => s.preemptWrite v else s)

/-- The gangs of queue levels below L on a cluster. -/
def Hub.lower (h : Hub) (level cl : Nat) : List Gang := h.gangs.filter fun g => g.cluster == cl && g.queue / 16 < level

/-- A core without the teams of some gangs. -/
def Core.without (k : Core) (gs : List Gang) : Core :=
  let gone (t : Nat × Team) : Bool := gs.any fun g => g.key == t.2.gang
  { k with
    teams := k.teams.filter fun t => !gone t
    warps := k.warps.filter fun w => !(k.teams.any fun t => t.1 == w.2.team && gone t) }

/-- A gang of these claims would fit a cluster if some gangs departed. -/
def State.wouldFit (s : State) (cl : Nat) (gs : List Gang) (fs : List (Core → Option Fit)) : Bool :=
  s.clusterUp cl && (fitTeams fs ((coresOf cl).map fun c => (c, (s.core c).without gs))).isSome

/-- PLACER_PREEMPT_REQUEST: an admitted head record that no cluster has fitted for 64 µs asks for the departure of
lower-level gangs, once (R289). -/
def execPlacerPreemptRequest (q : Nat) (s : State) : Host.Outcome State Fault Refusal :=
  .next <|
    let s := s.noteWaits
    match s.hub.headOf q with
    | none => s
    | some h =>
      match h.waitSince, parseDesc h.desc with
      | some t, some d =>
        if h.asked || s.clock.toNat < t + 64 * cyclesPerUs then s
        else
          match (List.range 64).find? fun cl =>
              !(s.hub.lower (q / 16) cl).isEmpty && s.wouldFit cl (s.hub.lower (q / 16) cl) d.claims with
          | none => s
          | some cl =>
            let keys := (s.hub.lower (q / 16) cl).map (·.key)
            keys.foldl (fun s k => s.preemptGang k (recPrio h.record) s.hub.regs.preDeadline.toNat)
              (s.modHead q fun h => { h with asked := true })
      | _, _ => s

/-- DRAIN_DEADLINE_EXPIRE: the deadline of a draining gang has passed, or slots are free again for one that had none:
R290 is applied again with drain excluded (R291). -/
def execDrainDeadlineExpire (gang : Nat) (s : State) : Host.Outcome State Fault Refusal :=
  .next <| match s.hub.gangs.find? (·.key == gang) with
  | none => s
  | some g =>
    match g.state with
    | .draining d q noSlot =>
      if noSlot && !s.slotsFor g.teams.length then s
      else if noSlot || d ≤ s.clock.toNat then s.applyChoice g q d false
      else s
    | _ => s

/-! ### Stopping a gang at an instruction boundary (R194, R228, R245, R269, R292) -/

/-- The teams of a gang, as core, key and team. -/
def State.teamsOf (s : State) (g : Gang) : List (Nat × Nat × Team) :=
  g.teams.filterMap fun p => (s.team p.1 p.2).map fun t => (p.1, p.2, t)

/-- The warps of a team, as slot and warp. -/
def State.warpsOf (s : State) (c key : Nat) : List (Nat × Warp) := (s.core c).warps.filter fun w => w.2.team == key

/-- Running teams of a gang stop issuing; stopped ones stand as they are. -/
def State.beginLeave (s : State) (g : Gang) : State :=
  g.teams.foldl (fun s p => s.modTeam p.1 p.2 fun t => if t.run = .running then { t with run := .leaving } else t) s

/-- A claim or LAUNCH has performed its first atomic or increment (R269). -/
def Op.past (o : Op) : Bool :=
  match o.instr, o.aux with
  | .qpush _, .eng n _ | .qfence _, .eng n _ => 2 ≤ n
  | .tqpop _, .eng n vals => 2 ≤ n || (n == 1 && engVal vals 1 != numWord (engVal vals 0) 0)
  | .tqsteal _, .eng n vals => 5 ≤ n || (2 ≤ n && engVal vals 2 != 0)
  | .tqdone _, .eng n _ => 3 ≤ n || o.accs.any (·.st.isOver)
  | .launch _, .launch _ _ r _ => r
  | _, _ => false

/-- A lane can go no further until a fault record is replayed: it is stalled, or it waits in its order behind a lane that is
(R142, R171, R213, R228). -/
def Acc.stuck (k : Core) (w : Warp) (o : Op) (sp : MemSpec) (a : Acc) : Bool :=
  a.st.isOver || a.st.isStalled ||
  (a.st == .todo && (o.blocked sp || (!o.released && !w.priorDone o.id) ||
    (o.released && if a.path == .fabric then !maySend w o a else !mayPerform k w o a sp.order)))

/-- The release an operation makes first waits for an earlier access (R145, R147). -/
def Op.relWaits (w : Warp) (o : Op) : Bool := o.rel == .pending && !w.priorDone o.id

/-- An operation is complete but for replayable faults, its own, that of its straggler record, or those of accesses it follows
(R228, R303, R370; log 77). -/
def Op.stuck (k : Core) (w : Warp) (o : Op) : Bool :=
  let stalls := o.accs.any (·.st.isStalled)
  let idle := o.accs.all fun a => a.st.isOver || a.st.isStalled || a.st == .todo
  match o.instr with
  | .launch _ | .qpush _ | .qfence _ | .tqpop _ | .tqsteal _ | .tqdone _ => idle && (stalls || o.relWaits w)
  | .next x | .nextBounded x => idle && (stalls || k.pulling w.team (iterNo x) o.serial)
  | .barrive _ | .barriveBytes _ | .gbar _ | .fbar _ =>
    !w.priorDone o.id || k.held.any fun h => h.op.any fun p =>
      p.2 == o.id && (amFind k.warps p.1).any fun v => v.team == w.team && v.widx == w.widx
  | .mma _ | .mmaJ _ | .bld _ | .stacc _ | .zacc _ | .mwait _ | .phaseRel _ | .phaseAcq _ => false
  | i =>
    match memSpec i with
    | some (_, sp) => o.accs.all (Acc.stuck k w o sp)
    | none => o.accs.all fun a => a.st.isOver || a.st.isStalled

/-- The arriving instructions (R254). -/
def isArrival : Instr → Bool
  | .barrive _ | .barriveBytes _ | .gbar _ | .fbar _ => true
  | _ => false

/-- A lane waits at home under ADJR: at its own home, or at one of this device that it reached through the aperture (R88, R227). -/
def State.waitsHome (s : State) (a : AccSt) : Bool :=
  a.isWaiting || match a with
    | .sent tag => s.fab.early.any fun e => e.packet.src == s.fab.device && e.packet.tag == tag
    | _ => false

/-- An operation is as far as a save needs it (R228, R245, R269): an arrival has been performed, and of the others it is complete but for replayable faults, a lane of it waits
at home under ADJR and is withdrawn unchanged, or it is saved at its instruction: a NEXT at a commit boundary, a LAUNCH before
its increment. A claim past its first atomic goes on. -/
def Op.quiet (k : Core) (w : Warp) (o : Op) (waits : AccSt → Bool) : Bool :=
  match o.instr with
  | .launch _ => !o.past && !o.accs.any (·.st.isSent)
  | .next _ | .nextBounded _ => !o.accs.any (·.st.isSent)
  | i =>
    match memSpec i with
    | some (_, sp) => o.accs.all fun a => Acc.stuck k w o sp a || (sp.adj && waits a.st)
    | none => !isArrival i && !o.past && o.stuck k w

/-- Everything a gang dispatched is complete, stalled or withdrawn; its arrivals are performed, and its TLBINVs complete (R276,
R292). -/
def State.gangQuiet (s : State) (g : Gang) : Bool :=
  g.teams.all fun p =>
    (s.warpsOf p.1 p.2).all (fun w => (w.2.ops.all fun o => Op.quiet (s.core p.1) w.2 o s.waitsHome) &&
      w.2.splits.all fun e => !e.2.midway) &&
    !(s.core p.1).held.any fun h => h.team == p.2

/-- A gang waits for its turn on a cluster: q and order of its request (R289). -/
def Gang.asks (g : Gang) : Option (Nat × Nat) :=
  match g.state with
  | .saveAsked q o _ _ => some (q, o)
  | .migrateAsked o _ _ => some (0, o)
  | _ => none

/-- A gang has begun to leave. -/
def Gang.begun (g : Gang) : Bool :=
  match g.state with
  | .saveAsked _ _ _ b | .migrateAsked _ b _ => b
  | _ => false

/-- Each cluster saves one gang at a time, in descending q and then in order of request (R289). -/
def State.saveTurn (s : State) (g : Gang) : Bool :=
  g.begun ||
  ((s.hub.saving.all fun v => v.gang.cluster != g.cluster) &&
    s.hub.gangs.all fun h => h.cluster != g.cluster || h.key == g.key ||
      (!h.begun && match h.asks, g.asks with
        | some a, some b => a.1 < b.1 || (a.1 == b.1 && b.2 < a.2)
        | _, _ => true))

/-- The gang has begun to leave. -/
def State.markBegun (s : State) (g : Gang) : State :=
  match g.state with
  | .saveAsked q o d _ => (s.setGang g (.saveAsked q o d true)).beginLeave g
  | .migrateAsked o _ d => (s.setGang g (.migrateAsked o true d)).beginLeave g
  | _ => s.beginLeave g

/-- Each core of a gang performs PHASE.rel (R292). -/
def State.releaseGang (s : State) (g : Gang) : State := g.teams.foldl (fun s p => (s.phaseRel p.1 none).1) s

/-! ### Save slots (R294, R295) -/

/-- Bytes written over a zeroed area at an offset. -/
def bytesAt (off : Nat) (bs : List Byte) (area : List Byte) : List Byte :=
  area.take off ++ bs ++ area.drop (off + bs.length)

/-- 2-bit residues of registers, packed. -/
def packResidues (rs : List RWord) : List Byte :=
  leBytes ((rs.length + 3) / 4) (rs.foldr (fun r n => r.res.toNat + 4 * n) 0)

/-- Pieces written at their offsets into a zeroed area of n bytes. -/
def areaOf (n : Nat) (ps : List (Nat × List Byte)) : List Byte :=
  ps.foldl (fun a p => bytesAt p.1 p.2 a) (List.replicate n 0)

/-- STATE of a slot: its code, and bit 3 for a deferred MMA fault (R245, R294). -/
def slotState (v : SavedTeam) (code : Nat) : Nat :=
  code + if v.warps.any fun w => w.2.splits.any fun e => e.2.pend.any (·.mma) then 8 else 0

/-- Fields packed from bit 0 up, as (value, width). -/
def packFields (fs : List (Nat × Nat)) : Nat := fs.foldr (fun f n => f.1 % 2 ^ f.2 + 2 ^ f.2 * n) 0

/-- The fields of these widths, from bit 0 up. -/
def takeFields (n : Nat) : List Nat → List Nat
  | [] => []
  | w :: ws => n % 2 ^ w :: takeFields (n / 2 ^ w) ws

/-- Widths of the fields of a split entry in the order of R295: VAL, EXEC, SPC, LK, JPC, JSAVE, ORIGIN, LIVE, JW; the open
CALLV or JMPV sequence as its valid bit, its kind (1 for JMPV), its running group, its saved EXEC, the lanes left to run, those
guarded off, JPC when it opened; then the lanes the split holds and whether it waits at the end of a group. The spec gives the
64 bytes no layout: this one is the model's (log 27). -/
def splitWidths : List Nat := [1, 32, 54, 54, 54, 54, 5, 6, 1, 1, 1, 32, 32, 32, 32, 54, 32, 1]

/-- A Boolean as a bit. -/
def bitOf (b : Bool) : Nat := if b then 1 else 0

/-- The fields of a split entry. -/
def Split.fields (sp : Split) : List Nat :=
  let q : List Nat := match sp.seq with
    | none => [0, 0, 0, 0, 0, 0, 0]
    | some q =>
      [1, bitOf (q.kind == .jmpV), q.group.toNat, q.save.toNat, (maskOf (q.left.map (·.1))).toNat, q.off.toNat, q.jpc.toNat]
  [bitOf sp.live, sp.exec.toNat, sp.spc.toNat, sp.lk.toNat, sp.jpc.toNat, sp.jsave.toNat, sp.origin.toNat, sp.liveCount.toNat,
    bitOf sp.jw] ++ q ++ [sp.lanes.toNat, bitOf sp.atEnd]

/-- A split with the fields of its entry (R296); what the entry does not hold (log 27) stays. -/
def Split.ofFields (sp : Split) (f : List Nat) : Split :=
  let n (i : Nat) : Nat := f.getD i 0
  let lanes (i : Nat) : Lanes := BitVec.ofNat 32 (n i)
  let seq : Option CallSeq := match sp.seq with
    | none => none
    | some q =>
      if n 9 = 0 then none
      else
        some { q with
          kind := if n 10 = 1 then .jmpV else .callV
          group := lanes 11
          save := lanes 12
          left := q.left.filter fun p => laneIn (lanes 13) p.1
          off := lanes 14
          jpc := BitVec.ofNat 54 (n 15) }
  { sp with
    live := n 0 == 1
    exec := lanes 1
    spc := BitVec.ofNat 54 (n 2)
    lk := BitVec.ofNat 54 (n 3)
    jpc := BitVec.ofNat 54 (n 4)
    jsave := BitVec.ofNat 54 (n 5)
    origin := BitVec.ofNat 5 (n 6)
    liveCount := BitVec.ofNat 6 (n 7)
    jw := n 8 == 1
    lanes := lanes 16
    atEnd := n 17 == 1
    seq := seq }

/-- The captured g words of a clause in the order of its capture set, 30 at most (R164, R295). -/
def Clause.captures (c : Clause) : List RWord :=
  ((captureSet c.words).take 30).map fun g => capturedCell c.gs (BitVec.ofNat 6 g)

/-- A clause record, 160 bytes, with the index of the next instruction and the lanes it owes (R295). The spec gives it no
layout: this one is the model's (log 27). -/
def clauseRecord (c : Clause) (next : Nat) (owed : Lanes) : List Byte :=
  areaOf 160
    [(0, leBytes 4 c.unit ++ leBytes 1 c.len ++ leBytes 1 next), (8, leBytes 4 owed.toNat ++ leBytes 4 c.exec.toNat),
     (16, c.captures.flatMap fun r => leBytes 4 r.val.toNat), (136, packResidues c.captures)]

/-- A clause with what its record at an address of memory holds (R296); its words, read at ISSUE, stay (log 27). -/
def Clause.ofRecord (mem : List Host.Cell) (a : Nat) (c : Clause) : Clause :=
  let cell (i : Nat) : RWord :=
    ⟨BitVec.ofNat 32 (Memory.readNat mem (a + 16 + 4 * i) 4), BitVec.ofNat 2 (Memory.readNat mem (a + 136 + i / 4) 1 / 4 ^ (i % 4))⟩
  { c with
    unit := Memory.readNat mem a 4
    len := Memory.readNat mem (a + 4) 1
    exec := BitVec.ofNat 32 (Memory.readNat mem (a + 12) 4)
    gs := ((captureSet c.words).take 30).zipIdx.foldl (fun m p => smPut cellZero m p.1 (cell p.2)) [] }

/-- The lanes an operation owes. -/
def Op.owes (o : Op) : Lanes :=
  if o.accs.isEmpty then o.act else maskOf ((o.accs.filter fun a => !a.st.isOver).map (·.lane))

/-- The clauses that a split entry's operations in flight are of and that have left its queue. -/
def Warp.spent (w : Warp) (e : Nat) (sp : Split) : List Clause :=
  w.ops.foldl (fun cs o => match o.clause with
    | some c =>
      if o.entry != e || (cs ++ sp.cq).any (·.serial == c.serial) then cs else cs ++ [c]
    | none => cs) []

/-- The clause records of a split entry: of the clauses with lanes owed, and of those queued, four at most (R102, R295). -/
def Warp.records (w : Warp) (e : Nat) (sp : Split) : List (List Byte) :=
  ((w.spent e sp ++ sp.cq).take 4).map fun c =>
    match w.ops.find? fun o => o.entry == e && o.clauseSerial == c.serial with
    | some o => clauseRecord c (o.unit - c.unit - 1) o.owes
    | none => clauseRecord c c.next (c.owed.getD 0)

/-- A split entry with its clause records, 704 bytes (R295). -/
def Warp.entryBytes (w : Warp) (e : Nat) : List Byte :=
  match amFind w.splits e with
  | none => []
  | some sp => leBytes 64 (packFields (sp.fields.zip splitWidths)) ++ (w.records e sp).flatten

/-- The 32 split entries of a warp as pieces of its section (R295). -/
def Warp.entries (w : Warp) : List (Nat × List Byte) := (List.range 32).map fun e => (0x200 + 704 * e, w.entryBytes e)

/-- The tag table of a team: per entry TAG, then SLOT, which of an invalid entry is 0xFFFFFFFF (R103, R294; log 27). -/
def SavedTeam.tagBytes (v : SavedTeam) : List Byte :=
  (List.range (256 * v.team.banks.length)).flatMap fun i =>
    let t := amGet TagEntry.reset v.tags i
    if t.v then leBytes 4 t.tag.toNat ++ leBytes 4 t.slot.toNat else leBytes 4 t.tag.toNat ++ leBytes 4 0xFFFFFFFF

/-- The header of a slot, 0x1000 bytes (R294). Its rows at 0x70 and 0x78 overlap by one byte: that byte is BUDGET's
(log 26). -/
def slotHeader (g : Gang) (v : SavedTeam) (code next clock : Nat) (k : Core) : List Byte :=
  let t := v.team
  let ts := (List.range 32).map t.ts_
  let voff := (v.warps.zipIdx).flatMap fun p =>
    leBytes 4 (0x61000 + 136 * ((v.warps.take p.2).map fun w => w.2.budget).sum)
  let dup := leBytes 2 k.dupN ++ (List.range 64).flatMap fun i => leBytes 2 (k.dupCh.getD i 0).toNat
  areaOf 0x1000
    [(0x0, leBytes 4 (slotState v code) ++ leBytes 4 next ++ leBytes 4 (g.queue % 64)), (0x10, g.record),
     (0x30, leBytes 4 g.task.toNat ++ leBytes 2 g.gangId ++ leBytes 1 t.teamId),
     (0x38, leBytes 2 g.asid.toNat ++ leBytes 2 v.core),
     (0x40, leBytes 8 t.instr.toNat ++ leBytes 8 t.moved.toNat ++ leBytes 8 t.wbytes.toNat),
     (0x58, leBytes 8 t.wtotal.toNat ++ leBytes 8 t.resid.toNat ++ leBytes 8 clock),
     (0x70, leBytes 4 t.lmSize ++ leBytes 1 v.warps.length ++ leBytes 1 t.banks.length ++ leBytes 1 t.iters.length),
     (0x77, leBytes 1 (if t.matrix then 1 else 0) ++ leBytes 1 (if t.irrev then 1 else 0)),
     (0x78, v.warps.map fun w => BitVec.ofNat 8 (w.2.budget / 8)), (0x88, leBytes 8 t.trapBase.toNat),
     (0x90, ts.flatMap fun r => leBytes 4 r.val.toNat), (0x110, packResidues ts), (0x118, if t.matrix then dup else []),
     (0x1A0, (List.range 16).flatMap fun i => leBytes 4 (v.fabric.getD i 0xFFFFFFFF)), (0x1E0, voff)]

/-- The imm of an MMA.j that waits at a latch (R295). -/
def SavedTeam.latchImm (v : SavedTeam) (widx : Nat) : Option Word :=
  (v.latches.find? fun l => l.waiting.any (·.1 == widx)).map (·.imm)

/-- A warp section but for its split entries, 0x200 bytes (R295). -/
def warpHead (v : SavedTeam) (widx : Nat) (w : Warp) : List Byte :=
  let gs := (List.range 64).map fun r => w.g_ (BitVec.ofNat 6 r)
  areaOf 0x200
    [(0x0, gs.flatMap fun r => leBytes 4 r.val.toNat), (0x100, packResidues gs),
     (0x110, (List.range 12).map fun i => BitVec.ofNat 8 (w.flag i)), (0x120, leBytes 4 w.gang.toNat),
     (0x128, leBytes 8 w.trapCause.toNat ++ leBytes 8 w.trapPc.toNat ++ leBytes 8 w.trapAddr.toNat),
     (0x140, leBytes 4 (match w.latch with | some e => e % 64 + 128 | none => 0)),
     (0x144, match v.latchImm widx with | some i => leBytes 8 (2 ^ 63 + i.toNat) | none => [])]

/-- A vector section (R294). -/
def vectorSection (w : Warp) : List Byte :=
  (List.range w.budget).flatMap fun r =>
    let ls := (List.range 32).map fun l => w.v_ r l
    (ls.flatMap fun x => leBytes 4 x.val.toNat) ++ packResidues ls

/-- The pieces of a slot, but for LM (R294, R295). -/
def slotPieces (g : Gang) (v : SavedTeam) (next clock : Nat) (k : Core) : List (Nat × List Byte) :=
  let am := (List.range 65536).flatMap fun i => leBytes 4 (amGet 0 k.am i).toNat
  [(0, slotHeader g v 1 next clock k)] ++
  (v.warps.zipIdx.map fun p => (0x1000 + 0x6000 * p.2, areaOf 0x6000 ((0, warpHead v p.1.1 p.1.2) :: p.1.2.entries))) ++
  [(0x61000, v.warps.flatMap fun w => vectorSection w.2), (0xE9000, v.tagBytes),
   (0xF1000, v.team.iters.flatMap fun i => (k.iter i).imageWith (k.iter i).opn)] ++
  (if v.team.matrix then [(0x1C0000, am), (0x200000, byteRead k.neve 0 262144)] else [])

/-- Units of memory become uncorrectable (R83). -/
def State.spoil (s : State) (us : List Nat) : State := { s with memBad := us.foldl (fun m u => addBad u m) s.memBad }

/-- The units of a slot that hold what is uncorrectable in AM or the névé slice (R83). -/
def State.slotBad (s : State) (v : SavedTeam) (k : Core) : List Nat :=
  if v.team.matrix then
    (k.amBad.map fun u => (s.slotPa v.slot + 0x1C0000) / 8 + u) ++ k.neveBad.map fun u => (s.slotPa v.slot + 0x200000) / 8 + u
  else []

/-- Write a slot at home: its 4 MiB are zeroed first (R294). -/
def State.writeSlot (s : State) (slot : Nat) (ps : List (Nat × List Byte)) : State :=
  let pa := s.slotPa slot
  let s := { s with
    mem := dropRange s.mem pa (2 ^ 22)
    memBad := s.memBad.filter fun u => !(pa ≤ u * 8 && u * 8 < pa + 2 ^ 22) }
  ps.foldl (fun s p => s.hubPut (pa + p.1) p.2) s

/-- STATE of a slot alone. -/
def State.setSlotState (s : State) (slot code : Nat) : State := s.hubPut (s.slotPa slot) (leBytes 4 code)

/-! ### Saving (R292) -/

/-- A split at its instruction boundary (R194). -/
def Split.saved (sp : Split) : Split :=
  match sp.wait with
  | .replay _ _ | .refetch _ _ | .qwait _ _ _ _ | .fabricPoll _ _ _ | .yielded _ | .pendingWrite | .issueFull | .barwait _ =>
    { sp with wait := .run }
  | _ => sp

/-- A lane as it will be performed again: stalled and withdrawn lanes are retried, and so is a lane held behind them, which
must be translated on the new core (R228). -/
def Acc.saved (a : Acc) : Acc := if a.st.isOver then a else { a with st := .retry, drop := false }

/-- An operation as the save keeps it (R228, R264, R269). -/
def Op.saved (o : Op) : Op :=
  match o.instr, o.aux with
  | .next _, .pull out st lk _ | .nextBounded _, .pull out st lk _ =>
    { o with accs := o.accs.map fun a => if a.st.bad then a else { a with st := .todo }, aux := .pull out st lk [] }
  | _, _ => { o with accs := o.accs.map Acc.saved }

/-- A warp as the save keeps it. -/
def Warp.saved (w : Warp) : Warp :=
  { w with splits := w.splits.map fun e => (e.1, e.2.saved), ops := w.ops.map Op.saved }

/-- What a core notes of the barrier objects of a partition, by offset (R132, R135). -/
def Core.localsOf (k : Core) (base size : Nat) : List (Nat × Nat × Nat) :=
  (k.locals.filter fun x => base ≤ x.1 && x.1 < base + size).map fun x => (x.1 - base, x.2)

/-- The oldest NEXT in flight on an iterator of a team, with its warp: of the team's warps, the one that pulls (R268). -/
def pullerOf (ws : List Warp) (t : Team) (n : Nat) : Option (Warp × Op) :=
  let ps := ws.flatMap fun w =>
    (w.ops.filter fun o => (List.range 16).any fun i => o.pullsOn i && t.iter i == some n).map fun o => (w, o)
  ps.foldl (fun b p => match b with
    | some q => if p.2.serial < q.2.serial then some p else b
    | none => some p) none

/-- What an iterator's image holds at a save: the values a NEXT in flight has committed are its carry buffer, and BND says
whether its pull had stopped at a range end (R269). -/
def State.iterAtSave (s : State) (core key : Nat) (t : Team) (n : Nat) : Iter :=
  let k := s.core core
  let i := k.iter n
  match pullerOf ((s.warpsOf core key).map (·.2)) t n with
  | some (w, o) =>
    (match o.aux with
    | .pull out st lk _ =>
      { i with carry := out, cw := if out.isEmpty then i.cw else w.widx, bnd := s.pullStopped core n t st lk }
    | _ => i)
  | none => i

/-- The team as it leaves its core, with the slot it goes to. -/
def State.takeTeam (s : State) (c key slot : Nat) (t : Team) : SavedTeam :=
  let k := s.core c
  let ws := (s.warpsOf c key).map (·.2)
  let idx (sl : Nat) : Nat := k.indexOf sl
  { slot := slot, core := c, key := key, team := t
    warps := (List.range t.warps.length).filterMap fun i => (ws.find? (·.widx == i)).map fun w => (i, w.saved)
    latches := (k.latches.filter (·.team == key)).map fun l =>
      { l with waiting := l.waiting.map fun p => (idx p.1, p.2) }
    locals := k.localsOf t.lmBase t.lmSize
    tags := (List.range t.banks.length).flatMap fun i =>
      (k.tags.filter fun e => e.1 / 256 == t.banks.getD i 0).map fun e => (i * 256 + e.1 % 256, e.2)
    fabric := [] }

/-- The saved teams of a gang, in TEAM_ID order, with the lowest-numbered free slots (log 25). -/
def State.takeGang (s : State) (g : Gang) : List SavedTeam :=
  (g.teams.zip (if g.teams.isEmpty then [] else s.freeSlots)).filterMap fun p =>
    (s.team p.1.1 p.1.2).map fun t => s.takeTeam p.1.1 p.1.2 p.2 t

/-- NEXT of each slot of a chain (R294). -/
def chainNext (vs : List SavedTeam) (i : Nat) : Nat :=
  match vs[i + 1]? with
  | some v => v.slot
  | none => 0xFFFFFFFF

/-- The operations in flight of a gang, as core, warp slot and operation. -/
def State.gangOps (s : State) (g : Gang) : List (Nat × Nat × Op) :=
  g.teams.flatMap fun p => (s.warpsOf p.1 p.2).flatMap fun w => w.2.ops.map fun o => (p.1, w.1, o)

/-- The reads of a gang that wait at a home of this device behind the aperture are withdrawn there unchanged (R88, R228). -/
def State.withdraw (s : State) (g : Gang) : State :=
  let tags := (s.gangOps g).flatMap fun x => x.2.2.accs.filterMap fun a => match a.st with
    | .sent tag => if s.waitsHome a.st then some tag else none
    | _ => none
  let mine (p : Packet) : Bool := p.src == s.fab.device && tags.contains p.tag
  { s with fab := { s.fab with
    early := s.fab.early.filter fun e => !mine e.packet
    grants := s.fab.grants.filter fun g => !mine g.1
    outstanding := s.fab.outstanding.filter fun o => !tags.contains o.tag } }

/-- The lanes of a gang's GATHER.P that are held behind a stalled access are reported incomplete (R217, R228). -/
def State.endGathers (s : State) (g : Gang) : State :=
  (s.gangOps g).foldl (fun (s : State) (x : Nat × Nat × Op) => match x.2.2.instr with
    | .gatherP a =>
      let left := (x.2.2.accs.filter fun b => !b.st.isOver).map (·.lane)
      let s := left.foldl (fun s l => s.writeV x.1 x.2.1 a.vc l [0]) s
      s.updateOp x.1 x.2.1 { x.2.2 with
        rel := .none, accs := x.2.2.accs.map fun b => if b.st.isOver then b else { b with st := .done } }
    | _ => s) s

/-- Steps 2 and 3 of R292: the releases, the slots but for LM, and the gang leaves its cores. -/
def State.saveGang (s : State) (g : Gang) (kind : LeaveKind) : State :=
  let s := ((s.withdraw g).endGathers g).releaseGang g
  let vs := s.takeGang g
  let s := vs.zipIdx.foldl (fun (s : State) (p : SavedTeam × Nat) =>
    let k := s.core p.1.core
    let k' := { k with iters := p.1.team.iters.map fun n => (n, s.iterAtSave p.1.core p.1.key p.1.team n) }
    (s.writeSlot p.1.slot (slotPieces g p.1 (chainNext vs p.2) s.clock.toNat k')).spoil (s.slotBad p.1 k)) s
  let s := s.modHub fun h => { h with saving := h.saving ++ [{ gang := g, kind := kind, teams := vs }] }
  s.leaveCores g

/-- GANG_SAVE: in its turn a gang stops issuing; once everything it dispatched is complete, stalled or withdrawn, it is
saved but for its LM (R289, R292). -/
def execGangSave (gang : Nat) (s : State) : Host.Outcome State Fault Refusal :=
  .next <| match s.hub.gangs.find? (·.key == gang) with
  | none => s
  | some g =>
    let kind : Option LeaveKind := match g.state with
      | .saveAsked _ _ false _ => some .save
      | .migrateAsked _ _ _ => some .migrate
      | _ => none
    match kind with
    | none => s
    | some k =>
      if !s.saveTurn g then s
      else
        let s := s.markBegun g
        if s.gangQuiet g && g.teams.length ≤ s.freeSlots.length then s.saveGang g k else s

/-- Free the partitions of a gang. -/
def State.dropParts (s : State) (gang : Nat) : State :=
  { s with cores := s.cores.map fun c =>
      (c.1, { c.2 with reserved := c.2.reserved.filter fun r => r.2.gang != gang }) }

/-- GANG_DISCARD: a gang to be discarded stops as in steps 1, 2 and 4 of R292: for a restart its slots record the header
(R297); dropped by the host it is gone (R305). One that has performed what a rerun would repeat in the meantime is saved
instead (R290). -/
def execGangDiscard (gang : Nat) (s : State) : Host.Outcome State Fault Refusal :=
  .next <| match s.hub.gangs.find? (·.key == gang) with
  | none => s
  | some g =>
    match g.state with
    | .saveAsked q o true _ =>
      if !s.saveTurn g then s
      else
        let s := s.markBegun g
        if !(s.gangQuiet g && g.teams.length ≤ s.freeSlots.length) then s
        else if (s.teamsOf g).any (·.2.2.irrev) then s.setGang g (.saveAsked q o false true)
        else
          let s := (s.withdraw g).releaseGang g
          let vs := s.takeGang g
          let s := vs.zipIdx.foldl (fun (s : State) (p : SavedTeam × Nat) =>
            s.hubPut (s.slotPa p.1.slot) (slotHeader g p.1 3 (chainNext vs p.2) s.clock.toNat (s.core p.1.core))) s
          let s := s.leaveCores g
          let v : SavedGang := { gang := g, kind := .restart, teams := vs.map fun v => { v with warps := [], latches := [] } }
          (s.modHub fun h =>
            { h with resume := h.resume ++ [v], gangBars := h.gangBars.filter (·.gang != g.key) }).freeParts
    | .dropAsked _ =>
      let s := s.beginLeave g
      if !s.gangQuiet g then s
      else
        let s := (s.withdraw g).releaseGang g
        ((s.leaveCores g).modHub fun h => { h with gangBars := h.gangBars.filter (·.gang != g.key) }).freeParts
    | _ => s

/-! ### Restoring (R296, R297) -/

/-- A little-endian number in memory. -/
def State.memNat (s : State) (pa n : Nat) : Nat := Memory.readNat s.mem pa n

/-- A register cell from a slot: its word and its 2-bit residue. -/
def State.slotCell (s : State) (pa res i : Nat) : RWord :=
  ⟨BitVec.ofNat 32 (s.memNat (pa + 4 * i) 4), BitVec.ofNat 2 (s.memNat (res + i / 4) 1 / 4 ^ (i % 4))⟩

/-- Split entries of a warp from its section (R295, R296). -/
def State.slotSplits (s : State) (b : Nat) (w : Warp) : List (Nat × Split) :=
  w.splits.map fun e =>
    let a := b + 0x200 + 704 * e.1
    let n := (w.spent e.1 e.2).length
    (e.1, { e.2.ofFields (takeFields (s.memNat a 64) splitWidths) with
      cq := e.2.cq.zipIdx.map fun p =>
        if n + p.2 < 4 then p.1.ofRecord s.mem (a + 64 + 160 * (n + p.2)) else p.1 })

/-- A warp from its sections (R295). -/
def State.slotWarp (s : State) (pa sec vec : Nat) (w : Warp) : Warp :=
  let b := pa + sec
  let w := (List.range 64).foldl (fun (w : Warp) r => w.setGCell (BitVec.ofNat 6 r) (s.slotCell b (b + 0x100) r))
    { w with g := [], v := [], f := [] }
  let w := (List.range 12).foldl (fun (w : Warp) i => { w with f := smPut 0 w.f i (s.memNat (b + 0x110 + i) 1 % 64) }) w
  let vs := (List.range w.budget).flatMap fun r => (List.range 32).map fun l => (r, l)
  let v := vs.foldl (fun (m : SMap RWord) p =>
    let a := pa + vec + 136 * p.1
    smPut cellZero m (p.1 * 32 + p.2) (s.slotCell a (a + 128) p.2)) []
  let l := s.memNat (b + 0x140) 4
  { w with
    v := v
    latch := if bitAt l 7 then some (l % 64) else none
    splits := s.slotSplits b w
    gang := BitVec.ofNat 32 (s.memNat (b + 0x120) 4)
    trapCause := BitVec.ofNat 32 (s.memNat (b + 0x128) 8)
    trapPc := BitVec.ofNat 54 (s.memNat (b + 0x130) 8)
    trapAddr := BitVec.ofNat 54 (s.memNat (b + 0x138) 8) }

/-- Team registers and counters of a team from its slot (R138, R294). -/
def State.slotTeam (s : State) (pa : Nat) (t : Team) : Team :=
  { t with
    instr := BitVec.ofNat 64 (s.memNat (pa + 0x40) 8)
    moved := BitVec.ofNat 64 (s.memNat (pa + 0x48) 8)
    wbytes := BitVec.ofNat 64 (s.memNat (pa + 0x50) 8)
    wtotal := BitVec.ofNat 48 (s.memNat (pa + 0x58) 8)
    resid := BitVec.ofNat 64 (s.memNat (pa + 0x60) 8)
    trapBase := BitVec.ofNat 54 (s.memNat (pa + 0x88) 8)
    ts := (List.range 32).foldl (fun (m : SMap RWord) r =>
      smPut cellZero m r (s.slotCell (pa + 0x90) (pa + 0x110) r)) [] }

/-- The NEXT that pulled at the save takes its values back from the carry buffer; one dispatched after it has none (R268, R269). -/
def takeCarry (t : Team) (ws : List Warp) (its : List (Nat × Iter)) (widx : Nat) (o : Op) : Op :=
  match nextArgs o.instr, o.aux with
  | some (x, bounded), .pull _ _ lk got =>
    (match t.iter (iterNo x) with
    | none => o
    | some n =>
      let i := amGet Iter.reset its n
      let pulls : Bool := match pullerOf ws t n with | some p => p.1.widx == widx && p.2.id == o.id | none => false
      if pulls && i.cw = widx && !i.carry.isEmpty then { o with aux := .pull i.carry (bounded && i.bnd) lk got } else o)
  | _, _ => o

/-- The iterators of a NEXT in flight give up the carry buffer it took back. -/
def dropCarry (t : Team) (ws : List (Nat × Warp)) (its : List (Nat × Iter)) : List (Nat × Iter) :=
  its.map fun p =>
    let owner := ws.any fun w => w.2.widx == p.2.cw && w.2.ops.any fun o => match nextArgs o.instr, o.aux with
      | some (x, _), .pull _ _ _ _ => t.iter (iterNo x) == some p.1
      | _, _ => false
    (p.1, if owner then { p.2 with carry := [] } else p.2)

/-- The tag entries of a team from its slot, by bank of the team (R294, R296). -/
def State.slotTags (s : State) (pa banks : Nat) : SMap TagEntry :=
  (List.range (256 * banks)).foldl (fun m i =>
    let w := s.memNat (pa + 0xE9000 + 8 * i) 8
    if w / 2 ^ 32 = 0xFFFFFFFF then m
    else amPut m i { v := true, tag := BitVec.ofNat 32 w, slot := BitVec.ofNat 32 (w / 2 ^ 32) }) []

/-- The rendezvous latches the warps of a team wait at, with the imm their sections hold (R239, R245, R295). -/
def State.slotLatches (s : State) (pa : Nat) (v : SavedTeam) (slots : List Nat) : List Latch :=
  let mma (i : Nat) : Nat := s.memNat (pa + 0x1000 + 0x6000 * i + 0x144) 8
  v.latches.filterMap fun l =>
    match l.waiting.filter fun p => bitAt (mma p.1) 63 with
    | [] => none
    | p :: ps => some { l with imm := BitVec.ofNat 32 (mma p.1), waiting := (p :: ps).map fun q => (slots.getD q.1 0, q.2) }

/-- The units of a range of memory that are uncorrectable, counted from its start (R83). -/
def State.badFrom (s : State) (pa n : Nat) : List Nat :=
  (s.memBad.filter fun u => pa / 8 ≤ u && u < (pa + n) / 8).map (· - pa / 8)

/-- One team comes back on a core (R296 steps 1 and 2): memories, registers and split tables. R83 names no reader of a slot: of
words that cannot be read, those of LM, AM and the névé slice stay so, and any other is taken as its bits stand (log 98). -/
def State.restoreTeam (s : State) (v : SavedTeam) (c : Nat) (f : Fit) : State :=
  let s := s.phaseAcq c
  let pa := s.slotPa v.slot
  let t := s.slotTeam pa v.team
  let t := { t with
    lmBase := f.base, banks := f.banks, iters := f.iters, warps := f.slots
    run := if t.run = .leaving then .running else t.run }
  let vec (i : Nat) : Nat := s.memNat (pa + 0x1E0 + 4 * i) 4
  let its : List (Nat × Iter) := f.iters.zipIdx.map fun p => (p.1, iterOfImage (Memory.readN s.mem (pa + 0xF1000 + 320 * p.2) 320))
  let ws : List (Nat × Warp) := (f.slots.zip v.warps).map fun p =>
    let w := s.slotWarp pa (0x1000 + 0x6000 * p.2.1) (vec p.2.1) p.2.2
    (p.1, { w with ops := w.ops.map (takeCarry t (v.warps.map (·.2)) its w.widx) })
  let its := dropCarry t ws its
  let dup : List (BitVec 16) := (List.range 64).map fun i => BitVec.ofNat 16 (s.memNat (pa + 0x11A + 2 * i) 2)
  s.modCore c fun k =>
    let k := k.clearFor f t.lmSize t.matrix
    let k := k.lmPut f.base (Memory.readN s.mem (pa + 0x100000) t.lmSize)
    let k := { k with lmBad := (s.badFrom (pa + 0x100000) t.lmSize).foldl (fun m u => addBad (f.base / 8 + u) m) k.lmBad }
    let k := if t.matrix then
        { k with
          amBad := s.badFrom (pa + 0x1C0000) 262144
          neveBad := s.badFrom (pa + 0x200000) 262144
          am := (List.range 65536).foldl (fun (m : SMap Word) i =>
            smPut 0 m i (BitVec.ofNat 32 (s.memNat (pa + 0x1C0000 + 4 * i) 4))) []
          neve := byteWrite [] 0 (Memory.readN s.mem (pa + 0x200000) 262144)
          dupN := s.memNat (pa + 0x118) 2
          dupCh := dup }
      else k
    { k with
      tags := (s.slotTags pa t.banks.length).foldl (fun (m : SMap TagEntry) e =>
        amPut m (f.banks.getD (e.1 / 256) 0 * 256 + e.1 % 256) e.2) k.tags
      iters := its.foldl (fun m p => amPut m p.1 p.2) k.iters
      locals := k.locals ++ v.locals.map fun x => (f.base + x.1, x.2)
      latches := k.latches ++ s.slotLatches pa v f.slots
      serial := ws.foldl (fun n w => w.2.ops.foldl (fun n o => max n (o.serial + 1)) n) k.serial
      teams := amPut k.teams v.key t
      warps := ws.foldl (fun m w => amPut m w.1 w.2) k.warps }

/-- The offsets of FABRIC in a slot, then those that did not fit (R292, R294). -/
def State.slotFabric (s : State) (v : SavedTeam) : List Nat :=
  (((List.range 16).map fun i => s.memNat (s.slotPa v.slot + 0x1A0 + 4 * i) 4).filter (· != 0xFFFFFFFF)) ++ v.fabric.drop 16

/-- A fabric-kind phase that completed while its gang was saved completes now, with its acquire (R132, R296 step 3). -/
def State.applyFabric (s : State) (v : SavedTeam) (c : Nat) : State :=
  (s.slotFabric v).foldl (fun s off => match s.team c v.key with
    | some t => (s.phaseAcq c).modBar c t off Bar.flip
    | none => s) s

/-- A saved gang comes back on a cluster; the slots become free (R296), and its teams take the traps held meanwhile (R171). -/
def State.restoreGang (s : State) (v : SavedGang) (cl : Nat) (fits : List (Nat × Fit)) : State :=
  let s := (v.teams.zip fits).foldl (fun (s : State) (p : SavedTeam × Nat × Fit) =>
    (s.restoreTeam p.1 p.2.1 p.2.2).applyFabric p.1 p.2.1) s
  let g : Gang := { v.gang with
    cluster := cl, since := s.clock.toNat
    state := match v.gang.state with
      | .migrateAsked _ _ (some (d, q, n)) => .draining d q n
      | _ => .running
    teams := (v.teams.zip fits).map fun p => (p.2.1, p.1.key) }
  let s := v.teams.foldl (fun s t => s.setSlotState t.slot 0)
    (s.modHub fun h => { h with gangs := h.gangs ++ [g], resume := h.resume.filter fun w => w.gang.key != v.gang.key })
  g.teams.foldl (fun s p => if s.issuing p.1 p.2 then s.takeHeld p.1 p.2 else s) s

/-- The write regions of a task (R138). -/
def State.taskRegions (s : State) (task : Word) : List Region :=
  match s.hub.tasks.find? (·.id == task) with
  | some t => t.regions
  | none => []

/-- A discarded gang starts again with its old GANG_ID (R297). -/
def State.restartGang (s : State) (v : SavedGang) (cl : Nat) (fits : List (Nat × Fit)) : State :=
  match parseDesc v.gang.desc with
  | none => s
  | some d =>
    let g : Gang := { v.gang with
      key := s.hub.nextKey, cluster := cl, state := .running, since := s.clock.toNat, teams := [] }
    let s := s.modHub fun h =>
      { h with nextKey := h.nextKey + 1, resume := h.resume.filter fun w => w.gang.key != v.gang.key }
    v.teams.foldl (fun s t => s.setSlotState t.slot 0) (s.startGang d g (s.taskRegions g.task) fits)

/-- A gang of the resume list comes back on a cluster. -/
def State.resumeGang (s : State) (v : SavedGang) (cl : Nat) (fits : List (Nat × Fit)) : State :=
  if v.kind = .restart then s.restartGang v cl fits else s.restoreGang v cl fits

/-- No level above this one has anything the placer could place (R13, R296). -/
def State.levelTurn (s : State) (level : Nat) : Bool :=
  (List.range 4).all fun l => l ≤ level || (!s.resumeReady l && (s.firstEligible (s.hub.queueOrder l)).isNone)

/-- GANG_RESTORE: the first entry of a level's resume list is placed on a cluster that fits it (R296, R297). It counts as the
placer's last placement of R16 for clusters, and not as one of R13 for queues (log 102). -/
def execGangRestore (level : Nat) (s : State) : Host.Outcome State Fault Refusal :=
  .next <| match s.hub.resumeFirst level with
  | none => s
  | some v =>
    let s := s.noteWaits
    if s.codeGone v || !s.levelTurn level then s
    else match s.findCluster v.claims (s.clusterOrder v.gang.asid) with
      | none => s
      | some (cl, fits) => (s.resumeGang v cl fits).modHub fun h => { h with lastCluster := cl }

/-- CODE_GONE_RETIRE: a marked gang at the head of its resume list is not placed: its slots are freed and a CODE_GONE is
recorded (R298), once the fault queue has room (R123). -/
def execCodeGoneRetire (level : Nat) (s : State) : Host.Outcome State Fault Refusal :=
  .next <| match s.hub.resumeFirst level with
  | none => s
  | some v =>
    if !s.codeGone v || !s.faultRoom then s
    else
      let s := v.teams.foldl (fun s t => s.setSlotState t.slot 0) s
      let s := s.modHub fun h => { h with resume := h.resume.filter fun w => w.gang.key != v.gang.key }
      (s.addFault (hubFault (recCode v.gang.record) .codeGone 4 0 v.gang.queue v.gang.asid)).1

/-- A forced unload removes a head record that still has gangs to place, once none of its gangs is placed: a CODE_GONE is
recorded and the join object is not touched (R123, R348). Which records are of the object is the loader's to know; their regions stay in the
dependence unit for the software that settles the task (log 103). -/
def State.unloadHead (s : State) (q : Nat) : State :=
  match s.hub.headOf q with
  | none => s
  | some h =>
    if h.gone.isSome || h.task.any (fun t => s.hub.gangs.any (·.task == t) || s.hub.saving.any (·.gang.task == t)) then s
    else s.rejectHead q h .codeGone

/-! ### Thermal migration (R299) -/

/-- The hottest core of a cluster. -/
def State.hottest (s : State) (cl : Nat) : Nat := (coresOf cl).foldl (fun n c => max n (s.core c).temp) 0

/-- The coolest of some clusters, ties to the lowest number. -/
def State.coolest (s : State) : List (Nat × List (Nat × Fit)) → Option (Nat × List (Nat × Fit))
  | [] => none
  | c :: cs =>
    match s.coolest cs with
    | none => some c
    | some d => if s.hottest d.1 < s.hottest c.1 then some d else some c

/-- Where a gang of these claims would migrate to (R299). -/
def State.coolCluster (s : State) (fs : List (Core → Option Fit)) : Option (Nat × List (Nat × Fit)) :=
  let limit := s.hub.regs.thermLimit.toNat % 256
  s.coolest ((List.range 64).filterMap fun cl =>
    if s.hottest cl + 10 ≤ limit then (s.fitCluster cl fs).map fun f => (cl, f) else none)

/-- THERMAL_SAMPLE: a core's sensor reads a temperature; above THERM_LIMIT the core is hot (R299). -/
def execThermalSample (core temp : Nat) (s : State) : Host.Outcome State Fault Refusal :=
  .next <| s.modCore core fun k =>
    { k with temp := temp
             hot := if s.hub.regs.thermLimit.toNat % 256 < temp then some (k.hot.getD s.clock.toNat) else none }

/-- The claims of a resident gang, a team's warps in warp-index order (R15). -/
def State.claimsOf (s : State) (g : Gang) : List (Core → Option Fit) :=
  (s.teamsOf g).map fun p => fun k =>
    k.fit (p.2.2.warps.map fun sl => match s.warp p.1 sl with | some w => w.budget | none => 0)
      p.2.2.lmSize p.2.2.banks.length p.2.2.iters.length p.2.2.matrix

/-- Some core of a gang has read above THERM_LIMIT for longer than 2 ms of the gang's residency (R299). -/
def State.gangHot (s : State) (g : Gang) : Bool :=
  g.since + 2000 * cyclesPerUs < s.clock.toNat &&
  g.teams.any fun p => match (s.core p.1).hot with
    | some t => t + 2000 * cyclesPerUs < s.clock.toNat
    | none => false

/-- How a gang that is not on its way out drains, if it does (R289, R299). -/
def Gang.drains (g : Gang) : Option (Option (Nat × Nat × Bool)) :=
  match g.state with
  | .running => some none
  | .draining d q n => some (some (d, q, n))
  | _ => none

/-- THERMAL_MIGRATE: a gang with a core that has been hot for longer than 2 ms of residency is to be saved and restored on a
cool cluster that fits it; without a free slot it waits (R299), and without the feature it is never migrated (R346). A gang
that drains goes on draining afterwards (log 78). -/
def execThermalMigrate (gang : Nat) (s : State) : Host.Outcome State Fault Refusal :=
  .next <| match s.hub.gangs.find? (·.key == gang) with
  | none => s
  | some g =>
    match g.drains with
    | none => s
    | some d =>
      if !s.hasFeature 31 || !s.gangHot g || (s.coolCluster (s.claimsOf g)).isNone || !s.slotsFor g.teams.length then s
      else (s.modHub fun h => { h with nextKey := h.nextKey + 1 }).setGang g (.migrateAsked s.hub.nextKey false d)

/-- SAVE_LM_WRITE: once no copy aims at a saved gang's partitions their LM is written and they are freed, with what was noted of
their barrier objects meanwhile; the gang enters its resume list, or, migrating, is restored at once where it can be (R292, R299), which
is no placement of R16 (log 102). -/
def execSaveLmWrite (gang : Nat) (s : State) : Host.Outcome State Fault Refusal :=
  .next <| match s.hub.saving.find? (·.gang.key == gang) with
  | none => s
  | some v =>
    if s.copiesOf v.gang.cluster gang then s
    else
      let v := { v with teams := v.teams.map fun (t : SavedTeam) => ({ t with locals := (s.core t.core).localsOf t.team.lmBase t.team.lmSize } : SavedTeam) }
      let s := v.teams.foldl (fun (s : State) (t : SavedTeam) =>
        let k := s.core t.core
        let bs := byteRead k.lm t.team.lmBase t.team.lmSize
        let bad := (k.lmBad.filter fun u => t.team.lmBase / 8 ≤ u && u < (t.team.lmBase + t.team.lmSize) / 8).map fun u =>
          (s.slotPa t.slot + 0x100000) / 8 + (u - t.team.lmBase / 8)
        let s := ((s.hubPut (s.slotPa t.slot + 0x100000) bs).spoil bad).hubPut (s.slotPa t.slot + 0x68) (leBytes 8 s.clock.toNat)
        s.setSlotState t.slot (slotState t 2)) s
      let s := (s.dropParts gang).modHub fun h =>
        { h with saving := h.saving.filter fun w => w.gang.key != gang, resume := h.resume ++ [v] }
      let s := s.noteWaits
      match v.kind, s.coolCluster v.claims with
      | .migrate, some (cl, fits) => s.restoreGang v cl fits
      | _, _ => s

end Sys2Proof.Machine
end

