-- ==== Sys2Proof/Machine/Fabric.lean ====
section
/-! DEFINITION. The fabric side of the device: requests of peers performed at home, multicast trees, replies and
acknowledgements, timeouts, incarnations and orphan counts, and the messages of fabric barriers (R91, R108 to R112, R136,
R152, R227, R314 to R330). -/

namespace Sys2Proof.Machine

/-! ### The plane (R314, R315) -/

/-- The point a device number names (R314). -/
def planePoint (n : Nat) : Nat × Nat × Nat :=
  if n < 961 then (1, n / 31, n % 31) else if n < 992 then (0, 1, n - 961) else (0, 0, 1)

/-- The product of two points, modulo 31. -/
def planeDot (x y : Nat × Nat × Nat) : Nat := (x.1 * y.1 + x.2.1 * y.2.1 + x.2.2 * y.2.2) % 31

/-- The neighbours of a device, ascending (R314). -/
def neighbours (d : Nat) : List Nat :=
  (List.range 993).filter fun n => n != d && planeDot (planePoint d) (planePoint n) == 0

/-- The device on the other end of a port: the one a direct route names, else the cabled neighbour (R315, R346). -/
def State.portPeer (s : State) (port : Nat) : Option Nat :=
  let direct (e : Nat) : Bool := bitAt e 63 && e / 2 ^ 61 % 4 == 1 && e / 2 ^ 55 % 64 == port
  match s.fab.routes.find? fun e => direct e.2.toNat with
  | some e => some e.1
  | none =>
    let g := if port < 32 then port else if s.hasFeature 18 then (s.hub.regs.dbl.getD (port - 32) 0x3F).toNat else 0x3F
    (neighbours s.fab.device)[g]?

/-! ### Which packets are taken (R110, R152, R318) -/

/-- A peer's entry shows it up, of this incarnation (R110). -/
def Fabric.fromUp (f : Fabric) (p : Packet) : Bool :=
  let e := f.peer p.src
  p.src ≤ 992 && e.state == 1 && e.inc == p.inc

/-- Two requests of one device to one block. -/
def sameBlock (p q : Packet) : Bool := p.src == q.src && p.off / 256 == q.off / 256 && p.kind ≤ 5 && q.kind ≤ 5

/-- An earlier request of the same device to the same block is still to be performed (R152). -/
def Fabric.blocked (f : Fabric) (p : Packet) : Bool :=
  (f.held.any fun h => sameBlock h.2 p) ||
  (match f.sent.find? (sameBlock p) with
  | some q => q != p
  | none => false)

/-- A packet of a peer that is addressed here and not dropped (R110, R316, R320). -/
def Fabric.arrives (f : Fabric) (p : Packet) : Bool :=
  p.src != f.device && p.dst == f.device && p.inter == 0x3FF && packetFits p && f.fromUp p

/-- A packet that comes in over a link: in S3 it wakes the device, and in S4 no port is trained that could bring one (R365,
R366). -/
def State.linkIn (s : State) : Option State :=
  if s.boot.rest = 4 then none else some (if s.boot.rest = 3 then s.wake else s)

/-- Take a packet that this device sent to itself or held, or that a peer's link delivered; none where it is not there,
or dropped. -/
def State.take (s : State) (p : Packet) : Option State :=
  if s.fab.sent.contains p then
    if p.src = s.fab.device || s.fab.fromUp p then some { s with fab := { s.fab with sent := s.fab.sent.erase p } } else none
  else if s.fab.arrives p then s.linkIn
  else none

/-! ### The export table (R317) -/

/-- Window of an offset. -/
def windowOf (off : Nat) : Nat := off / 2 ^ 32 % 1024

/-- What an export entry holds, if it is valid: whether it allows writes, its ASID and BASE (R317). -/
def exportFields (w : BitVec 64) : Option (Bool × Asid × Nat) :=
  let e := w.toNat
  if bitAt e 63 && e / 2 ^ 20 % 4 != 3 then some (bitAt e 62, BitVec.ofNat 12 (e / 2 ^ 48), e % 2 ^ 22) else none

/-- The export entry of a window (R317). -/
def Fabric.exportEntry (f : Fabric) (window : Nat) : Option (Bool × Asid × Nat) :=
  exportFields (amGet 0 f.exports window)

/-- The export entry a request is performed through: its window's as it arrived, which a request that waits keeps
(R317). -/
def Fabric.grant (f : Fabric) (p : Packet) : Option (Bool × Asid × Nat) :=
  match f.grants.find? fun g => g.1 == p with
  | some g => exportFields g.2
  | none => f.exportEntry (windowOf p.off)

/-- A request that waits keeps its export entry (R317). -/
def Fabric.keepGrant (f : Fabric) (p : Packet) : Fabric :=
  if f.grants.any fun g => g.1 == p then f
  else { f with grants := f.grants ++ [(p, amGet 0 f.exports (windowOf p.off))] }

/-- A request that is dropped keeps none. -/
def Fabric.noGrant (f : Fabric) (p : Packet) : Fabric := { f with grants := f.grants.filter fun g => g.1 != p }

/-- The VA of an offset in a window (R318). -/
def exportVa (base off : Nat) : Nat := (base * 2 ^ 32 + off % 2 ^ 32) % 2 ^ 54

/-- The straggler page (R136, R317). -/
def Fabric.pageBytes (f : Fabric) : List Byte :=
  leBytes 8 f.pageWord0.toNat ++ leBytes 8 f.pageWord1.toNat ++ leBytes 8 (f.device % 1024 + f.inc.toNat * 2 ^ 16)

/-! ### One request performed at home (R318) -/

/-- How a received request ends: data for its reply, a STATUS, one after the first n bytes of its data were performed, a wait for a replay, a wait for COUNT, a refusal for want
of a remote-count entry. -/
inductive FabRes where
  | ok (data : List Byte)
  | refuse (c : Cause)
  | part (c : Cause) (n : Nat)
  | wait (c : Cause) (va : Nat)
  | early (tmo : Nat)
  | full
  deriving DecidableEq, Repr

/-- A fault of a request: a replayable one is waited for (R318). -/
def fabFault (c : Cause) (va : Nat) : FabRes := if c.replayable then .wait c va else .refuse c

/-- The same of a request of which the first n bytes of data have been performed (log 28). -/
def fabFaultAt (n : Nat) (c : Cause) (va : Nat) : FabRes := if c.replayable || n = 0 then fabFault c va else .part c n

/-- The offsets in its line of the lanes a packet addresses, each of n bytes (R320), from offset o on. -/
def beLanes (n be : Nat) : Nat → Nat → List Nat
  | 0, _ => []
  | fuel + 1, o =>
    if 64 ≤ o then []
    else if bitAt be o then o :: beLanes n be fuel (o + max n 1)
    else beLanes n be fuel (o + 1)

/-- The offsets in its line of a packet's lanes. -/
def packetLanes (p : Packet) (n : Nat) : List Nat := beLanes n p.be.toNat 64 0

/-- The number of n bytes at an offset of a packet's data. -/
def packetValue (p : Packet) (o n : Nat) : Nat := leNat ((p.data.drop o).take n)

/-- The 64 bytes of a line that enables select, the others zero. -/
def maskLine (be : Nat) (f : Nat → Byte) : List Byte := (List.range 64).map fun k => if bitAt be k then f k else 0

/-- Write n bytes of a value into a line of data at an offset, lengthened where it passes the end. -/
def putBytes (line : List Byte) (o n v : Nat) : List Byte :=
  let line := if line.length < o + n then line ++ List.replicate (o + n - line.length) 0 else line
  line.take o ++ leBytes n v ++ line.drop (o + n)

/-- A read of bytes of one line (R318). -/
def State.fabRead (s : State) (p : Packet) (asid : Asid) (va : Nat) : State × FabRes :=
  match s.translateHub asid false va .read with
  | .error c => (s, fabFault c va)
  | .ok x =>
    let be := p.be.toNat
    if (List.range 64).any fun k => bitAt be k && s.unitBad ((x.pa + k) / 8) then
      (s.unheard x.pa, .refuse .memoryUncorrectable)
    else (s, .ok (maskLine be fun k => Memory.read s.mem (x.pa + k)))

/-- Enables that form one run ending at byte 63. -/
def runToTop (be : Nat) : Bool := (List.range 64).any fun k => be == 2 ^ 64 - 2 ^ k

/-- Enables that form one run from byte 0 on. -/
def runFromBottom (be : Nat) : Bool := (List.range 64).any fun k => be == 2 ^ (k + 1) - 1

/-- The parts of a write with their enables, unless they break the rule of R321. -/
def packetParts (p : Packet) : Option (List (Nat × Nat)) :=
  let n := p.data.length / 64
  if n ≤ 1 then some [(0, p.be.toNat)]
  else if p.off / 64 % 4 + n ≤ 4 && runToTop p.be.toNat && runFromBottom p.bel.toNat then
    some ((List.range n).map fun i =>
      (i, if i = 0 then p.be.toNat else if i + 1 = n then p.bel.toNat else 2 ^ 64 - 1))
  else none

/-- Write the parts of a packet at home (R89, R90, R318). -/
def State.fabParts (s : State) (p : Packet) (asid : Asid) (va : Nat) (x : Xlat) : List (Nat × Nat) → State × FabRes
  | [] => (s, .ok [])
  | (i, en) :: ps =>
    let y : Xlat := { x with pa := x.pa + 64 * i }
    match s.gateStore asid false (va + 64 * i) y 64 en true with
    | (s, .error e) => (s, fabFaultAt (64 * i) e.1 e.2)
    | (s, .ok _) =>
      match s.homeWriteEn y.pa 64 (packetValue p (64 * i) 64) en with
      | .error c => (s.unheard y.pa, fabFaultAt (64 * i) c va)
      | .ok s => s.fabParts p asid va x ps

/-- A write (R318, R321). -/
def State.fabWrite (s : State) (p : Packet) (asid : Asid) (va : Nat) : State × FabRes :=
  match (packetParts p) with
  | none => (s, .refuse .reservedField)
  | some ps =>
    match s.translateHub asid false va .write with
    | .error c => (s, fabFault c va)
    | .ok x => s.fabParts p asid va x ps

/-- Lanes of an atomic, in ascending order (R219, R318). -/
def State.fabAtomics (s : State) (p : Packet) (asid : Asid) (va n : Nat) (x : Xlat) :
    List Nat → List Byte → State × FabRes
  | [], out => (s, .ok out)
  | o :: os, out =>
    let done := if (packetLanes p n).head? = some o then 0 else p.data.length
    match s.gateStore asid false (va + o) { x with pa := x.pa + o } n (allBytes n) true with
    | (s, .error e) => (s, fabFaultAt done e.1 e.2)
    | (s, .ok _) =>
      match s.homeRead (x.pa + o) n with
      | .error c => (s.unheard (x.pa + o), fabFaultAt done c (va + o))
      | .ok bs =>
        let m := leNat bs
        match s.homeWrite (x.pa + o) (leBytes n (atomValue p.op p.w m (packetValue p o n) (packetValue p (64 + o) n))) with
        | .error c => (s.unheard (x.pa + o), fabFaultAt done c (va + o))
        | .ok s =>
          let s := if p.op % 8 = 0 then s.noteClaim (x.pa + o) m (m + packetValue p o n) else s
          s.fabAtomics p asid va n x os (putBytes out o n m)

/-- An atomic (R219, R318). -/
def State.fabAtomic (s : State) (p : Packet) (asid : Asid) (va : Nat) : State × FabRes :=
  if p.op < 0x08 || 0x15 < p.op then (s, .refuse .reservedField)
  else match s.translateHub asid false va .atomic with
    | .error c => (s, fabFault c va)
    | .ok x => s.fabAtomics p asid va (codeBytes p.w) x (packetLanes p (codeBytes p.w)) (List.replicate 64 0)

/-! ### Remote counts (R91, R111, R227) -/

/-- The remote-count entries of a stack. -/
def Fabric.remoteOf (f : Fabric) (stack : Nat) : List (Nat × Remote) := f.remote.filter (·.1 == stack)

/-- A remote count changes: the entry is created if needed and freed at zero; none where no entry is free (R111). -/
def Fabric.countRemote (f : Fabric) (stack peer : Nat) (inc : BitVec 16) (granule : Nat) (d : Int) : Option Fabric :=
  let mine (e : Nat × Remote) : Bool := e.1 == stack && e.2.peer == peer && e.2.inc == inc && e.2.granule == granule
  match f.remote.find? mine with
  | some e =>
    let rest := f.remote.filter fun x => !mine x
    if e.2.net + d = 0 then some { f with remote := rest }
    else some { f with remote := rest ++ [(stack, { e.2 with net := e.2.net + d })] }
  | none =>
    if 4096 ≤ (f.remoteOf stack).length then none
    else some { f with remote := f.remote ++ [(stack, { peer := peer, inc := inc, granule := granule, net := d })] }

/-- A peer's count is noted; requests of this device itself are local (R111). -/
def State.noteRemote (s : State) (p : Packet) (pa : Nat) (d : Int) : Option State :=
  if p.src = s.fab.device then some s
  else (s.fab.countRemote (homeOf pa).1 p.src p.inc (pa / 64 * 64) d).map fun f => { s with fab := f }

/-- A count of a granule as ADJQ reads it at home (R226). -/
def State.fabQuery (s : State) (asid : Asid) (va pa : Nat) (cnt : Bool) : State × AdjRes :=
  let stack := (homeOf pa).1
  match s.classify stack asid va cnt with
  | (s, .error c) => (s, .fault c va)
  | (s, .ok .none) => (s, .fault .adjNotCounted va)
  | (s, .ok (.primary e)) =>
    (match s.countAt stack asid false e va .read with
    | (s, .error c) => (s, .fault c (e.countVa va))
    | (s, .ok (w, _)) => (s, .value w))
  | (s, .ok _) => (s, .fault .protection va)

/-- LDF.rc at its owner's home (R223). -/
def State.fabRc (s : State) (asid : Asid) (va pa n : Nat) (cnt : Bool) : State × AdjRes :=
  let read (s : State) : State × AdjRes := match s.homeRead pa n with
    | .error c => (s.unheard pa, .fault c va)
    | .ok bs => (s, .value (leNat bs))
  if cnt then
    match s.classAdj (homeOf pa).1 asid va cnt with
    | (s, .error c) => (s, .fault c va)
    | (s, .ok .none) => (s, .fault .adjNotCounted va)
    | (s, .ok (.primary _)) => read s
    | (s, .ok _) => (s, .fault .protection va)
  else read s

/-- One lane of an adjoint request (R91, R227). -/
def State.fabAdjLane (s : State) (p : Packet) (asid : Asid) (va pa : Nat) (cnt : Bool) (o : Nat) : State × AdjRes :=
  match p.op with
  | 0 => s.countedLoad asid false va pa cnt (codeBytes p.w)
  | 1 => s.fabRc asid va pa (codeBytes p.w) cnt
  | 2 => s.accumulate asid false va pa cnt (packetValue p o 4)
  | 3 => s.adjRead asid false va pa cnt (p.w == 0xA) false
  | 4 => s.adjRead asid false va pa cnt (p.w == 0xA) true
  | _ => s.fabQuery asid va pa cnt

/-- Bytes of a lane of an adjoint request. -/
def packetAdjBytes (p : Packet) : Nat := if p.op = 2 || p.op = 5 then 4 else codeBytes p.w

/-- Lanes of an adjoint request, in ascending order (R91, R111, R227). An ADJA that finds no entry in a full table notes
nothing: R111 speaks of LDF alone (log 86). -/
def State.fabAdjoints (s : State) (p : Packet) (asid : Asid) (va : Nat) (x : Xlat) :
    List Nat → List Byte → State × FabRes
  | [], out => (s, .ok out)
  | o :: os, out =>
    match s.fabAdjLane p asid (va + o) (x.pa + o) x.cnt o with
    | (s, .fault c v) => (s, fabFault c v)
    | (s, .early tmo) => (s, .early tmo)
    | (s, .value v) =>
      let out := putBytes out o (packetAdjBytes p) v
      match p.op with
      | 0 =>
        (match s.noteRemote p (x.pa + o) 1 with
        | none => (s, .full)
        | some s => s.fabAdjoints p asid va x os out)
      | 2 => ((s.noteRemote p (x.pa + o) (-1)).getD s).fabAdjoints p asid va x os out
      | _ => s.fabAdjoints p asid va x os out

/-- An adjoint request (R227). Without remote counting a peer's LDF and ADJA count nothing (R346). -/
def State.fabAdjoint (s : State) (p : Packet) (asid : Asid) (va : Nat) : State × FabRes :=
  if 5 < p.op then (s, .refuse .reservedField)
  else if (p.op == 0 || p.op == 2) && !s.hasFeature 12 then (s, .refuse .adjNotCounted)
  else match s.translateHub asid false va .read with
    | .error c => (s, fabFault c va)
    | .ok x => s.fabAdjoints p asid va x (packetLanes p (packetAdjBytes p)) (List.replicate 64 0)

/-! ### Checking and answering (R318) -/

/-- The STATUS a requester takes as "no remote-count entry is free" (R111; log 28). -/
def statusFull : Nat := 0xFF

/-- A request writes, for the W bit of its window (R317). -/
def packetWrites (p : Packet) : Bool := p.kind == 2 || p.kind == 3 || p.kind == 5 || (p.kind == 4 && p.op == 2)

/-- Bytes a capture record of a request carries (R310): its data, and the operation of an atomic. -/
def packetCaptured (p : Packet) : List Byte := p.data ++ (if p.kind = 3 then leBytes 1 p.op else [])

/-- The peer's packet that a request is performed for: itself, or the multicast write whose copy for this device's own
memory it is (R323). -/
def State.origin (s : State) (p : Packet) : Packet :=
  if p.src != s.fab.device || p.kind != 5 then p
  else match s.fab.outstanding.find? fun o => o.tag == p.tag with
    | none => p
    | some o => (match o.who with
      | .forward src tag =>
        (match s.fab.casts.find? fun c => c.packet.src == src && c.packet.tag == tag with
        | some c => c.packet
        | none => p)
      | _ => p)

/-- A request whose performance is an inbound event: one of a peer (R310 KIND 4). -/
def State.inbound (s : State) (p : Packet) : Bool :=
  (s.origin p).src != s.fab.device && (p.kind == 2 || p.kind == 3 || p.kind == 5)

/-- Capture a request as it is performed (R310 KIND 4). -/
def State.captureRequest (s : State) (p : Packet) (asid : Asid) : State :=
  if s.inbound p then
    s.capture asid.toNat 4 p.off (s.origin p).src (s.origin p).inc.toNat (packetCaptured p)
  else s

/-- The microseconds of FAB_TMO in cycles (R318). -/
def State.fabTimeout (s : State) : Nat := s.hub.regs.fabTmo.toNat * 940

/-- The waiting adjoint reads without a packet. -/
def Fabric.noEarly (f : Fabric) (p : Packet) : Fabric := { f with early := f.early.filter fun e => e.packet != p }

/-- After a request was tried on `s`, giving `r`: it is answered, held on a fault record with nothing changed, or waits
for COUNT (R88, R227, R318). -/
def State.fabEnd (s : State) (p : Packet) (asid : Asid) (r : State × FabRes) : State :=
  match r.2 with
  | .ok data =>
    let t := r.1.captureRequest p asid
    { t with fab := t.fab.noEarly p }.answer p 0 data
  | .refuse c => { r.1 with fab := r.1.fab.noEarly p }.answer p c.code []
  | .part c n =>
    let t := r.1.captureRequest { p with data := p.data.take n } asid
    { t with fab := t.fab.noEarly p }.answer p c.code []
  | .full => s.answer p statusFull []
  | .wait c va =>
    let f := s.addFault (hubFault va c 5 (faultFlags true (if (packetWrites p) then .write else .read) (p.kind == 3 || p.kind == 4))
      0 asid)
    { f.1 with fab := { (f.1.fab.noEarly p).keepGrant p with held := f.1.fab.held ++ [(f.2, p)] } }
  | .early tmo =>
    match s.fab.early.find? (·.packet == p) with
    | some e =>
      if s.clock.toNat < e.drop && (match e.deadline with | some d => d ≤ s.clock.toNat | none => false) then
        { s with fab := s.fab.noEarly p }.answer p Cause.adjEarlyRead.code []
      else if e.drop ≤ s.clock.toNat then { s with fab := (s.fab.noEarly p).noGrant p }
      else s
    | none =>
      let e : Early :=
        { packet := p, deadline := if tmo = 0 then none else some (s.clock.toNat + tmo * 940)
          drop := s.clock.toNat + s.fabTimeout }
      { s with fab := { s.fab.keepGrant p with early := s.fab.early ++ [e] } }

/-- A request is checked against its window, tried, and ended (R317, R318). -/
def State.fabServe (s : State) (p : Packet) (f : State → Packet → Asid → Nat → State × FabRes) : State :=
  match s.fab.grant p with
  | none => s.answer p Cause.protection.code []
  | some (w, asid, base) =>
    if (packetWrites p) && !w then s.answer p Cause.protection.code []
    else s.fabEnd p asid (f s p asid (exportVa base (p.off / 64 * 64)))

/-- A request waits for the capture ring (R310). -/
def State.captureHolds (s : State) (p : Packet) : Bool :=
  s.inbound p && (match s.fab.grant p with
    | some e => s.captureWaits e.2.1.toNat (packetCaptured p).length
    | none => false)

/-- What every received request meets first: it is there, not dropped, in its turn, and not held by the capture ring. -/
def State.fabRequest (s : State) (kind : Nat) (p : Packet) (f : State → State) : State :=
  if p.kind != kind || s.fab.blocked p || s.captureHolds p then s
  else if s.fab.early.any fun e => e.packet == p then f s
  else match s.take p with
    | none => s
    | some s => f s

/-- FABRIC_READ (R318); window 1,023 serves the straggler page (R317). -/
def execFabricRead (p : Packet) (s : State) : Host.Outcome State Fault Refusal :=
  .next <| s.fabRequest 1 p fun s =>
    if windowOf p.off = 1023 then
      if p.off % 2 ^ 32 < 8192 then
        s.answer p 0 (maskLine p.be.toNat fun k => s.fab.pageBytes.getD (p.off % 2 ^ 32 / 64 * 64 + k) 0)
      else s.answer p Cause.protection.code []
    else s.fabServe p State.fabRead

/-! ### Multicast trees (R109, R323) -/

/-- What the parts of a forwarded write wait for. -/
def Fabric.castOpen (f : Fabric) (p : Packet) : Bool := f.outstanding.any fun o => o.who == .forward p.src p.tag

/-- A forwarded write whose parts have all been acknowledged is acknowledged (R323). -/
def State.castSweep (s : State) : State :=
  let isOver := s.fab.casts.filter fun c => !s.fab.castOpen c.packet
  let rest : State := { s with fab := { s.fab with casts := s.fab.casts.filter fun c => s.fab.castOpen c.packet } }
  isOver.foldl (fun (s : State) (c : Cast) => s.answer c.packet c.fail []) rest

/-- The first failure of a forwarded write's parts. -/
def State.castFail (s : State) (src tag code : Nat) : State :=
  let f (c : Cast) : Cast :=
    if c.packet.src = src ∧ c.packet.tag = tag ∧ c.fail = 0 then { c with fail := code } else c
  { s with fab := { s.fab with casts := s.fab.casts.map f } }

/-- One copy of a multicast write leaves on a port, as a request of this device (R323). -/
def State.castPort (s : State) (p : Packet) (tree port : Nat) : State :=
  match s.portPeer port with
  | none => s.castFail p.src p.tag Cause.peerUnreachable.code
  | some peer =>
    if (s.fab.peer peer).state != 1 then s.castFail p.src p.tag Cause.peerReset.code else
    let q : Packet :=
      { blankPacket 5 1 peer p.off with
        src := s.fab.device, inc := s.fab.inc, tag := s.fab.freeTag, tree := tree, be := p.be, bel := p.bel, data := p.data }
    let o : Outstanding :=
      { tag := q.tag, peer := peer, who := .forward p.src p.tag, sentAt := s.clock.toNat, line := peerLine peer p.off
        core := 0xFFFF, retryAt := none, packet := q, hop := q.off }
    let s := { s with fab := { s.fab with outstanding := s.fab.outstanding ++ [o], nextTag := (q.tag + 1) % 65536 } }
    s.enqueue (s.doubled port q.off) q

/-- A multicast write goes out on the ports of a tree entry, and to this device's own memory where LOCAL is set; an
entry with V = 0 is a negative acknowledgement, as is every one without multicast trees (R346), and a write of parts with
broken enables is dropped (R109, R321, R323). -/
def State.castStart (s : State) (p : Packet) (tree entry : Nat) : State :=
  if (packetParts p).isNone then s.answer p Cause.reservedField.code []
  else if bitAt entry 63 && s.hasFeature 17 then
    let c : Cast := { packet := p, fail := 0 }
    let s := { s with fab := { s.fab with casts := s.fab.casts ++ [c] } }
    let s := ((List.range 36).filter (bitAt entry)).foldl (fun s port => s.castPort p tree port) s
    let own : Packet :=
      { blankPacket 5 1 s.fab.device p.off with tree := tree, be := p.be, bel := p.bel, data := p.data }
    let s := if bitAt entry 62 then (s.request own (.forward p.src p.tag) 0xFFFF).1 else s
    s.castSweep
  else s.answer p Cause.peerUnreachable.code []

/-- FABRIC_WRITE (R318); a write to window 1,022 is a multicast write (R323). -/
def execFabricWrite (p : Packet) (s : State) : Host.Outcome State Fault Refusal :=
  .next <| s.fabRequest 2 p fun s =>
    if windowOf p.off = 1023 then s.answer p Cause.protection.code []
    else if windowOf p.off = 1022 then
      let tree := p.off / 2 ^ 24 % 256
      s.castStart p tree (amGet 0 s.fab.roots tree).toNat
    else s.fabServe p State.fabWrite

/-- MULTICAST_WRITE: a packet that came in at a port goes on as its tree entry there says; the copy for this device's own
memory is written through window 1,022 (R109, R323). -/
def execMulticastWrite (port : Nat) (p : Packet) (s : State) : Host.Outcome State Fault Refusal :=
  .next <| s.fabRequest 5 p fun s =>
    if p.src = s.fab.device then s.fabServe p State.fabWrite
    else s.castStart p p.tree (amGet 0 s.fab.trees (port % 36 * 256 + p.tree % 256)).toNat

/-- A tile queue's join object is decremented for a peer: the packet addresses the header, whose word 3 names the object
(R124, R259; log 18). -/
def State.fabDecrement (s : State) (p : Packet) (asid : Asid) (va : Nat) : State :=
  match s.translateHub asid false va .atomic with
  | .error c => s.fabEnd p asid (s, fabFault c va)
  | .ok x =>
    match s.homeRead x.pa 64 with
    | .error c => (s.unheard x.pa).fabEnd p asid (s, fabFault c va)
    | .ok bs =>
      let s := s.captureRequest p asid
      s.joinDecrement asid (recWord bs 3 % 2 ^ 54) (.peer p)

/-- FABRIC_ATOMIC (R318). -/
def execFabricAtomic (p : Packet) (s : State) : Host.Outcome State Fault Refusal :=
  .next <| s.fabRequest 3 p fun s =>
    if windowOf p.off = 1023 then s.answer p Cause.protection.code []
    else if p.op = 0x03 then
      match s.fab.grant p with
      | some (true, asid, base) => s.fabDecrement p asid (exportVa base (p.off / 64 * 64))
      | _ => s.answer p Cause.protection.code []
    else s.fabServe p State.fabAtomic

/-- FABRIC_ADJOINT (R91, R111, R227). -/
def execFabricAdjoint (p : Packet) (s : State) : Host.Outcome State Fault Refusal :=
  .next <| s.fabRequest 4 p fun s =>
    if windowOf p.off = 1023 then s.answer p Cause.protection.code [] else s.fabServe p State.fabAdjoint

/-- PACKET_FORWARD: a packet for another device, or one whose intermediate this device is, goes on toward its target
(R316). -/
def execPacketForward (p : Packet) (s : State) : Host.Outcome State Fault Refusal :=
  .next <|
    if 992 < p.dst || 992 < p.src || p.src = s.fab.device || !(packetFits p) then s
    else if p.dst = s.fab.device && p.inter = 0x3FF then s
    else match s.linkIn with
      | none => s
      | some s => s.sendPacket (if p.inter = s.fab.device then { p with inter := 0x3FF } else p)

/-! ### Replies (R152, R318) -/

/-- A failure of acknowledgement is noted by every release that waits for the request (R152). -/
def State.noteTagFail (s : State) (tag : Nat) (c : Cause) : State :=
  let rel (r : RelSt) : RelSt := match r with
    | .fab tags none => if tags.contains tag then .fab tags (some c) else .fab tags none
    | r => r
  let op (o : Op) : Op := { o with rel := rel o.rel }
  let warp (w : Nat × Warp) : Nat × Warp := (w.1, { w.2 with ops := w.2.ops.map op })
  let member (m : MemberRep) : MemberRep := if m.tags.contains tag then { m with fail := true } else m
  { s with
    cores := s.cores.map fun k => (k.1, { k.2 with warps := k.2.warps.map warp })
    fab := { s.fab with members := s.fab.members.map member } }

/-- The causes a missing acknowledgement ends a release with (R152). -/
def Cause.noAck : Cause → Bool
  | .fabricTimeout | .peerReset | .peerUnreachable => true
  | _ => false

/-- An answer for lanes of an operation (R152, R318). -/
def State.laneReply (s : State) (core slot id tag : Nat) (res : Except Cause (List Byte)) : State :=
  match s.findOp core slot id with
  | none => s
  | some (o, _, _) =>
    if (nextArgs o.instr).isSome then s.pullReply core slot id tag res
    else if isClaim o.instr then s.claimReply core slot id tag res
    else match o.instr, memSpec o.instr with
      | .launch _, _ => s.launchReply core slot id tag res
      | _, none => s
      | i, some (x, sp) =>
        let mine := o.accs.filter (·.st == .sent tag)
        let s := match res with
          | .ok _ => if sp.stores then mine.foldl (fun s a => s.countAcc core slot sp a) s else s
          | .error _ => s
        let r := mine.foldl (fun (r : State × List Acc) (a : Acc) =>
          match res with
          | .error c => (r.1, r.2 ++ [{ a with st := .failed c }])
          | .ok bs =>
            let q := r.1.land core slot i x a (leNat ((bs.drop (a.va % 64)).take sp.n))
            (q.1, r.2 ++ [q.2])) (s, [])
        match r.1.findOp core slot id with
        | none => r.1
        | some q => r.1.settle core slot { q.1 with accs := putAccs r.2 q.1.accs }

/-- The lowest byte offset a request enables in its line. -/
def packetFirst (p : Packet) : Nat := (packetLanes p 1).headD 0

/-- The aperture address of a request. -/
def packetVa (p : Packet) : Nat := 3 * 2 ^ 52 + p.dst * 2 ^ 42 + p.off / 64 * 64 + packetFirst p

/-- An answer for a split's scalar access (R175, R192). -/
def State.scalarReply (s : State) (who : Who) (o : Outstanding) (res : Except Cause (List Byte)) : State :=
  match s.ctxOf who with
  | none => s
  | some x =>
    let word (bs : List Byte) : Word := BitVec.ofNat 32 (leNat ((bs.drop (packetFirst o.packet)).take 4))
    match x.split.wait, res with
    | .fabric tag dest, .ok bs =>
      if tag != o.tag then s
      else (match dest with
        | some d => s.result x d (word bs)
        | none =>
          (s.countWrite who.core x.warp.team (packetVa o.packet) 4 (allBytes 4)).advance x)
    | .fabricPoll tag want dl, .ok bs =>
      if tag != o.tag then s
      else if word bs = want then
        (s.scalarFabric x { blankPacket 1 2 o.packet.dst o.packet.off with be := o.packet.be, w := o.packet.w }
          (BitVec.ofNat 54 (packetVa o.packet)) fun g => .fabricPoll g want dl)
      else s.advance x
    | .fabric tag _, .error c | .fabricPoll tag _ _, .error c =>
      if tag != o.tag then s else s.scalarFault x c (BitVec.ofNat 54 (packetVa o.packet))
    | _, _ => s

/-- An outstanding request ends (R152, R318). -/
def State.finishRequest (s : State) (o : Outstanding) (res : Except Cause (List Byte)) : State :=
  let s := { s with fab := { s.fab with outstanding := s.fab.outstanding.filter fun q => q.tag != o.tag } }
  let s := match res with
    | .error c => if c.noAck then s.noteTagFail o.tag c else s
    | .ok _ => s
  let s := match o.who with
    | .lane core slot op _ => s.laneReply core slot op o.tag res
    | .scalar core slot entry => s.scalarReply ⟨core, slot, entry⟩ o res
    | .chan core chan => s.copyReply core chan o.tag res
    | .bte q => s.bteReply q o.tag res
    | .forward src tag => match res with
      | .error c => s.castFail src tag c.code
      | .ok _ => s
  s.castSweep.fabReports

/-- The address space of a requester. -/
def State.requesterAsid (s : State) (r : Requester) : Option Asid :=
  let warp (core slot : Nat) : Option Asid := match s.warp core slot with
    | some w => (s.team core w.team).map (·.asid)
    | none => none
  match r with
  | .lane core slot _ _ | .scalar core slot _ => warp core slot
  | .chan core chan => match ((s.core core).chan chan).cur with
    | some r => ((s.core core).part r.team).map (·.asid)
    | none => none
  | .bte q => some (s.hub.bteq q).asid
  | .forward _ _ => none

/-- A reply of a peer with returned bytes is an inbound event of its requester's ASID (R310 KIND 5). -/
def State.replyAsid (s : State) (p : Packet) (o : Outstanding) : Option Asid :=
  if p.kind = 6 && p.status = 0 && p.src != s.fab.device then s.requesterAsid o.who else none

/-- A reply is taken where it answers a request of its kind; any other is dropped (R110, R318). -/
def State.fabReply (s : State) (kind : Nat) (p : Packet) : State :=
  if p.kind != kind then s
  else match s.fab.outstanding.find? fun o => o.tag == p.tag && o.peer == p.src &&
      (kind == 7) == (o.packet.kind == 2 || o.packet.kind == 5) with
    | none => { s with fab := { s.fab with sent := s.fab.sent.erase p } }
    | some o =>
      let asid := s.replyAsid p o
      if (match asid with | some a => s.captureWaits a.toNat p.data.length | none => false) then s
      else match s.take p with
        | none => s
        | some s =>
          let s := match asid with
            | some a => s.capture a.toNat 5 o.packet.off p.src p.inc.toNat p.data
            | none => s
          if p.status = 0 then s.finishRequest o (.ok p.data)
          else if p.status = statusFull && o.packet.kind = 4 then
            let mark (q : Outstanding) : Outstanding :=
              if q.tag = o.tag then { q with retryAt := some (s.clock.toNat + 940) } else q
            { s with fab := { s.fab with outstanding := s.fab.outstanding.map mark } }
          else match causeOf p.status with
            | some c => s.finishRequest o (.error c)
            | none => s

/-- FABRIC_REPLY (R318). -/
def execFabricReply (p : Packet) (s : State) : Host.Outcome State Fault Refusal := .next (s.fabReply 6 p)

/-- WRITE_ACKNOWLEDGE (R152). -/
def execWriteAcknowledge (p : Packet) (s : State) : Host.Outcome State Fault Refusal := .next (s.fabReply 7 p)

/-- FABRIC_TIMEOUT_EXPIRE: a request without reply for FAB_TMO µs completes with FABRIC_TIMEOUT; a wait of this device's
own at its home ends with it, and changes nothing (R227, R318). -/
def execFabricTimeoutExpire (n : Nat) (s : State) : Host.Outcome State Fault Refusal :=
  .next <| match s.fab.outstanding[n]? with
  | none => s
  | some o =>
    if s.clock.toNat < o.sentAt + s.fabTimeout then s
    else
      let own (e : Early) : Bool := e.packet.src == s.fab.device && e.packet.tag == o.tag
      { s with fab := { s.fab with early := s.fab.early.filter fun e => !own e } }.finishRequest o (.error .fabricTimeout)

/-- REMOTE_COUNT_RETRY: a refused fabric LDF is sent again 1 µs after its refusal (R111). -/
def execRemoteCountRetry (n : Nat) (s : State) : Host.Outcome State Fault Refusal :=
  .next <| match s.fab.outstanding[n]? with
  | none => s
  | some o =>
    match o.retryAt with
    | none => s
    | some t =>
      if s.clock.toNat < t then s
      else
        let clear (q : Outstanding) : Outstanding := if q.tag = o.tag then { q with retryAt := none } else q
        { s with fab := { s.fab with outstanding := s.fab.outstanding.map clear } }.sendBy o.packet o.hop

/-! ### Fabric barriers at the root (R328, R329) -/

/-- The entry for an address space and offset. -/
def Fabric.barOf (f : Fabric) (asid : Asid) (off : Nat) : Option (Nat × FabBar) :=
  f.bars.find? fun b => b.2.asid == asid && b.2.off == off && b.2.n != 0

/-- Replace an entry. -/
def State.setFabBar (s : State) (i : Nat) (b : FabBar) : State :=
  { s with fab := { s.fab with bars := amPut s.fab.bars i b } }

/-- The device numbers of an entry's list, by rank (R328). -/
def State.barList (s : State) (b : FabBar) : Except Cause (List Nat) :=
  let va := b.list.toNat
  match s.hubRead b.asid (va / 64 * 64) ((va % 64 + 2 * b.n + 63) / 64) with
  | .error c => .error c
  | .ok bs => .ok ((List.range b.n).map fun i => leNat ((bs.drop (va % 64 + 2 * i)).take 2))

/-- The position of a number in a list. -/
def rankIn (d : Nat) : List Nat → Nat → Option Nat
  | [], _ => none
  | x :: xs, i => if x = d then some i else rankIn d xs (i + 1)

/-- The root gives up a phase: every member that has reported is told, and the entry refuses reports until it is
written again (R329 step 5, R370). -/
def State.abortBar (s : State) (i : Nat) (b : FabBar) (list : List Nat) : State :=
  let s := s.setFabBar i { b with reports := [], dead := true, hold := none, left := [] }
  b.reports.foldl (fun (s : State) (r : Nat × Nat) =>
    s.sendMessage (barrierPacket 10 (list.getD r.1 0) b.asid b.off b.pcount.toNat 0)) s

/-- The root refuses a report (R329 step 2). -/
def State.refuseReport (s : State) (p : Packet) : State :=
  s.sendMessage (barrierPacket 10 p.src p.barAsid p.barOff p.pcount.toNat 0)

/-- A report for an entry. -/
def FabBar.isReport (b : FabBar) (p : Packet) : Bool := p.kind == 8 && p.barAsid == b.asid && p.barOff == b.off

/-- A member of an entry's list, other than this device, whose incarnation entry does not show it up (R327). -/
def State.memberDown (s : State) (list : List Nat) : Bool :=
  list.any fun d => d != s.fab.device && (s.fab.peer d).state != 1

/-- Reports for an entry that wait for a record are refused with it. -/
def State.refuseHeld (s : State) (b : FabBar) : State :=
  let mine := s.fab.held.filter fun h => b.isReport h.2
  let s : State := { s with fab := { s.fab with held := s.fab.held.filter fun h => !b.isReport h.2 } }
  mine.foldl (fun (s : State) h => s.refuseReport h.2) s

/-- A report waits for the replay of a record (R370). -/
def State.holdReport (s : State) (i : Nat) (b : FabBar) (p : Packet) (c : Cause) (va : Nat) : State :=
  let f := s.addFault (hubFault va c 5 (faultFlags true .atomic false) 0 b.asid)
  { f.1.setFabBar i { b with hold := some (.waiting f.2) } with
    fab := { (f.1.setFabBar i { b with hold := some (.waiting f.2) }).fab with held := f.1.fab.held ++ [(f.2, p)] } }

/-- The verdict of a member from its entry: PERSIST and LATE (R320, R329). -/
def entryVerdict (e : List Byte) : Nat := (e.getD 25 0).toNat % 2 + (e.getD 24 0).toNat % 32 * 2

/-- All members have reported: the record is updated, PCOUNT rises, and every member is told its verdict (R329 step 3). -/
def State.completeBar (s : State) (i : Nat) (b : FabBar) (list : List Nat) (p : Packet) : State :=
  match srecUpdate (hubTr b.asid true) s b.srec.toNat true with
  | (s, .bad, _) => s.abortBar i b list
  | (s, .wait c va, _) => s.holdReport i b p c va
  | (s, .ok, es) =>
    let b' := { b with reports := [], pcount := b.pcount + 1, hold := none }
    list.zipIdx.foldl (fun (s : State) (m : Nat × Nat) =>
      s.sendMessage (barrierPacket 9 m.1 b.asid b.off b'.pcount.toNat (entryVerdict (es.getD m.2 []))))
      (s.setFabBar i b')

/-- A report that passed the checks of R329 step 2. Its arrival time, in µs, is that of its receipt. -/
def State.takeReport (s : State) (i : Nat) (b : FabBar) (list : List Nat) (rank : Nat) (p : Packet) : State :=
  let time := if p.data.length = 8 then leNat p.data else s.clock.toNat / 940
  let q := { p with data := leBytes 8 time }
  if b.reports.any fun r => r.1 == rank then
    if b.reports.length = b.n then s.completeBar i b list q else s
  else match srecArrive (hubTr b.asid true) s b.srec.toNat rank time with
    | (s, .bad) => s.abortBar i { b with reports := b.reports ++ [(rank, time)] } list
    | (s, .wait c va) => s.holdReport i b q c va
    | (s, .ok) =>
      let b := { b with reports := b.reports ++ [(rank, time)], hold := none }
      if b.reports.length = b.n then s.completeBar i b list q else s.setFabBar i b

/-- BARRIER_REPORT: the root receives a member's report (R329). -/
def execBarrierReport (p : Packet) (s : State) : Host.Outcome State Fault Refusal :=
  .next <|
    if p.kind != 8 then s
    else match s.fab.barOf p.barAsid p.barOff with
      | none => (match s.take p with
        | none => s
        | some s => s.refuseReport p)
      | some (i, b) =>
        if (match b.hold with | some (.waiting _) => true | _ => false) then s
        else match s.take p with
          | none => s
          | some s =>
            let failed := match b.hold with | some (.failed _) => true | _ => false
            match s.barList b with
            | .error c =>
              if failed then (s.abortBar i b b.members).refuseReport p
              else if c.replayable then s.holdReport i b p c b.list.toNat
              else (s.unheardAt b.asid b.list.toNat c).refuseReport p
            | .ok list =>
              let gone := list.any b.left.contains
              let b := { b with members := list, left := [] }
              if failed || gone then (s.abortBar i b list).refuseReport p
              else match rankIn p.src list 0 with
                | none => s.refuseReport p
                | some rank =>
                  if b.dead || p.pcount != b.pcount then s.refuseReport p
                  else if s.memberDown list then (s.abortBar i b list).refuseReport p
                  else s.takeReport i b list rank p

/-! ### Fabric barriers at a member (R132, R136, R329) -/

/-- An object waits for the root: fabric kind, local part complete (R131). -/
def Bar.waitsRoot (b : Bar) : Bool := b.kind == 2 && b.ldone && !b.brk

/-- The resident teams of an address space whose object at an offset waits for the root. -/
def State.rootWaiters (s : State) (asid : Asid) (off : Nat) : List (Nat × Nat × Team) :=
  s.cores.flatMap fun k => (k.2.teams.filter fun t =>
    t.2.asid == asid && off + 32 ≤ t.2.lmSize && (k.2.bar (t.2.lmBase + off)).waitsRoot).map fun t => (k.1, t.1, t.2)

/-- The object of a saved team whose LM is in its slot (R294). -/
def State.slotBar (s : State) (v : SavedTeam) (off : Nat) : Bar :=
  let pa := s.slotPa v.slot + 0x100000 + off
  let w (i : Nat) : Nat := Memory.readNat s.mem (pa + 8 * i) 8
  ⟨w 0, w 1, w 2, w 3⟩

/-- A saved team keeps an offset for its restore, in the hub and in its slot (R294 FABRIC). -/
def State.keepFabric (s : State) (v : SavedTeam) (off : Nat) : State :=
  if v.fabric.length < 16 then s.hubPut (s.slotPa v.slot + 0x1A0 + 4 * v.fabric.length) (leBytes 4 off) else s

/-- Note a completion for the saved teams of a list that wait for the root. -/
def noteSaved (waits : SavedTeam → Bool) (off : Nat) (gs : List SavedGang) : List SavedGang :=
  gs.map fun g => { g with teams := g.teams.map fun v => if waits v then { v with fabric := v.fabric ++ [off] } else v }

/-- A saved team's object waits for the root: in its partition while that is not yet in its slot, else in the slot. -/
def State.savedWaits (s : State) (asid : Asid) (off : Nat) (inSlot : Bool) (v : SavedTeam) : Bool :=
  v.team.asid == asid && off + 32 ≤ v.team.lmSize && !v.fabric.contains off &&
  (if inSlot then s.slotBar v off else (s.core v.core).bar (v.team.lmBase + off)).waitsRoot

/-- The teams of a list of saved gangs that keep state to go on from. -/
def savedTeams (gs : List SavedGang) : List SavedTeam :=
  (gs.filter fun g => g.kind == .save || g.kind == .migrate).flatMap (·.teams)

/-- The phase of saved teams completes: it is applied at their restore (R132, R296). -/
def State.completeSaved (s : State) (asid : Asid) (off : Nat) : State :=
  let out := (savedTeams s.hub.saving).filter (s.savedWaits asid off false)
  let slot := (savedTeams s.hub.resume).filter (s.savedWaits asid off true)
  let s' := (out ++ slot).foldl (fun (s : State) (v : SavedTeam) => s.keepFabric v off) s
  s'.modHub fun h => { h with
    saving := noteSaved out.contains off h.saving
    resume := noteSaved slot.contains off h.resume }

/-- The straggler page after a verdict (R136). -/
def State.writePage (s : State) (p : Packet) : State :=
  let w0 := p.verdict % 2 + p.verdict / 2 % 32 * 2 ^ 16 + p.pcount.toNat * 2 ^ 32
  { s with fab := { s.fab with pageWord0 := BitVec.ofNat 64 w0, pageWord1 := s.clock } }

/-- BARRIER_COMPLETE: the member acquires, completes its phase and rewrites its straggler page (R329 step 4). -/
def execBarrierComplete (p : Packet) (s : State) : Host.Outcome State Fault Refusal :=
  .next <|
    if p.kind != 9 then s
    else match s.take p with
      | none => s
      | some s =>
        let s := (s.rootWaiters p.barAsid p.barOff).foldl (fun (s : State) (t : Nat × Nat × Team) =>
          (s.phaseAcq t.1).modBar t.1 t.2.2 p.barOff Bar.flip) (s.completeSaved p.barAsid p.barOff)
        s.writePage p

/-- BRK is set in the objects of saved teams (R133). -/
def State.breakSaved (s : State) (asid : Asid) (off : Nat) : State :=
  let s := ((savedTeams s.hub.saving).filter (s.savedWaits asid off false)).foldl (fun (s : State) (v : SavedTeam) =>
    s.modCore v.core fun k => k.setBar (v.team.lmBase + off) (k.bar (v.team.lmBase + off)).broken) s
  ((savedTeams s.hub.resume).filter (s.savedWaits asid off true)).foldl (fun (s : State) (v : SavedTeam) =>
    s.hubPut (s.slotPa v.slot + 0x100000 + off) (leBytes 8 (s.slotBar v off).broken.w0)) s

/-- BARRIER_ABORT: the member sets BRK in its object (R133, R329). -/
def execBarrierAbort (p : Packet) (s : State) : Host.Outcome State Fault Refusal :=
  .next <|
    if p.kind != 10 then s
    else match s.take p with
      | none => s
      | some s =>
        (s.rootWaiters p.barAsid p.barOff).foldl (fun (s : State) (t : Nat × Nat × Team) =>
          s.modBar t.1 t.2.2 p.barOff Bar.broken) (s.breakSaved p.barAsid p.barOff)

/-! ### Incarnations (R110, R112, R327) -/

/-- The fabric barriers that wait on a peer are aborted, by the list as their first report found it; one whose list could not be
read yet is aborted once it is, if the peer stands in it (R327, R329 step 5). -/
def State.abortBars (s : State) (peer : Nat) : State :=
  s.fab.bars.foldl (fun (s : State) (b : Nat × FabBar) =>
    if (!b.2.reports.isEmpty || b.2.hold.isSome) && b.2.members.contains peer && peer != s.fab.device then
      (s.abortBar b.1 b.2 b.2.members).refuseHeld b.2
    else if b.2.members.isEmpty && b.2.hold.isSome then s.setFabBar b.1 { b.2 with left := addBad peer b.2.left }
    else s) s

/-- A peer's entry leaves the up state: requests on it complete with PEER_RESET, its remote counts are logged and freed,
its packets here are dropped, and barriers that wait on it are aborted (R110, R112, R152, R327). -/
def State.leaveUp (s : State) (peer : Nat) : State :=
  let mine (p : Packet) : Bool := p.src == peer && peer != s.fab.device
  let counts := s.fab.remote.filter fun e => e.2.peer == peer
  let s := { s with fab := { s.fab with
    remote := s.fab.remote.filter fun e => e.2.peer != peer
    held := s.fab.held.filter fun h => !mine h.2
    sent := s.fab.sent.filter fun p => !mine p
    early := s.fab.early.filter fun e => !mine e.packet
    grants := s.fab.grants.filter fun g => !mine g.1
    casts := s.fab.casts.filter fun c => !mine c.packet } }
  let s := counts.foldl (fun (s : State) (e : Nat × Remote) => if e.2.net = 0 then s else s.orphan e.2) s
  let s := (s.fab.outstanding.filter fun o => o.peer == peer).foldl
    (fun (s : State) (o : Outstanding) => s.finishRequest o (.error .peerReset)) s
  s.abortBars peer

/-- An incarnation entry is written (R110). The entry of the device itself holds its own incarnation. -/
def State.setPeer (s : State) (peer : Nat) (e : PeerEntry) : State :=
  if 992 < peer || 2 < e.state then s
  else
    let was := (s.fab.peer peer).state
    let s := { s with fab := { s.fab with
      peers := amPut s.fab.peers peer e
      inc := if peer = s.fab.device then e.inc else s.fab.inc } }
    if was = 1 && e.state != 1 then s.leaveUp peer else s

/-- PEER_RESET: a peer's entry leaves the up state (R110, R327). -/
def execPeerReset (peer state : Nat) (inc : BitVec 16) (s : State) : Host.Outcome State Fault Refusal :=
  .next <| if (s.fab.peer peer).state = 1 && state != 1 then s.setPeer peer { state := state, inc := inc } else s

/-- The packets of a port whose flits the far end has not all acknowledged, oldest first. -/
def Port.unacked (q : Port) : List Packet :=
  ((q.retry.map (·.2)) ++ (match q.cur with | some c => [c.2.2] | none => [])).eraseDups

/-- A valid routing entry names a port. -/
def Fabric.routesTo (f : Fabric) (port : Nat) : Bool :=
  f.routes.any fun e => bitAt e.2.toNat 63 && e.2.toNat / 2 ^ 55 % 64 == port

/-- A routing entry is rewritten; packets queued on a port keep their route (R108). Where that puts a spare in the place of a
port that went down, as no entry names the port any more, what the port sent and had no acknowledgement of is sent again on
the spare (R315, R326). -/
def State.writeRoute (s : State) (d : Nat) (v : BitVec 64) : State :=
  let old := s.fab.route d
  let p := old / 2 ^ 55 % 64
  let q := v.toNat / 2 ^ 55 % 64
  let s := { s with fab := { s.fab with routes := amPut s.fab.routes d v } }
  if bitAt old 63 && bitAt v.toNat 63 && p != q && !(s.fab.port p).up && p < 36 && 32 ≤ q && q < 36 && !s.fab.routesTo p then
    let moved := (s.fab.port p).unacked.map fun y => (y.cls, s.clock.toNat, y)
    (s.modPort p fun x => { x with retry := [], cur := none }).modPort q fun x => { x with queues := moved ++ x.queues }
  else s

/-- FABRIC_TABLE_WRITE: the management controller writes one entry (R108 to R110, R323), from stage 2 on, which brings the tables
(R361). The tables are numbered on from
each other (log 28): routes 0 to 992, then from 0x1000 the trees of port p at 256 p, from 0x4000 the root trees, from
0x5000 the incarnations. Reserved bits are written as zero. -/
def execFabricTableWrite (off : Nat) (v : BitVec 64) (s : State) : Host.Outcome State Fault Refusal :=
  .next <|
    let tree : BitVec 64 := v &&& BitVec.ofNat 64 (3 * 2 ^ 62 + (2 ^ 36 - 1))
    if s.boot.stage.toNat < 2 then s
    else if off ≤ 992 then
      s.writeRoute off (v &&& BitVec.ofNat 64 (2 ^ 64 - 2 ^ 45 + (2 ^ 40 - 1)))
    else if 0x1000 ≤ off && off < 0x1000 + 36 * 256 then
      { s with fab := { s.fab with trees := amPut s.fab.trees (off - 0x1000) tree } }
    else if 0x4000 ≤ off && off < 0x4100 then
      { s with fab := { s.fab with roots := amPut s.fab.roots (off - 0x4000) tree } }
    else if 0x5000 ≤ off && off ≤ 0x5000 + 992 then
      s.setPeer (off - 0x5000) { state := v.toNat / 2 ^ 16 % 4, inc := BitVec.ofNat 16 v.toNat }
    else s

end Sys2Proof.Machine
end

