-- ==== Sys2Proof/Machine/Link.lean ====
section
/-! DEFINITION. Floe ports: which flit is sent, sequence numbers, acknowledgement and replay, degradation and training
(R140, R315, R322, R324 to R326). The bits on the wire and the far end are not the device's: a received flit is an event
that gives its number. -/

namespace Sys2Proof.Machine

/-- Flits sent and not acknowledged (R140). -/
def Port.inFlight (q : Port) : Nat := (q.txSeq - q.ackSeq).toNat

/-- A port that carries flits. -/
def Port.running (q : Port) : Bool := q.up && !q.training

/-- The lanes a port runs on: all four, else the two lowest-numbered working ones, else one (R326). -/
def Port.active (q : Port) : List Nat :=
  let w := (List.range 4).filter q.lanes.getLsbD
  if w.length = 4 then w else if 2 ≤ w.length then w.take 2 else w

/-! ### Sending (R322) -/

/-- The flit times a class has waited. -/
def Port.wait (q : Port) (cls : Nat) : Nat := match q.waited.find? (·.1 == cls) with
  | some e => e.2
  | none => 0

/-- The class that takes the next packet slot: one that has waited 64 flit times, else C0 to C3 in order (R322). -/
def Port.nextClass (q : Port) : Option Nat :=
  let has := (List.range 4).filter fun c => q.queues.any (·.1 == c)
  match has.find? fun c => 64 ≤ q.wait c with
  | some c => some c
  | none => has.head?

/-- After one flit time: a class with packets waiting has waited one more, but for the one whose packet is being sent
(R322). In the time of a flit that is sent again, or of none, no class sends (log 81). -/
def Port.passTime (q : Port) (sent : Option Nat) : Port :=
  let classes := (List.range 4).filter fun c => some c != sent && q.queues.any (·.1 == c)
  { q with waited := classes.map fun c => (c, q.wait c + 1) }

/-- A packet as it leaves the device: an offload packet has its deadline lowered by the µs it was queued, and its class
raised as the deadline comes near where `raise` (R322, R346). -/
def sentOn (raise : Bool) (p : Packet) (queued : Nat) : Packet :=
  if p.dlOrig = 0 then p
  else
    let left := p.dlLeft - queued / 940
    let cls := if 10 * left ≤ p.dlOrig then 1 else if 4 * left ≤ p.dlOrig then 2 else p.cls
    { p with dlLeft := left, cls := if raise then min p.cls cls else p.cls }

/-- Take the next packet from the queues. -/
def Port.startPacket (q : Port) (raise : Bool) (clock : Nat) : Port :=
  match q.nextClass with
  | none => q
  | some c =>
    match q.queues.find? (·.1 == c) with
    | none => q
    | some e => { q with queues := q.queues.erase e, cur := some (packetFlits e.2.2, c, sentOn raise e.2.2 (clock - e.2.1)) }

/-- Send the next flit of the packet being sent, which left the queue of a class: it takes TXSEQ and stays in the retry
buffer (R140). -/
def Port.sendNew (q : Port) : Port :=
  match q.cur with
  | none => q.passTime none
  | some (n, c, p) =>
    { q.passTime (some c) with
      txSeq := q.txSeq + 1, sendNext := q.txSeq + 1, retry := q.retry ++ [(q.txSeq, p)]
      cur := if n ≤ 1 then none else some (n - 1, c, p) }

/-- One flit time of a sending port: a flit of a replay, or a new one if the retry buffer has room (R140, R322, R325). -/
def Port.sendFlit (q : Port) (raise : Bool) (clock : Nat) : Port :=
  if !q.running then q
  else if q.sendNext != q.txSeq then { q.passTime none with sendNext := q.sendNext + 1 }
  else if 4096 ≤ q.inFlight then q.passTime none
  else match q.cur with
    | some _ => q.sendNew
    | none => (q.startPacket raise clock).sendNew

/-- FLIT_SEND (R322). -/
def execFlitSend (port : Nat) (s : State) : Host.Outcome State Fault Refusal :=
  .next <| if port < 36 then s.modPort port fun q => q.sendFlit (s.hasFeature 19) s.clock.toNat else s

/-! ### Receiving (R140, R325) -/

/-- A received flit: the expected one is accepted, and every 32nd is acknowledged; another is discarded with at most one
replay request for each RXSEQ; one whose codeword could not be corrected never arrives (R140, R324, R325). -/
def Port.receive (q : Port) (seq : BitVec 16) (good : Bool) (clock : Nat) : Port :=
  if !q.running || !good then q
  else if seq = q.rxSeq then
    if q.accepted + 1 = 32 then { q with rxSeq := q.rxSeq + 1, asked := none, accepted := 0, lastAck := clock }
    else { q with rxSeq := q.rxSeq + 1, asked := none, accepted := q.accepted + 1 }
  else { q with asked := some q.rxSeq }

/-- FLIT_RECEIVE: in S3 a flit that arrives on a port wakes the device (R140, R366). -/
def execFlitReceive (port : Nat) (seq : BitVec 16) (good : Bool) (s : State) : Host.Outcome State Fault Refusal :=
  .next <|
    if port < 36 then
      let s := if s.boot.rest = 3 && good && (s.fab.port port).running then s.wake else s
      s.modPort port fun q => q.receive seq good s.clock.toNat
    else s

/-- An acknowledgement names the flit expected next: those before it leave the retry buffer (R140, R325). A number outside
the flits in flight acknowledges nothing. -/
def Port.acked (q : Port) (seq : BitVec 16) : Port :=
  if (seq - q.ackSeq).toNat ≤ q.inFlight then
    { q with
      ackSeq := seq
      retry := q.retry.drop (seq - q.ackSeq).toNat
      sendNext := if (q.sendNext - q.ackSeq).toNat < (seq - q.ackSeq).toNat then seq else q.sendNext }
  else q

/-- ACKNOWLEDGEMENT (R325). -/
def execAcknowledgement (port : Nat) (seq : BitVec 16) (s : State) : Host.Outcome State Fault Refusal :=
  .next <| if port < 36 then s.modPort port fun q => if q.running then q.acked seq else q else s

/-- REPLAY_REQUEST: ACKSEQ becomes the number, and the sender sends again from there (R325). -/
def execReplayRequest (port : Nat) (seq : BitVec 16) (s : State) : Host.Outcome State Fault Refusal :=
  .next <|
    if port < 36 then s.modPort port fun q =>
      if q.running && (seq - q.ackSeq).toNat ≤ q.inFlight then { q.acked seq with sendNext := seq } else q
    else s

/-- ACK_TIMER: an acknowledgement goes out after 1 µs without one (R325). -/
def execAckTimer (port : Nat) (s : State) : Host.Outcome State Fault Refusal :=
  .next <|
    if port < 36 then s.modPort port fun q =>
      if q.running && q.lastAck + 940 ≤ s.clock.toNat then { q with accepted := 0, lastAck := s.clock.toNat } else q
    else s

/-! ### Degradation and training (R326) -/

/-- LANE_FAIL: the lane works no more and the port stops to retrain (R326). -/
def execLaneFail (port lane : Nat) (s : State) : Host.Outcome State Fault Refusal :=
  .next <|
    if port < 36 then s.modPort port fun q =>
      if q.up then { q with lanes := q.lanes &&& ~~~ BitVec.ofNat 4 (2 ^ (lane % 4)), training := true } else q
    else s

/-- PORT_RETRAIN: the port runs again on the lanes that work, with its counters, and replays from ACKSEQ (R140, R326). -/
def execPortRetrain (port : Nat) (s : State) : Host.Outcome State Fault Refusal :=
  .next <|
    if port < 36 then s.modPort port fun q =>
      if q.up && q.training && q.lanes != 0 then { q with training := false, sendNext := q.ackSeq } else q
    else s

/-- PORT_DOWN: a port with no working lane goes down (R326). -/
def execPortDown (port : Nat) (s : State) : Host.Outcome State Fault Refusal :=
  .next <|
    if port < 36 then s.modPort port fun q => if q.up && q.lanes = 0 then { q with up := false, training := false } else q
    else s

/-- A port after training: at ×4, its counters 0 (R140, R326). -/
def Port.trained (q : Port) (clock : Nat) : Port :=
  { Port.reset with up := true, queues := q.queues, lastAck := clock }

/-- PORT_TRAIN: the management controller trains a port (R140, R326), from stage 2 on and not one that does not train (R361). -/
def execPortTrain (port : Nat) (s : State) : Host.Outcome State Fault Refusal :=
  .next <| if port < 36 && s.boot.stage = 2 && Config.portTrains port then s.modPort port fun q => q.trained s.clock.toNat else s

end Sys2Proof.Machine
end

