-- ==== Sys2Proof/Machine/Firn.lean ====
section
/-! DEFINITION. The firn tier's errors and ports, the loss of cache entries at any time, and soft errors (R68, R79, R80,
R82, R93, R98, R105, R338, R339). -/

namespace Sys2Proof.Machine

/-! ### Firn errors (R339) -/

/-- A CXL port by number. -/
def Fabric.cxlPort (f : Fabric) (i : Nat) : CxlPort := amGet CxlPort.reset f.cxl i

/-- A firn address that lies behind a port (R338). -/
def State.behind (s : State) (port pa : Nat) : Bool :=
  firnBase ≤ pa && pa - firnBase < s.hub.regs.firnSize.toNat && s.hub.regs.firnPort pa == port

/-- The value of FIRN_ERR after one more error: COUNT saturates, KIND and DPA are the last error's (R339). -/
def firnErrWord (old kind dpa : Nat) : Nat := min (old / 2 ^ 48 + 1) 0xFFFF * 2 ^ 48 + kind * 2 ^ 44 + dpa % 2 ^ 42

/-- An error updates FIRN_ERR of its port; its count leaving 0 sends vector 5 (R336, R339). -/
def State.firnLog (s : State) (port kind dpa : Nat) : State :=
  let old := (s.hub.regs.firnErr.getD port 0).toNat
  let s := s.modRegs fun r =>
    { r with firnErr := r.firnErr.set port (BitVec.ofNat 64 (firnErrWord old kind dpa)) }
  if old / 2 ^ 48 = 0 then s.msix 5 else s

/-- A read from the expander failed: the line is uncorrectable, unless the stack cache holds it dirty (R83, R339). -/
def State.firnBad (s : State) (pa : Nat) : State :=
  if s.stale.any fun x => x.1 == pa / 64 then s
  else
    let us := (unitsOf (pa / 64 * 64) 64).filter fun u => !s.memBad.contains u
    { s with memBad := s.memBad ++ us }

/-- FIRN_TIMEOUT: a read or write-back of a line is unanswered for 1 ms (R339). Behind a port that is down every access is
such an error itself. -/
def execFirnTimeout (port : Nat) (write : Bool) (pa : Nat) (s : State) : Host.Outcome State Fault Refusal :=
  .next <|
    if s.behind port pa && !s.firnDown pa then
      (if write then s.firnDrop pa else s.firnBad pa).firnLog port 2 (s.hub.regs.firnDpa pa)
    else s

/-- FIRN_ERROR: kind 1 poison or a data error on a read, 3 a refused write-back, 4 the port goes down (R339). -/
def execFirnError (port kind pa : Nat) (s : State) : Host.Outcome State Fault Refusal :=
  .next <|
    if kind = 4 && port < 8 && (s.fab.cxlPort port).up then
      let q := s.fab.cxlPort port
      { s with fab := { s.fab with cxl := amPut s.fab.cxl port { q with up := false } } }.firnLog port 4
        (if s.behind port pa then s.hub.regs.firnDpa pa else 0)
    else if s.behind port pa then
      if kind = 1 then (s.firnBad pa).firnLog port 1 (s.hub.regs.firnDpa pa)
      else if kind = 3 then (s.firnDrop pa).firnLog port 3 (s.hub.regs.firnDpa pa)
      else s
    else s

/-- The error of an access behind a port that is down: a read that received no response (R339; log 60). -/
def State.firnUnheard (s : State) (pa : Nat) : State := s.firnLog (s.hub.regs.firnPort pa) 2 (s.hub.regs.firnDpa pa)

/-- CXL_PORT_TRAIN: the management controller trains a port that went down (R339). -/
def execCxlPortTrain (port : Nat) (s : State) : Host.Outcome State Fault Refusal :=
  .next <|
    let q := s.fab.cxlPort port
    if port < 8 && q.trained && !q.up then
      { s with fab := { s.fab with cxl := amPut s.fab.cxl port { q with up := true } } }
    else s

/-! ### What may be lost at any time -/

/-- A cache loses one entry that nothing may rely on (R79, R93, R98, R105), or a stack cache writes a dirty line back (R80).
A dirty L1 line is never lost so. -/
def State.forget (s : State) (level index : Nat) : State :=
  match level with
  | 0 => s.modCore (index / 64) fun k => { k with utlb := k.utlb.eraseIdx (index % 64) }
  | 1 => { s with ctlb := s.ctlb.eraseIdx index }
  | 2 => { s with stlb := s.stlb.eraseIdx index }
  | 3 => { s with asCache := s.asCache.eraseIdx index }
  | 4 => { s with adtCache := s.adtCache.eraseIdx index }
  | 5 =>
    (match (s.core (index / 4096)).l1[index % 4096]? with
    | some x => if x.dirty = 0 then s.modCore (index / 4096) (·.dropLine x.line) else s
    | none => s)
  | _ => match s.stale[index]? with
    | none => s
    | some x => s.writeBackLine x.1

/-! ### Soft errors (R68, R82) -/

/-- The two halves of a redundant MMA come to differ (R237). -/
def OpAux.differ : OpAux → OpAux
  | .mma tile ow endsAt sums joint (some _) => .mma tile ow endsAt sums joint (some true)
  | a => a

/-- One uncorrected error of a memory or register file: 0 global memory, 1 LM, 2 AM, 3 névé, 4 L1, 5 lane registers,
6 g registers, 7 team registers, 8 one half of the matrix array during an MMA in redundant mode (R237), 9 the integer unit at
a warp's next predicted result (R69). The index names the core in its low 10 bits. -/
def State.upset (s : State) (what index : Nat) : State :=
  let core := index % 1024
  let i := index / 1024
  match what with
  | 0 => if s.populated (index * 8) then { s with memBad := addBad index s.memBad } else s
  | 1 => s.modCore core fun k => { k with lmBad := addBad (i % 98304) k.lmBad }
  | 2 => s.modCore core fun k => { k with amBad := addBad (i % 32768) k.amBad }
  | 3 => s.modCore core fun k => { k with neveBad := addBad (i % 32768) k.neveBad }
  | 4 => s.modCore core fun k =>
    { k with l1 := k.l1.zipIdx.map fun x =>
        if x.2 = i / 8 then { x.1 with bad := x.1.bad ||| BitVec.ofNat 8 (2 ^ (i % 8)) } else x.1 }
  | 5 => s.modWarp core (i % 64) fun w =>
    let key := i / 64 / 32 % 8192
    { w with v := smPut cellZero w.v key (upsetCell (i / 64) (amGet cellZero w.v key)) }
  | 6 => s.modWarp core (i % 64) fun w =>
    let key := i / 64 / 32 % 64
    if key = 0 then w else { w with g := smPut cellZero w.g key (upsetCell (i / 64) (amGet cellZero w.g key)) }
  | 7 => s.modTeam core (i / 1024) fun t =>
    let key := i / 32 % 32
    { t with ts := smPut cellZero t.ts key (upsetCell i (amGet cellZero t.ts key)) }
  | 9 => s.modWarp core (i % 64) fun w => { w with flip := some (i / 64 % 32, i / 2048 % 32) }
  | _ => s.modWarp core (i % 64) fun w =>
    { w with ops := w.ops.map fun o => if o.id = i / 64 then { o with aux := o.aux.differ } else o }

end Sys2Proof.Machine
end

