-- ==== Sys2Proof/Machine/Boot.lean ====
section
/-! DEFINITION. Reset and the start sequence, rest states, the recovery mailbox and SPDM (R361 to R369). -/

namespace Sys2Proof.Machine

/-! ### Verified boot and reset (R361, R367) -/

/-- The FAIL code of a firmware release against the fuse minimum: signature, rollback, microcode signature (R367). -/
def Image.verify (i : Image) (fuse : BitVec 16) : Nat :=
  if !i.sigOk then 1 else if i.svn < fuse then 2 else if !i.microOk then 3 else 0

/-- The start sequence begins with a firmware release: it is verified, and stack 0 trains (R361, R363, R367). -/
def Boot.start (b : Boot) (i : Image) : Boot :=
  let f := i.verify b.fuseSvn
  let down := f == 0 && !Config.stackTrains 0
  { b with stage := 0, fail := if down then 4 else f, stacksBad := if down then 1 else 0, running := i }

/-- DEVICE_RESET: every part of the device is as after reset. Memory keeps what it holds, and the firmware store, the fuses,
the device number and its last incarnation outlive the reset (R361; log 29). -/
def execDeviceReset (s : State) : Host.Outcome State Fault Refusal :=
  .next { State.reset with
    mem := s.mem, memBad := s.memBad, nfree := s.nfree
    fab := { Fabric.reset with device := s.fab.device, inc := s.fab.inc }
    boot := { Boot.reset with store := s.boot.store, fuseSvn := s.boot.fuseSvn }.start s.boot.store }

/-! ### Stages (R361, R363, R338) -/

/-- The stacks that fail to train at stage 1, as BOOT_STATUS shows them; stack 0 trained for stage 0 (R361, R363). -/
def stacksDown : BitVec 8 :=
  ((List.range 8).filter fun k => k != 0 && !Config.stackTrains k).foldl (fun m k => m ||| BitVec.ofNat 8 (2 ^ k)) 0

/-- The eight CXL ports as training leaves them (R338). -/
def trainedCxl : List (Nat × CxlPort) :=
  (List.range 8).map fun p =>
    let c := Config.cxlPort p
    (p, { trained := c.1, up := c.1, expander := c.2.1, capacity := c.2.2 })

/-- The largest power of two not above n, up to 8; 0 for none. -/
def pow2Below (n : Nat) : Nat := if 8 ≤ n then 8 else if 4 ≤ n then 4 else if 2 ≤ n then 2 else min n 1

/-- FIRN_SIZE and FIRN_MAP from the trained ports (R338). -/
def firnLayout (ports : List (Nat × CxlPort)) : Nat × Nat :=
  let p := ports.filter fun e => e.2.trained && e.2.expander
  let w := pow2Below p.length
  let used := p.take w
  let cap := used.foldl (fun (n : Nat) (e : Nat × CxlPort) => min n e.2.capacity) (24 * 2 ^ 40)
  (min (w * cap / 2 ^ 30 * 2 ^ 30) (24 * 2 ^ 40), (used.map fun e => 2 ^ e.1).sum + w * 2 ^ 8)

/-- Stage 2 comes up: Floe and CXL ports train, the device gets its number and incarnation (R327, R338, R361). Without
CXL no port trains and FIRN_SIZE is 0 (R346). -/
def State.joinFabric2 (s : State) : State :=
  let cxl := if s.hasFeature 20 then trainedCxl else []
  let l := firnLayout cxl
  let inc := s.fab.inc + 1
  let d := Config.deviceNumber % 993
  let s := ((List.range 36).filter Config.portTrains).foldl (fun (s : State) (p : Nat) =>
    s.modPort p fun q => q.trained s.clock.toNat) s
  { s with
    fab := { s.fab with device := d, inc := inc, cxl := cxl, peers := amPut s.fab.peers d { state := 1, inc := inc } }
    hub := { s.hub with regs := { s.hub.regs with firnSize := BitVec.ofNat 64 l.1, firnMap := BitVec.ofNat 64 l.2 } } }

/-- STAGE_ADVANCE: STAGE rises by 1 and sends vector 4; a stack that fails to train stops it at 0 (R336, R361, R363). -/
def execStageAdvance (s : State) : Host.Outcome State Fault Refusal :=
  .next <|
    if s.boot.fail != 0 then s
    else match s.boot.stage.toNat with
      | 0 =>
        if stacksDown = 0 then
          ((List.range 64).foldl State.noteHead { s with boot := { s.boot with stage := 1 } }).msix 4
        else { s with boot := { s.boot with fail := 4, stacksBad := stacksDown } }
      | 1 => { s.joinFabric2 with boot := { s.boot with stage := 2 } }.msix 4
      | _ => s

/-! ### Rest states (R364 to R366) -/

/-- No gang is placed, being saved or stopped, and no head record is eligible (R365 S1). -/
def State.idle (s : State) : Bool :=
  let awake : State := { s with boot := { s.boot with rest := 0 } }
  s.hub.gangs.isEmpty && s.hub.saving.isEmpty &&
  !(s.hub.heads.any fun e => (awake.headFit e.1 e.2).isSome)

/-- No BTE packet, fabric request or CXL request is outstanding (R365 S3): none of this device, none of a peer that is performed here,
and none that waits or is being sent at a port. -/
def State.quietLinks (s : State) : Bool :=
  (s.hub.bte.all fun b => b.2.cur.isNone) && s.bells.isEmpty && s.fab.outstanding.isEmpty && s.fab.sent.isEmpty && s.fab.held.isEmpty &&
  s.fab.early.isEmpty && s.fab.ports.all fun p => p.2.queues.isEmpty && p.2.cur.isNone

/-- The entry condition of a rest state holds (R365). -/
def State.restHolds (s : State) : Nat → Bool
  | 0 => true
  | 1 | 2 => s.idle
  | 3 => s.idle && s.quietLinks
  | _ => s.idle && s.quietLinks && s.fab.ports.all fun p => !p.2.up

/-- The deepest state from S0 to a limit whose condition holds (R365). -/
def State.deepest (s : State) : Nat → Nat
  | 0 => 0
  | n + 1 => if s.restHolds (n + 1) then n + 1 else s.deepest n

/-- What entering a rest state loses or writes back: L1s at S2, stack caches at S3 (R365). -/
def State.enterRest (s : State) (n : Nat) : State :=
  let clear (k : Nat × Core) : Nat × Core := (k.1, { k.2 with l1 := k.2.l1.filter fun x => x.dirty != 0 })
  let s := if 2 ≤ n then { s with cores := s.cores.map clear } else s
  let s := if 3 ≤ n then s.stale.foldl (fun s x => s.writeBackLine x.1) s else s
  { s with boot := { s.boot with rest := n } }

/-- REST_ENTRY: the device goes to the deepest admitted state whose condition holds (R365). -/
def execRestEntry (s : State) : Host.Outcome State Fault Refusal :=
  .next <|
    let n := s.deepest s.restAllow
    if s.boot.rest < n then s.enterRest n else s

/-- REST_EXIT: the state's condition no longer holds, ALLOW has become shallower, or a BELL was written (R365, R366). -/
def execRestExit (s : State) : Host.Outcome State Fault Refusal :=
  .next <|
    if s.boot.rest != 0 && (!s.restHolds s.boot.rest || s.restAllow < s.boot.rest || !s.bells.isEmpty) then s.wake
    else s

/-- A write of LAT_TOL: it wakes the device if ALLOW becomes shallower than the current state (R364, R366). A host access
through a BAR wakes it in any case. -/
def State.latTolSet (s : State) (v : BitVec 64) : State :=
  let s : State := { s with boot := { s.boot with latTol := BitVec.ofNat 64 (v.toNat % 2 ^ 32) } }
  if s.restAllow < s.boot.rest then s.wake else s

/-- LAT_TOL_WRITE (R364). -/
def execLatTolWrite (v : BitVec 64) (s : State) : Host.Outcome State Fault Refusal := .next (s.hostIn fun s => s.latTolSet v)

/-! ### The recovery mailbox (R368) -/

/-- The mailbox accepts work (R368). -/
def Boot.mailbox (b : Boot) : Bool := b.fail == 1 || b.fail == 2 || b.fail == 3

/-- LEN and the reserved bits are good (R368 step 1). -/
def Boot.rcvOk (b : Boot) : Bool :=
  let a := b.rcvAddr.toNat
  let n := b.rcvLen.toNat
  a / 2 ^ 50 == 0 && a % 4096 == 0 && n % 4096 == 0 && 4096 ≤ n && n ≤ 2 ^ 26

/-- The release that bytes hold, and whether it is well formed (log 5). -/
def imageOf (bs : List Byte) : Image :=
  let v := Config.imageVerdict bs
  { id := sha256 bs, sigOk := v.1, microOk := v.2.1, wellFormed := v.2.2.1, svn := v.2.2.2 }

/-- RESULT of a release that was read (R368 step 3). -/
def Image.result (i : Image) (fuse : BitVec 16) : Nat :=
  if !i.wellFormed then 4 else match i.verify fuse with
    | 0 => 1
    | 2 => 3
    | _ => 2

/-- An attempt of the mailbox ends (R368). -/
def State.recover (s : State) (keep : Bool) : State :=
  let b := s.boot
  let done (r : Nat) : State := { s with boot := { b with rcvResult := r, rcvGo := false } }
  if !b.rcvOk then done 4
  else match s.homeRead (2 ^ 51 + b.rcvAddr.toNat) b.rcvLen.toNat with
    | .error _ => done 5
    | .ok bs =>
      let i := imageOf bs
      let r := i.result b.fuseSvn
      let b := { b with rcvResult := r, rcvSvn := i.svn, rcvGo := false }
      if r = 1 then { s with boot := { b with store := if keep then i else b.store }.start i }
      else { s with boot := b }

/-- A write of RCV_GO starts an attempt: GO reads 1 until it ends (R368). -/
def State.rcvGoWrite (s : State) (v : BitVec 64) : State :=
  if s.boot.mailbox && bitAt v.toNat 0 && !s.boot.rcvGo then
    { s with boot := { s.boot with rcvGo := true, rcvKeep := bitAt v.toNat 1 }
             late := s.late ++ [.recover] }
  else s

/-- The attempt that runs, if one does, ends. -/
def State.recoveryEnd (s : State) : State := if s.boot.rcvGo then s.recover s.boot.rcvKeep else s

/-- RECOVERY_ATTEMPT: a write of RCV_GO (R368). -/
def execRecoveryAttempt (v : BitVec 64) (s : State) : Host.Outcome State Fault Refusal := .next (s.hostIn fun s => s.rcvGoWrite v)

/-! ### SPDM (R369) -/

/-- The digest of measurement block i of the firmware that runs (R369). -/
def State.measurement (s : State) (i : Nat) : List Byte :=
  match i with
  | 4 => sha256 (leBytes 2 s.boot.fuseSvn.toNat ++ Config.measured 4 [])
  | 5 => sha256 (leBytes 64 s.feat.toNat)
  | 1 => sha256 (Config.measured 1 [])
  | _ => sha256 (Config.measured i s.boot.running.id)

/-- The measurement the Alias key is derived from: the management firmware's (R369). -/
def State.firmware (s : State) : List Byte := s.measurement 2

/-- The certificate chain of slot 0 (R369). -/
def State.chain (s : State) : List Byte := Config.certChain s.firmware

/-- Put an answer out. -/
def State.spdm (s : State) (bs : List Byte) : State :=
  { s with boot := { s.boot with answers := s.boot.answers ++ [bs] } }

/-- The header of a message of SPDM 1.2: version, code, two parameters (log 30). -/
def spdmHead (code p1 p2 : Nat) : List Byte := [0x12, BitVec.ofNat 8 code, BitVec.ofNat 8 p1, BitVec.ofNat 8 p2]

/-- An SPDM error (R369; log 30). -/
def State.spdmError (s : State) (e : Nat) : State := s.spdm (spdmHead 0x7F e 0)

/-- An answer signed with the Alias key over the request and the answer (R369; log 30). -/
def State.spdmSigned (s : State) (req bs : List Byte) : State :=
  s.spdm (bs ++ Config.aliasSign s.firmware (sha256 (req ++ bs)))

/-- A nonce of 32 bytes. -/
def State.spdmNonce (s : State) : List Byte × State := (Config.nonce s.nfree, { s with nfree := s.nfree + 1 })

/-- Byte i of a request. -/
def reqByte (req : List Byte) (i : Nat) : Nat := (req.getD i 0).toNat

/-- GET_VERSION: version 1.2 (R369). -/
def execGetVersion (_req : List Byte) (s : State) : Host.Outcome State Fault Refusal :=
  .next (s.spdm ([0x10, 0x04, 0, 0] ++ [0, 1] ++ leBytes 2 0x1200))

/-- GET_CAPABILITIES: certificates, challenge and signed measurements with an Alias certificate (R369); the exponents and
sizes are not stated (log 30). -/
def execGetCapabilities (_req : List Byte) (s : State) : Host.Outcome State Fault Refusal :=
  .next <|
    let x := (Config.freeWord s.nfree).toNat
    let y := (Config.freeWord (s.nfree + 1)).toNat
    { s with nfree := s.nfree + 2 }.spdm
      (spdmHead 0x61 0 0 ++ [0, BitVec.ofNat 8 x, 0, 0] ++ leBytes 4 (0x2 + 0x4 + 0x10 + 2 ^ 18) ++ leBytes 8 y)

/-- NEGOTIATE_ALGORITHMS: ECDSA P-256 and SHA-256, or an error where the request lacks one (R369). -/
def execNegotiateAlgorithms (req : List Byte) (s : State) : Host.Outcome State Fault Refusal :=
  .next <|
    if bitAt (reqByte req 8) 4 && bitAt (reqByte req 12) 0 then
      s.spdm (spdmHead 0x63 0 0 ++ leBytes 2 36 ++ [1, 0] ++ leBytes 4 2 ++ leBytes 4 0x10 ++ leBytes 4 1 ++ leBytes 16 0)
    else s.spdmError 0x07

/-- GET_DIGESTS: the digest of slot 0's chain (R369). -/
def execGetDigests (_req : List Byte) (s : State) : Host.Outcome State Fault Refusal :=
  .next (s.spdm (spdmHead 0x01 0 1 ++ sha256 s.chain))

/-- GET_CERTIFICATE: a portion of slot 0's chain; no other slot is held (R369). -/
def execGetCertificate (req : List Byte) (s : State) : Host.Outcome State Fault Refusal :=
  .next <|
    let off := leNat ((req.drop 4).take 2)
    let len := leNat ((req.drop 6).take 2)
    if reqByte req 2 % 16 != 0 || s.chain.length < off then s.spdmError 0x01
    else
      let part := (s.chain.drop off).take len
      s.spdm (spdmHead 0x02 0 0 ++ leBytes 2 part.length ++ leBytes 2 (s.chain.length - off - part.length) ++ part)

/-- CHALLENGE: the chain's digest, a nonce and the measurement summary, signed with the Alias key (R369). -/
def execChallenge (req : List Byte) (s : State) : Host.Outcome State Fault Refusal :=
  .next <|
    if reqByte req 2 % 16 != 0 then s.spdmError 0x01
    else
      let n := s.spdmNonce
      let summary := if reqByte req 3 = 0 then []
        else sha256 ((List.range 5).flatMap fun i => s.measurement (i + 1))
      n.2.spdmSigned req (spdmHead 0x03 0 1 ++ sha256 s.chain ++ n.1 ++ summary ++ leBytes 2 0)

/-- One measurement block: index, form, size, and the digest (R369). -/
def State.measureBlock (s : State) (i : Nat) : List Byte :=
  leBytes 1 i ++ [1] ++ leBytes 2 35 ++ leBytes 1 (i - 1) ++ leBytes 2 32 ++ s.measurement i

/-- GET_MEASUREMENTS: one block, all of them, or their number, signed with the Alias key (R369). Without attestation there is
none to give (R346; log 96). -/
def execGetMeasurements (req : List Byte) (s : State) : Host.Outcome State Fault Refusal :=
  .next <|
    let op := reqByte req 3
    let n := s.spdmNonce
    if !s.hasFeature 34 then s.spdmError 0x07
    else if op != 0 && op != 0xFF && 5 < op then s.spdmError 0x01
    else
      let which := if op = 0 then [] else if op = 0xFF then [1, 2, 3, 4, 5] else [op]
      let blocks := which.flatMap s.measureBlock
      n.2.spdmSigned req (spdmHead 0x60 (if op = 0 then 5 else 0) 0 ++ leBytes 1 which.length ++
        leBytes 3 blocks.length ++ blocks ++ n.1 ++ leBytes 2 0)

/-- SPDM_UNSUPPORTED: any other request is answered with an error (R369). -/
def execSpdmUnsupported (_req : List Byte) (s : State) : Host.Outcome State Fault Refusal := .next (s.spdmError 0x07)

end Sys2Proof.Machine
end

