-- ==== Sys2Proof/Machine/Debug.lean ====
section
/-! DEFINITION. Sampling, stops, dumps (R139, R300 to R309, R313). -/

namespace Sys2Proof.Machine

/-! ### Sampling (R139, R300 to R302) -/

/-- The lane VA of an operation. -/
def opVa (t : Team) (o : Op) : Nat := (laneVa t o.unit).toNat

/-- The lane VA of the first operation of a list, or 0. -/
def blameOf (t : Team) (os : List Op) : Nat :=
  match os with
  | o :: _ => opVa t o
  | [] => 0

/-- The unfinished lane instructions of a warp as (clause, unit, instruction), the oldest ISSUE first: those in flight and
those queued. -/
def Warp.writers (w : Warp) : List (Nat × Nat × Instr) :=
  sortKey (fun p => (p.1, p.2.1)) <|
    (w.ops.map fun o => (o.clauseSerial, o.unit, o.instr)) ++ w.splits.flatMap fun e => e.2.cq.flatMap fun c =>
      (c.words.zipIdx.drop c.next).filterMap fun p => match decodeLane p.1 with
        | .ok i => some (c.serial, c.unit + 1 + p.2, i)
        | .error _ => none

/-- The oldest unfinished writer of a register that a split's next scalar instruction names (R301). -/
def pendingBlame (s : State) (x : Ctx) : Nat :=
  match (fetchDecode s x).2 with
  | .ok i =>
    let n := scalarNames i
    (match x.warp.writers.find? fun p =>
        ((n.rd ++ n.wr ++ issueReads s x i).any fun r => r != 0 && gDest p.2.2 == some r) ||
        n.vs.any fun r => (vDests p.2.2).contains r with
    | some p => (laneVa x.team p.2.1).toNat
    | none => 0)
  | .error _ => 0
where
  /-- The g registers an ISSUE captures (R22, R164). -/
  issueReads (s : State) (x : Ctx) : Instr → List GReg
    | .issue n o => (match (issueRead s x n.toNat o.toNat).2 with
      | .ok c => (captureSet c.2).map (BitVec.ofNat 6)
      | .error _ => [])
    | _ => []

/-- The operations counted on a flag of a mask, oldest first. -/
def flagOps (w : Warp) (m : BitVec 12) : List Op := w.ops.filter fun o => o.flags &&& m != 0

/-- A split that YIELD holds (R190). -/
def Wait.yields : Wait → Bool
  | .yielded _ => true
  | _ => false

/-- The MMAs at work in a core's array, as team and operation: the one of a joint MMA is its leader's (R236, R239). -/
def Core.arrayOps (k : Core) : List (Nat × Op) :=
  k.warps.flatMap fun v => (v.2.ops.filter fun o => match o.aux with | .mma _ _ _ _ _ _ => true | _ => false).map fun o => (v.2.team, o)

/-- The lane VA of the MMA that occupies a core's array: the one dispatched last. -/
def arrayBlame (k : Core) : Nat :=
  match k.arrayOps.find? fun p => k.arrayOps.all fun q => q.2.serial ≤ p.2.serial with
  | some (key, o) => (match amFind k.teams key with | some u => opVa u o | none => 0)
  | none => 0

/-- A side of the split was a candidate of the cycle (R26), as the cycle's start noted it. -/
def wasCandidate (x : Ctx) : Bool :=
  teamRuns x.team &&
  ((x.split.live && if x.split.pend.isEmpty then
      !x.core.atLatch x.who.slot && (match x.split.wait with | .run | .replayFailed _ _ => true | _ => false)
    else !x.warp.latchBusy x.who.entry && !x.split.midway) ||
   (x.split.headWord.isSome && x.split.laneWait == .run))

/-- The codes of R301 that may hold for a split, in ascending order, with whether they hold and their BLAME: what the
cycle's start noted of both sides. A split that has left waits to retire. -/
def stallCodes (s : State) (x : Ctx) : List (Nat × Bool × Nat) :=
  let w := x.warp
  let t := x.team
  let sp := x.split
  let next := nextLane sp
  let stalled := w.ops.filter fun o => o.entry == x.who.entry && o.accs.any (·.st.isStalled)
  let replays : Bool := match sp.wait with | .replay _ _ | .refetch _ _ => true | _ => false
  let mask : BitVec 12 := match (fetchDecode s x).2 with | .ok (.waitf m) => m | _ => 0
  let header : BitVec 96 := match sp.cq with | c :: _ => c.header | [] => 0
  [(0x01, wasCandidate x, 0),
   (0x02, sp.wait == .issueFull, 0),
   (0x03, sp.wait == .pendingWrite, pendingBlame s x),
   (0x04, (match sp.wait with | .waitf _ => true | _ => false), blameOf t (flagOps w mask)),
   (0x05, sp.wait == .join, 0),
   (0x06, (match sp.wait with | .barwait _ => true | _ => false), 0),
   (0x07, (match sp.wait with | .qwait _ _ _ _ | .qhit _ _ _ | .fabricPoll _ _ _ => true | _ => false), 0),
   (0x08, x.core.atLatch x.who.slot || sp.laneWait == .latch, 0),
   (0x09, !sp.live, 0),
   (0x0A, sp.wait == .trapLatch || (sp.live && !sp.pend.isEmpty && w.latchBusy x.who.entry), 0),
   (0x0B, replays || !stalled.isEmpty, if replays then sp.spc.toNat else blameOf t stalled),
   (0x0C, (match sp.wait with | .fabric _ _ | .tlbinv _ => true | _ => false), 0),
   (0x0D, sp.laneWait == .flags, blameOf t (flagOps w (hdrWait header))),
   (0x0E, sp.laneWait == .operand,
    blameOf t (w.ops.filter fun o => match next with
      | some i => (vDests o.instr).any (fun r => (vSrcs i ++ vDests i).contains r) ||
          ((gDest i).isSome && gDest o.instr == gDest i)
      | none => false)),
   (0x0F, sp.laneWait == .array, arrayBlame x.core),
   (0x10, sp.laneWait == .kickFull, 0),
   (0x11, sp.laneWait == .flagFull,
    blameOf t (w.ops.filter fun o => (List.range 12).any fun i =>
      o.flags.getLsbD i && 63 ≤ w.flag i && (hdrFlags header).getLsbD i)),
   (0x12, sp.wait.yields, 0),
   (0x13, !teamRuns t, 0),
   (0x14, sp.laneWait == .carry, 0)]

/-- The stall reason of a split and its BLAME: the lowest code of R301 that holds. -/
def stallReason (s : State) (x : Ctx) : Nat × Nat :=
  match (stallCodes s x).find? (·.2.1) with
  | some c => (c.1, c.2.2)
  | none => (0x15, 0)

/-- The split a sample takes of a warp: issued on the scalar side, else on the lane side, with the SPC it issued at, else the
lowest live entry (R300). A warp that waits to retire has no live split: its lowest draining entry, if it has one (log 72). -/
def sampleSplit (q : Quad) (slot : Nat) (w : Warp) : Option (Nat × Option VAddr) :=
  let of (o : Option (Nat × Nat × VAddr)) : Option (Nat × Option VAddr) := match o with
    | some p => if p.1 = slot then some (p.2.1, some p.2.2) else none
    | none => none
  match of q.issuedScalar, of q.issuedLane with
  | some e, _ => some e
  | none, some e => some e
  | none, none =>
    match w.splits.find? fun e => e.2.live with
    | some e => some (e.1, none)
    | none => w.splits.head?.map fun e => (e.1, none)

/-- PCOUNT of a record: of the object the split waits at, else of the one its warp last arrived at (R300). -/
def samplePcount (k : Core) (t : Team) (w : Warp) (sp : Split) : Nat :=
  let of (off : Nat) : Nat := (k.bar (t.lmBase + off)).pcount % 2 ^ 16
  match sp.wait, w.lastBar with
  | .barwait off, _ => of off
  | _, some off => of off
  | _, none => 0xFFFF

/-- The 32 bytes of a sampling record (R300). -/
def sampleRecord (s : State) (x : Ctx) (issued : Bool) : List Byte :=
  let r := if issued then (0, 0) else stallReason s x
  let w0 := 2 ^ 63 + (if issued then 2 ^ 62 else 0) + r.1 * 2 ^ 54 + x.split.spc.toNat
  let w2 := samplePcount x.core x.team x.warp x.split * 2 ^ 48 + x.team.gangId % 2 ^ 16 * 2 ^ 32 + x.who.entry * 2 ^ 24 +
    x.warp.widx * 2 ^ 20 + x.who.slot * 2 ^ 14 + x.team.teamId * 2 ^ 10 + x.who.core
  let w3 := x.team.asid.toNat * 2 ^ 52 + s.clock.toNat % 2 ^ 20 * 2 ^ 32 + x.team.taskId.toNat
  leBytes 8 w0 ++ leBytes 8 r.2 ++ leBytes 8 w2 ++ leBytes 8 w3

/-- Put a record into the sampling ring, or drop and count it (R139, R302). -/
def State.putSample (s : State) (r : List Byte) : State :=
  let g := s.hub.regs
  if s.ringOk g.sampleBase.toNat g.sampleSize.toNat 26 && ringRoom g.sampleSize.toNat g.sampleWidx.toNat g.sampleRidx.toNat != 0 then
    let before := ringUsed g.sampleWidx.toNat g.sampleRidx.toNat
    let s := (s.ringPut g.sampleBase.toNat g.sampleSize.toNat g.sampleWidx.toNat [r]).modRegs fun g =>
      { g with sampleWidx := g.sampleWidx + 1 }
    if reachesHalf g.sampleSize.toNat before (before + 1) then s.msix 6 else s
  else s.modRegs fun g => { g with sampleDrop := g.sampleDrop + 1 }

/-- The next occupied slot of a quadrant after a pointer, in ascending order with wrap-around: one whose warp has not
retired. -/
def nextOccupied (k : Core) (quad pointer : Nat) : Option Nat :=
  ((List.range 12).map fun i => (pointer + 1 + i) % 12).find? fun j =>
    match amFind k.warps (quad * 12 + j) with
    | some w => !w.retired
    | none => false

/-- What a sample finds of a warp that waits to retire and has no entry left: no split, and PC and SPLIT free (R301; log
72). -/
def goneCtx (s : State) (core slot : Nat) (w : Warp) : Option Ctx :=
  (s.team core w.team).map fun t =>
    let f := (Config.freeWord s.nfree).toNat
    ⟨⟨core, slot, f % 32⟩, s.core core, w, t, { newSplit0 with live := false, spc := BitVec.ofNat 54 (f / 32) }⟩

/-- What a sample finds of the split chosen: the split, with the SPC it issued at where it issued in this cycle; one that left
by that issue leaves its entry and its warp (R300; log 72). -/
def sampledCtx (s : State) (core slot e : Nat) (w : Warp) (issued : Option VAddr) : Option Ctx :=
  let at_ (x : Ctx) : Ctx := { x with split := { x.split with spc := issued.getD x.split.spc } }
  match s.ctxOf ⟨core, slot, e⟩ with
  | some x => some (at_ x)
  | none =>
    if issued.isSome then
      (s.team core w.team).map fun t => at_ ⟨⟨core, slot, e⟩, s.core core, w, t, { newSplit0 with live := false }⟩
    else none

/-- SAMPLE_TAKE: a quadrant's counter has reached 0: the pointer advances, that warp is recorded, the counter reloads
(R139, R300). -/
def execSampleTake (core quad : Nat) (s : State) : Host.Outcome State Fault Refusal :=
  .next <|
    let k := s.core core
    let q := amGet Quad.reset k.quads quad
    if !(s.hasFeature 28 && k.sampleCtl.getLsbD 0 && q.counter == 0) then s
    else
      let q' (p : Nat) : Quad := { q with counter := BitVec.ofNat 16 (sampleInterval k.sampleCtl - 1), pointer := p }
      let put (s : State) (p : Nat) : State := s.modCore core fun k => { k with quads := amPut k.quads quad (q' p) }
      match nextOccupied k quad q.pointer with
      | none => put s q.pointer
      | some j =>
        let slot := quad * 12 + j
        let s' := put s j
        match s.warp core slot with
        | none => s'
        | some w =>
          match sampleSplit q slot w with
          | none =>
            (match goneCtx s core slot w with
            | none => s'
            | some x => { s' with nfree := s'.nfree + 1 }.putSample (sampleRecord s x false))
          | some (e, issued) =>
            match sampledCtx s core slot e w issued with
            | some x => s'.putSample (sampleRecord s x issued.isSome)
            | none => s'

/-! ### Stops (R303 to R305, R307) -/

/-- The placed team a STOP, RESUME, DISCARD or DUMP_REQ value names, as core and key; a value with a reserved bit names
none (R307). -/
def State.namedTeam (s : State) (v : BitVec 64) : Option (Nat × Nat × Team) :=
  let n := v.toNat
  if n % 2 ^ 13 != 0 then none
  else
    s.hub.gangs.findSome? fun g =>
      if g.task.toNat = n / 2 ^ 32 ∧ g.gangId = n / 2 ^ 16 % 2 ^ 16 then
        (s.teamsOf g).find? fun p => p.2.2.teamId == n / 2 ^ 13 % 8
      else none

/-- A stopped team. -/
def Team.isStopped (t : Team) : Bool :=
  match t.run with
  | .stopped _ => true
  | _ => false

/-- The host stops a placed team (R303, R307). -/
def State.stopWrite (s : State) (v : BitVec 64) : State :=
  match s.namedTeam v with
  | some (c, k, _) => s.stopTeam c k 3 0
  | none => s

/-- STOP (R303, R307). -/
def execStop (v : BitVec 64) (s : State) : Host.Outcome State Fault Refusal := .next (s.hostIn fun s => s.stopWrite v)

/-- A record kicked by a warp of the team is queued or in progress. -/
def Core.copiesBy (k : Core) (key : Nat) : Bool :=
  k.chans.any fun c => c.2.kicks.any (·.team == key) ||
    (match c.2.cur with | some r => r.team == key | none => false)

/-- Ask for a dump of a team: each request has its own, after those before it (R303, R306, R307, R313). -/
def State.askDump (s : State) (c key : Nat) : State := s.modHub fun h => { h with dumps := h.dumps ++ [(c, key)] }

/-- TEAM_STOPPED: a stopping team is stopped once its operations are complete or stalled and its copy records have
finished; vector 7 is sent, and AUTO asks for the dump (R303, R304, R336). -/
def execTeamStopped (core team : Nat) (s : State) : Host.Outcome State Fault Refusal :=
  .next <| match s.team core team with
  | none => s
  | some t =>
    match t.run with
    | .stopping src =>
      let k := s.core core
      if (s.warpsOf core team).all (fun w => w.2.ops.all (Op.stuck k w.2) && w.2.splits.all fun e => !e.2.midway) &&
          !k.copiesBy team then
        let s := (s.modTeam core team fun t =>
          { t with run := .stopped src, stop := { t.stop with after := k.wptrs } }).msix 7
        let dbg := s.hub.regs.dbgCtl.toNat
        if bitAt dbg 13 && dbg % 2 ^ 12 == t.asid.toNat then s.askDump core team else s
      else s
    | _ => s

/-- The host resumes a stopped team: its warps go on, and held faults are taken (R305). -/
def State.resumeWrite (s : State) (v : BitVec 64) : State :=
  match s.namedTeam v with
  | some (c, k, t) => if t.isStopped then (s.modTeam c k fun t => { t with run := .running }).takeHeld c k else s
  | none => s

/-- RESUME (R305, R307). -/
def execResume (v : BitVec 64) (s : State) : Host.Outcome State Fault Refusal := .next (s.hostIn fun s => s.resumeWrite v)

/-- The host discards the whole gang of a stopped team (R305). -/
def State.discardWrite (s : State) (v : BitVec 64) : State :=
  match s.namedTeam v with
  | some (_, _, t) =>
    if t.isStopped then
      match s.hub.gangs.find? (·.key == t.gang) with
      | some g => s.setGang g (.dropAsked 0)
      | none => s
    else s
  | none => s

/-- DISCARD (R305, R307). -/
def execDiscard (v : BitVec 64) (s : State) : Host.Outcome State Fault Refusal := .next (s.hostIn fun s => s.discardWrite v)

/-! ### Dumps (R306 to R309, R313) -/

/-- The host asks for a dump of a stopped team (R306, R307, R313). -/
def State.dumpReqWrite (s : State) (v : BitVec 64) : State :=
  match s.namedTeam v with
  | some (c, k, t) => if t.isStopped then s.askDump c k else s
  | none => s

/-- DUMP_REQ (R306, R307). -/
def execDumpReq (v : BitVec 64) (s : State) : Host.Outcome State Fault Refusal := .next (s.hostIn fun s => s.dumpReqWrite v)

/-- A host write of DUMP_CTL: bit 0 clear clears DONE (R307). -/
def State.dumpCtlWrite (s : State) (v : BitVec 64) : State :=
  if v.toNat / 4 != 0 || bitAt v.toNat 0 then s else s.modRegs fun g => { g with dumpDone := false }

/-- DUMP_CTL_WRITE (R307). -/
def execDumpCtlWrite (v : BitVec 64) (s : State) : Host.Outcome State Fault Refusal := .next (s.hostIn fun s => s.dumpCtlWrite v)

/-- Bytes a dump may use: from DUMP_BASE on, in bonded DRAM that is up, cut at DUMP_SIZE (R306). -/
def State.dumpRoom (s : State) : Nat :=
  let b := s.hub.regs.dumpBase.toNat
  if !s.dramUp b then 0
  else min s.hub.regs.dumpSize.toNat (if s.boot.stage = 0 then 8192 - b % 8192 else dramEnd - b)

/-- A section of a dump: its COUNT, its body, and the first second fault met while its state is read. -/
structure Section where
  type : Nat
  count : Nat
  body : List Byte
  bad : Option (Cause × Nat)

/-- The first register of a team whose residue is wrong, in the order of the body (R69, R309). -/
def badRegister (t : Team) (ws : List Warp) : Option (Cause × Nat) :=
  let ts := (List.range 32).map fun r => (t.ts_ r, (checkAddr 2 r 0).toNat)
  let of (w : Warp) : List (RWord × Nat) :=
    ((List.range 64).map fun r => (w.g_ (BitVec.ofNat 6 r), (checkAddr 1 r 0).toNat)) ++
    (List.range w.budget).flatMap fun r => (List.range 32).map fun l => (w.v_ r l, (checkAddr 0 r l).toNat)
  match (ts ++ ws.flatMap of).find? fun p => !cellGood p.1 with
  | some p => some (.registerCheck, p.2)
  | none => none

/-- The faults of a split that a stop of its team holds (R303): the traps held, and a scalar access that REPLAY_FAIL ended. -/
def Split.heldTraps (sp : Split) : List PendTrap :=
  sp.pend.filter (·.held) ++ (match sp.wait with
    | .replayFailed c va => [scalarTrap c sp.spc (BitVec.ofNat 54 va)]
    | _ => [])

/-- The held fault of a warp: the first that its team's stop holds (R303, R308). -/
def heldFault (w : Warp) : Option PendTrap := (w.splits.flatMap fun e => e.2.heldTraps).head?

/-- A held-fault record (R308). -/
def heldRecord (w : Warp) : List Byte :=
  match heldFault w with
  | some t => leBytes 1 t.cause.code ++ leBytes 1 t.lane ++ List.replicate 6 0 ++ leBytes 8 t.pc.toNat
  | none => List.replicate 16 0

/-- Section 1: registers (R308). -/
def registerSection (v : SavedTeam) (ws : List Warp) : Section :=
  let t := v.team
  let ts := (List.range 32).map t.ts_
  let of (p : Warp × Nat) : List Byte :=
    heldRecord p.1 ++
    areaOf 0x6000 ((0, warpHead v p.2 p.1) :: p.1.entries) ++ vectorSection p.1
  { type := 1, count := ws.length
    body := leBytes 8 t.trapBase.toNat ++ (ts.flatMap fun r => leBytes 4 r.val.toNat) ++ packResidues ts ++
      ws.zipIdx.flatMap of
    bad := badRegister t ws }

/-- The LM offset of the first uncorrectable unit of a partition. -/
def badLm (k : Core) (t : Team) : Option (Cause × Nat) :=
  match (sortAsc k.lmBad).find? fun u => t.lmBase ≤ u * 8 && u * 8 < t.lmBase + t.lmSize with
  | some u => some (.memoryUncorrectable, u * 8 - t.lmBase)
  | none => none

/-- Section 3: barrier state (R308). -/
def barrierSection (k : Core) (t : Team) (ws : List Warp) : Section :=
  let offs := sortAsc t.declared ++ t.objects.take 32
  let waits (off : Nat) : Nat :=
    (ws.map fun w => if w.splits.any fun e => e.2.wait == .barwait off then 2 ^ w.widx else 0).sum
  { type := 3, count := offs.length
    body := offs.flatMap fun off =>
      leBytes 4 off ++ leBytes 2 (waits off) ++ List.replicate 10 0 ++ byteRead k.lm (t.lmBase + off) 32
    bad := none }

/-- Section 5: copy channels (R308). -/
def channelSection (t : Team) : Section :=
  { type := 5, count := 4
    body := (List.range 4).flatMap fun c =>
      let r := t.stop.recs.getD c (0, 0xFFFFFFFF, 0)
      leBytes 4 (t.stop.wptr.getD c 0).toNat ++ leBytes 4 (t.stop.after.getD c 0).toNat ++ leBytes 4 r.1 ++ leBytes 4 r.2.1 ++
        leBytes 1 r.2.2 ++ List.replicate 15 0
    bad := none }

/-- The five sections of a team, in ascending TYPE (R308). -/
def sectionsOf (s : State) (v : SavedTeam) (ws : List Warp) : List Section :=
  let k := s.core v.core
  let t := v.team
  [registerSection v ws,
   { type := 2, count := t.lmSize, body := byteRead k.lm t.lmBase t.lmSize, bad := badLm k t },
   barrierSection k t ws,
   { type := 4, count := t.iters.length, body := t.iters.flatMap fun n => (k.iter n).image, bad := none },
   channelSection t]

/-- A section head (R308). -/
def sectionHead (type len count : Nat) : List Byte :=
  leBytes 2 type ++ leBytes 2 0 ++ leBytes 4 len ++ leBytes 4 count ++ leBytes 4 0

/-- What a dump writes: the bytes from 0x40 on, the offset of the end record, the sections written whole, and the second
fault with its TYPE (R308, R309). -/
structure DumpOut where
  bytes : List Byte
  off : Nat
  nsec : Nat
  fault : Option (Cause × Nat × Nat)

/-- Write sections as long as no second fault is met (R309). -/
def writeSections (room : Nat) : List Section → DumpOut → DumpOut
  | [], d => d
  | x :: xs, d =>
    if room < d.off + 16 + x.body.length + 16 then { d with fault := some (.outOfRange, x.type, d.off) }
    else match x.bad with
      | some e => { d with fault := some (e.1, x.type, e.2) }
      | none =>
        writeSections room xs
          { d with
            bytes := d.bytes ++ sectionHead x.type x.body.length x.count ++ x.body
            off := d.off + 16 + x.body.length
            nsec := d.nsec + 1 }

/-- SRC of a stop. -/
def RunState.src : RunState → Nat
  | .stopping n | .stopped n => n
  | _ => 0

/-- The 64-byte header (R306). -/
def dumpHeader (v : SavedTeam) (ws : List Warp) (d : DumpOut) (clock : Nat) : List Byte :=
  let t := v.team
  let src := t.run.src
  let cause := if src = 1 ∨ src = 2 then t.stop.cause else 0
  let flags := (if d.fault.isNone then 1 else 2) + (if ws.any fun w => (heldFault w).isSome then 4 else 0)
  let f := match d.fault with
    | some (c, ty, a) => (c.code + ty * 256, a)
    | none => (0, 0)
  leBytes 4 0x4B4D4450 ++ leBytes 4 flags ++ leBytes 4 (d.off + 16) ++ leBytes 4 d.nsec ++ leBytes 4 (cause + src * 256) ++
  leBytes 4 f.1 ++ leBytes 8 f.2 ++ leBytes 4 t.taskId.toNat ++ leBytes 2 t.gangId ++ leBytes 1 t.teamId ++
  leBytes 1 ws.length ++ leBytes 2 t.asid.toNat ++ leBytes 2 v.core ++ leBytes 4 t.lmSize ++ leBytes 8 t.stop.clock.toNat ++
  leBytes 8 clock

/-- Write the dump of a team: sections, end record, header, DONE (R306). -/
def State.writeDump (s : State) (c key : Nat) (t : Team) : State :=
  let v := s.takeTeam c key 0 t
  let ws := (List.range t.warps.length).filterMap fun i => ((s.warpsOf c key).map (·.2)).find? (·.widx == i)
  let d := writeSections s.dumpRoom (sectionsOf s v ws) { bytes := [], off := 0x40, nsec := 0, fault := none }
  let b := s.hub.regs.dumpBase.toNat
  let s := s.hubPut (b + 0x40) (d.bytes ++ sectionHead 0xFF 0 0)
  let s := s.hubPut b (dumpHeader v ws d s.clock.toNat)
  (s.modRegs fun g => { g with dumpDone := true, dumpBusy := false }).msix 3

/-- DUMP_WRITE: the oldest dump asked for begins, and at the next its bytes are written; while DONE is 1 or the area
cannot be used, it waits (R306). -/
def execDumpWrite (s : State) : Host.Outcome State Fault Refusal :=
  .next <| match s.hub.dumps with
  | [] => s.modRegs fun g => { g with dumpBusy := false }
  | (c, key) :: rest =>
    if s.hub.regs.dumpDone || s.dumpRoom < 0x50 then s
    else if !s.hub.regs.dumpBusy then s.modRegs fun g => { g with dumpBusy := true }
    else
      let s := s.modHub fun h => { h with dumps := rest }
      match s.team c key with
      | some t => s.writeDump c key t
      | none => s.modRegs fun g => { g with dumpBusy := false }

end Sys2Proof.Machine
end

