-- ==== Sys2Proof/Machine/HostLink.lean ====
section
/-! DEFINITION. The host link: BAR0 register writes, continuation queue descriptors, the notify and shared windows (R113,
R153, R307, R317, R328, R331 to R337, R364, R368). -/

namespace Sys2Proof.Machine

/-! ### Continuation queue descriptors (R113) -/

/-- The fields a write of word 0 gives. -/
def queueFields (v : Nat) : CQueue :=
  { CQueue.reset with v := bitAt v 63, log2 := BitVec.ofNat 6 (v / 2 ^ 57), asid := BitVec.ofNat 12 (v / 2 ^ 45)
                      base := BitVec.ofNat 41 v }

/-- A write to a disabled queue is accepted (R113). -/
def queueWriteOk (v : Nat) : Bool :=
  let n := v / 2 ^ 57 % 64
  6 ≤ n && n ≤ 20 && v / 2 ^ 41 % 16 == 0 && v % 2 ^ 41 * 2048 % (2 ^ n * 32) == 0

/-- The head record of a queue whose body was moved is read anew, unless gangs of it are placed already. -/
def State.rereadHead (s : State) (q : Nat) : State :=
  match s.hub.headOf q with
  | none => s.noteHead q
  | some h =>
    if h.next != 0 || h.gone.isSome then s
    else
      (s.modHub fun x => { x with
        heads := x.heads.filter fun e => e.1 != q
        table := x.table.filter fun e => h.entered != some e.key }).noteHead q

/-- A write of word 0 of a queue's descriptor (R113). -/
def State.queueWrite (s : State) (q : Nat) (v : BitVec 64) : State :=
  let c := s.hub.queue q
  if c.v then (if bitAt v.toNat 63 then s else s.setQueue q { c with v := false })
  else if queueWriteOk v.toNat then
    let n := queueFields v.toNat
    let s' := s.setQueue q { n with head := c.head, tail := c.tail }
    if n.log2 = c.log2 && n.asid = c.asid && n.base = c.base then s' else s'.rereadHead q
  else s

/-- CQ_DESCRIPTOR_WRITE (R113). -/
def execCqDescriptorWrite (q : Nat) (v : BitVec 64) (s : State) : Host.Outcome State Fault Refusal :=
  .next (if q < 64 then s.hostIn fun s => s.queueWrite q v else s)

/-! ### BAR0 registers (R331, R332) -/

/-- A value in a range replaces a register; any other write is ignored (R293, R299, R318, R322). -/
def inRange (lo hi : Nat) (v old : BitVec 64) : BitVec 64 := if lo ≤ v.toNat && v.toNat ≤ hi then v else old

/-- A write of 0 clears a register; any other is ignored (R333, R339). -/
def clearOnly (v old : BitVec 64) : BitVec 64 := if v = 0 then 0 else old

/-- Rings: base, size and read index are software's; the write index and the counters are the hub's (R112, R123, R302,
R310; log 31). -/
def Regs.writeRings (r : Regs) (off : Nat) (v : BitVec 64) : Regs :=
  match off with
  | 0x1000 => { r with fqBase := v }
  | 0x1008 => { r with fqSize := v }
  | 0x1018 => { r with fqRidx := v }
  | 0x2000 => { r with olBase := v }
  | 0x2008 => { r with olSize := v }
  | 0x2018 => { r with olRidx := v }
  | 0x4000 => { r with sampleBase := v }
  | 0x4008 => { r with sampleSize := v }
  | 0x4018 => { r with sampleRidx := v }
  | 0x6000 => { r with captureCtl := v }
  | 0x6008 => { r with captureBase := v }
  | 0x6010 => { r with captureSize := v }
  | 0x6020 => { r with captureRidx := v }
  | _ => r

/-- Pre-emption, thermal, debug and fabric controls (R289, R293, R299, R304, R306, R315, R316, R318, R322). -/
def Regs.writeControls (r : Regs) (off : Nat) (v : BitVec 64) : Regs :=
  match off with
  | 0x3000 => { r with preemptCtl := v }
  | 0x3010 => { r with preDeadline := v }
  | 0x3018 => { r with saveBase := v }
  | 0x3020 => { r with saveSlots := inRange 0 4096 v r.saveSlots }
  | 0x3028 => { r with thermLimit := inRange 40 125 v r.thermLimit }
  | 0x5000 => { r with dbgCtl := v }
  | 0x5020 => { r with dumpBase := v }
  | 0x5028 => { r with dumpSize := v }
  | 0x7000 => { r with fabAdapt := v }
  | 0x7008 => { r with fabTmo := inRange 1 (2 ^ 20) v r.fabTmo }
  | 0x7010 => { r with offloadDl := inRange 1 65535 v r.offloadDl }
  | 0x7018 => { r with dbl := r.dbl.set 0 v }
  | 0x7020 => { r with dbl := r.dbl.set 1 v }
  | 0x7028 => { r with dbl := r.dbl.set 2 v }
  | 0x7030 => { r with dbl := r.dbl.set 3 v }
  | _ => r

/-- Invalidation, page release and host windows; reserved bits of the windows' bases are written as zero (R333, R334,
R337). -/
def Regs.writeWindows (r : Regs) (off : Nat) (v : BitVec 64) : Regs :=
  let keep (lo : Nat) : BitVec 64 := v &&& BitVec.ofNat 64 (2 ^ 63 + (2 ^ 52 - 2 ^ lo))
  match off with
  | 0x8000 => { r with tlbiAsid := v }
  | 0x8008 => { r with tlbiStart := v }
  | 0x8010 => { r with tlbiLen := v }
  | 0x8020 => { r with pgrelPa := v }
  | 0x8028 => { r with pgrelLen := v }
  | 0x8038 => { r with ownmapBase := keep 20 }
  | 0x8040 => { r with shwinBase := keep 36 }
  | 0x8048 => { r with notifyBase := keep 25 }
  | 0x8050 => { r with hrefAddr := clearOnly v r.hrefAddr }
  | 0x8058 => { r with hrefCount := clearOnly v r.hrefCount }
  | _ =>
    if 0x9000 ≤ off && off < 0x9040 then
      { r with firnErr := r.firnErr.set ((off - 0x9000) / 8) (clearOnly v (r.firnErr.getD ((off - 0x9000) / 8) 0)) }
    else r

/-- A write of a word of a BTE queue table entry (R119, R332). R119 does not say what becomes of a packet in progress: it goes on under
the new entry (log 22). Slots claimed under the old one are no claims of the new one (R311). -/
def State.bteTableWrite (s : State) (q word : Nat) (v : BitVec 64) : State :=
  let b := s.hub.bteq q
  let b := if word = 0 then { b with desc := BitVec.ofNat 54 v.toNat } else { b with asid := BitVec.ofNat 12 v.toNat }
  s.modHub fun h => { h with bte := amPut h.bte q b, bteOrder := h.bteOrder.filter fun c => c.1 != q }

/-- A write of an export entry; reserved bits are written as zero (R317). -/
def State.exportWrite (s : State) (i : Nat) (v : BitVec 64) : State :=
  let w := v &&& BitVec.ofNat 64 (3 * 2 ^ 62 + (2 ^ 60 - 2 ^ 48) + (2 ^ 22 - 1))
  { s with fab := { s.fab with exports := smPut 0 s.fab.exports i w } }

/-- A write of a word of a fabric barrier table entry; it accepts reports again (R328, R329). -/
def State.barTableWrite (s : State) (i word : Nat) (v : BitVec 64) : State :=
  let b := { s.fab.bar i with dead := false, members := [], left := [] }
  let b := match word with
    | 0 => { b with asid := BitVec.ofNat 12 (v.toNat / 2 ^ 32), off := v.toNat % 2 ^ 20 }
    | 1 => { b with pcount := BitVec.ofNat 32 (v.toNat / 2 ^ 32), n := v.toNat % 2 ^ 10 }
    | 2 => { b with list := BitVec.ofNat 54 v.toNat }
    | _ => { b with srec := BitVec.ofNat 54 v.toNat }
  s.setFabBar i b

/-- A write of a word of the MSI-X table; vectors that are no longer masked are sent (R336). -/
def State.msixWrite (s : State) (i : Nat) (v : BitVec 64) : State :=
  (s.modHub fun h => { h with msixTable := h.msixTable.set i v }).msixUnmask

/-- A write of the tables at and above offset 0x01_0000 (R332). -/
def State.tableWrite (s : State) (off : Nat) (v : BitVec 64) : State :=
  if off < 0x10400 then (if off / 8 % 2 = 0 then s.queueWrite (off / 16 % 64) v else s)
  else if 0x20000 ≤ off && off < 0x21000 then s.bteTableWrite (off / 16 % 256) (off / 8 % 2) v
  else if 0x40000 ≤ off && off < 0x42000 then s.exportWrite (off / 8 % 1024) v
  else if 0x60000 ≤ off && off < 0x60800 then s.barTableWrite (off / 32 % 64) (off / 8 % 4) v
  else if 0x3F0000 ≤ off && off < 0x3F0080 then s.msixWrite (off % 0x80 / 8) v
  else s

/-- The mailbox's address and length take writes only while it accepts work (R368). -/
def State.rcvWrite (s : State) (off : Nat) (v : BitVec 64) : State :=
  if s.boot.mailbox then
    if off = 0xB000 then { s with boot := { s.boot with rcvAddr := v } }
    else { s with boot := { s.boot with rcvLen := v } }
  else s

/-- A write of 8 bytes at an aligned offset (R331, R332). Read-only registers and unassigned offsets take none. -/
def State.registerWrite (s : State) (off : Nat) (v : BitVec 64) : State :=
  if off % 8 != 0 then s
  else if 0x10000 ≤ off then s.tableWrite off v
  else match off with
    | 0x1020 => s.replayWrite v
    | 0x1028 => s.replayFailWrite v
    | 0x3008 => s.preemptWrite v
    | 0x5008 => s.stopWrite v
    | 0x5010 => s.resumeWrite v
    | 0x5018 => s.discardWrite v
    | 0x5030 => s.dumpCtlWrite v
    | 0x5038 => s.dumpReqWrite v
    | 0x8018 => s.tlbiWrite
    | 0x8030 => s.pgrelWrite
    | 0xA000 => s.latTolSet v
    | 0xB000 | 0xB008 => s.rcvWrite off v
    | 0xB010 => s.rcvGoWrite v
    | _ => s.modRegs fun r => ((r.writeRings off v).writeControls off v).writeWindows off v

/-- REGISTER_WRITE: a host access through BAR0 wakes the device, passes no posted write, then writes (R153, R331, R366). -/
def execRegisterWrite (off : Nat) (v : BitVec 64) (s : State) : Host.Outcome State Fault Refusal :=
  .next (s.hostIn fun s => s.registerWrite off v)

/-! ### Windows (R333, R334) -/

/-- The PA of an offset of BAR2 or BAR4, unless the window's V is 0 or the offset lies past it. -/
def Regs.windowPa (r : Regs) (bar off : Nat) : Option Nat :=
  let base := if bar = 2 then r.notifyBase.toNat else r.shwinBase.toNat
  let size := if bar = 2 then 2 ^ 25 else 2 ^ 36
  if (bar = 2 || bar = 4) && bitAt base 63 && off < size then some (base % 2 ^ 63 + off) else none

/-- The ownership bit of a page of BAR4, read at its home (R333), which is bonded DRAM that is up (R362). -/
def State.ownBit (s : State) (page : Nat) : Bool :=
  let b := s.hub.regs.ownmapBase.toNat
  bitAt b 63 && s.dramUp (b % 2 ^ 63 + page / 8) && (match s.homeRead (b % 2 ^ 63 + page / 8) 1 with
    | .ok bs => bitAt (leNat bs) (page % 8)
    | .error _ => false)

/-- The PA of a host access of n bytes, if it is performed: stage 0 has been reached (R361, R367), and through BAR4 the bit of every
page it touches is 1 (R333, R334). -/
def State.hostAccess (s : State) (bar off n : Nat) : Option Nat :=
  match s.hub.regs.windowPa bar off with
  | none => none
  | some pa =>
    if s.boot.begun && s.dramRange pa (max n 1) &&
        (bar = 2 || (List.range ((off % 8192 + max n 1 + 8191) / 8192)).all fun i => s.ownBit (off / 8192 + i))
    then some pa else none

/-- A refused host access is counted; the count leaving 0 sends vector 2 (R333, R336). -/
def State.refuseHost (s : State) (bar off : Nat) : State :=
  let n := s.hub.regs.hrefCount.toNat
  let a := BitVec.ofNat 64 (bar * 2 ^ 61 + off % 2 ^ 36)
  let s := s.modRegs fun r => { r with hrefCount := BitVec.ofNat 64 (min (n + 1) (2 ^ 32 - 1)), hrefAddr := a }
  if n = 0 then s.msix 2 else s

/-- HOST_WINDOW_READ: a read that is performed changes nothing but pushes the posted writes before it; what it returns goes
to the host (R153, R333). One of BAR0 reads a register, or 0, and is never refused (R331). There is no other BAR. -/
def execHostWindowRead (bar off len : Nat) (s : State) : Host.Outcome State Fault Refusal :=
  .next <|
    if bar = 2 ∨ bar = 4 then s.hostIn fun s => if (s.hostAccess bar off len).isSome then s else s.refuseHost bar off
    else if bar = 0 then s.hostIn id
    else s

/-- A page of the notify region (R334). -/
def Regs.notifyPage (r : Regs) (pa : Nat) : Bool :=
  let b := r.notifyBase.toNat
  bitAt b 63 && b % 2 ^ 63 ≤ pa && pa < b % 2 ^ 63 + 2 ^ 25

/-- A host write is performed, where asked after the posted writes before it; it waits for room in the capture ring (R153,
R310). -/
def State.hostWrite (s : State) (pa : Nat) (data : List Byte) (first : Bool) : State :=
  let before := if first then s.hub.posted.map (·.data.length) else []
  if s.captureWaitsAll s.captureAsid (before ++ [data.length]) then s
  else (if first then s.drainPosted else s).hostPut pa data

/-- The next free bit. -/
def State.freeBit (s : State) : State × Bool := ({ s with nfree := s.nfree + 1 }, (Config.freeWord s.nfree).getLsbD 0)

/-- HOST_WINDOW_WRITE: a write through BAR4 (R333). One to a notify page is performed after every posted write before it
(R153, R334). One with the relaxed-ordering attribute may be put off, and whether any other is performed after those put
off is free (R153, Litmus 13; log 62). One without bytes lets the oldest that was put off be performed. The device takes
no payload of more than 512 bytes (R331; log 91). -/
def execHostWindowWrite (off : Nat) (data : List Byte) (requester : Nat) (relaxed : Bool) (s : State) :
    Host.Outcome State Fault Refusal :=
  .next <|
    let s := s.wake
    if data.isEmpty then
      match s.hub.posted with
      | [] => s
      | p :: ps =>
        if s.captureWaits s.captureAsid p.data.length then s
        else (s.modHub fun h => { h with posted := ps }).hostPut p.pa p.data
    else if 512 < data.length then s
    else match s.hostAccess 4 off data.length with
      | none => s.refuseHost 4 off
      | some pa =>
        if (s.hub.regs.notifyPage pa && s.hasFeature 35) || (s.hub.posted.isEmpty && !relaxed) then s.hostWrite pa data true
        else
          let r := s.freeBit
          if relaxed && r.2 then
            r.1.modHub fun h => { h with posted := h.posted ++ [{ requester := requester, pa := pa, data := data }] }
          else r.1.hostWrite pa data (!relaxed && r.2)

/-- HOST_NOTIFY_WRITE: a write to a notify page is performed after every earlier posted write, whatever its attributes
(R153, R334); without notify ordering it is any posted write (R346; log 96). -/
def execHostNotifyWrite (off : Nat) (data : List Byte) (_requester : Nat) (s : State) : Host.Outcome State Fault Refusal :=
  .next <|
    let s := s.wake
    if 512 < data.length then s
    else match s.hostAccess 2 off data.length with
      | none => s.refuseHost 2 off
      | some pa =>
        if s.hasFeature 35 then s.hostWrite pa data true
        else
          let r := s.freeBit
          r.1.hostWrite pa data r.2

/-- Some leaf below a page table maps an address to a page that the device alone owns: OWN and SH are 0 (R84, R94, R95). -/
def State.leafOwns (s : State) (pa : Nat) : Nat → Nat → Nat → Bool
  | 0, _, _ => false
  | fuel + 1, level, table =>
    (List.range (if level = 1 then 1536 else 1024)).any fun i =>
      let e := Memory.readNat s.mem (table + 8 * i) 8
      bitAt e 0 && pteReservedOk e &&
      (if bitAt e 1 then
        level != 1 && pteFrame e ≤ pa && pa < pteFrame e + 2 ^ leafSpan level && !bitAt e 6 && !bitAt e 9
      else level != 4 && pteFrame e < dramEnd && s.leafOwns pa fuel (level + 1) (pteFrame e))

/-- The page of an address is owned by the device, as the PTEs of some address space record it (R84). -/
def State.deviceOwns (s : State) (pa : Nat) : Bool :=
  (List.range 4096).any fun a => match (s.asEntry 0 (BitVec.ofNat 12 a)).2 with
    | .ok ws => asEntryOk ws && s.leafOwns pa 4 1 (ws.getD 0 0 / 2 ^ 14 % 2 ^ 38 * 2 ^ 14)
    | .error _ => false

/-- The host writes 8 bytes of a page of its own memory that the device does not own (R75, R84, R92): the backing memory of a line
that a stack-cache slice holds dirty, else the line as its home has it. -/
def State.hostMemWrite (s : State) (pa : Nat) (v : BitVec 64) : State :=
  if !(hostPa pa && pa % 8 == 0) || s.deviceOwns pa then s
  else match s.stale.find? fun x => x.1 == pa / 64 with
    | some x =>
      let o := pa % 64
      let d := x.2.toNat - x.2.toNat / 256 ^ o % 2 ^ 64 * 256 ^ o + v.toNat * 256 ^ o
      { s with stale := s.stale.map fun y => if y.1 = x.1 then (y.1, BitVec.ofNat 512 d) else y }
    | none =>
      { s with mem := Memory.writeN s.mem pa (leBytes 8 v.toNat), memBad := s.memBad.filter (· != pa / 8) }.noteWatch pa 8

end Sys2Proof.Machine
end

