-- ==== Sys2Proof/Machine/Special.lean ====
section
/-! DEFINITION. The special functions: correct rounding of RCP, RSQ and SQRT, the 2-ulp bound of the others with free
bits within it, and the special results (R43, R44, R208). -/

namespace Sys2Proof.Machine

/-- Integer square root, bit by bit from bit `n − 1` down. -/
def isqrtFrom (x : Nat) : Nat → Nat → Nat
  | 0, r => r
  | n + 1, r => if (r + 2 ^ n) * (r + 2 ^ n) ≤ x then isqrtFrom x n (r + 2 ^ n) else isqrtFrom x n r

/-- Integer square root of a number below 2^140. -/
def isqrt (x : Nat) : Nat := isqrtFrom x 70 0

/-- A quotient or root with a sticky bit below it. -/
def sticky (q : Nat) (exact : Bool) : Nat := 2 * q + if exact then 0 else 1

/-- 1 / (m × 2^e), m nonzero, to more bits than f32 holds, with a sticky bit. -/
def recipX (m : Nat) (e : Int) : Nat × Int :=
  let q := 2 ^ 64 / m
  (sticky q (q * m == 2 ^ 64), -64 - e - 1)

/-- √(m × 2^e) with a sticky bit. -/
def sqrtX (m : Nat) (e : Int) : Nat × Int :=
  let (m, e) := if e % 2 = 0 then (m, e) else (2 * m, e - 1)
  let n := m * 2 ^ 60
  let q := isqrt n
  (sticky q (q * q == n), e / 2 - 30 - 1)

/-- 1 / √(m × 2^e) with a sticky bit. -/
def rsqX (m : Nat) (e : Int) : Nat × Int :=
  let (m, e) := if e % 2 = 0 then (m, e) else (2 * m, e - 1)
  let q := isqrt (2 ^ 120 / m)
  (sticky q (q * q * m == 2 ^ 120), -(e / 2) - 60 - 1)

/-! ### Approximations in fixed point: `fx` is one -/

/-- One in fixed point with 320 fraction bits. -/
def fx : Nat := 2 ^ 320

/-- 2π in fixed point. -/
def fxTwoPi : Nat := 0x6487ed5110b4611a62633145c06e0e68948127044533e63a0105df531d89cd9128a5043cc71a026ef

/-- 1 / 2π in fixed point. -/
def fxInvTwoPi : Nat := 0x28be60db9391054a7f09d5f47d4d377036d8a5664f10e4107f9458eaf7aef1586dc91b8e909374b8

/-- ln 2 in fixed point. -/
def fxLn2 : Nat := 0xb17217f7d1cf79abc9e3b39803f2f6af40f343267298b62d8a0d175b8baafa2be7b876206debac98

/-- Terms t^k / k! from k on, summed, `n` of them. -/
def expTerms (t : Nat) : Nat → Nat → Nat → Nat
  | 0, _, _ => 0
  | n + 1, k, term => term + expTerms t n (k + 1) (term * t / fx / (k + 1))

/-- e^t for t in [0, 1). -/
def fxExp (t : Nat) : Nat := expTerms t 70 0 fx

/-- The Taylor terms of sin: t − t³/3! + …, `n` pairs. -/
def sinTerms (t2 : Nat) : Nat → Nat → Nat → Nat
  | 0, _, _ => 0
  | n + 1, k, term =>
    let next := term * t2 / fx / ((k + 1) * (k + 2))
    (term - next) + sinTerms t2 n (k + 4) (next * t2 / fx / ((k + 3) * (k + 4)))

/-- sin t for t in [0, π/4]. -/
def fxSin (t : Nat) : Nat := sinTerms (t * t / fx) 25 1 t

/-- cos t for t in [0, π/4]. -/
def fxCos (t : Nat) : Nat := sinTerms (t * t / fx) 25 0 fx

/-- A fixed-point number m × 2^e of magnitude below 2^n. -/
def toFx (m : Nat) (e : Int) : Nat := m * 2 ^ (e + 320).toNat / 2 ^ (-(e + 320)).toNat

/-- e^y for y = m × 2^e up to some hundreds, in fixed point with a large integer part. -/
def fxExpBig (m : Nat) (e : Int) : Nat :=
  let y := toFx m e
  let n := y / fxLn2
  fxExp (y - n * fxLn2) * 2 ^ n

/-- 2^x. -/
def exp2X (neg : Bool) (m : Nat) (e : Int) : XVal :=
  let y := toFx m e
  let n := y / fx
  let f := y % fx
  if neg then
    if f = 0 then .fin false 1 (-(n : Int)) else .fin false (fxExp ((fx - f) * fxLn2 / fx)) (-(n : Int) - 1 - 320)
  else .fin false (fxExp (f * fxLn2 / fx)) ((n : Int) - 320)

/-- Fraction bits of log2 x for x in [1, 2) by repeated squaring: `n` bits, first the highest. -/
def log2Bits : Nat → Nat → Nat → Nat
  | 0, _, acc => acc
  | n + 1, x, acc =>
    let y := x * x / fx
    if 2 * fx ≤ y then log2Bits n (y / 2) (2 * acc + 1) else log2Bits n y (2 * acc)

/-- log2 of m × 2^e, m nonzero. -/
def log2X (m : Nat) (e : Int) : XVal :=
  let k := Nat.log2 m
  let frac := log2Bits 100 (m * fx / 2 ^ k) 0
  xOfInt ((e + k) * 2 ^ 100 + frac) (-100) false

/-- sin and cos of m × 2^e, as signed fixed-point numbers. -/
def sinCosX (m : Nat) (e : Int) : Int × Int :=
  let t := m * fxInvTwoPi * 2 ^ e.toNat / 2 ^ (-e).toNat % fx
  let k := 4 * t / fx
  let r := t - k * fx / 4
  let (sn, cs) :=
    if 8 * r ≤ fx then (fxSin (r * fxTwoPi / fx), fxCos (r * fxTwoPi / fx))
    else
      let r := fx / 4 - r
      (fxCos (r * fxTwoPi / fx), fxSin (r * fxTwoPi / fx))
  match k with
  | 0 => (sn, cs)
  | 1 => (cs, -(sn : Int))
  | 2 => (-(sn : Int), -(cs : Int))
  | _ => (-(cs : Int), sn)

/-- tanh of a magnitude below 10. -/
def tanhX (m : Nat) (e : Int) : Nat :=
  let ex := fxExpBig m (e + 1)
  (ex - fx) * fx / (ex + fx)

/-- 1 / (1 + e^−x). -/
def sigmX (neg : Bool) (m : Nat) (e : Int) : XVal :=
  if xlt (.fin false 200 0) (.fin false m e) then (if neg then .fin false 1 (-288) else .fin false (2 ^ 288 - 1) (-288))
  else
    let ex := fxExpBig m e
    if neg then .fin false (fx * fx / (ex + fx)) (-320) else .fin false (ex * fx / (ex + fx)) (-320)

/-- The exponent of one unit in the last place of an f32 value, subnormal spacing counted (R43). -/
def ulpExp (x : XVal) : Int :=
  match x with
  | .fin _ m e => if m = 0 then Fmt.qmin .f32 else max (e + Nat.log2 m - 23) (Fmt.qmin .f32)
  | _ => 0

/-- A word, as the f32 result, lies within 2 of its own ulp of a value (R43). -/
def within2 (w : Word) (x : XVal) : Bool :=
  match decodeF .f32 w.toNat with
  | .fin s m e => !xlt (.fin false 2 (ulpExp (.fin s m e))) (xabs (xadd (.fin s m e) (xneg x)))
  | _ => false

/-- A result of which only the bound of R43 is known: the free word where it lies within the bound, else the rounded
value (log 7). -/
def boundedWord (fn : Nat) (input : Word) (x : XVal) : Word :=
  let w := Config.special fn input
  if within2 w x then w else BitVec.ofNat 32 (roundF .f32 x)

/-- A word of a value that is known. -/
def wordX (x : XVal) : Word := BitVec.ofNat 32 (roundF .f32 x)

/-- The function of class 0xE with a function number (R43, R44, R208). -/
def specialFn (fn : Nat) (w : Word) : Word :=
  match decodeF .f32 w.toNat with
  | .nan s p => BitVec.ofNat 32 (nanOut .f32 s p)
  | .inf neg =>
    match fn with
    | 0 => wordX (.fin neg 0 0)
    | 1 | 2 | 4 => if neg then wordX xDefault else if fn = 1 then wordX (.fin false 0 0) else wordX (.inf false)
    | 3 => if neg then 0 else wordX (.inf false)
    | 7 => wordX (.fin neg 1 0)
    | 8 => if neg then 0 else wordX (.fin false 1 0)
    | _ => wordX xDefault
  | .fin neg m e =>
    if m = 0 then
      match fn with
      | 0 => wordX (.inf neg)
      | 1 | 4 => wordX (.inf (fn == 4 || neg))
      | 2 | 5 | 7 => wordX (.fin neg 0 0)
      | 3 | 6 => wordX (.fin false 1 0)
      | _ => wordX (.fin false 1 (-1))
    else
      match fn with
      | 0 => let r := recipX m e; wordX (.fin neg r.1 r.2)
      | 1 => if neg then wordX xDefault else let r := rsqX m e; wordX (.fin false r.1 r.2)
      | 2 => if neg then wordX xDefault else let r := sqrtX m e; wordX (.fin false r.1 r.2)
      | 3 =>
        if !neg && !xlt (.fin false m e) (.fin false 128 0) then wordX (.inf false)
        else if neg && !xlt (.fin false m e) (.fin false 150 0) then 0
        else
          let y := exp2X neg m e
          if toFx m e % fx = 0 then wordX y else boundedWord fn w y
      | 4 =>
        if neg then wordX xDefault
        else
          let y := log2X m e
          if m = 2 ^ Nat.log2 m then wordX y else boundedWord fn w y
      | 5 =>
        let r := (sinCosX m e).1
        boundedWord fn w (xOfInt (if neg then -r else r) (-320) false)
      | 6 => boundedWord fn w (xOfInt (sinCosX m e).2 (-320) false)
      | 7 =>
        if xlt (.fin false m e) (.fin false 10 0) then boundedWord fn w (.fin neg (tanhX m e) (-320))
        else wordX (.fin neg 1 0)
      | _ => boundedWord fn w (sigmX neg m e)

end Sys2Proof.Machine
end

