-- ==== Sys2Proof/Machine/LaneAlu.lean ====
section
/-! DEFINITION. Lane arithmetic, conversion and cross-lane instructions: classes 0x0 to 0x6 and 0xE (R195 to R208). -/

namespace Sys2Proof.Machine

/-- Write one word in each of the given lanes of a register. -/
def Warp.setLanes (w : Warp) (r : Nat) : List (Nat × Word) → Warp
  | [] => w
  | (l, v) :: rest => (w.setV r l v).setLanes r rest

/-- The shared form (R195): every source of every lane is read, then vd is written in the active lanes. -/
def laneOp (s : State) (i : Instr) (a : AluArgs) (f : LCtx → Nat → Word) : Host.Outcome State Fault Refusal :=
  runLane s i fun y =>
    (s.modWarp y.x.who.core y.x.who.slot fun w =>
      w.setLanes a.vd.toNat (y.lanes.map fun l => (l, f y l))).dispatched y

/-- Write one cell in each of the given lanes of a register. -/
def Warp.setCells (w : Warp) (r : Nat) : List (Nat × RWord) → Warp
  | [] => w
  | (l, x) :: rest => (w.setVCell r l x).setCells r rest

/-- What the integer unit writes in a lane: where a soft error strikes, its bit of the result is wrong (R69, R70). -/
def struck (w : Warp) (l : Nat) (c : RWord) : RWord :=
  match w.flip with
  | some (m, b) => if m = l then upsetCell b c else c
  | none => c

/-- The form of the instructions whose residue is predicted (R68, R195). -/
def unitOp (s : State) (i : Instr) (a : AluArgs) (f : LCtx → Nat → RWord) : Host.Outcome State Fault Refusal :=
  runLane s i fun y =>
    (s.modWarp y.x.who.core y.x.who.slot fun w =>
      { w.setCells a.vd.toNat (y.lanes.map fun l => (l, struck w l (f y l))) with flip := none }).dispatched y

/-- va's cell in a lane. -/
def LCtx.aCell (y : LCtx) (x : AluArgs) (l : Nat) : RWord := y.x.warp.v_ x.va.toNat l

/-- Operand b's cell in a lane; an immediate has its own residue (R195). -/
def LCtx.bCell (y : LCtx) (x : AluArgs) (l : Nat) : RWord :=
  match x.b with
  | .lane v => y.x.warp.v_ v.toNat l
  | .group g => capturedCell y.clause.gs g
  | .imm => cellOf x.imm

/-- vc's cell in a lane. -/
def LCtx.cCell (y : LCtx) (x : AluArgs) (l : Nat) : RWord := y.x.warp.v_ x.vc.toNat l

/-- va in a lane. -/
def LCtx.a (y : LCtx) (x : AluArgs) (l : Nat) : Word := y.x.warp.vv x.va.toNat l

/-- Operand b in a lane (R195). -/
def LCtx.b (y : LCtx) (x : AluArgs) (l : Nat) : Word := opBVal y.x.warp y.clause.gs x.b x.imm l

/-- vc in a lane. -/
def LCtx.c (y : LCtx) (x : AluArgs) (l : Nat) : Word := y.x.warp.vv x.vc.toNat l

/-- A two-operand form. -/
def lane2 (s : State) (i : Instr) (x : AluArgs) (f : Word → Word → Word) : Host.Outcome State Fault Refusal :=
  laneOp s i x fun y l => f (y.a x l) (y.b x l)

/-- A one-operand form. -/
def lane1 (s : State) (i : Instr) (x : AluArgs) (f : Word → Word) : Host.Outcome State Fault Refusal :=
  laneOp s i x fun y l => f (y.a x l)

/-- A three-operand form. -/
def lane3 (s : State) (i : Instr) (x : AluArgs) (f : Word → Word → Word → Word) : Host.Outcome State Fault Refusal :=
  laneOp s i x fun y l => f (y.a x l) (y.b x l) (y.c x l)

/-! ### Integer arithmetic (R196) -/

/-- IADD. -/
def execIadd (x : AluArgs) (s : State) : Host.Outcome State Fault Refusal := unitOp s (.iadd x) x fun y l => addCell (y.aCell x l) (y.bCell x l)

/-- ISUB. -/
def execIsub (x : AluArgs) (s : State) : Host.Outcome State Fault Refusal := unitOp s (.isub x) x fun y l => subCell (y.aCell x l) (y.bCell x l)

/-- IMUL: the low word. -/
def execImul (x : AluArgs) (s : State) : Host.Outcome State Fault Refusal := unitOp s (.imul x) x fun y l => mulCell (y.aCell x l) (y.bCell x l)

/-- IMULH: the high word, signed or unsigned by Q[0]. -/
def execImulh (x : AluArgs) (s : State) : Host.Outcome State Fault Refusal :=
  lane2 s (.imulh x) x fun a b => if x.q.getLsbD 0 then mulHighN a b else mulHighS a b

/-- IMAD: va × b + vc, the low word. -/
def execImad (x : AluArgs) (s : State) : Host.Outcome State Fault Refusal :=
  unitOp s (.imad x) x fun y l => madCell (y.aCell x l) (y.bCell x l) (y.cCell x l)

/-- IMIN: signed or unsigned by Q[0]. -/
def execImin (x : AluArgs) (s : State) : Host.Outcome State Fault Refusal :=
  lane2 s (.imin x) x fun a b => if x.q.getLsbD 0 then minN a b else minS a b

/-- IMAX: signed or unsigned by Q[0]. -/
def execImax (x : AluArgs) (s : State) : Host.Outcome State Fault Refusal :=
  lane2 s (.imax x) x fun a b => if x.q.getLsbD 0 then maxN a b else maxS a b

/-- IABS: the most negative number gives itself. -/
def execIabs (x : AluArgs) (s : State) : Host.Outcome State Fault Refusal :=
  lane1 s (.iabs x) x fun a => if a.slt 0 then 0 - a else a

/-- INEG. -/
def execIneg (x : AluArgs) (s : State) : Host.Outcome State Fault Refusal := lane1 s (.ineg x) x fun a => 0 - a

/-- MOV: operand b. -/
def execMov (x : AluArgs) (s : State) : Host.Outcome State Fault Refusal := laneOp s (.mov x) x fun y l => y.b x l

/-- MOVI: imm32. -/
def execMovi (x : AluArgs) (s : State) : Host.Outcome State Fault Refusal := laneOp s (.movi x) x fun _ _ => x.imm

/-- LEA: (va << Q) + b. -/
def execLea (x : AluArgs) (s : State) : Host.Outcome State Fault Refusal :=
  lane2 s (.lea x) x fun a b => (a <<< x.q.toNat) + b

/-! ### Logic, shifts and bit fields (R197) -/

/-- AND. -/
def execLaneAnd (x : AluArgs) (s : State) : Host.Outcome State Fault Refusal := lane2 s (.laneAnd x) x fun a b => a &&& b

/-- OR. -/
def execLaneOr (x : AluArgs) (s : State) : Host.Outcome State Fault Refusal := lane2 s (.laneOr x) x fun a b => a ||| b

/-- XOR. -/
def execLaneXor (x : AluArgs) (s : State) : Host.Outcome State Fault Refusal := lane2 s (.laneXor x) x fun a b => a ^^^ b

/-- NOT. -/
def execNot (x : AluArgs) (s : State) : Host.Outcome State Fault Refusal := lane1 s (.not x) x fun a => ~~~ a

/-- SHL by b[4:0]. -/
def execLaneShl (x : AluArgs) (s : State) : Host.Outcome State Fault Refusal :=
  lane2 s (.laneShl x) x fun a b => a <<< shiftAmt b

/-- SHR by b[4:0], zero-filled. -/
def execLaneShr (x : AluArgs) (s : State) : Host.Outcome State Fault Refusal :=
  lane2 s (.laneShr x) x fun a b => a >>> shiftAmt b

/-- SAR by b[4:0], sign-filled. -/
def execLaneSar (x : AluArgs) (s : State) : Host.Outcome State Fault Refusal :=
  lane2 s (.laneSar x) x fun a b => a.sshiftRight (shiftAmt b)

/-- The length of a bit field at a position, clipped to the register (R197). -/
def fieldLen (b c : Word) : Nat := min (c.toNat % 64) (32 - shiftAmt b)

/-- The mask of `n` low bits. -/
def lowMask (n : Nat) : Word := BitVec.ofNat 32 (2 ^ n - 1)

/-- BFE's result. -/
def bfeWord (sgn : Bool) (a b c : Word) : Word :=
  let n := fieldLen b c
  let f := (a >>> shiftAmt b) &&& lowMask n
  if sgn && n != 0 && f.getLsbD (n - 1) then f ||| ~~~ lowMask n else f

/-- BFI's result over the old vd. -/
def bfiWord (d a b c : Word) : Word :=
  let m := lowMask (fieldLen b c) <<< shiftAmt b
  (d &&& ~~~ m) ||| ((a <<< shiftAmt b) &&& m)

/-- BFE: unsigned or signed by Q[0]. -/
def execBfe (x : AluArgs) (s : State) : Host.Outcome State Fault Refusal :=
  lane3 s (.bfe x) x fun a b c => bfeWord (x.q.getLsbD 0) a b c

/-- BFI: vd is read and written. -/
def execBfi (x : AluArgs) (s : State) : Host.Outcome State Fault Refusal :=
  laneOp s (.bfi x) x fun y l => bfiWord (y.x.warp.vv x.vd.toNat l) (y.a x l) (y.b x l) (y.c x l)

/-- POPC. -/
def execLanePopc (x : AluArgs) (s : State) : Host.Outcome State Fault Refusal := lane1 s (.lanePopc x) x fun a => popcount a

/-- CLZ. -/
def execLaneClz (x : AluArgs) (s : State) : Host.Outcome State Fault Refusal := lane1 s (.laneClz x) x fun a => leadingZeros a

/-! ### Compare and select (R198) -/

/-- ICMP: 1 where the condition of Q holds. -/
def execIcmp (x : AluArgs) (s : State) : Host.Outcome State Fault Refusal :=
  lane2 s (.icmp x) x fun a b => boolWord (icmpHolds x.q.toNat a b)

/-- SEL: va where bit 0 of vc is 1, else b. -/
def execLaneSel (x : AluArgs) (s : State) : Host.Outcome State Fault Refusal :=
  lane3 s (.laneSel x) x fun a b c => if c.getLsbD 0 then a else b

/-! ### FP32 (R199, R200) -/

/-- FADD. -/
def execFadd (x : AluArgs) (s : State) : Host.Outcome State Fault Refusal :=
  lane2 s (.fadd x) x fun a b => onWords (fAdd .f32) a b

/-- FSUB. -/
def execFsub (x : AluArgs) (s : State) : Host.Outcome State Fault Refusal :=
  lane2 s (.fsub x) x fun a b => onWords (fSub .f32) a b

/-- FMUL. -/
def execFmul (x : AluArgs) (s : State) : Host.Outcome State Fault Refusal :=
  lane2 s (.fmul x) x fun a b => onWords (fMul .f32) a b

/-- FFMA: one rounding. -/
def execFfma (x : AluArgs) (s : State) : Host.Outcome State Fault Refusal :=
  lane3 s (.ffma x) x fun a b c => BitVec.ofNat 32 (fFma .f32 a.toNat b.toNat c.toNat)

/-- FMIN. -/
def execFmin (x : AluArgs) (s : State) : Host.Outcome State Fault Refusal := lane2 s (.fmin x) x fun a b => onWords fMin a b

/-- FMAX. -/
def execFmax (x : AluArgs) (s : State) : Host.Outcome State Fault Refusal := lane2 s (.fmax x) x fun a b => onWords fMax a b

/-- FCMP: 1 where the condition of Q holds. -/
def execFcmp (x : AluArgs) (s : State) : Host.Outcome State Fault Refusal :=
  lane2 s (.fcmp x) x fun a b => boolWord (fcmpHolds x.q.toNat a b)

/-! ### Packed 16-bit arithmetic (R201) -/

/-- The format Q[0] selects. -/
def packedFmt (x : AluArgs) : Fmt := if x.q.getLsbD 0 then .bf16 else .f16

/-- Element e of a packed word. -/
def elem (w : Word) (e : Nat) : Nat := w.toNat / 2 ^ (16 * e) % 2 ^ 16

/-- A packed word of two elements. -/
def packWord (f : Nat → Nat) : Word := BitVec.ofNat 32 (f 0 + f 1 * 2 ^ 16)

/-- HADD2. -/
def execHadd2 (x : AluArgs) (s : State) : Host.Outcome State Fault Refusal :=
  lane2 s (.hadd2 x) x fun a b => packWord fun e => fAdd (packedFmt x) (elem a e) (elem b e)

/-- HMUL2. -/
def execHmul2 (x : AluArgs) (s : State) : Host.Outcome State Fault Refusal :=
  lane2 s (.hmul2 x) x fun a b => packWord fun e => fMul (packedFmt x) (elem a e) (elem b e)

/-- HFMA2: one rounding per element. -/
def execHfma2 (x : AluArgs) (s : State) : Host.Outcome State Fault Refusal :=
  lane3 s (.hfma2 x) x fun a b c => packWord fun e => fFma (packedFmt x) (elem a e) (elem b e) (elem c e)

/-! ### Conversion (R202 to R204) -/

/-- CVT of one lane's bits by the immediate's type codes. -/
def cvtBits (imm : Word) (a : Nat) : Nat :=
  match numType (imm.toNat / 256 % 256), numType (imm.toNat % 256) with
  | some src, some tgt => convert src tgt a
  | _, _ => 0

/-- CVT: one value per lane; 64-bit values use register pairs. -/
def execCvt (x : AluArgs) (s : State) : Host.Outcome State Fault Refusal :=
  runLane s (.cvt x) fun y =>
    let n := codeRegs (x.imm.toNat % 256)
    let m := codeRegs (x.imm.toNat / 256 % 256)
    let rs := y.lanes.map fun l => (l, cvtBits x.imm (vGroup y.x.warp x.va m l))
    (s.modWarp y.x.who.core y.x.who.slot fun w =>
      rs.foldl (fun w p => w.setVs x.vd.toNat p.1 (wordsOf n p.2)) w).dispatched y

/-- The blocks of lanes an instruction works on: two of 16 or one of 32. -/
def laneBlocks (one : Bool) : List (List Nat) :=
  if one then [List.range 32] else [List.range 16, (List.range 16).map (· + 16)]

/-- The codes and the side word of one block of CVTQ (R203). -/
def cvtqBlock (tgt : Nat) (xs : List XVal) : List Nat × Nat :=
  if tgt = 0x16 then let r := quantKb4 xs; (r.1, r.2.2 * 256 + r.2.1)
  else if tgt = 0x13 then quantE8 .e4m3 448 xs else quantE8 .e5m2 57344 xs

/-- CVTQ: blocks across lanes, each from its active lanes alone. -/
def execCvtq (x : AluArgs) (s : State) : Host.Outcome State Fault Refusal :=
  runLane s (.cvtq x) fun y =>
    let rs := (laneBlocks (x.imm.getLsbD 8)).flatMap fun ls =>
      let ls := ls.filter (laneIn y.act)
      let q := cvtqBlock (x.imm.toNat % 256) (ls.map fun l => decodeF .f32 (y.a x l).toNat)
      (ls.zip q.1).map fun p => (p.1, BitVec.ofNat 32 p.2, BitVec.ofNat 32 q.2)
    (s.modWarp y.x.who.core y.x.who.slot fun w =>
      rs.foldl (fun w p => (w.setV x.vd.toNat p.1 p.2.1).setV x.vc.toNat p.1 p.2.2) w).dispatched y

/-- HAD's result in a lane: the transform of its block, read in every lane (R204). -/
def hadWord (x : AluArgs) (w : Warp) (l : Nat) : Word :=
  let one := x.q.getLsbD 0
  let base := if one then 0 else l / 16 * 16
  let xs := (List.range (if one then 32 else 16)).map fun k => decodeF .f32 (w.vv x.va.toNat (base + k)).toNat
  wordX (hadOut xs (l - base) (if one && x.q.getLsbD 1 then -3 else -2))

/-- HAD. -/
def execHad (x : AluArgs) (s : State) : Host.Outcome State Fault Refusal :=
  laneOp s (.had x) x fun y l => hadWord x y.x.warp l

/-! ### Cross-lane (R205 to R207) -/

/-- SHFL: from lane b[4:0]. -/
def execShfl (x : AluArgs) (s : State) : Host.Outcome State Fault Refusal :=
  laneOp s (.shfl x) x fun y l => y.a x (sourceLane (.shfl x) y l)

/-- BFLY: from lane l XOR b[4:0]. -/
def execBfly (x : AluArgs) (s : State) : Host.Outcome State Fault Refusal :=
  laneOp s (.bfly x) x fun y l => y.a x (sourceLane (.bfly x) y l)

/-- BCAST: from the lane b names in the lowest active lane. -/
def execBcast (x : AluArgs) (s : State) : Host.Outcome State Fault Refusal :=
  laneOp s (.bcast x) x fun y l => y.a x (sourceLane (.bcast x) y l)

/-- The identity of a combination (R206). -/
def comboIdentity (q : Nat) : Word :=
  match q with
  | 1 => 0x7FFFFFFF
  | 2 => 0x80000000
  | 3 | 5 => 0xFFFFFFFF
  | 9 => 0x7F800000
  | 10 => 0xFF800000
  | _ => 0

/-- Combine words in ascending lane order (R206): a .fadd sum is exact and rounds once. -/
def combine (q : Nat) (ws : List Word) : Word :=
  match ws with
  | [] => comboIdentity q
  | w :: rest =>
    match q with
    | 0 => rest.foldl (· + ·) w
    | 1 => rest.foldl minS w
    | 2 => rest.foldl maxS w
    | 3 => rest.foldl minN w
    | 4 => rest.foldl maxN w
    | 5 => rest.foldl (· &&& ·) w
    | 6 => rest.foldl (· ||| ·) w
    | 7 => rest.foldl (· ^^^ ·) w
    | q =>
      let xs := ws.map fun w => decodeF .f32 w.toNat
      match xs.find? (·.isNan) with
      | some x => wordX x
      | none =>
        if q = 8 then wordX (xsum xs)
        else match xs with
          | [] => comboIdentity q
          | y :: ys => wordX (ys.foldl (if q = 9 then xmin else xmax) y)

/-- REDUX: the combination over the active lanes, to each of them. -/
def execRedux (x : AluArgs) (s : State) : Host.Outcome State Fault Refusal :=
  laneOp s (.redux x) x fun y _ => combine x.q.toNat (y.lanes.map (y.a x))

/-- SCAN: the combination over active lanes up to each lane, or below it with imm[0]. -/
def execScan (x : AluArgs) (s : State) : Host.Outcome State Fault Refusal :=
  laneOp s (.scan x) x fun y l =>
    combine x.q.toNat ((y.lanes.filter fun m => if x.imm.getLsbD 0 then m < l else m ≤ l).map (y.a x))

/-- LANEID. -/
def execLaneid (x : AluArgs) (s : State) : Host.Outcome State Fault Refusal :=
  laneOp s (.laneid x) x fun _ l => BitVec.ofNat 32 l

/-! ### Special functions (R208) -/

/-- RCP. -/
def execRcp (x : AluArgs) (s : State) : Host.Outcome State Fault Refusal := lane1 s (.rcp x) x fun a => specialFn 0 a

/-- RSQ. -/
def execRsq (x : AluArgs) (s : State) : Host.Outcome State Fault Refusal := lane1 s (.rsq x) x fun a => specialFn 1 a

/-- SQRT. -/
def execSqrt (x : AluArgs) (s : State) : Host.Outcome State Fault Refusal := lane1 s (.sqrt x) x fun a => specialFn 2 a

/-- EXP2. -/
def execExp2 (x : AluArgs) (s : State) : Host.Outcome State Fault Refusal := lane1 s (.exp2 x) x fun a => specialFn 3 a

/-- LOG2. -/
def execLog2 (x : AluArgs) (s : State) : Host.Outcome State Fault Refusal := lane1 s (.log2 x) x fun a => specialFn 4 a

/-- SIN. -/
def execSin (x : AluArgs) (s : State) : Host.Outcome State Fault Refusal := lane1 s (.sin x) x fun a => specialFn 5 a

/-- COS. -/
def execCos (x : AluArgs) (s : State) : Host.Outcome State Fault Refusal := lane1 s (.cos x) x fun a => specialFn 6 a

/-- TANH. -/
def execTanh (x : AluArgs) (s : State) : Host.Outcome State Fault Refusal := lane1 s (.tanh x) x fun a => specialFn 7 a

/-- SIGM. -/
def execSigm (x : AluArgs) (s : State) : Host.Outcome State Fault Refusal := lane1 s (.sigm x) x fun a => specialFn 8 a

end Sys2Proof.Machine
end

