-- ==== Sys2Proof/Machine/ScalarInt.lean ====
section
/-! DEFINITION. Integer operations on g registers, register and immediate forms (R173, R174). -/

namespace Sys2Proof.Machine

/-- A two-source register form: both sources read live, one result (R173). -/
def scalar2 (s : State) (i : Instr) (d a b : GReg) (f : Word → Word → Word) : Host.Outcome State Fault Refusal :=
  runScalar s i fun x => s.result x d (f (x.warp.gv a) (x.warp.gv b))

/-- The form of the instructions whose residue is predicted: a soft error of the unit leaves a wrong bit where checks do not
apply (R68, R69). -/
def scalarUnit (s : State) (i : Instr) (d : GReg) (f : Warp → RWord) : Host.Outcome State Fault Refusal :=
  runScalar s i fun x =>
    (s.modWarp x.who.core x.who.slot fun w =>
      { w.setGCell d (match w.flip with | some (_, b) => upsetCell b (f x.warp) | none => f x.warp) with
        flip := none }).advance x

/-- A one-source form (R173, R174). -/
def scalar1 (s : State) (i : Instr) (d a : GReg) (f : Word → Word) : Host.Outcome State Fault Refusal :=
  runScalar s i fun x => s.result x d (f (x.warp.gv a))

/-- Add: gd ← ga + gb modulo 2^32 (R173). -/
def execAdd (d a b : GReg) (s : State) : Host.Outcome State Fault Refusal :=
  scalarUnit s (.add d a b) d fun w => addCell (w.g_ a) (w.g_ b)

/-- Sub: gd ← ga − gb modulo 2^32 (R173). -/
def execSub (d a b : GReg) (s : State) : Host.Outcome State Fault Refusal :=
  scalarUnit s (.sub d a b) d fun w => subCell (w.g_ a) (w.g_ b)

/-- Mul: the low word of the product (R173). -/
def execMul (d a b : GReg) (s : State) : Host.Outcome State Fault Refusal :=
  scalarUnit s (.mul d a b) d fun w => mulCell (w.g_ a) (w.g_ b)

/-- MulhS32: the high word of the signed product (R173). -/
def execMulhS32 (d a b : GReg) (s : State) : Host.Outcome State Fault Refusal :=
  scalar2 s (.mulhS32 d a b) d a b fun a b => mulHighS a b

/-- MulhN32: the high word of the unsigned product (R173). -/
def execMulhN32 (d a b : GReg) (s : State) : Host.Outcome State Fault Refusal :=
  scalar2 s (.mulhN32 d a b) d a b fun a b => mulHighN a b

/-- And: bitwise and (R173). -/
def execAnd (d a b : GReg) (s : State) : Host.Outcome State Fault Refusal :=
  scalar2 s (.and d a b) d a b fun a b => a &&& b

/-- Or: bitwise or (R173). -/
def execOr (d a b : GReg) (s : State) : Host.Outcome State Fault Refusal :=
  scalar2 s (.or d a b) d a b fun a b => a ||| b

/-- Xor: bitwise exclusive or (R173). -/
def execXor (d a b : GReg) (s : State) : Host.Outcome State Fault Refusal :=
  scalar2 s (.xor d a b) d a b fun a b => a ^^^ b

/-- Shl: shift left by gb[4:0] (R173). -/
def execShl (d a b : GReg) (s : State) : Host.Outcome State Fault Refusal :=
  scalar2 s (.shl d a b) d a b fun a b => a <<< shiftAmt b

/-- Shr: shift right by gb[4:0], zero-filled (R173). -/
def execShr (d a b : GReg) (s : State) : Host.Outcome State Fault Refusal :=
  scalar2 s (.shr d a b) d a b fun a b => a >>> shiftAmt b

/-- Sar: shift right by gb[4:0], sign-filled (R173). -/
def execSar (d a b : GReg) (s : State) : Host.Outcome State Fault Refusal :=
  scalar2 s (.sar d a b) d a b fun a b => a.sshiftRight (shiftAmt b)

/-- MinS32: the smaller, signed (R173). -/
def execMinS32 (d a b : GReg) (s : State) : Host.Outcome State Fault Refusal :=
  scalar2 s (.minS32 d a b) d a b fun a b => minS a b

/-- MinN32: the smaller, unsigned (R173). -/
def execMinN32 (d a b : GReg) (s : State) : Host.Outcome State Fault Refusal :=
  scalar2 s (.minN32 d a b) d a b fun a b => minN a b

/-- MaxS32: the larger, signed (R173). -/
def execMaxS32 (d a b : GReg) (s : State) : Host.Outcome State Fault Refusal :=
  scalar2 s (.maxS32 d a b) d a b fun a b => maxS a b

/-- MaxN32: the larger, unsigned (R173). -/
def execMaxN32 (d a b : GReg) (s : State) : Host.Outcome State Fault Refusal :=
  scalar2 s (.maxN32 d a b) d a b fun a b => maxN a b

/-- CmpEq: 1 where equal (R173). -/
def execCmpEq (d a b : GReg) (s : State) : Host.Outcome State Fault Refusal :=
  scalar2 s (.cmpEq d a b) d a b fun a b => boolWord (a == b)

/-- CmpNe: 1 where not equal (R173). -/
def execCmpNe (d a b : GReg) (s : State) : Host.Outcome State Fault Refusal :=
  scalar2 s (.cmpNe d a b) d a b fun a b => boolWord (a != b)

/-- CmpLtS32: 1 where less, signed (R173). -/
def execCmpLtS32 (d a b : GReg) (s : State) : Host.Outcome State Fault Refusal :=
  scalar2 s (.cmpLtS32 d a b) d a b fun a b => boolWord (a.slt b)

/-- CmpLeS32: 1 where less or equal, signed (R173). -/
def execCmpLeS32 (d a b : GReg) (s : State) : Host.Outcome State Fault Refusal :=
  scalar2 s (.cmpLeS32 d a b) d a b fun a b => boolWord (a.sle b)

/-- CmpLtN32: 1 where less, unsigned (R173). -/
def execCmpLtN32 (d a b : GReg) (s : State) : Host.Outcome State Fault Refusal :=
  scalar2 s (.cmpLtN32 d a b) d a b fun a b => boolWord (a.ult b)

/-- CmpLeN32: 1 where less or equal, unsigned (R173). -/
def execCmpLeN32 (d a b : GReg) (s : State) : Host.Outcome State Fault Refusal :=
  scalar2 s (.cmpLeN32 d a b) d a b fun a b => boolWord (a.ule b)

/-- POPC: the number of set bits (R173). -/
def execPopc (d a : GReg) (s : State) : Host.Outcome State Fault Refusal := scalar1 s (.popc d a) d a popcount

/-- CLZ: the number of leading zero bits (R173). -/
def execClz (d a : GReg) (s : State) : Host.Outcome State Fault Refusal := scalar1 s (.clz d a) d a leadingZeros

/-- SEL: ga where gc is nonzero, else gb (R173). -/
def execSel (d a b c : GReg) (s : State) : Host.Outcome State Fault Refusal :=
  runScalar s (.sel d a b c) fun x => s.result x d (if x.warp.gv c != 0 then x.warp.gv a else x.warp.gv b)

/-- ADDI: ga plus the sign-extended immediate (R174). -/
def execAddi (d a : GReg) (i : BitVec 14) (s : State) : Host.Outcome State Fault Refusal :=
  scalarUnit s (.addi d a i) d fun w => addCell (w.g_ a) (cellOf (i.signExtend 32))

/-- ANDI: ga and the zero-extended immediate (R174). -/
def execAndi (d a : GReg) (i : BitVec 14) (s : State) : Host.Outcome State Fault Refusal :=
  scalar1 s (.andi d a i) d a fun a => a &&& i.setWidth 32

/-- ORI: ga or the zero-extended immediate (R174). -/
def execOri (d a : GReg) (i : BitVec 14) (s : State) : Host.Outcome State Fault Refusal :=
  scalar1 s (.ori d a i) d a fun a => a ||| i.setWidth 32

/-- XORI: ga exclusive-or the zero-extended immediate (R174). -/
def execXori (d a : GReg) (i : BitVec 14) (s : State) : Host.Outcome State Fault Refusal :=
  scalar1 s (.xori d a i) d a fun a => a ^^^ i.setWidth 32

/-- SHLI: shift left by the immediate (R174). -/
def execShli (d a : GReg) (n : BitVec 5) (s : State) : Host.Outcome State Fault Refusal :=
  scalar1 s (.shli d a n) d a fun a => a <<< n.toNat

/-- SHRI: shift right by the immediate, zero-filled (R174). -/
def execShri (d a : GReg) (n : BitVec 5) (s : State) : Host.Outcome State Fault Refusal :=
  scalar1 s (.shri d a n) d a fun a => a >>> n.toNat

/-- LUI: the immediate shifted left by 12 (R174). -/
def execLui (d : GReg) (i : BitVec 20) (s : State) : Host.Outcome State Fault Refusal :=
  runScalar s (.lui d i) fun x => s.result x d (i.setWidth 32 <<< 12)

end Sys2Proof.Machine
end

