-- ==== Sys2Proof/Machine/Dispatch.lean ====
section
/-! DEFINITION. One arm per constructor of Instr: the meaning of each instruction and event. -/

namespace Sys2Proof.Machine

def exec (i : Instr) (s : State) : Host.Outcome State Fault Refusal :=
  match i with
  | .add d a b => Sys2Proof.Machine.execAdd d a b s
  | .sub d a b => Sys2Proof.Machine.execSub d a b s
  | .mul d a b => Sys2Proof.Machine.execMul d a b s
  | .mulhS32 d a b => Sys2Proof.Machine.execMulhS32 d a b s
  | .mulhN32 d a b => Sys2Proof.Machine.execMulhN32 d a b s
  | .and d a b => Sys2Proof.Machine.execAnd d a b s
  | .or d a b => Sys2Proof.Machine.execOr d a b s
  | .xor d a b => Sys2Proof.Machine.execXor d a b s
  | .shl d a b => Sys2Proof.Machine.execShl d a b s
  | .shr d a b => Sys2Proof.Machine.execShr d a b s
  | .sar d a b => Sys2Proof.Machine.execSar d a b s
  | .minS32 d a b => Sys2Proof.Machine.execMinS32 d a b s
  | .minN32 d a b => Sys2Proof.Machine.execMinN32 d a b s
  | .maxS32 d a b => Sys2Proof.Machine.execMaxS32 d a b s
  | .maxN32 d a b => Sys2Proof.Machine.execMaxN32 d a b s
  | .popc d a => Sys2Proof.Machine.execPopc d a s
  | .clz d a => Sys2Proof.Machine.execClz d a s
  | .cmpEq d a b => Sys2Proof.Machine.execCmpEq d a b s
  | .cmpNe d a b => Sys2Proof.Machine.execCmpNe d a b s
  | .cmpLtS32 d a b => Sys2Proof.Machine.execCmpLtS32 d a b s
  | .cmpLeS32 d a b => Sys2Proof.Machine.execCmpLeS32 d a b s
  | .cmpLtN32 d a b => Sys2Proof.Machine.execCmpLtN32 d a b s
  | .cmpLeN32 d a b => Sys2Proof.Machine.execCmpLeN32 d a b s
  | .sel d a b c => Sys2Proof.Machine.execSel d a b c s
  | .addi d a x_i => Sys2Proof.Machine.execAddi d a x_i s
  | .andi d a x_i => Sys2Proof.Machine.execAndi d a x_i s
  | .ori d a x_i => Sys2Proof.Machine.execOri d a x_i s
  | .xori d a x_i => Sys2Proof.Machine.execXori d a x_i s
  | .shli d a n => Sys2Proof.Machine.execShli d a n s
  | .shri d a n => Sys2Proof.Machine.execShri d a n s
  | .lui d x_i => Sys2Proof.Machine.execLui d x_i s
  | .ldg d a x_i => Sys2Proof.Machine.execLdg d a x_i s
  | .stg d a x_i => Sys2Proof.Machine.execStg d a x_i s
  | .vote d v m => Sys2Proof.Machine.execVote d v m s
  | .movg d v l => Sys2Proof.Machine.execMovg d v l s
  | .rdt d t => Sys2Proof.Machine.execRdt d t s
  | .wrt t a => Sys2Proof.Machine.execWrt t a s
  | .rdx d => Sys2Proof.Machine.execRdx d s
  | .wrx a => Sys2Proof.Machine.execWrx a s
  | .br c g o => Sys2Proof.Machine.execBr c g o s
  | .brl c v o => Sys2Proof.Machine.execBrl c v o s
  | .split v o => Sys2Proof.Machine.execSplit v o s
  | .joinat o => Sys2Proof.Machine.execJoinat o s
  | .join => Sys2Proof.Machine.execJoin s
  | .jmp x_i => Sys2Proof.Machine.execJmp x_i s
  | .jmpr a => Sys2Proof.Machine.execJmpr a s
  | .jmpv v => Sys2Proof.Machine.execJmpv v s
  | .call x_i => Sys2Proof.Machine.execCall x_i s
  | .callr a => Sys2Proof.Machine.execCallr a s
  | .callv v => Sys2Proof.Machine.execCallv v s
  | .ret => Sys2Proof.Machine.execRet s
  | .loop g o => Sys2Proof.Machine.execLoop g o s
  | .exit => Sys2Proof.Machine.execExit s
  | .issue n o => Sys2Proof.Machine.execIssue n o s
  | .waitf m => Sys2Proof.Machine.execWaitf m s
  | .yield => Sys2Proof.Machine.execYield s
  | .barwait o p => Sys2Proof.Machine.execBarwait o p s
  | .qwait a b t => Sys2Proof.Machine.execQwait a b t s
  | .trap c => Sys2Proof.Machine.execTrap c s
  | .rtt => Sys2Proof.Machine.execRtt s
  | .rdsr d n => Sys2Proof.Machine.execRdsr d n s
  | .wrsr a n => Sys2Proof.Machine.execWrsr a n s
  | .tlbinv d a b => Sys2Proof.Machine.execTlbinv d a b s
  | .bkpt t => Sys2Proof.Machine.execBkpt t s
  | .halt => Sys2Proof.Machine.execHalt s
  | .nop => Sys2Proof.Machine.execNop s
  | .feat d b => Sys2Proof.Machine.execFeat d b s
  | .clock d => Sys2Proof.Machine.execClock d s
  | .iadd x => Sys2Proof.Machine.execIadd x s
  | .isub x => Sys2Proof.Machine.execIsub x s
  | .imul x => Sys2Proof.Machine.execImul x s
  | .imulh x => Sys2Proof.Machine.execImulh x s
  | .imad x => Sys2Proof.Machine.execImad x s
  | .imin x => Sys2Proof.Machine.execImin x s
  | .imax x => Sys2Proof.Machine.execImax x s
  | .iabs x => Sys2Proof.Machine.execIabs x s
  | .ineg x => Sys2Proof.Machine.execIneg x s
  | .mov x => Sys2Proof.Machine.execMov x s
  | .movi x => Sys2Proof.Machine.execMovi x s
  | .lea x => Sys2Proof.Machine.execLea x s
  | .laneAnd x => Sys2Proof.Machine.execLaneAnd x s
  | .laneOr x => Sys2Proof.Machine.execLaneOr x s
  | .laneXor x => Sys2Proof.Machine.execLaneXor x s
  | .not x => Sys2Proof.Machine.execNot x s
  | .laneShl x => Sys2Proof.Machine.execLaneShl x s
  | .laneShr x => Sys2Proof.Machine.execLaneShr x s
  | .laneSar x => Sys2Proof.Machine.execLaneSar x s
  | .bfe x => Sys2Proof.Machine.execBfe x s
  | .bfi x => Sys2Proof.Machine.execBfi x s
  | .lanePopc x => Sys2Proof.Machine.execLanePopc x s
  | .laneClz x => Sys2Proof.Machine.execLaneClz x s
  | .icmp x => Sys2Proof.Machine.execIcmp x s
  | .laneSel x => Sys2Proof.Machine.execLaneSel x s
  | .fadd x => Sys2Proof.Machine.execFadd x s
  | .fsub x => Sys2Proof.Machine.execFsub x s
  | .fmul x => Sys2Proof.Machine.execFmul x s
  | .ffma x => Sys2Proof.Machine.execFfma x s
  | .fmin x => Sys2Proof.Machine.execFmin x s
  | .fmax x => Sys2Proof.Machine.execFmax x s
  | .fcmp x => Sys2Proof.Machine.execFcmp x s
  | .hadd2 x => Sys2Proof.Machine.execHadd2 x s
  | .hmul2 x => Sys2Proof.Machine.execHmul2 x s
  | .hfma2 x => Sys2Proof.Machine.execHfma2 x s
  | .cvt x => Sys2Proof.Machine.execCvt x s
  | .cvtq x => Sys2Proof.Machine.execCvtq x s
  | .had x => Sys2Proof.Machine.execHad x s
  | .shfl x => Sys2Proof.Machine.execShfl x s
  | .bfly x => Sys2Proof.Machine.execBfly x s
  | .bcast x => Sys2Proof.Machine.execBcast x s
  | .redux x => Sys2Proof.Machine.execRedux x s
  | .scan x => Sys2Proof.Machine.execScan x s
  | .laneid x => Sys2Proof.Machine.execLaneid x s
  | .rcp x => Sys2Proof.Machine.execRcp x s
  | .rsq x => Sys2Proof.Machine.execRsq x s
  | .sqrt x => Sys2Proof.Machine.execSqrt x s
  | .exp2 x => Sys2Proof.Machine.execExp2 x s
  | .log2 x => Sys2Proof.Machine.execLog2 x s
  | .sin x => Sys2Proof.Machine.execSin x s
  | .cos x => Sys2Proof.Machine.execCos x s
  | .tanh x => Sys2Proof.Machine.execTanh x s
  | .sigm x => Sys2Proof.Machine.execSigm x s
  | .ld x => Sys2Proof.Machine.execLd x s
  | .ldl x => Sys2Proof.Machine.execLdl x s
  | .ldc x => Sys2Proof.Machine.execLdc x s
  | .gather x => Sys2Proof.Machine.execGather x s
  | .gatherP x => Sys2Proof.Machine.execGatherP x s
  | .pref x => Sys2Proof.Machine.execPref x s
  | .tagl x => Sys2Proof.Machine.execTagl x s
  | .st x => Sys2Proof.Machine.execSt x s
  | .stl x => Sys2Proof.Machine.execStl x s
  | .stc x => Sys2Proof.Machine.execStc x s
  | .scatter x => Sys2Proof.Machine.execScatter x s
  | .tagset x => Sys2Proof.Machine.execTagset x s
  | .taginv x => Sys2Proof.Machine.execTaginv x s
  | .atomAdd x => Sys2Proof.Machine.execAtomAdd x s
  | .atomMin x => Sys2Proof.Machine.execAtomMin x s
  | .atomMax x => Sys2Proof.Machine.execAtomMax x s
  | .atomAnd x => Sys2Proof.Machine.execAtomAnd x s
  | .atomOr x => Sys2Proof.Machine.execAtomOr x s
  | .atomXor x => Sys2Proof.Machine.execAtomXor x s
  | .atomExch x => Sys2Proof.Machine.execAtomExch x s
  | .atomCas x => Sys2Proof.Machine.execAtomCas x s
  | .redAdd x => Sys2Proof.Machine.execRedAdd x s
  | .redMin x => Sys2Proof.Machine.execRedMin x s
  | .redMax x => Sys2Proof.Machine.execRedMax x s
  | .redAnd x => Sys2Proof.Machine.execRedAnd x s
  | .redOr x => Sys2Proof.Machine.execRedOr x s
  | .redXor x => Sys2Proof.Machine.execRedXor x s
  | .ldf x => Sys2Proof.Machine.execLdf x s
  | .ldfRc x => Sys2Proof.Machine.execLdfRc x s
  | .adja x => Sys2Proof.Machine.execAdja x s
  | .adjr x => Sys2Proof.Machine.execAdjr x s
  | .adjrWait x => Sys2Proof.Machine.execAdjrWait x s
  | .adjq x => Sys2Proof.Machine.execAdjq x s
  | .phaseRel x => Sys2Proof.Machine.execPhaseRel x s
  | .phaseAcq x => Sys2Proof.Machine.execPhaseAcq x s
  | .gangset x => Sys2Proof.Machine.execGangset x s
  | .mma x => Sys2Proof.Machine.execMma x s
  | .mmaJ x => Sys2Proof.Machine.execMmaJ x s
  | .bld x => Sys2Proof.Machine.execBld x s
  | .ldacc x => Sys2Proof.Machine.execLdacc x s
  | .stacc x => Sys2Proof.Machine.execStacc x s
  | .zacc x => Sys2Proof.Machine.execZacc x s
  | .dupmap x => Sys2Proof.Machine.execDupmap x s
  | .mwait x => Sys2Proof.Machine.execMwait x s
  | .kick x => Sys2Proof.Machine.execKick x s
  | .wptr x => Sys2Proof.Machine.execWptr x s
  | .qpush x => Sys2Proof.Machine.execQpush x s
  | .qfence x => Sys2Proof.Machine.execQfence x s
  | .launch x => Sys2Proof.Machine.execLaunch x s
  | .barinit x => Sys2Proof.Machine.execBarinit x s
  | .barrive x => Sys2Proof.Machine.execBarrive x s
  | .barriveBytes x => Sys2Proof.Machine.execBarriveBytes x s
  | .bartry x => Sys2Proof.Machine.execBartry x s
  | .gbar x => Sys2Proof.Machine.execGbar x s
  | .fbar x => Sys2Proof.Machine.execFbar x s
  | .strag x => Sys2Proof.Machine.execStrag x s
  | .tqpop x => Sys2Proof.Machine.execTqpop x s
  | .tqsteal x => Sys2Proof.Machine.execTqsteal x s
  | .tqdone x => Sys2Proof.Machine.execTqdone x s
  | .itopen x => Sys2Proof.Machine.execItopen x s
  | .next x => Sys2Proof.Machine.execNext x s
  | .nextBounded x => Sys2Proof.Machine.execNextBounded x s
  | .enough x => Sys2Proof.Machine.execEnough x s
  | .itsave x => Sys2Proof.Machine.execItsave x s
  | .itload x => Sys2Proof.Machine.execItload x s
  | .itstat x => Sys2Proof.Machine.execItstat x s
  | .clauseStart core slot entry => Sys2Proof.Machine.execClauseStart core slot entry s
  | .waitCountAged core slot entry laneSide => Sys2Proof.Machine.execWaitCountAged core slot entry laneSide s
  | .loadDataLands core slot op lanes => Sys2Proof.Machine.execLoadDataLands core slot op lanes s
  | .storePerformed core slot op lanes => Sys2Proof.Machine.execStorePerformed core slot op lanes s
  | .clusterLmAck core slot op lanes => Sys2Proof.Machine.execClusterLmAck core slot op lanes s
  | .atomicAtHome core slot op lanes => Sys2Proof.Machine.execAtomicAtHome core slot op lanes s
  | .countedLoadAtHome core slot op lanes => Sys2Proof.Machine.execCountedLoadAtHome core slot op lanes s
  | .adjaAtHome core slot op lanes => Sys2Proof.Machine.execAdjaAtHome core slot op lanes s
  | .adjrAtHome core slot op lanes => Sys2Proof.Machine.execAdjrAtHome core slot op lanes s
  | .adjrWaitRelease core slot op lanes => Sys2Proof.Machine.execAdjrWaitRelease core slot op lanes s
  | .adjrWaitTimeout core slot op lanes => Sys2Proof.Machine.execAdjrWaitTimeout core slot op lanes s
  | .phaseComplete core slot op => Sys2Proof.Machine.execPhaseComplete core slot op s
  | .l1Writeback core line => Sys2Proof.Machine.execL1Writeback core line s
  | .arrivalPerformed core slot op => Sys2Proof.Machine.execArrivalPerformed core slot op s
  | .stragglerRecordReplayed core off => Sys2Proof.Machine.execStragglerRecordReplayed core off s
  | .gangBarrierReport core team off => Sys2Proof.Machine.execGangBarrierReport core team off s
  | .gangBarrierComplete gang off => Sys2Proof.Machine.execGangBarrierComplete gang off s
  | .mmaDispatch core slot op => Sys2Proof.Machine.execMmaDispatch core slot op s
  | .mmaComplete core slot op => Sys2Proof.Machine.execMmaComplete core slot op s
  | .bldComplete core slot op => Sys2Proof.Machine.execBldComplete core slot op s
  | .accWriteApplied core slot op => Sys2Proof.Machine.execAccWriteApplied core slot op s
  | .joinMerge core slot fam => Sys2Proof.Machine.execJoinMerge core slot fam s
  | .warpRetire core slot => Sys2Proof.Machine.execWarpRetire core slot s
  | .gangJoinDecrement gang => Sys2Proof.Machine.execGangJoinDecrement gang s
  | .successorAppend q => Sys2Proof.Machine.execSuccessorAppend q s
  | .joinDecrementReplayed n => Sys2Proof.Machine.execJoinDecrementReplayed n s
  | .launchAppend core slot op => Sys2Proof.Machine.execLaunchAppend core slot op s
  | .gangPlace => Sys2Proof.Machine.execGangPlace s
  | .placerPreemptRequest q => Sys2Proof.Machine.execPlacerPreemptRequest q s
  | .copyRecordBegin core chan => Sys2Proof.Machine.execCopyRecordBegin core chan s
  | .copyBytesDelivered core chan units => Sys2Proof.Machine.execCopyBytesDelivered core chan units s
  | .copyRecordFinish core chan => Sys2Proof.Machine.execCopyRecordFinish core chan s
  | .bteBell q => Sys2Proof.Machine.execBteBell q s
  | .bteCopy q lines => Sys2Proof.Machine.execBteCopy q lines s
  | .bteReduceCopy q lines => Sys2Proof.Machine.execBteReduceCopy q lines s
  | .bteFill q lines => Sys2Proof.Machine.execBteFill q lines s
  | .bteFence q => Sys2Proof.Machine.execBteFence q s
  | .bteLaunch q => Sys2Proof.Machine.execBteLaunch q s
  | .bteCompletionWrite q => Sys2Proof.Machine.execBteCompletionWrite q s
  | .qpushSlotFree core slot op lanes => Sys2Proof.Machine.execQpushSlotFree core slot op lanes s
  | .faultRecordWrite => Sys2Proof.Machine.execFaultRecordWrite s
  | .replay v => Sys2Proof.Machine.execReplay v s
  | .replayFail v => Sys2Proof.Machine.execReplayFail v s
  | .trapEntry core slot entry => Sys2Proof.Machine.execTrapEntry core slot entry s
  | .qwaitWake core slot entry => Sys2Proof.Machine.execQwaitWake core slot entry s
  | .qwaitTimeout core slot entry => Sys2Proof.Machine.execQwaitTimeout core slot entry s
  | .pageWalk stack => Sys2Proof.Machine.execPageWalk stack s
  | .pageWalkComplete stack n => Sys2Proof.Machine.execPageWalkComplete stack n s
  | .tlbiGo v => Sys2Proof.Machine.execTlbiGo v s
  | .tlbInvalidationComplete n => Sys2Proof.Machine.execTlbInvalidationComplete n s
  | .pgrelGo v => Sys2Proof.Machine.execPgrelGo v s
  | .pgrelComplete => Sys2Proof.Machine.execPgrelComplete s
  | .preemptGang v => Sys2Proof.Machine.execPreemptGang v s
  | .preemptAsid v => Sys2Proof.Machine.execPreemptAsid v s
  | .preemptCluster v => Sys2Proof.Machine.execPreemptCluster v s
  | .drainDeadlineExpire gang => Sys2Proof.Machine.execDrainDeadlineExpire gang s
  | .gangSave gang => Sys2Proof.Machine.execGangSave gang s
  | .saveLmWrite gang => Sys2Proof.Machine.execSaveLmWrite gang s
  | .gangDiscard gang => Sys2Proof.Machine.execGangDiscard gang s
  | .gangRestore level => Sys2Proof.Machine.execGangRestore level s
  | .codeGoneRetire level => Sys2Proof.Machine.execCodeGoneRetire level s
  | .thermalSample core temp => Sys2Proof.Machine.execThermalSample core temp s
  | .thermalMigrate gang => Sys2Proof.Machine.execThermalMigrate gang s
  | .sampleTake core quad => Sys2Proof.Machine.execSampleTake core quad s
  | .stop v => Sys2Proof.Machine.execStop v s
  | .teamStopped core team => Sys2Proof.Machine.execTeamStopped core team s
  | .resume v => Sys2Proof.Machine.execResume v s
  | .discard v => Sys2Proof.Machine.execDiscard v s
  | .dumpReq v => Sys2Proof.Machine.execDumpReq v s
  | .dumpWrite => Sys2Proof.Machine.execDumpWrite s
  | .dumpCtlWrite v => Sys2Proof.Machine.execDumpCtlWrite v s
  | .captureRecordWrite => Sys2Proof.Machine.execCaptureRecordWrite s
  | .registerWrite off v => Sys2Proof.Machine.execRegisterWrite off v s
  | .cqDescriptorWrite q v => Sys2Proof.Machine.execCqDescriptorWrite q v s
  | .hostWindowRead bar off len => Sys2Proof.Machine.execHostWindowRead bar off len s
  | .hostWindowWrite off data requester relaxed => Sys2Proof.Machine.execHostWindowWrite off data requester relaxed s
  | .hostNotifyWrite off data requester => Sys2Proof.Machine.execHostNotifyWrite off data requester s
  | .latTolWrite v => Sys2Proof.Machine.execLatTolWrite v s
  | .restEntry => Sys2Proof.Machine.execRestEntry s
  | .restExit => Sys2Proof.Machine.execRestExit s
  | .deviceReset => Sys2Proof.Machine.execDeviceReset s
  | .stageAdvance => Sys2Proof.Machine.execStageAdvance s
  | .recoveryAttempt v => Sys2Proof.Machine.execRecoveryAttempt v s
  | .getVersion req => Sys2Proof.Machine.execGetVersion req s
  | .getCapabilities req => Sys2Proof.Machine.execGetCapabilities req s
  | .negotiateAlgorithms req => Sys2Proof.Machine.execNegotiateAlgorithms req s
  | .getDigests req => Sys2Proof.Machine.execGetDigests req s
  | .getCertificate req => Sys2Proof.Machine.execGetCertificate req s
  | .challenge req => Sys2Proof.Machine.execChallenge req s
  | .getMeasurements req => Sys2Proof.Machine.execGetMeasurements req s
  | .spdmUnsupported req => Sys2Proof.Machine.execSpdmUnsupported req s
  | .fabricRead p => Sys2Proof.Machine.execFabricRead p s
  | .fabricWrite p => Sys2Proof.Machine.execFabricWrite p s
  | .fabricAtomic p => Sys2Proof.Machine.execFabricAtomic p s
  | .fabricAdjoint p => Sys2Proof.Machine.execFabricAdjoint p s
  | .multicastWrite port p => Sys2Proof.Machine.execMulticastWrite port p s
  | .fabricReply p => Sys2Proof.Machine.execFabricReply p s
  | .writeAcknowledge p => Sys2Proof.Machine.execWriteAcknowledge p s
  | .barrierReport p => Sys2Proof.Machine.execBarrierReport p s
  | .barrierComplete p => Sys2Proof.Machine.execBarrierComplete p s
  | .barrierAbort p => Sys2Proof.Machine.execBarrierAbort p s
  | .packetForward p => Sys2Proof.Machine.execPacketForward p s
  | .fabricTimeoutExpire n => Sys2Proof.Machine.execFabricTimeoutExpire n s
  | .remoteCountRetry n => Sys2Proof.Machine.execRemoteCountRetry n s
  | .peerReset peer state inc => Sys2Proof.Machine.execPeerReset peer state inc s
  | .fabricTableWrite off v => Sys2Proof.Machine.execFabricTableWrite off v s
  | .flitReceive port seq good => Sys2Proof.Machine.execFlitReceive port seq good s
  | .acknowledgement port seq => Sys2Proof.Machine.execAcknowledgement port seq s
  | .replayRequest port seq => Sys2Proof.Machine.execReplayRequest port seq s
  | .ackTimer port => Sys2Proof.Machine.execAckTimer port s
  | .laneFail port lane => Sys2Proof.Machine.execLaneFail port lane s
  | .portRetrain port => Sys2Proof.Machine.execPortRetrain port s
  | .portDown port => Sys2Proof.Machine.execPortDown port s
  | .portTrain port => Sys2Proof.Machine.execPortTrain port s
  | .firnTimeout port write pa => Sys2Proof.Machine.execFirnTimeout port write pa s
  | .firnError port kind pa => Sys2Proof.Machine.execFirnError port kind pa s
  | .flitSend port => Sys2Proof.Machine.execFlitSend port s
  | .cxlPortTrain port => Sys2Proof.Machine.execCxlPortTrain port s

end Sys2Proof.Machine
end

