-- ==== Sys2Proof/Machine/Step.lean ====
section
/-! DEFINITION. One step: the next action of the agenda, or the free schedule's where the agenda is empty. -/

namespace Sys2Proof.Machine

/-- A chosen split's scalar side: it takes its trap, its fetch fault, or executes (R26). -/
def stepScalar (s : State) (who : Who) : Host.Outcome State Fault Refusal :=
  let s := { s.noteIssue who false with cur := who }
  match s.ctx with
  | none => .next s
  | some x =>
    match scalarFetch s x with
    | (s, none) => .next s
    | (s, some i) => exec i s

/-- A chosen split's lane side: its head clause starts or goes on (R7, R26). What another instruction of the cycle has come
to hold does not count as issued. -/
def stepLane (s : State) (who : Who) : Host.Outcome State Fault Refusal :=
  let s := { (if laneFree s who then s.noteIssue who true else s) with cur := who }
  match s.ctx with
  | none => .next s
  | some x =>
    match laneFetch s x with
    | (s, none) => .next s
    | (s, some i) => exec i s

/-- A scalar instruction that has issued already and does not issue again: the stalled access of a team that stops or is stopped,
taken up at the replay of its record (R303), or one whose effect follows its cycle's lane instructions (R26). -/
def stepIssued (s : State) (who : Who) : Host.Outcome State Fault Refusal :=
  let s := { s with cur := who }
  match s.ctx with
  | none => .next s
  | some x =>
    match fetchDecode s x with
    | (s, .ok i) => exec i s
    | (s, .error _) => .next s

/-- One action of one agent. With CLOCK the members of fabric barriers whose cores have sent what they had to send go on (R148), and
stack-cache slices write back what they have no lines for (R75). A lane or scalar instruction is no event: it changes nothing as
one. -/
def stepAction (a : Action) (s : State) : Host.Outcome State Fault Refusal :=
  match a with
  | .scalar who => stepScalar s who
  | .lane who => stepLane s who
  | .issued who => stepIssued s who
  | .cycle => .next s.cycle
  | .tick => .next s.tick.fabReports.spill
  | .issue => .next s.issue
  | .event i => if isEvent i then exec i s else .next s
  | .sample c q => Sys2Proof.Machine.execSampleTake c q s
  | .register off v => .next (s.registerWrite off v)
  | .hostMem pa v => .next (s.hostMemWrite pa v)
  | .unload q => .next (s.unloadHead q)
  | .unheard pa => .next (s.firnUnheard pa)
  | .recover => .next s.recoveryEnd
  | .forget level index => .next (s.forget level index)
  | .upset what index => .next (s.upset what index)

/-- Events that happen at their own cycle only and that no schedule names: a sample (R139), the dispatch of an MMA (R236). -/
def isTimed : Instr → Bool
  | .sampleTake _ _ | .mmaDispatch _ _ _ => true
  | _ => false

/-- The action the free schedule names (log 3). -/
def scheduled (n : Nat) : Action :=
  match Config.schedule n with
  | (3, c, q, _) => .forget c q
  | (4, c, q, _) => .upset c q
  | (6, c, q, _) => .hostMem c (BitVec.ofNat 64 q)
  | (7, c, _, _) => .unload c
  | (8, _, _, _) => .recover
  | (5, _, _, some i) => if isTimed i then .cycle else .event i
  | _ => .cycle

/-- One step of the machine: what the last step wrote has ended the QWAITs that watch it, and one action follows. -/
def step (s : State) : Host.Outcome State Fault Refusal :=
  let s := s.wakeWatchers
  match s.agenda with
  | a :: rest => stepAction a { s with agenda := rest }
  | [] => stepAction (scheduled s.nfree) { s with nfree := s.nfree + 1 }

/-- The state with an instruction stored where the next step fetches: up to 32 bits a scalar word, more a lane word
(log 3). -/
def State.withFetchWord (s : State) (nbits w : Nat) : State := s.placeWord (32 < nbits) w

end Sys2Proof.Machine
end

