-- ==== Sys2Proof/Safety.lean ====
section
/-! DEFINITION. The terms claims are stated in: a safe run, and what a step of one warp may change. -/

namespace Sys2Proof

/-- A run of `n` steps from a state is safe when every step answers a next state. -/
def safeFor : Nat → Machine.State → Prop
  | 0, _ => True
  | n + 1, s => ∃ t, Machine.step s = .next t ∧ safeFor n t

namespace Machine

/-- From `s` to `t` at most core `c` differs: all memory, the hub, the fabric side, the start state, CLOCK, the feature
mask, the TLBs, the caches and every other core are what they were. Core `c` holds `k` but for its residents. -/
structure CoreOnly (s t : State) (c : Nat) (k : Core) : Prop where
  rest : t = { s with cores := t.cores }
  others : ∀ d, d ≠ c → t.core d = s.core d
  core : t.core c = { k with warps := (t.core c).warps, teams := (t.core c).teams }

/-- From `s` to `t` one core, and of its residents one warp and one team, differ at most: the core now holds `k`, the
warp slot `w` and the team key `m`; every other warp and team is what it was. -/
structure Local (s t : State) (x : Ctx) (k : Core) (w : Warp) (m : Team) : Prop extends CoreOnly s t x.who.core k where
  warps : ∀ n, n ≠ x.who.slot → t.warp x.who.core n = s.warp x.who.core n
  warp : t.warp x.who.core x.who.slot = some w
  teams : ∀ n, n ≠ x.warp.team → t.team x.who.core n = s.team x.who.core n
  team : t.team x.who.core x.warp.team = some m

/-- The team has counted one more instruction (R138). -/
def Team.counted (m : Team) : Team := { m with instr := m.instr + 1 }

/-- The split goes on at an address, held by nothing (R59, R172). -/
def Split.goOn (sp : Split) (pc : VAddr) : Split := { sp with spc := pc, wait := .run }

/-- What a scalar instruction that retires leaves: the warp as `w` says with its split at `pc`, one more instruction
counted, and nothing else changed (R138, R172). -/
def Retires (s t : State) (x : Ctx) (w : Warp) (pc : VAddr) : Prop :=
  Local s t x (s.core x.who.core) (w.modSplit x.who.entry fun sp => sp.goOn pc) x.team.counted

/-- The executing split's next instruction `i` executes (R26, R28, R69, R170, R172): the split is in use, the lane
registers named are within the budget, no lane write to a register named is pending, no wait of R28 holds it, and the
residues read are right; of an instruction whose residue is predicted they are right whether or not they are checked, and no
soft error strikes the unit. -/
structure ScalarReady (s : State) (x : Ctx) (i : Instr) : Prop where
  ctx : s.ctx = some x
  budget : (scalarNames i).vs.any (x.warp.budget ≤ ·) = false
  free : scalarHold x i = .run
  check : scalarCheck s x i = none
  unit : predicts i = true → x.warp.flip = none ∧ badG x.warp (scalarNames i).rd = none

/-- The executing split's next lane instruction `i` dispatches with at least one active lane (R23, R58, R69, R145, R170,
R171): its feature is present, its registers are within the budget and not being written, no earlier operation holds
it, its flags are not full, and the residues read are right; of an instruction whose residue is predicted they are right
whether or not they are checked, and no soft error strikes the unit. -/
structure LaneReady (s : State) (y : LCtx) (i : Instr) : Prop where
  ctx : s.lctx (instrPred i) = some y
  feature : s.hasFeature (gateOf i) = true
  budget : (budgetRegs i).any (y.x.warp.budget ≤ ·) = false
  idle : (vSrcs i ++ vDests i).any y.x.warp.vBusy = false
  gidle : (gDest i).any y.x.warp.gBusy = false
  clause : y.x.warp.clauseHeld y.x.who.entry = false
  order : y.x.warp.ops.any (fun o => holdsLater o.instr) = false
  flags : (isLong i && flagsFull y.x.warp (hdrFlags y.clause.header)) = false
  check : laneCheck s y i = none
  unit : predicts i = true → y.x.warp.flip = none ∧ badWord y.x.warp (predRead y i ++ wordsRead y i) = none ∧
    (capturedRegs i).all (fun g => cellGood (capturedCell y.clause.gs (BitVec.ofNat 6 g))) = true
  active : y.act ≠ 0

/-- What a lane instruction that dispatches leaves: the core as `k`, the warp as `w` says with its split's clause moved
on, one more instruction counted, and nothing else changed (R7, R23, R138). -/
def Dispatches (s t : State) (y : LCtx) (k : Core) (w : Warp) : Prop :=
  Local s t y.x k ((w.modSplit y.x.who.entry Split.stepClause).sweep y.x.who.entry) y.x.team.counted

end Machine

namespace Spec

open Machine

/-- Operand b of an arithmetic lane instruction in lane `l`, by OSEL (R195): a lane register, the captured g register, or
the immediate. -/
def operandB (y : LCtx) (a : AluArgs) (l : Nat) : Word :=
  match a.b with
  | .lane v => y.x.warp.vv v.toNat l
  | .group g => if g = 0 then 0 else (amGet cellZero y.clause.gs g.toNat).val
  | .imm => a.imm

/-- What a lane instruction of one destination register leaves (R53, R68, R195): in each active lane vd holds the result
with its residue; every other lane of vd, every other lane register, every other part of the warp, and the rest of the
machine are what they were. The clause moves on. -/
def WritesLanes (s : State) (y : LCtx) (i : Instr) (vd : VReg) (f : Nat → Word) : Prop :=
  ∃ t w, exec i s = .next t ∧ Dispatches s t y (s.core y.x.who.core) w ∧ w = { y.x.warp with v := w.v } ∧
    ∀ r l, l < 32 → w.v_ r l =
      if r = vd.toNat ∧ y.act.getLsbD l = true then cellOf (f l) else y.x.warp.v_ r l

end Spec

end Sys2Proof
end

