-- ==== Sys2Proof/Certificates/Slice0/Obligations.lean ====
section
/-! DEFINITION. The statements for the provers. A statement named in OBLIGATIONS.json is a definition under Obligations; its
parts and the terms it uses stand beside it under Spec. -/

section

open Sys2Proof Sys2Proof.Machine

/-- From `s` to `t` only what translation keeps for itself differs: TLB entries, cached address-space entries and ADT
entries, and the model's count of free values. -/
structure Sys2Proof.Spec.TranslationOnly (s t : State) : Prop where
  rest : t = { s with
    cores := t.cores, ctlb := t.ctlb, stlb := t.stlb, asCache := t.asCache, adtCache := t.adtCache, nfree := t.nfree }
  cores : ∀ c, t.core c = { s.core c with utlb := (t.core c).utlb }

/-- From `s` to `t` the cores differ only in what splits at a QWAIT have noted of a write (R192). -/
structure Sys2Proof.Spec.WaitsOnly (s t : State) : Prop where
  core : ∀ c, t.core c = { s.core c with warps := (t.core c).warps }
  warp : ∀ c n w, s.warp c n = some w → ∃ l, t.warp c n = some { w with splits := l }
  split : ∀ w sp, s.split w = some sp → ∃ r, t.split w = some { sp with wait := r } ∧
    ((∀ pa va want d, sp.wait ≠ .qwait pa va want d) → r = sp.wait)

/-! ### Scalar instructions -/

/-- The results of the register forms (R173), from the values of ga, gb and gc. -/
def Sys2Proof.Spec.registerForms (w : Warp) (d a b c : GReg) : List (Instr × Word) :=
  let A := w.gv a
  let B := w.gv b
  let flag (p : Bool) : Word := if p then 1 else 0
  [(.add d a b, A + B), (.sub d a b, A - B), (.mul d a b, BitVec.ofNat 32 (A.toNat * B.toNat)),
   (.mulhS32 d a b, BitVec.ofInt 32 (A.toInt * B.toInt / 2 ^ 32)),
   (.mulhN32 d a b, BitVec.ofNat 32 (A.toNat * B.toNat / 2 ^ 32)),
   (.and d a b, A &&& B), (.or d a b, A ||| B), (.xor d a b, A ^^^ B),
   (.shl d a b, A <<< (B.toNat % 32)), (.shr d a b, A >>> (B.toNat % 32)), (.sar d a b, A.sshiftRight (B.toNat % 32)),
   (.minS32 d a b, if B.toInt < A.toInt then B else A), (.minN32 d a b, if B.toNat < A.toNat then B else A),
   (.maxS32 d a b, if A.toInt < B.toInt then B else A), (.maxN32 d a b, if A.toNat < B.toNat then B else A),
   (.popc d a, BitVec.ofNat 32 ((List.range 32).countP A.getLsbD)), (.clz d a, leadingZeros A),
   (.cmpEq d a b, flag (A = B)), (.cmpNe d a b, flag (A ≠ B)),
   (.cmpLtS32 d a b, flag (A.toInt < B.toInt)), (.cmpLeS32 d a b, flag (A.toInt ≤ B.toInt)),
   (.cmpLtN32 d a b, flag (A.toNat < B.toNat)), (.cmpLeN32 d a b, flag (A.toNat ≤ B.toNat)),
   (.sel d a b c, if w.gv c ≠ 0 then A else B)]

/-- R173: every register form of major opcode 0x01 writes its result to gd and changes nothing else but the PC and the
count of instructions; and the count CLZ gives is the number of zero bits above the highest set bit. -/
def Sys2Proof.Spec.ScalarRegisterFormResults : Prop :=
  (∀ (s : State) (x : Ctx) (d a b c : GReg) (i : Instr) (v : Word),
    (i, v) ∈ Spec.registerForms x.warp d a b c → ScalarReady s x i →
    ∃ t, exec i s = .next t ∧ Retires s t x (x.warp.setG d v) (x.split.spc + 4)) ∧
  (leadingZeros 0 = 32) ∧
  ∀ A : Word, A ≠ 0 → (leadingZeros A).toNat < 32 ∧ A.getLsbD (31 - (leadingZeros A).toNat) = true ∧
    ∀ k, k < (leadingZeros A).toNat → A.getLsbD (31 - k) = false

/-- The results of the immediate forms (R174). -/
def Sys2Proof.Spec.immediateForms (w : Warp) (d a : GReg) (i : BitVec 14) (n : BitVec 5) (u : BitVec 20) : List (Instr × Word) :=
  let A := w.gv a
  [(.addi d a i, BitVec.ofInt 32 (A.toNat + i.toInt)), (.andi d a i, A &&& BitVec.ofNat 32 i.toNat),
   (.ori d a i, A ||| BitVec.ofNat 32 i.toNat), (.xori d a i, A ^^^ BitVec.ofNat 32 i.toNat),
   (.shli d a n, A <<< n.toNat), (.shri d a n, A >>> n.toNat), (.lui d u, BitVec.ofNat 32 (u.toNat * 2 ^ 12))]

/-- R174: every immediate form writes its result to gd and changes nothing else but the PC and the count. -/
def Sys2Proof.Spec.ScalarImmediateFormResults : Prop :=
  ∀ (s : State) (x : Ctx) (d a : GReg) (j : BitVec 14) (n : BitVec 5) (u : BitVec 20) (i : Instr) (v : Word),
    (i, v) ∈ Spec.immediateForms x.warp d a j n u → ScalarReady s x i →
    ∃ t, exec i s = .next t ∧ Retires s t x (x.warp.setG d v) (x.split.spc + 4)

/-- R55, R68: a write of gd is read back, unless gd is g0, which keeps reading zero; every other g register and every
other part of the warp is what it was, and the residue stored is that of the word. -/
def Sys2Proof.Spec.GroupRegisterWritesAndZero : Prop :=
  ∀ (w : Warp) (d : GReg) (v : Word),
    (∀ r, (w.setG d v).gv r = if r = 0 then 0 else if r = d then v else w.gv r) ∧
    (d ≠ 0 → cellGood ((w.setG d v).g_ d) = true) ∧ w.setG 0 v = w ∧ w.setG d v = { w with g := (w.setG d v).g }

/-- Scalar arithmetic: results of the register and immediate forms, and what a write of g0 does (R55, R68, R173, R174). -/
def Obligations.ScalarArithmeticResults : Prop :=
  Spec.ScalarRegisterFormResults ∧
  Spec.ScalarImmediateFormResults ∧
  Spec.GroupRegisterWritesAndZero

/-- The results of the scalar reads of other state (R176, R178, R179, R278): VOTE's four modes, RDT, RDX, FEAT. -/
def Sys2Proof.Spec.readForms (s : State) (x : Ctx) (d : GReg) (v : VReg) (r : BitVec 5) (b : BitVec 9) : List (Instr × Word) :=
  let set (l : Nat) : Bool := x.split.exec.getLsbD l && (x.warp.vv v.toNat l).getLsbD 0
  let clear (l : Nat) : Bool := x.split.exec.getLsbD l && !(x.warp.vv v.toNat l).getLsbD 0
  [(.vote d v .any, if (List.range 32).any set then 1 else 0),
   (.vote d v .all, if (List.range 32).any clear then 0 else 1),
   (.vote d v .count, BitVec.ofNat 32 ((List.range 32).countP set)),
   (.rdt d r, (amGet cellZero x.team.ts r.toNat).val), (.rdx d, x.split.exec),
   (.feat d b, if s.feat.getLsbD b.toNat then 1 else 0)]

/-- R176, R178, R179, R278: what VOTE, RDT, RDX and FEAT write to gd; nothing else changes but the PC and the count. -/
def Sys2Proof.Spec.ScalarReadResults : Prop :=
  (∀ (s : State) (x : Ctx) (d : GReg) (v : VReg) (r : BitVec 5) (b : BitVec 9) (i : Instr) (u : Word),
    (i, u) ∈ Spec.readForms s x d v r b → ScalarReady s x i →
    ∃ t, exec i s = .next t ∧ Retires s t x (x.warp.setG d u) (x.split.spc + 4)) ∧
  ∀ (s : State) (x : Ctx) (d : GReg) (v : VReg), ScalarReady s x (.vote d v .ballot) →
    ∃ t u, exec (.vote d v .ballot) s = .next t ∧ Retires s t x (x.warp.setG d u) (x.split.spc + 4) ∧
      ∀ l, l < 32 → u.getLsbD l = (x.split.exec.getLsbD l && (x.warp.vv v.toNat l).getLsbD 0)

/-- R60, R177 to R179, R189, R278: WRT writes a team register, read back with its residue; WRX makes EXEC any nonzero subset of the
lanes the split may enable, which in an open call sequence are fewer than its lanes (the model's reading, log 14); MOVG copies one
lane's word and residue; CLOCK writes both halves of CLOCK; NOP and WAITF change nothing. Nothing else changes but the PC and the
count. -/
def Sys2Proof.Spec.ScalarWriteResults : Prop :=
  ∀ (s : State) (x : Ctx) (d a b : GReg) (v : VReg) (r : BitVec 5) (n : BitVec 8) (m : BitVec 12),
    let pc := x.split.spc + 4
    let here (w : Warp) (t : State) : Prop := Retires s t x w pc
    (ScalarReady s x (.wrt r a) → ∃ t, exec (.wrt r a) s = .next t ∧
      Local s t x (s.core x.who.core) (x.warp.modSplit x.who.entry fun sp => sp.goOn pc)
        (x.team.setTs r.toNat (x.warp.gv a)).counted) ∧
    (∀ k, ((x.team.setTs r.toNat (x.warp.gv a)).ts_ k) = if k = r.toNat then cellOf (x.warp.gv a) else x.team.ts_ k) ∧
    (ScalarReady s x (.wrx a) → x.warp.gv a ≠ 0 → x.warp.gv a &&& ~~~ x.split.execLanes = 0 →
      ∃ t, exec (.wrx a) s = .next t ∧
        here (x.warp.modSplit x.who.entry fun sp => { sp with exec := x.warp.gv a }) t) ∧
    (ScalarReady s x (.movg d v r) → ∃ t, exec (.movg d v r) s = .next t ∧
      here (x.warp.setGCell d (x.warp.v_ v.toNat r.toNat)) t) ∧
    (ScalarReady s x (.clock d) → ∃ t, exec (.clock d) s = .next t ∧
      here ((x.warp.setG d (BitVec.ofNat 32 (s.clock.toNat % 2 ^ 32))).setG (d + 1)
        (BitVec.ofNat 32 (s.clock.toNat / 2 ^ 32))) t) ∧
    (ScalarReady s x .nop → ∃ t, exec .nop s = .next t ∧ here x.warp t) ∧
    (ScalarReady s x (.waitf m) → ∃ t, exec (.waitf m) s = .next t ∧ here x.warp t)

/-- Scalar reads and moves: team registers, EXEC, votes, lane words, features, CLOCK, NOP and WAITF (R60, R176, R177, R178, R179, R189, R278). -/
def Obligations.ScalarMoveResults : Prop :=
  Spec.ScalarReadResults ∧
  Spec.ScalarWriteResults

/-- The system registers of R64 as RDSR reads them. -/
def Sys2Proof.Spec.systemRegisters (s : State) (x : Ctx) : List (Nat × Word) :=
  let lo (v : Nat) : Word := BitVec.ofNat 32 v
  let hi (v : Nat) : Word := BitVec.ofNat 32 (v / 2 ^ 32)
  [(0x00, lo x.who.core), (0x01, lo x.team.teamId), (0x02, lo x.team.gangId), (0x03, x.team.taskId),
   (0x04, lo x.who.slot), (0x05, lo s.clock.toNat), (0x06, hi s.clock.toNat), (0x07, lo s.boot.stage.toNat),
   (0x08, lo x.team.asid.toNat), (0x10, x.warp.trapCause), (0x11, lo x.warp.trapPc.toNat),
   (0x12, hi x.warp.trapPc.toNat), (0x13, lo x.warp.trapAddr.toNat), (0x14, hi x.warp.trapAddr.toNat),
   (0x15, lo x.team.trapBase.toNat), (0x16, hi x.team.trapBase.toNat), (0x18, if s.hasFeature 28 = true then x.core.sampleCtl else x.core.sampleCtl &&& ~~~1)] ++
  (List.range 16).map fun k => (0x20 + k, lo (s.feat.toNat / 2 ^ (32 * k)))

/-- R64, R65, R275, R346: RDSR writes the system register it names to gd (EN of SAMPLE_CTL reads 0 without sampling), and a number that R64 does not list raises
RESERVED_FIELD with the registers untouched. -/
def Sys2Proof.Spec.SystemRegisterReads : Prop :=
  ∀ (s : State) (x : Ctx) (d : GReg) (n : BitVec 8), ScalarReady s x (.rdsr d n) →
    (∀ v, (n.toNat, v) ∈ Spec.systemRegisters s x →
      ∃ t, exec (.rdsr d n) s = .next t ∧ Retires s t x (x.warp.setG d v) (x.split.spc + 4)) ∧
    ((∀ v, (n.toNat, v) ∉ Spec.systemRegisters s x) →
      exec (.rdsr d n) s = .next (s.scalarFault x .reservedField 0))

/-- R64, R66, R275: WRSR of a value its register accepts writes the trap registers of the warp and TRAP_BASE of the
team; the halves of a 54-bit register are replaced one at a time. -/
def Sys2Proof.Spec.SystemRegisterWrites : Prop :=
  ∀ (s : State) (x : Ctx) (a : GReg),
    let v := x.warp.gv a
    let done (n : BitVec 8) (w : Warp) (m : Team) : Prop :=
      ScalarReady s x (.wrsr a n) → ∃ t, exec (.wrsr a n) s = .next t ∧
        Local s t x (s.core x.who.core) (w.modSplit x.who.entry fun sp => sp.goOn (x.split.spc + 4)) m.counted
    let low (r : VAddr) : VAddr := BitVec.ofNat 54 (r.toNat / 2 ^ 32 * 2 ^ 32 + v.toNat)
    let high (r : VAddr) : VAddr := BitVec.ofNat 54 (r.toNat % 2 ^ 32 + v.toNat * 2 ^ 32)
    (v.toNat < 2 ^ 14 → done 0x10 { x.warp with trapCause := v } x.team) ∧
    (v.toNat % 4 = 0 → done 0x11 { x.warp with trapPc := low x.warp.trapPc } x.team) ∧
    (v.toNat < 2 ^ 22 → done 0x12 { x.warp with trapPc := high x.warp.trapPc } x.team) ∧
    done 0x13 { x.warp with trapAddr := low x.warp.trapAddr } x.team ∧
    (v.toNat < 2 ^ 22 → done 0x14 { x.warp with trapAddr := high x.warp.trapAddr } x.team) ∧
    (v.toNat % 4 = 0 → done 0x15 x.warp { x.team with trapBase := low x.team.trapBase }) ∧
    (v.toNat < 2 ^ 22 → done 0x16 x.warp { x.team with trapBase := high x.team.trapBase }) ∧
    (x.team.priv = true → v.toNat < 2 ^ 9 → v.toNat / 2 ^ 5 % 8 = 0 → v.toNat / 2 % 16 ≤ 10 →
      ScalarReady s x (.wrsr a 0x18) → ∃ t, exec (.wrsr a 0x18) s = .next t ∧
        Local s t x ((s.core x.who.core).setSample v) (x.warp.modSplit x.who.entry fun sp => sp.goOn (x.split.spc + 4))
          x.team.counted)

/-- R64, R65, R275: WRSR of a number that no warp, or not this one, may write raises PRIVILEGE; a value its register
does not accept, or a number R64 does not list, raises RESERVED_FIELD. -/
def Sys2Proof.Spec.SystemRegisterWriteFaults : Prop :=
  ∀ (s : State) (x : Ctx) (a : GReg) (n : BitVec 8), ScalarReady s x (.wrsr a n) →
    let v := x.warp.gv a
    let listed := n.toNat ≤ 0x08 ∨ (0x10 ≤ n.toNat ∧ n.toNat ≤ 0x16) ∨ n.toNat = 0x18 ∨
      (0x20 ≤ n.toNat ∧ n.toNat < 0x30)
    (¬ listed → exec (.wrsr a n) s = .next (s.scalarFault x .reservedField 0)) ∧
    (n.toNat ≤ 0x08 ∨ (0x20 ≤ n.toNat ∧ n.toNat < 0x30) → exec (.wrsr a n) s = .next (s.scalarFault x .privilege 0)) ∧
    (n = 0x18 → x.team.priv = false → exec (.wrsr a n) s = .next (s.scalarFault x .privilege 0)) ∧
    (n = 0x10 → 2 ^ 14 ≤ v.toNat → exec (.wrsr a n) s = .next (s.scalarFault x .reservedField 0)) ∧
    (n = 0x11 ∨ n = 0x15 → v.toNat % 4 ≠ 0 → exec (.wrsr a n) s = .next (s.scalarFault x .reservedField 0)) ∧
    (n = 0x12 ∨ n = 0x14 ∨ n = 0x16 → 2 ^ 22 ≤ v.toNat →
      exec (.wrsr a n) s = .next (s.scalarFault x .reservedField 0))

/-- System registers: what RDSR reads, what WRSR writes, and where they trap (R64, R65, R66, R275, R346). -/
def Obligations.SystemRegisterAccesses : Prop :=
  Spec.SystemRegisterReads ∧
  Spec.SystemRegisterWrites ∧
  Spec.SystemRegisterWriteFaults

/-- R167, R180, R182, R186: where the branches, jumps and calls go, and what they write. -/
def Sys2Proof.Spec.BranchAndCallTargets : Prop :=
  ∀ (s : State) (x : Ctx),
    let pc := x.split.spc
    let go (p : VAddr) (w : Warp) (t : State) : Prop := Retires s t x w p
    let words {k : Nat} (o : BitVec k) : VAddr := BitVec.ofInt 54 (pc.toNat + 4 * o.toInt)
    let called (p : VAddr) (t : State) : Prop :=
      go p (x.warp.modSplit x.who.entry fun sp => { sp with lk := pc + 4 }) t
    let some1 (v : VReg) : Prop := ∃ l, l < 32 ∧ x.split.exec.getLsbD l = true ∧ (x.warp.vv v.toNat l).getLsbD 0 = true
    let some0 (v : VReg) : Prop := ∃ l, l < 32 ∧ x.split.exec.getLsbD l = true ∧ (x.warp.vv v.toNat l).getLsbD 0 = false
    (∀ (c : BrCond) (g : GReg) (o : BitVec 14), ScalarReady s x (.br c g o) →
      let n := (x.warp.gv g).toInt
      let taken : Prop := match c with
        | .always => True | .z => n = 0 | .nz => n ≠ 0 | .ltz => n < 0 | .gez => 0 ≤ n | .gtz => 0 < n | .lez => n ≤ 0
      ∃ t, exec (.br c g o) s = .next t ∧ (taken → go (words o) x.warp t) ∧ (¬ taken → go (pc + 4) x.warp t)) ∧
    (∀ (c : BrlCond) (v : VReg) (o : BitVec 14), ScalarReady s x (.brl c v o) →
      let taken : Prop := match c with | .any => some1 v | .all => ¬ some0 v | .none => ¬ some1 v | .notall => some0 v
      ∃ t, exec (.brl c v o) s = .next t ∧ (taken → go (words o) x.warp t) ∧ (¬ taken → go (pc + 4) x.warp t)) ∧
    (∀ i : BitVec 20, ScalarReady s x (.jmp i) → ∃ t, exec (.jmp i) s = .next t ∧ go (words i) x.warp t) ∧
    (∀ a : GReg, ScalarReady s x (.jmpr a) → (x.warp.gPair a).toNat % 4 = 0 →
      ∃ t, exec (.jmpr a) s = .next t ∧ go (x.warp.gPair a) x.warp t) ∧
    (∀ i : BitVec 20, ScalarReady s x (.call i) → x.split.seq = none →
      ∃ t, exec (.call i) s = .next t ∧ called (words i) t) ∧
    (∀ a : GReg, ScalarReady s x (.callr a) → x.split.seq = none → (x.warp.gPair a).toNat % 4 = 0 →
      ∃ t, exec (.callr a) s = .next t ∧
        (x.warp.gPair a = 0 → go (pc + 4) x.warp t) ∧ (x.warp.gPair a ≠ 0 → called (x.warp.gPair a) t)) ∧
    (ScalarReady s x .ret → x.split.seq = none → x.split.lk ≠ 0 →
      ∃ t, exec .ret s = .next t ∧ go x.split.lk x.warp t)

/-- R60, R179, R182, R184 to R187: where control instructions trap: the operand or the split's state is refused with SPC on the
instruction. That TRAP_ADDR is 0 for a misaligned target is the model's choice (log 24), and so is which lanes WRX refuses in an open
call sequence (log 14). -/
def Sys2Proof.Spec.ControlFaults : Prop :=
  ∀ (s : State) (x : Ctx),
    let refuses (i : Instr) (c : Cause) : Prop := exec i s = .next (s.scalarFault x c 0)
    (∀ a : GReg, ScalarReady s x (.jmpr a) → (x.warp.gPair a).toNat % 4 ≠ 0 → refuses (.jmpr a) .misaligned) ∧
    (∀ a : GReg, ScalarReady s x (.callr a) → x.split.seq = none → (x.warp.gPair a).toNat % 4 ≠ 0 →
      refuses (.callr a) .misaligned) ∧
    (∀ o : BitVec 14, ScalarReady s x (.joinat o) → x.split.jsave ≠ 0 → refuses (.joinat o) .reservedField) ∧
    (ScalarReady s x .join → x.split.seq = none → x.split.jpc = 0 ∨ x.split.jpc ≠ x.split.spc →
      refuses .join .reservedField) ∧
    (ScalarReady s x .ret → x.split.seq = none → x.split.lk = 0 → refuses .ret .reservedField) ∧
    (∀ (i : BitVec 20) (a : GReg) (v : VReg), x.split.seq ≠ none →
      (ScalarReady s x (.call i) → refuses (.call i) .reservedField) ∧
      (ScalarReady s x (.callr a) → refuses (.callr a) .reservedField) ∧
      (ScalarReady s x (.callv v) → refuses (.callv v) .reservedField) ∧
      (ScalarReady s x (.jmpv v) → refuses (.jmpv v) .reservedField)) ∧
    (∀ a : GReg, ScalarReady s x (.wrx a) → x.warp.gv a = 0 ∨ x.warp.gv a &&& ~~~ x.split.execLanes ≠ 0 →
      refuses (.wrx a) .reservedField)

/-- Branches, jumps, calls and returns: targets, and where they trap (R60, R167, R179, R180, R182, R184, R185, R186, R187). -/
def Obligations.BranchesAndCalls : Prop :=
  Spec.BranchAndCallTargets ∧
  Spec.ControlFaults

/-- R183: SPLIT. With every lane of EXEC voting 1 the whole split goes to the target, with none it goes on; otherwise
the lanes that vote 1 become a new split in the lowest free entry at the target, and the rest of the lanes stay, with
EXEC the lanes that vote 0. Every other entry and every other part of the warp is what it was. R102: the new entry's ORIGIN is
the old entry, whose LIVE rises by 1 (as the model reads it, with what it keeps of the families around: log 13). -/
def Sys2Proof.Spec.SplitDividesLanes : Prop :=
  ∀ (s : State) (x : Ctx) (v : VReg) (o : BitVec 14) (T : Lanes) (n : Nat), ScalarReady s x (.split v o) →
    (∀ l, l < 32 → T.getLsbD l = (x.split.exec.getLsbD l && (x.warp.vv v.toNat l).getLsbD 0)) →
    let E := x.split.exec &&& ~~~ T
    let target := BitVec.ofInt 54 (x.split.spc.toNat + 4 * o.toInt)
    (E = 0 → ∃ t, exec (.split v o) s = .next t ∧ Retires s t x x.warp target) ∧
    (E ≠ 0 → T = 0 → ∃ t, exec (.split v o) s = .next t ∧ Retires s t x x.warp (x.split.spc + 4)) ∧
    (E ≠ 0 → T ≠ 0 → n < 32 → amFind x.warp.splits n = none → (∀ m, m < n → amFind x.warp.splits m ≠ none) →
      ∃ t w, exec (.split v o) s = .next t ∧ Local s t x (s.core x.who.core) w x.team.counted ∧
        w = { x.warp with splits := w.splits } ∧
        amFind w.splits n = some
          { newSplit0 with
            lanes := T, exec := T, spc := target, lk := x.split.lk, jpc := x.split.jpc, jsave := x.split.jsave,
            fam := x.split.fam, famSave := x.split.famSave, seq := x.split.seq, origin := BitVec.ofNat 5 x.who.entry,
            orgFam := x.split.fam, outSave := x.split.outSave,
            out := if x.split.orgFam = x.split.fam then x.split.out else (x.split.origin, x.split.orgFam) } ∧
        amFind w.splits x.who.entry = some
          { x.split.goOn (x.split.spc + 4) with
            lanes := x.split.lanes &&& ~~~ T, exec := E, liveCount := x.split.liveCount + 1 } ∧
        ∀ m, m ≠ n → m ≠ x.who.entry → amFind w.splits m = amFind x.warp.splits m)

/-- From warp `w` to `w'` only the split table differs, and of it only the entries listed and the LIVE field of others. -/
def Sys2Proof.Spec.SplitsOnly (w w' : Warp) (es : List Nat) : Prop :=
  w' = { w with splits := w'.splits } ∧
  ∀ m, m ∉ es → (amFind w'.splits m).map (fun sp => { sp with liveCount := 0 }) =
    (amFind w.splits m).map (fun sp => { sp with liveCount := 0 })

/-- R184, R185: JOINAT saves the join point and opens a family of the executing split alone; a JOIN at the split's join
point marks it arrived and takes it out of issue with its lanes, EXEC and SPC kept. What JOINAT notes of the families is the model's
(log 13). -/
def Sys2Proof.Spec.JoinPointsAndArrival : Prop :=
  ∀ (s : State) (x : Ctx),
    (∀ o : BitVec 14, ScalarReady s x (.joinat o) → x.split.jsave = 0 →
      ∃ t w, exec (.joinat o) s = .next t ∧ Local s t x (s.core x.who.core) w x.team.counted ∧
        w = { x.warp with splits := w.splits, nextId := x.warp.nextId + 1 } ∧
        amFind w.splits x.who.entry = some
          { x.split.goOn (x.split.spc + 4) with
            jsave := x.split.jpc, famSave := x.split.fam, fam := x.warp.nextId,
            jpc := BitVec.ofInt 54 (x.split.spc.toNat + 4 * o.toInt),
            outSave := if x.split.orgFam = x.split.fam then x.split.out else (x.split.origin, x.split.orgFam) } ∧
        ∀ m, m ≠ x.who.entry → amFind w.splits m = amFind x.warp.splits m) ∧
    (ScalarReady s x .join → x.split.seq = none → x.split.jpc = x.split.spc → x.split.jpc ≠ 0 →
      ∃ t w sp, exec .join s = .next t ∧ Local s t x (s.core x.who.core) w x.team.counted ∧
        Spec.SplitsOnly x.warp w [x.who.entry] ∧ amFind w.splits x.who.entry = some sp ∧
        sp = { x.split with jw := true, wait := .join, liveCount := sp.liveCount })

/-- R25, R185: when every member of a family has arrived at its JOIN, or has left, with its clause queue empty, the
lowest waiting entry keeps the merge: its lanes are those of all members, EXEC is all its lanes, SPC is past the JOIN,
and the outer join point is its own again. LK stays that of the kept entry. That the operations in flight of the others belong to the
kept entry from then on is the model's reading (log 107), and so is what ORIGIN becomes (R102; log 13). -/
def Sys2Proof.Spec.FamilyMergesAtJoin : Prop :=
  ∀ (s : State) (core slot fam e : Nat) (w : Warp) (sp : Split) (rest : List (Nat × Split)),
    s.warp core slot = some w → fam ≠ 0 → (w.family fam).all (·.2.arrived fam) = true →
    ((w.family fam).filter fun p => p.2.live && p.2.jw) = (e, sp) :: rest → sp.seq = none → w.groupSplits fam = [] →
    ∃ t w' sp', exec (.joinMerge core slot fam) s = .next t ∧ t = s.modWarp core slot (fun _ => w') ∧
      amFind w'.splits e = some sp' ∧
      (∀ l, l < 32 → sp'.lanes.getLsbD l = (w.family fam).any fun p => p.2.lanes.getLsbD l) ∧
      sp' = { sp with
              lanes := sp'.lanes, exec := sp'.lanes, spc := sp.jpc + 4, jpc := sp.jsave, jsave := 0,
              fam := sp.famSave, famSave := 0, jw := false, wait := .run,
              origin := (if sp.orgFam = sp.fam then sp.out.1 else sp.origin),
              orgFam := (if sp.orgFam = sp.fam then sp.out.2 else sp.orgFam), out := sp.outSave, outSave := (0, 0) } ∧
      w'.v = w.v ∧ w'.g = w.g ∧ w'.f = w.f ∧
      w'.ops = w.ops.map fun o => if (w.family fam).any (·.1 == o.entry) then { o with entry := e } else o

/-- R24, R193, R272: EXIT outside a call sequence: the split's lanes leave the warp; its entry is free at once where its
clause queue is empty and no trap waits, and otherwise drains the queue; a trap latch it held is released. That operations in
flight of an entry that is free are no later split's is the model's reading (log 107). -/
def Sys2Proof.Spec.ExitLeavesTheWarp : Prop :=
  ∀ (s : State) (x : Ctx), ScalarReady s x .exit → x.split.seq = none →
    ∃ t w, exec .exit s = .next t ∧ Local s t x (s.core x.who.core) w x.team.counted ∧
      Spec.SplitsOnly x.warp { w with latch := x.warp.latch, ops := x.warp.ops } [x.who.entry] ∧
      w.latch = (if x.warp.latch = some x.who.entry then none else x.warp.latch) ∧
      (x.split.cq = [] → x.split.pend = [] → amFind w.splits x.who.entry = none ∧
        w.ops = x.warp.ops.map fun o => if o.entry = x.who.entry then { o with entry := noEntry } else o) ∧
      (x.split.cq ≠ [] ∨ x.split.pend ≠ [] → w.ops = x.warp.ops ∧ ∃ sp, amFind w.splits x.who.entry = some sp ∧ sp.live = false ∧
        sp.lanes = 0 ∧ sp.exec = 0 ∧ sp.cq = x.split.cq ∧ sp.pend = x.split.pend)

/-- SPLIT divides a split, join points open, members arrive and merge, and lanes leave by EXIT (R24, R25, R102, R183, R184, R185, R193, R272). -/
def Obligations.FamiliesOfSplits : Prop :=
  Spec.SplitDividesLanes ∧
  Spec.JoinPointsAndArrival ∧
  Spec.FamilyMergesAtJoin ∧
  Spec.ExitLeavesTheWarp

/-- R187: CALLV and JMPV read a target per lane of EXEC. Where no target is misaligned, the group of the lowest lane to
run starts at its target: EXEC is every lane to run with that target, the others wait in the sequence, the old EXEC is
kept, the lanes of EXEC that are guarded off are noted, and CALLV sets LK. A CALLV whose lanes are all guarded off with 0 only goes on. -/
def Sys2Proof.Spec.CallSequencesOpen : Prop :=
  ∀ (s : State) (x : Ctx) (v : VReg) (i : Instr) (k : CallKind) (back : VAddr) (run : Nat → Bool),
    let T (l : Nat) : VAddr := pairVal (x.warp.vv v.toNat l) (x.warp.vv (v.toNat + 1) l)
    (i = .callv v ∧ k = .callV ∧ back = x.split.spc + 4 ∧ run = fun l => x.split.exec.getLsbD l && T l != 0) ∨
      (i = .jmpv v ∧ k = .jmpV ∧ back = x.split.jpc ∧ run = fun l => x.split.exec.getLsbD l) →
    ScalarReady s x i → x.split.seq = none → (∀ l, l < 32 → run l = true → (T l).toNat % 4 = 0) →
    ((∀ l, l < 32 → run l = false) → ∃ t, exec i s = .next t ∧ Retires s t x x.warp (x.split.spc + 4)) ∧
    ∀ l, l < 32 → run l = true → (∀ m, m < l → run m = false) →
      ∃ t w q, exec i s = .next t ∧ Local s t x (s.core x.who.core) w x.team.counted ∧
        w = { x.warp with splits := w.splits, nextId := x.warp.nextId + 1 } ∧
        amFind w.splits x.who.entry = some
          { x.split.goOn (T l) with
            exec := q.group, seq := some q, lk := if k = .callV then x.split.spc + 4 else x.split.lk } ∧
        (∀ m, m ≠ x.who.entry → amFind w.splits m = amFind x.warp.splits m) ∧
        (∀ m, m < 32 → q.group.getLsbD m = (run m && T m == T l)) ∧
        (∀ p, p ∈ q.left ↔ p.1 < 32 ∧ run p.1 = true ∧ p.2 = T p.1 ∧ p.2 ≠ T l) ∧
        (∀ m, m < 32 → q.off.getLsbD m = (x.split.exec.getLsbD m && !run m)) ∧
        q.kind = k ∧ q.save = x.split.exec ∧ q.back = back ∧ q.jpc = x.split.jpc ∧ q.id = x.warp.nextId

/-- R187: a RET in a CALLV group ends the group of a split that is alone in it: the next target group starts at its
target, or with none left EXEC is the saved EXEC without the lanes that left, or all the split's lanes where that is
empty, and the split goes on at the address after the CALLV with the sequence closed. -/
def Sys2Proof.Spec.CallGroupEndsAtRet : Prop :=
  ∀ (s : State) (x : Ctx) (q : CallSeq), ScalarReady s x .ret → x.split.seq = some q → q.kind = .callV →
    let sp0 : Split := { x.split with atEnd := true, wait := .join }
    (x.warp.modSplit x.who.entry fun _ => sp0).groupSplits q.id = [(x.who.entry, sp0)] →
    let stay := q.left.filter fun p => x.split.lanes.getLsbD p.1
    ∃ t w sp, exec .ret s = .next t ∧ Local s t x (s.core x.who.core) w x.team.counted ∧
      w = { x.warp with splits := w.splits } ∧ amFind w.splits x.who.entry = some sp ∧
      (∀ m, m ≠ x.who.entry → amFind w.splits m = amFind x.warp.splits m) ∧
      sp.lanes = x.split.lanes ∧ sp.wait = .run ∧ sp.atEnd = false ∧ sp.lk = x.split.lk ∧
      (∀ l a ls, stay = (l, a) :: ls → sp.spc = a ∧
        (∀ m, m < 32 → sp.exec.getLsbD m = stay.any fun p => p.1 == m && p.2 == a) ∧
        ∃ q', sp.seq = some q' ∧ q'.left = stay.filter (·.2 != a) ∧ q'.save = q.save ∧ q'.back = q.back) ∧
      (stay = [] → sp.spc = q.back ∧ sp.seq = none ∧
        sp.exec = if q.save &&& x.split.lanes = 0 then x.split.lanes else q.save &&& x.split.lanes)

/-- CALLV and JMPV run their target groups one after another and restore (R187). -/
def Obligations.CallSequences : Prop :=
  Spec.CallSequencesOpen ∧
  Spec.CallGroupEndsAtRet

/-- R22, R163, R164, R188: ISSUE of a clause whose header and words pass their checks, with no lane write pending to a g
register it captures, appends the clause to the split's queue, with EXEC and the captured g registers as they are. What
it reads, it reads as text of the team; nothing but translation state changes elsewhere. -/
def Sys2Proof.Spec.IssueAppendsClause : Prop :=
  ∀ (s u : State) (x : Ctx) (n : BitVec 4) (o : BitVec 22) (h : BitVec 96) (ws : List (BitVec 96)),
    ScalarReady s x (.issue n o) → issueRead s x n.toNat o.toNat = (u, .ok (h, ws)) →
    (∀ g, g ∈ captureSet ws → x.warp.gPending (BitVec.ofNat 6 g) = false ∧
      cellGood (x.warp.g_ (BitVec.ofNat 6 g)) = true) →
    ∃ t w c, exec (.issue n o) s = .next t ∧ Spec.TranslationOnly s u ∧
      Local u t x (u.core x.who.core) w x.team.counted ∧
      w = { x.warp with splits := w.splits, nextId := x.warp.nextId + 1 } ∧
      amFind w.splits x.who.entry = some { x.split.goOn (x.split.spc + 4) with cq := x.split.cq ++ [c] } ∧
      (∀ m, m ≠ x.who.entry → amFind w.splits m = amFind x.warp.splits m) ∧
      c.unit = o.toNat ∧ c.len = n.toNat ∧ c.header = h ∧ c.words = ws ∧ c.next = 0 ∧ c.exec = x.split.exec ∧
      c.started = false ∧ c.serial = x.warp.nextId ∧
      ∀ g : GReg, g.toNat ∈ captureSet ws → capturedCell c.gs g = x.warp.g_ g

/-- R175: LDG and STG access the word at the pair plus the signed immediate. A translated aligned address outside the
aperture is loaded into gd, or stored from gd, along its path, and the split goes on. -/
def Sys2Proof.Spec.ScalarLoadAndStoreComplete : Prop :=
  ∀ (s u v : State) (x : Ctx) (d a : GReg) (i : BitVec 14) (p : Xlat) (n : Nat),
    let va : VAddr := BitVec.ofInt 54 ((x.warp.gPair a).toNat + i.toInt)
    let old := (x.warp.gv d).toNat
    va.toNat % 4 = 0 → va.toNat < 3 * 2 ^ 52 →
    (ScalarReady s x (.ldg d a i) → s.translate x.who.core x.team.asid x.team.priv va.toNat .read = (u, .ok p) →
      u.loadAt x.who.core p 4 = (v, .ok n) →
      ∃ t, exec (.ldg d a i) s = .next t ∧ t = v.result x d (BitVec.ofNat 32 n)) ∧
    (ScalarReady s x (.stg d a i) → s.translate x.who.core x.team.asid x.team.priv va.toNat .write = (u, .ok p) →
      u.storeAt x.who.core x.warp.team x.team.asid x.team.priv va.toNat p 4 old (allBytes 4) = (v, .ok ()) →
      ∃ t, exec (.stg d a i) s = .next t ∧ t = v.advance x)

/-- R96, R123, R171, R175: a misaligned LDG or STG traps with TRAP_ADDR at the address; a replayable translation fault of either
stalls the split on a fault-queue record with SOURCE 1, its FLAGS naming a store as a write, with nothing written; any other
translation fault traps. -/
def Sys2Proof.Spec.ScalarAccessFaults : Prop :=
  ∀ (s u : State) (x : Ctx) (d a : GReg) (i : BitVec 14) (c : Cause),
    let va : VAddr := BitVec.ofInt 54 ((x.warp.gPair a).toNat + i.toInt)
    (va.toNat % 4 ≠ 0 →
      (ScalarReady s x (.ldg d a i) → exec (.ldg d a i) s = .next (s.scalarFault x .misaligned va)) ∧
      (ScalarReady s x (.stg d a i) → exec (.stg d a i) s = .next (s.scalarFault x .misaligned va))) ∧
    ∀ (e : Instr) (acc : Access) (fl : Nat), (e = .ldg d a i ∧ acc = .read ∧ fl = 1) ∨ (e = .stg d a i ∧ acc = .write ∧ fl = 3) →
      va.toNat % 4 = 0 → va.toNat < 3 * 2 ^ 52 → ScalarReady s x e →
      s.translate x.who.core x.team.asid x.team.priv va.toNat acc = (u, .error c) →
      (c ≠ .notPresent → c ≠ .migration → exec e s = .next (u.scalarFault x c va)) ∧
      (c = .notPresent ∨ c = .migration →
        let r : FaultRec :=
          { va := va.toNat, cause := c, source := 1, flags := fl, unit := x.who.slot, core := x.who.core,
            asid := x.team.asid, lanes := 0, fseq := u.hub.nextFseq.toNat }
        let q := { u with
          hub := { u.hub with faultQ := u.hub.faultQ ++ [r], nextFseq := u.hub.nextFseq + 1 } }
        exec e s = .next (q.modSplit x.who fun sp =>
          { sp with wait := .replay u.hub.nextFseq.toNat va.toNat }))

/-- R191: BARWAIT on an object that is neither broken nor of the reserved kind goes on once its PHASE bit differs from
p, and it changes nothing else; outside the team's partition it raises LM_OUT_OF_RANGE, with TRAP_ADDR at the offset (the model's
choice: log 24), and on a broken object BARRIER_INVALID. -/
def Sys2Proof.Spec.BarrierWaitCompletes : Prop :=
  ∀ (s : State) (x : Ctx) (o : BitVec 15) (p : Bool), ScalarReady s x (.barwait o p) →
    let off := o.toNat * 32
    let w0 := leNat (byteRead x.core.lm (x.team.lmBase + off) 8)
    (off + 32 ≤ x.team.lmSize → (∀ u ∈ unitsOf (x.team.lmBase + off) 8, u ∉ x.core.lmBad) → w0 / 2 ^ 62 ≠ 3 →
      w0.testBit 59 = false → w0.testBit 61 ≠ p →
      ∃ t, exec (.barwait o p) s = .next t ∧ Retires s t x x.warp (x.split.spc + 4)) ∧
    (x.team.lmSize < off + 32 → exec (.barwait o p) s = .next (s.scalarFault x .lmOutOfRange (BitVec.ofNat 54 off))) ∧
    (off + 32 ≤ x.team.lmSize → (∀ u ∈ unitsOf (x.team.lmBase + off) 8, u ∉ x.core.lmBad) →
      w0 / 2 ^ 62 = 3 ∨ w0.testBit 59 = true → exec (.barwait o p) s = .next (s.scalarFault x .barrierInvalid 0))

/-- R192: QWAIT whose word at home, in memory, differs from gB goes on; on an equal word it sleeps, with its deadline;
QWAIT_WAKE lets a sleeping split go on once the word differs, and QWAIT_TIMEOUT once its deadline has come. -/
def Sys2Proof.Spec.QueueWaitCompletes : Prop :=
  (∀ (s u : State) (x : Ctx) (a b : GReg) (k : BitVec 8) (p : Xlat), ScalarReady s x (.qwait a b k) →
    let va := (x.warp.gPair a).toNat
    va % 4 = 0 → va < 3 * 2 ^ 52 → s.translate x.who.core x.team.asid x.team.priv va .read = (u, .ok p) →
    hubRange p.pa = false → (u.core x.who.core).line (p.pa / 64) = none →
    (∀ n ∈ unitsOf p.pa 4, u.unitBad n = false) →
    ∃ t, exec (.qwait a b k) s = .next t ∧
      (Memory.readNat u.mem p.pa 4 % 2 ^ 32 ≠ (x.warp.gv b).toNat → Retires u t x x.warp (x.split.spc + 4)) ∧
      (Memory.readNat u.mem p.pa 4 % 2 ^ 32 = (x.warp.gv b).toNat → t = u.modSplit x.who fun sp =>
        { sp with
          wait := .qwait p.pa va (x.warp.gv b)
            (if k.toNat = 0 then none else some (s.clock.toNat + 2 ^ (k.toNat - 1) * 940)) })) ∧
  (∀ (s : State) (x : Ctx) (pa va : Nat) (want : Word) (d : Option Nat), s.ctxOf x.who = some x →
    x.split.wait = .qwait pa va want d →
    (hubRange pa = false → (∀ n ∈ unitsOf pa 4, s.unitBad n = false) → Memory.readNat s.mem pa 4 % 2 ^ 32 ≠ want.toNat →
      ∃ t, exec (.qwaitWake x.who.core x.who.slot x.who.entry) s = .next t ∧
        Retires s t x x.warp (x.split.spc + 4)) ∧
    (∀ at_, d = some at_ → at_ ≤ s.clock.toNat →
      ∃ t, exec (.qwaitTimeout x.who.core x.who.slot x.who.entry) s = .next t ∧
        Retires s t x x.warp (x.split.spc + 4)))

/-- LDG, STG, BARWAIT and QWAIT: where they complete, fault and wait (R96, R123, R171, R175, R191, R192). -/
def Obligations.ScalarMemoryAndWaits : Prop :=
  Spec.ScalarLoadAndStoreComplete ∧
  Spec.ScalarAccessFaults ∧
  Spec.BarrierWaitCompletes ∧
  Spec.QueueWaitCompletes

/-- R100, R276: TLBINV of a nonempty range starts an invalidation of it, which notes the accesses in flight that used an entry it
removes (which accesses these are is the model's reading: log 52), and the split waits for it; one of length 0 only goes on; a
reserved bit of its operands raises RESERVED_FIELD. -/
def Sys2Proof.Spec.TlbInvalidateStarts : Prop :=
  ∀ (s : State) (x : Ctx) (d a b : GReg), ScalarReady s x (.tlbinv d a b) →
    let asid := (x.warp.gv d).toNat
    let hi := (x.warp.gv (b + 1)).toNat
    let len := (x.warp.gv b).toNat + hi * 2 ^ 32
    let start := (x.warp.gPair a).toNat
    (asid < 2 ^ 12 → hi < 2 ^ 23 → len ≠ 0 →
      ∃ t, exec (.tlbinv d a b) s = .next t ∧
        t.split x.who = some { x.split with wait := .tlbinv s.hub.nextInval } ∧
        t.hub.nextInval = s.hub.nextInval + 1 ∧ t.mem = s.mem ∧
        t.hub.invals = s.hub.invals ++
          [{ id := s.hub.nextInval, asid := BitVec.ofNat 12 asid, host := false,
             users := s.usersOf (BitVec.ofNat 12 asid) ((start, min len (2 ^ 54 - start)) ::
               s.removedSpans (BitVec.ofNat 12 asid) start (min len (2 ^ 54 - start))) }] ∧
        (∀ e ∈ t.ctlb, e.2.inRange (BitVec.ofNat 12 asid) start (min len (2 ^ 54 - start)) = false) ∧
        (∀ e ∈ t.stlb, e.2.inRange (BitVec.ofNat 12 asid) start (min len (2 ^ 54 - start)) = false) ∧
        (∀ c, ∀ e ∈ (t.core c).utlb, e.inRange (BitVec.ofNat 12 asid) start (min len (2 ^ 54 - start)) = false)) ∧
    (asid < 2 ^ 12 → hi < 2 ^ 23 → len = 0 →
      ∃ t, exec (.tlbinv d a b) s = .next t ∧ Retires s t x x.warp (x.split.spc + 4)) ∧
    (2 ^ 12 ≤ asid ∨ 2 ^ 23 ≤ hi → exec (.tlbinv d a b) s = .next (s.scalarFault x .reservedField 0))

/-- What taking a trap leaves of a warp and its team (R66, R272): the latch is the split's, the three trap registers hold
the cause with LANE and LANESIDE, the PC and the address, and the split is at TRAP_BASE. With TRAP_BASE zero the split
stays where it is and the team begins to stop. A split that leaves a JOIN for it is no longer arrived: LIVE of its origin
entry, where it counts the split in that family, rises (log 13). Everything else of the split and of the other entries is what it was. -/
def Sys2Proof.Spec.TrapTaken (s t : State) (x : Ctx) (sp : Split) (m : Team) (laneSide : Bool) (lane : Nat) (cause : Nat)
    (pc addr : VAddr) : Prop :=
  ∃ w m', Local s t x (s.core x.who.core) w m' ∧
    w = { x.warp with
      trapCause := BitVec.ofNat 32 (cause + lane * 2 ^ 8 + (if laneSide then 2 ^ 13 else 0)), trapPc := pc,
      trapAddr := addr, latch := some x.who.entry, splits := w.splits } ∧
    (∀ e, e ≠ x.who.entry → amFind w.splits e = (amFind x.warp.splits e).map fun q =>
      if x.split.jw = true ∧ x.split.orgFam = x.split.fam ∧ e = x.split.origin.toNat then { q with liveCount := q.liveCount + 1 } else q) ∧
    (x.team.trapBase ≠ 0 → m' = m ∧
      amFind w.splits x.who.entry = some
        { sp with spc := x.team.trapBase, wait := .run, jw := false, atEnd := false }) ∧
    (x.team.trapBase = 0 →
      amFind w.splits x.who.entry = some { sp with wait := .run, jw := false, atEnd := false } ∧
      (x.team.run = .running → m' = { m with
        run := .stopping 1,
        stop := { cause := cause, clock := s.clock, wptr := (s.core x.who.core).wptrs, after := [], recs := [] } }))

/-- R66, R171, R272: a precise scalar fault, where no other split holds the warp's trap latch: the trap registers hold the
cause, the address of the instruction and the fault's address, and the split is at TRAP_BASE, or the team stops. While
another split holds the latch, the split waits with the trap recorded. Where the team stops or is stopped, the trap is
held until it resumes (R303). That the LIVE field of R102 rises again for a split that leaves a JOIN is the model's reading (log
13). -/
def Sys2Proof.Spec.ScalarFaultEntry : Prop :=
  ∀ (s : State) (x : Ctx) (c : Cause) (addr : VAddr), s.ctxOf x.who = some x →
    (x.team.run = .running → x.warp.latch = none ∨ x.warp.latch = some x.who.entry →
      Spec.TrapTaken s (s.scalarFault x c addr) x x.split x.team false 0 c.code x.split.spc addr) ∧
    (∀ e, x.team.run = .running → x.warp.latch = some e → e ≠ x.who.entry →
      s.scalarFault x c addr = s.modSplit x.who fun sp =>
        { sp with
          wait := .trapLatch,
          pend := sp.pend ++ [{ laneSide := false, lane := 0, cause := c, pc := x.split.spc, addr := addr, held := false }] }) ∧
    (x.team.run ≠ .running → s.scalarFault x c addr = s.modSplit x.who fun sp =>
      { sp with
        wait := .run,
        pend := sp.pend ++ [{ laneSide := false, lane := 0, cause := c, pc := x.split.spc, addr := addr, held := true }] })

/-- R272, R273: TRAP raises USER_TRAP and BKPT, outside a stop under DBG_CTL, BREAKPOINT; the instruction counts and
completes first, so TRAP_PC is the address of the instruction plus 4, and TRAP_ADDR, LANE and LANESIDE are 0. -/
def Sys2Proof.Spec.TrapAndBreakpointEntry : Prop :=
  ∀ (s : State) (x : Ctx) (k : BitVec 20), x.team.run = .running →
    x.warp.latch = none ∨ x.warp.latch = some x.who.entry →
    let pc := x.split.spc + 4
    let sp : Split := { x.split with spc := pc }
    (ScalarReady s x (.trap k) → ∃ t, exec (.trap k) s = .next t ∧
      Spec.TrapTaken s t x sp x.team.counted false 0 0x7F pc 0) ∧
    (ScalarReady s x (.bkpt k) → (s.hub.regs.dbgCtl.toNat % 4096 ≠ x.team.asid.toNat ∨
        s.hub.regs.dbgCtl.getLsbD 12 = false) → ∃ t, exec (.bkpt k) s = .next t ∧
      Spec.TrapTaken s t x sp x.team.counted false 0 0x7E pc 0)

/-- R277, R303, R304: HALT stops the executing team with SPC past it and the latch as it stands; BKPT of the address space
DBG_CTL names, with BKSTOP set, writes the trap registers, takes no latch and stops the team. -/
def Sys2Proof.Spec.HaltAndStopPoints : Prop :=
  ∀ (s : State) (x : Ctx) (k : BitVec 20), x.team.run = .running →
    let pc := x.split.spc + 4
    let stopped (src cause : Nat) : Team := { x.team.counted with
      run := .stopping src,
      stop := { cause := cause, clock := s.clock, wptr := (s.core x.who.core).wptrs, after := [], recs := [] } }
    (ScalarReady s x .halt → ∃ t, exec .halt s = .next t ∧
      Local s t x (s.core x.who.core) (x.warp.modSplit x.who.entry fun sp => sp.goOn pc) (stopped 0 0)) ∧
    (ScalarReady s x (.bkpt k) → s.hub.regs.dbgCtl.toNat % 4096 = x.team.asid.toNat →
      s.hub.regs.dbgCtl.getLsbD 12 = true → ∃ t, exec (.bkpt k) s = .next t ∧
      Local s t x (s.core x.who.core)
        { x.warp.modSplit x.who.entry fun sp => sp.goOn pc with trapCause := 0x7E, trapPc := pc, trapAddr := 0 }
        (stopped 2 0x7E))

/-- R274: RTT with LANESIDE clear goes to TRAP_PC and releases the trap latch; TRAP_CAUSE and TRAP_ADDR stay.
With TRAP_PC zero it raises RESERVED_FIELD. With LANESIDE set, outside a call sequence, the split's lanes leave. -/
def Sys2Proof.Spec.ReturnFromTrap : Prop :=
  ∀ (s : State) (x : Ctx), ScalarReady s x .rtt →
    (x.warp.trapCause.getLsbD 13 = false → x.warp.trapPc ≠ 0 → ∃ t w, exec .rtt s = .next t ∧
      Retires s t x w x.warp.trapPc ∧
      w = { x.warp with latch := none }) ∧
    (x.warp.trapCause.getLsbD 13 = false → x.warp.trapPc = 0 →
      exec .rtt s = .next (s.scalarFault x .reservedField 0)) ∧
    (x.warp.trapCause.getLsbD 13 = true → x.split.seq = none → x.split.cq = [] → x.split.pend = [] →
      ∃ t w, exec .rtt s = .next t ∧ Local s t x (s.core x.who.core) w x.team.counted ∧
        amFind w.splits x.who.entry = none ∧ w.latch = none ∧
        w.trapCause = x.warp.trapCause ∧ w.trapAddr = x.warp.trapAddr)

/-- HALT, stopping breakpoints and RTT (R274, R277, R303, R304). -/
def Obligations.StopsAndReturnFromTrap : Prop :=
  Spec.HaltAndStopPoints ∧
  Spec.ReturnFromTrap

/-- R171, R194, R272, R276: TRAP_ENTRY: a live split of a running team with a trap recorded takes the first one once no other split
holds the latch: lane-side traps carry LANESIDE and their lane. Inside a TLBINV or an access behind the aperture it takes none yet. -/
def Sys2Proof.Spec.RecordedTrapEntry : Prop :=
  ∀ (s : State) (x : Ctx) (p : PendTrap) (ps : List PendTrap), s.ctxOf x.who = some x →
    x.split.pend = p :: ps → p.feature = none → p.lane < 32 → x.split.live = true → x.team.run = .running →
    x.warp.latch = none ∨ x.warp.latch = some x.who.entry →
    (x.split.midway = false → ∃ t, exec (.trapEntry x.who.core x.who.slot x.who.entry) s = .next t ∧
      Spec.TrapTaken s t x { x.split with pend := ps } x.team p.laneSide p.lane p.cause.code p.pc p.addr) ∧
    (x.split.midway = true → exec (.trapEntry x.who.core x.who.slot x.who.entry) s = .next s)

/-- R4: the code of every cause, and that a code names its cause. -/
def Sys2Proof.Spec.CauseCodes : Prop :=
  (allCauses.map fun c => c.code) =
    [0x01, 0x02, 0x03, 0x04, 0x05, 0x10, 0x11, 0x12, 0x13, 0x14, 0x15, 0x20, 0x21, 0x22, 0x23, 0x30, 0x31, 0x32,
     0x40, 0x41, 0x42, 0x50, 0x51, 0x60, 0x61, 0x62, 0x70, 0x7E, 0x7F, 0x80] ∧
  ∀ c : Cause, c ∈ allCauses ∧ causeOf c.code = some c

/-- Taking a trap: saved registers, the latch, TRAP_BASE, and the codes of the causes (R4, R66, R102, R171, R194, R272, R273, R276, R303). -/
def Obligations.TrapEntry : Prop :=
  Spec.ScalarFaultEntry ∧
  Spec.TrapAndBreakpointEntry ∧
  Spec.RecordedTrapEntry ∧
  Spec.CauseCodes

/-- The results of classes 0x0, 0x1 and 0x2 (R196 to R198) in a lane, from va, b, vc and the old vd. -/
def Sys2Proof.Spec.integerLaneForms (a : AluArgs) (A B C D : Word) : List (Instr × Word) :=
  let unsigned := a.q.getLsbD 0
  let flag (p : Bool) : Word := if p then 1 else 0
  let pos := B.toNat % 32
  let len := min (C.toNat % 64) (32 - pos)
  let mask : Word := BitVec.ofNat 32 (2 ^ len - 1)
  let field := (A >>> pos) &&& mask
  [(.iadd a, A + B), (.isub a, A - B), (.imul a, A * B),
   (.imulh a, if unsigned then BitVec.ofNat 32 (A.toNat * B.toNat / 2 ^ 32)
      else BitVec.ofInt 32 (A.toInt * B.toInt / 2 ^ 32)),
   (.imad a, A * B + C),
   (.imin a, if (if unsigned then B.toNat < A.toNat else B.toInt < A.toInt) then B else A),
   (.imax a, if (if unsigned then A.toNat < B.toNat else A.toInt < B.toInt) then B else A),
   (.iabs a, BitVec.ofInt 32 |A.toInt|), (.ineg a, 0 - A), (.mov a, B), (.movi a, a.imm),
   (.lea a, (A <<< a.q.toNat) + B),
   (.laneAnd a, A &&& B), (.laneOr a, A ||| B), (.laneXor a, A ^^^ B), (.not a, ~~~ A),
   (.laneShl a, A <<< pos), (.laneShr a, A >>> pos), (.laneSar a, A.sshiftRight pos),
   (.bfe a, if unsigned && decide (0 < len) && field.getLsbD (len - 1) then field ||| ~~~ mask else field),
   (.bfi a, (D &&& ~~~ (mask <<< pos)) ||| ((A <<< pos) &&& (mask <<< pos))),
   (.lanePopc a, BitVec.ofNat 32 ((List.range 32).countP A.getLsbD)), (.laneClz a, leadingZeros A),
   (.icmp a, flag (match a.q.toNat with
      | 0 => A = B | 1 => A ≠ B | 2 => A.toInt < B.toInt | 3 => A.toInt ≤ B.toInt | 4 => B.toInt < A.toInt
      | 5 => B.toInt ≤ A.toInt | 6 => A.toNat < B.toNat | 7 => A.toNat ≤ B.toNat | 8 => B.toNat < A.toNat
      | _ => B.toNat ≤ A.toNat)),
   (.laneSel a, if C.getLsbD 0 then A else B)]

/-- R195 to R198: every instruction of classes 0x0 to 0x2 writes its result to vd in the active lanes and changes nothing
else. -/
def Obligations.LaneIntegerResults : Prop :=
  ∀ (s : State) (y : LCtx) (a : AluArgs) (i : Instr) (k : Nat), LaneReady s y i →
    let forms (l : Nat) := Spec.integerLaneForms a (y.x.warp.vv a.va.toNat l) (Spec.operandB y a l)
      (y.x.warp.vv a.vc.toNat l) (y.x.warp.vv a.vd.toNat l)
    ((forms 0)[k]?).map (·.1) = some i →
    Spec.WritesLanes s y i a.vd fun l => (((forms l)[k]?).map (·.2)).getD 0

/-- The results of classes 0x3 and 0x4 (R199 to R201) in a lane: exact values rounded once. -/
def Sys2Proof.Spec.floatLaneForms (a : AluArgs) (A B C : Word) : List (Instr × Word) :=
  let x := decodeF .f32 A.toNat
  let y := decodeF .f32 B.toNat
  let z := decodeF .f32 C.toNat
  let f32 (ops : List XVal) (v : XVal) : Word := BitVec.ofNat 32 (arithF .f32 ops v)
  let f := if a.q.getLsbD 0 then Fmt.bf16 else .f16
  let part (w : Word) (e : Nat) : XVal := decodeF f (w.toNat / 2 ^ (16 * e) % 2 ^ 16)
  let pair (g : Nat → Nat) : Word := BitVec.ofNat 32 (g 0 + g 1 * 2 ^ 16)
  [(.fadd a, f32 [x, y] (xadd x y)), (.fsub a, f32 [x, y] (xadd x (xneg y))), (.fmul a, f32 [x, y] (xmul x y)),
   (.ffma a, f32 [x, y, z] (xadd (xmul x y) z)), (.fmin a, f32 [x, y] (xmin x y)), (.fmax a, f32 [x, y] (xmax x y)),
   (.hadd2 a, pair fun e => arithF f [part A e, part B e] (xadd (part A e) (part B e))),
   (.hmul2 a, pair fun e => arithF f [part A e, part B e] (xmul (part A e) (part B e))),
   (.hfma2 a, pair fun e =>
      arithF f [part A e, part B e, part C e] (xadd (xmul (part A e) (part B e)) (part C e)))]

/-- R199, R201: every arithmetic instruction of classes 0x3 and 0x4 writes the exact result, rounded once in its format,
to vd in the active lanes, the first NaN operand where there is one; and changes nothing else. -/
def Sys2Proof.Spec.LaneFloatResults : Prop :=
  ∀ (s : State) (y : LCtx) (a : AluArgs) (i : Instr) (k : Nat), LaneReady s y i →
    let forms (l : Nat) := Spec.floatLaneForms a (y.x.warp.vv a.va.toNat l) (Spec.operandB y a l)
      (y.x.warp.vv a.vc.toNat l)
    ((forms 0)[k]?).map (·.1) = some i →
    Spec.WritesLanes s y i a.vd fun l => (((forms l)[k]?).map (·.2)).getD 0

/-- R35, R199: rounding of a finite value to f32: among the finite codes none of either sign is nearer to the exact value
m × 2^e than the result, and of two as near the result has an even code. -/
def Obligations.SingleRoundingIsNearestEven : Prop :=
  ∀ (neg : Bool) (m : Nat) (e : Int), roundMag .f32 m e ≤ Fmt.f32.maxCode →
    let dist (v : XVal) : XVal := xabs (xadd (.fin false m e) (xneg v))
    roundF .f32 (.fin neg m e) = Fmt.f32.code neg (roundMag .f32 m e) ∧
    ∀ c : Nat, c ≤ Fmt.f32.maxCode → c ≠ roundMag .f32 m e →
      xlt (dist (decodeF .f32 c)) (dist (decodeF .f32 (roundMag .f32 m e))) = false ∧
      (xeq (dist (decodeF .f32 c)) (dist (decodeF .f32 (roundMag .f32 m e))) = true → roundMag .f32 m e % 2 = 0)

/-- R200: FCMP's relations: on two finite operands those of their exact values, +0 and −0 equal; with a NaN only .ne and
.nan hold. The result is 1 or 0 in vd of each active lane, and nothing else changes. -/
def Sys2Proof.Spec.FloatCompareResults : Prop :=
  (∀ (s : State) (y : LCtx) (a : AluArgs), LaneReady s y (.fcmp a) →
    Spec.WritesLanes s y (.fcmp a) a.vd fun l =>
      if fcmpHolds a.q.toNat (y.x.warp.vv a.va.toNat l) (Spec.operandB y a l) then 1 else 0) ∧
  (∀ (A B : Word) (q : Nat), q < 8 →
    (decodeF .f32 A.toNat).isNan = true ∨ (decodeF .f32 B.toNat).isNan = true →
    fcmpHolds q A B = decide (q = 1 ∨ q = 7)) ∧
  ∀ (A B : Word) (s t : Bool) (m n : Nat) (d e k : Int), decodeF .f32 A.toNat = .fin s m d →
    decodeF .f32 B.toNat = .fin t n e → k ≤ d → k ≤ e →
    let a := signed s m * 2 ^ (d - k).toNat
    let b := signed t n * 2 ^ (e - k).toNat
    fcmpHolds 0 A B = decide (a = b) ∧ fcmpHolds 1 A B = decide (a ≠ b) ∧ fcmpHolds 2 A B = decide (a < b) ∧
    fcmpHolds 3 A B = decide (a ≤ b) ∧ fcmpHolds 4 A B = decide (b < a) ∧ fcmpHolds 5 A B = decide (b ≤ a) ∧
    fcmpHolds 6 A B = true ∧ fcmpHolds 7 A B = false

/-- The real number a finite value is (R32). -/
noncomputable def Sys2Proof.Spec.realOf : XVal → ℝ
  | .fin s m e => (if s then -1 else 1) * (m : ℝ) * (2 : ℝ) ^ e
  | _ => 0

/-- The word with its quiet bit set (R32, R37). -/
def Sys2Proof.Spec.quiet (w : Word) : Word := w ||| 0x00400000

/-- Code c of format f is the rounding of a magnitude with a sign (R35, R36): the nearest finite code, of two as near the one
farther from zero in the formats narrower than 16 bits and the even one in the others, which go to infinity from half a unit in
the last place above their largest finite value on. -/
def Sys2Proof.Spec.Rounds (f : Fmt) (neg : Bool) (v : ℝ) (c : Nat) : Prop :=
  let val (k : Nat) : ℝ := Spec.realOf (decodeF f k)
  ∃ k, c = f.code neg k ∧
    (f.narrow = false → val f.maxCode + (val f.maxCode - val (f.maxCode - 1)) / 2 ≤ v → k = (2 ^ f.ebits - 1) * 2 ^ f.mbits) ∧
    (f.narrow = true ∨ v < val f.maxCode + (val f.maxCode - val (f.maxCode - 1)) / 2 → k ≤ f.maxCode ∧
      ∀ j, j ≤ f.maxCode → j ≠ k → |val k - v| < |val j - v| ∨
        (|val k - v| = |val j - v| ∧ if f.narrow then j < k else k % 2 = 0))

/-- A word is the f32 sum of terms, none a NaN, times a scale (R42, R204, R206): infinities decide, of both signs the default NaN;
else the exact sum is rounded once, and an exact zero is +0 unless every term is −0. -/
def Sys2Proof.Spec.SumWord (ts : List XVal) (scale : ℝ) (r : Word) : Prop :=
  (.inf true ∈ ts → .inf false ∈ ts → r = 0x7FC00000) ∧ (.inf true ∉ ts → .inf false ∈ ts → r = 0x7F800000) ∧
  (.inf true ∈ ts → .inf false ∉ ts → r = 0xFF800000) ∧
  (.inf true ∉ ts → .inf false ∉ ts →
    let v := scale * (ts.map Spec.realOf).sum
    ∃ neg : Bool, (v < 0 → neg = true) ∧ (0 < v → neg = false) ∧ (v = 0 → (neg = true ↔ ∀ x ∈ ts, ∃ e, x = .fin true 0 e)) ∧
      Spec.Rounds .f32 neg |v| r.toNat)

/-- R204 to R207: the cross-lane instructions read va in the lane they name, active or not; REDUX gives every active lane
the combination over the active lanes and SCAN that over the active lanes up to it, or below it; LANEID gives the lane's
number; HAD (R48, R204) gives each active lane the exact Hadamard sum over every lane of its block, active or not, scaled by a power
of two and rounded once, or the quieted NaN of the block's lowest lane that holds one. Nothing else changes. -/
def Sys2Proof.Spec.CrossLaneResults : Prop :=
  ∀ (s : State) (y : LCtx) (a : AluArgs),
    let A (l : Nat) : Word := y.x.warp.vv a.va.toNat l
    let B (l : Nat) : Nat := (Spec.operandB y a l).toNat % 32
    let act (l : Nat) : Bool := y.act.getLsbD l
    (LaneReady s y (.shfl a) → Spec.WritesLanes s y (.shfl a) a.vd fun l => A (B l)) ∧
    (LaneReady s y (.bfly a) → Spec.WritesLanes s y (.bfly a) a.vd fun l => A (l ^^^ B l)) ∧
    (LaneReady s y (.bcast a) → ∀ low, low < 32 → act low = true → (∀ m, m < low → act m = false) →
      Spec.WritesLanes s y (.bcast a) a.vd fun _ => A (B low)) ∧
    (LaneReady s y (.laneid a) → Spec.WritesLanes s y (.laneid a) a.vd fun l => BitVec.ofNat 32 l) ∧
    (LaneReady s y (.redux a) → Spec.WritesLanes s y (.redux a) a.vd fun _ =>
      combine a.q.toNat (((List.range 32).filter act).map A)) ∧
    (LaneReady s y (.scan a) → Spec.WritesLanes s y (.scan a) a.vd fun l =>
      combine a.q.toNat (((List.range 32).filter fun m =>
        act m && (if a.imm.getLsbD 0 then decide (m < l) else decide (m ≤ l))).map A)) ∧
    (LaneReady s y (.had a) → ∃ f : Nat → Word, Spec.WritesLanes s y (.had a) a.vd f ∧ ∀ l, l < 32 → act l = true →
      let n := if a.q.getLsbD 0 then 32 else 16
      let base := l / n * n
      let X (k : Nat) : XVal := decodeF .f32 (A (base + k)).toNat
      let odd (k : Nat) : Bool := ((List.range 5).countP fun b => (l % n).testBit b && k.testBit b) % 2 == 1
      (∀ k, k < n → (X k).isNan = true → (∀ j, j < k → (X j).isNan = false) → f l = Spec.quiet (A (base + k))) ∧
      ((∀ k, k < n → (X k).isNan = false) →
        Spec.SumWord ((List.range n).map fun k => if odd k then xneg (X k) else X k)
          (if a.q.getLsbD 0 && a.q.getLsbD 1 then 1 / 8 else 1 / 4) (f l)))

/-- R206: what a combination is: of no lane the identity; else of an integer form the sum modulo 2^32, the least or greatest
word, or the bitwise and, or and exclusive or; of an f32 form the exact sum rounded once, or the least or greatest value, −0 below
+0, and of lanes that hold a NaN the quieted NaN of the lowest. -/
def Sys2Proof.Spec.LaneCombinations : Prop :=
  (∀ q, q < 11 → combine q [] = [0, 0x7FFFFFFF, 0x80000000, 0xFFFFFFFF, 0, 0xFFFFFFFF, 0, 0, 0, 0x7F800000,
    0xFF800000].getD q 0) ∧
  (∀ (w : Word) (ws : List Word),
    combine 0 (w :: ws) = BitVec.ofNat 32 ((w :: ws).map (·.toNat)).sum ∧
    (∀ v ∈ w :: ws, (combine 1 (w :: ws)).toInt ≤ v.toInt) ∧ combine 1 (w :: ws) ∈ w :: ws ∧
    (∀ v ∈ w :: ws, v.toInt ≤ (combine 2 (w :: ws)).toInt) ∧ combine 2 (w :: ws) ∈ w :: ws ∧
    (∀ v ∈ w :: ws, (combine 3 (w :: ws)).toNat ≤ v.toNat) ∧ combine 3 (w :: ws) ∈ w :: ws ∧
    (∀ v ∈ w :: ws, v.toNat ≤ (combine 4 (w :: ws)).toNat) ∧ combine 4 (w :: ws) ∈ w :: ws ∧
    ∀ k, k < 32 →
      (combine 5 (w :: ws)).getLsbD k = (w :: ws).all (·.getLsbD k) ∧
      (combine 6 (w :: ws)).getLsbD k = (w :: ws).any (·.getLsbD k) ∧
      (combine 7 (w :: ws)).getLsbD k = (((w :: ws).countP (·.getLsbD k)) % 2 == 1)) ∧
  ∀ ws : List Word, ws ≠ [] →
    let nan (w : Word) : Bool := (decodeF .f32 w.toNat).isNan
    let less (a b : Word) : Prop :=
      xlt (decodeF .f32 a.toNat) (decodeF .f32 b.toNat) = true ∨ (a = 0x80000000 ∧ b = 0)
    (∀ q ∈ [8, 9, 10], ∀ w, ws.find? nan = some w → combine q ws = Spec.quiet w) ∧
    (ws.find? nan = none →
      Spec.SumWord (ws.map fun w => decodeF .f32 w.toNat) 1 (combine 8 ws) ∧
      combine 9 ws ∈ ws ∧ (∀ w ∈ ws, ¬ less w (combine 9 ws)) ∧
      combine 10 ws ∈ ws ∧ ∀ w ∈ ws, ¬ less (combine 10 ws) w)

/-- Cross-lane instructions: shuffles, transform, reductions and scans (R48, R204, R205, R206, R207). -/
def Obligations.CrossLaneResultsAndCombinations : Prop :=
  Spec.CrossLaneResults ∧
  Spec.LaneCombinations

/-- R43, R202, R203, R208: a special function, a conversion or a block quantisation completes with its destination registers
written in the active lanes and nothing else changed, and what it writes is a function of the values it reads alone: the same on
every core and in every run. -/
def Sys2Proof.Spec.UnitResultsAreDeterministic : Prop :=
  (∃ f : Nat → Word → Word, ∀ (s : State) (y : LCtx) (a : AluArgs) (i : Instr) (fn : Nat),
    (i, fn) ∈ [(.rcp a, 0), (.rsq a, 1), (.sqrt a, 2), (.exp2 a, 3), (.log2 a, 4), (.sin a, 5), (.cos a, 6),
      (.tanh a, 7), (Instr.sigm a, 8)] → LaneReady s y i →
    Spec.WritesLanes s y i a.vd fun l => f fn (y.x.warp.vv a.va.toNat l)) ∧
  (∃ f : Word → List Word → Nat → Word, ∀ (s : State) (y : LCtx) (a : AluArgs), LaneReady s y (.cvt a) →
    ∃ t w, exec (.cvt a) s = .next t ∧ Dispatches s t y (s.core y.x.who.core) w ∧ w = { y.x.warp with v := w.v } ∧
      ∀ r l, l < 32 → w.v_ r l =
        if a.vd.toNat ≤ r ∧ r < a.vd.toNat + codeRegs (a.imm.toNat % 256) ∧ y.act.getLsbD l = true then
          cellOf (f a.imm ((List.range (codeRegs (a.imm.toNat / 256 % 256))).map fun k => y.x.warp.vv (a.va.toNat + k) l)
            (r - a.vd.toNat))
        else y.x.warp.v_ r l) ∧
  ∃ f : Nat → List (Option Word) → Nat → Word × Word, ∀ (s : State) (y : LCtx) (a : AluArgs), LaneReady s y (.cvtq a) →
    ∃ t w, exec (.cvtq a) s = .next t ∧ Dispatches s t y (s.core y.x.who.core) w ∧ w = { y.x.warp with v := w.v } ∧
      ∀ r l, l < 32 →
        let n := if a.imm.getLsbD 8 then 32 else 16
        let q := f (a.imm.toNat % 256) ((List.range n).map fun k =>
          if y.act.getLsbD (l / n * n + k) then some (y.x.warp.vv a.va.toNat (l / n * n + k)) else none) (l % n)
        w.v_ r l = if y.act.getLsbD l = true ∧ r = a.vc.toNat then cellOf q.2
          else if y.act.getLsbD l = true ∧ r = a.vd.toNat then cellOf q.1 else y.x.warp.v_ r l

/-- Lane f32 and packed 16-bit arithmetic and compares: results and frame; special functions and conversions depend on their operands alone (R43, R199, R200, R201, R202, R203, R208). -/
def Obligations.LaneFloatAndCompareResults : Prop :=
  Spec.LaneFloatResults ∧
  Spec.FloatCompareResults ∧
  Spec.UnitResultsAreDeterministic

/-- R37, R43, R44, R208: the special functions write their result to vd in the active lanes and nothing else. A NaN gives itself,
quieted; an infinity or a zero gives what R44's table says; RCP, RSQ and SQRT of any other value give the exact result rounded once,
the roots and the logarithm of a negative value the default NaN; EXP2 of an integer, LOG2 of a power of two, TANH from 10 on and EXP2
from 128 on and down to −150 are exact. What R43 bounds alone is Obligations.SpecialFunctionAccuracy. -/
def Sys2Proof.Spec.SpecialFunctionResults : Prop :=
  (∀ (s : State) (y : LCtx) (a : AluArgs) (i : Instr) (fn : Nat),
    (i, fn) ∈ [(.rcp a, 0), (.rsq a, 1), (.sqrt a, 2), (.exp2 a, 3), (.log2 a, 4), (.sin a, 5), (.cos a, 6),
      (.tanh a, 7), (Instr.sigm a, 8)] → LaneReady s y i →
    Spec.WritesLanes s y i a.vd fun l => specialFn fn (y.x.warp.vv a.va.toNat l)) ∧
  (∀ (fn : Nat) (w : Word), fn < 9 → (decodeF .f32 w.toNat).isNan = true → specialFn fn w = Spec.quiet w) ∧
  ((List.range 9).map fun fn => [specialFn fn 0xFF800000, specialFn fn 0x80000000, specialFn fn 0, specialFn fn 0x7F800000]) =
    [[0x80000000, 0xFF800000, 0x7F800000, 0x00000000], [0x7FC00000, 0xFF800000, 0x7F800000, 0x00000000],
     [0x7FC00000, 0x80000000, 0x00000000, 0x7F800000], [0x00000000, 0x3F800000, 0x3F800000, 0x7F800000],
     [0x7FC00000, 0xFF800000, 0xFF800000, 0x7F800000], [0x7FC00000, 0x80000000, 0x00000000, 0x7FC00000],
     [0x7FC00000, 0x3F800000, 0x3F800000, 0x7FC00000], [0xBF800000, 0x80000000, 0x00000000, 0x3F800000],
     [0x00000000, 0x3F000000, 0x3F000000, 0x3F800000]] ∧
  ∀ (w : Word) (neg : Bool) (m : Nat) (e : Int), decodeF .f32 w.toNat = .fin neg m e → m ≠ 0 →
    let v := Spec.realOf (.fin neg m e)
    Spec.Rounds .f32 neg |1 / v| (specialFn 0 w).toNat ∧
    (neg = true → specialFn 1 w = 0x7FC00000 ∧ specialFn 2 w = 0x7FC00000 ∧ specialFn 4 w = 0x7FC00000) ∧
    (neg = false → Spec.Rounds .f32 false (1 / Real.sqrt v) (specialFn 1 w).toNat ∧
      Spec.Rounds .f32 false (Real.sqrt v) (specialFn 2 w).toNat) ∧
    (∀ n : ℤ, -149 ≤ n → n ≤ 127 → v = n → Spec.realOf (decodeF .f32 (specialFn 3 w).toNat) = (2 : ℝ) ^ n) ∧
    (∀ n : ℤ, -149 ≤ n → n ≤ 127 → v = (2 : ℝ) ^ n → Spec.realOf (decodeF .f32 (specialFn 4 w).toNat) = n) ∧
    (128 ≤ v → specialFn 3 w = 0x7F800000) ∧ (v ≤ -150 → specialFn 3 w = 0) ∧
    (10 ≤ v → specialFn 7 w = 0x3F800000) ∧ (v ≤ -10 → specialFn 7 w = 0xBF800000)

/-- R43: EXP2, LOG2, SIN, COS, TANH and SIGM of every finite value in their domain give a finite f32 value within 2 ulp of the exact
one, where the ulp is that of the result and counts subnormal spacing. Within the bound the bits are free, and the model's own
reference value, by which it tests them, may be off by a 2^40th of an ulp, which the bound here allows for (log 7). -/
def Obligations.SpecialFunctionAccuracy : Prop :=
  ∀ (w : Word) (neg : Bool) (m : Nat) (e : Int), decodeF .f32 w.toNat = .fin neg m e → m ≠ 0 →
    let v := Spec.realOf (.fin neg m e)
    let near (fn : Nat) (x : ℝ) : Prop := ∃ t n d, decodeF .f32 (specialFn fn w).toNat = .fin t n d ∧
      |Spec.realOf (.fin t n d) - x| ≤ (2 + (2 : ℝ) ^ (-40 : ℤ)) * (2 : ℝ) ^ d
    (v < 128 → near 3 (Real.rpow 2 v)) ∧ (0 < v → near 4 (Real.logb 2 v)) ∧ near 5 (Real.sin v) ∧ near 6 (Real.cos v) ∧
    near 7 (Real.tanh v) ∧ near 8 (1 / (1 + Real.exp (-v)))

/-- The integer types of R161 with their codes: whether signed, and their bits. -/
def Sys2Proof.Spec.intTypes : List (Nat × Bool × Nat) :=
  [(0x08, true, 8), (0x09, true, 16), (0x0A, true, 32), (0x0B, true, 64), (0x0C, false, 8), (0x0D, false, 16),
   (0x0E, false, 32), (0x0F, false, 64)]

/-- The float formats CVT takes, with their codes (R161). -/
def Sys2Proof.Spec.floatTypes : List (Nat × Fmt) :=
  [(0x10, .f32), (0x11, .f16), (0x12, .bf16), (0x13, .e4m3), (0x14, .e5m2), (0x15, .e2m1)]

/-- The register bits of an integer saturated to a type (R36, R202): narrow signed results are sign-extended to 32 bits, the others
zero-extended. -/
def Sys2Proof.Spec.intWord (sgn : Bool) (n : Nat) (i : ℤ) : Nat :=
  let lo : ℤ := if sgn then -(2 ^ (n - 1)) else 0
  let hi : ℤ := if sgn then 2 ^ (n - 1) - 1 else 2 ^ n - 1
  let r := if i < lo then lo else if hi < i then hi else i
  if n = 64 then (BitVec.ofInt 64 r).toNat else (BitVec.ofInt 32 r).toNat

/-- R35, R36, R37, R161, R202: what a conversion gives. Between integers the value saturates; to a float it is rounded once; from a
float to an integer it is rounded to the nearest, ties away from zero for 8 bits and to even above, and saturates, a NaN gives 0;
between float formats it is rounded once, an infinity gives one where the format has it and the largest value else, and a NaN keeps
its sign with the quiet bit set, in the narrow formats as R37 has it; to the same format only a NaN changes, by its quiet bit. -/
def Sys2Proof.Spec.ConversionValues : Prop :=
  ∀ (imm : Word) (x : Nat),
    let src := imm.toNat / 256 % 256
    let tgt := imm.toNat % 256
    let r := cvtBits imm x
    let int (sgn : Bool) (n : Nat) : ℤ := if sgn then (BitVec.ofNat n x).toInt else (BitVec.ofNat n x).toNat
    (∀ s n t k, (src, s, n) ∈ Spec.intTypes → (tgt, t, k) ∈ Spec.intTypes → r = Spec.intWord t k (int s n)) ∧
    (∀ s n f, (src, s, n) ∈ Spec.intTypes → (tgt, f) ∈ Spec.floatTypes →
      Spec.Rounds f (decide (int s n < 0)) |(int s n : ℝ)| r) ∧
    ∀ f, (src, f) ∈ Spec.floatTypes →
      let X := decodeF f (x % 2 ^ (f.low + 1))
      (∀ t k, (tgt, t, k) ∈ Spec.intTypes →
        (X.isNan = true → r = 0) ∧ (X = .inf false → r = Spec.intWord t k (2 ^ 80)) ∧
        (X = .inf true → r = Spec.intWord t k (-(2 ^ 80))) ∧
        ∀ neg m e, X = .fin neg m e → ∃ i : ℤ, r = Spec.intWord t k i ∧ ∀ j : ℤ, j ≠ i →
          |(i : ℝ) - Spec.realOf X| < |(j : ℝ) - Spec.realOf X| ∨
          (|(i : ℝ) - Spec.realOf X| = |(j : ℝ) - Spec.realOf X| ∧ if k = 8 then |j| < |i| else i % 2 = 0)) ∧
      (∀ g, (tgt, g) ∈ Spec.floatTypes → g ≠ f →
        (∀ neg m e, X = .fin neg m e → Spec.Rounds g neg |Spec.realOf X| r) ∧
        (∀ neg, X = .inf neg → r = g.code neg (if g = .e4m3 ∨ g = .e2m1 then g.maxCode else (2 ^ g.ebits - 1) * 2 ^ g.mbits)) ∧
        ∀ neg p, X = .nan neg p → r = match g with
          | .e2m1 => 0
          | .e4m3 => g.code neg 0x7F
          | .e5m2 => g.code neg 0x7E
          | _ => g.code neg ((2 ^ g.ebits - 1) * 2 ^ g.mbits + (p / 2 ^ (23 - g.mbits) ||| 2 ^ (g.mbits - 1)))) ∧
      (tgt = src →
        (X.isNan = false → r = x % 2 ^ (f.low + 1)) ∧
        (X.isNan = true → r = x % 2 ^ (f.low + 1) ||| 2 ^ (f.mbits - 1)))

/-- The scale byte a block takes from its largest magnitude v and the largest value of its grid (R41, R203): the ceiling of the
logarithm of their quotient, offset by 127 and held to a byte. -/
def Sys2Proof.Spec.ScaleOf (v : ℝ) (big s : Nat) : Prop :=
  (v = 0 → s = 127) ∧
  ∀ i : ℤ, (big : ℝ) * (2 : ℝ) ^ (i - 1) < v → v ≤ (big : ℝ) * (2 : ℝ) ^ i → (s : ℤ) = max 0 (min 254 (i + 127))

/-- An element's code: its value scaled and rounded, or of an infinity the given code (R36, R41, R203). -/
def Sys2Proof.Spec.CodeOf (f : Fmt) (s : Nat) (x : XVal) (top c : Nat) : Prop :=
  (∀ neg m e, x = .fin neg m e → Spec.Rounds f neg (|Spec.realOf x| / (2 : ℝ) ^ ((s : ℤ) - 127)) c) ∧
  ∀ neg, x = .inf neg → c = f.code neg top

/-- R41, R203: the codes and the side word CVTQ gives a block of active lanes: with a NaN all codes 0 and scale byte 0xFF; for .e4m3
and .e5m2 every value scaled by the byte that the largest magnitude takes, and rounded; for .kb4 the lowest lane of the largest
magnitude has the special value and code 8, and the others are scaled by the byte that the largest of them takes, with −0 as 0. -/
def Sys2Proof.Spec.BlockValues : Prop :=
  ∀ (tgt : Nat) (xs : List XVal), tgt ∈ [0x13, 0x14, 0x16] → xs ≠ [] →
    let q := cvtqBlock tgt xs
    let inf (x : XVal) : Prop := x.isInf = true
    let mag (x : XVal) : ℝ := |Spec.realOf x|
    let below (x y : XVal) : Prop := (¬inf x ∧ inf y) ∨ (¬inf x ∧ ¬inf y ∧ mag x < mag y)
    ((∃ x ∈ xs, x.isNan = true) → q = (xs.map fun _ => 0, 0xFF)) ∧
    ((∀ x ∈ xs, x.isNan = false) →
      (∀ f big top, (tgt, f, big, top) ∈ [(0x13, Fmt.e4m3, 448, 0x7E), (0x14, .e5m2, 57344, 0x7C)] →
        q.2 ≤ 254 ∧ q.1.length = xs.length ∧ ((∃ x ∈ xs, inf x) → q.2 = 254) ∧
        ((∀ x ∈ xs, ¬inf x) → ∀ y ∈ xs, (∀ x ∈ xs, mag x ≤ mag y) → Spec.ScaleOf (mag y) big q.2) ∧
        ∀ (k : Nat) (x : XVal) (c : Nat), xs[k]? = some x → q.1[k]? = some c → Spec.CodeOf f q.2 x top c) ∧
      (tgt = 0x16 → ∀ (j : Nat) (y : XVal), xs[j]? = some y → (∀ x ∈ xs, ¬below y x) → (∀ (k : Nat) (x : XVal), k < j → xs[k]? = some x → below x y) →
        let others := xs.eraseIdx j
        (¬inf y → mag y = 0 → q = (xs.map fun _ => 0, 127)) ∧
        (inf y ∨ mag y ≠ 0 → ∃ s p, q.2 = p * 256 + s ∧ s ≤ 254 ∧ Spec.CodeOf .e4m3 s y 0x7E p ∧ q.1.length = xs.length ∧
          q.1[j]? = some 8 ∧
          ((∃ x ∈ others, inf x) ∨ (inf y ∧ ∀ x ∈ others, mag x = 0) → s = 254) ∧
          ((∀ x ∈ others, ¬inf x) → ∀ z ∈ others, (∀ x ∈ others, mag x ≤ mag z) → mag z ≠ 0 → Spec.ScaleOf (mag z) 6 s) ∧
          ((∀ x ∈ others, ¬inf x ∧ mag x = 0) → ¬inf y → Spec.ScaleOf (mag y) 448 s) ∧
          ∀ (k : Nat) (x : XVal) (c : Nat), k ≠ j → xs[k]? = some x → q.1[k]? = some c →
            ∃ d, Spec.CodeOf .e2m1 s x 7 d ∧ c = if d = 8 then 0 else d)))

/-- R37, R41, R161, R202, R203: CVT writes the converted value to the one or two registers of its target in each active lane. CVTQ
quantises each block of lanes from its active lanes alone, in lane order, and writes the lane's code to vd and the
block's side word to vc in them. Nothing else changes. What the values are is stated with it. -/
def Sys2Proof.Spec.ConversionResults : Prop :=
  Spec.ConversionValues ∧ Spec.BlockValues ∧
  ∀ (s : State) (y : LCtx) (a : AluArgs),
    let act (l : Nat) : Bool := y.act.getLsbD l
    (LaneReady s y (.cvt a) →
      let n := codeRegs (a.imm.toNat % 256)
      let m := codeRegs (a.imm.toNat / 256 % 256)
      ∃ t w, exec (.cvt a) s = .next t ∧ Dispatches s t y (s.core y.x.who.core) w ∧
        w = { y.x.warp with v := w.v } ∧
        ∀ r l, l < 32 → w.v_ r l =
          if a.vd.toNat ≤ r ∧ r < a.vd.toNat + n ∧ act l = true then
            cellOf (BitVec.ofNat 32 (cvtBits a.imm (vGroup y.x.warp a.va m l) / 2 ^ (32 * (r - a.vd.toNat))))
          else y.x.warp.v_ r l) ∧
    (LaneReady s y (.cvtq a) →
      ∃ t w, exec (.cvtq a) s = .next t ∧ Dispatches s t y (s.core y.x.who.core) w ∧
        w = { y.x.warp with v := w.v } ∧
        ∀ r l, l < 32 → w.v_ r l =
          if act l = true ∧ (r = a.vd.toNat ∨ r = a.vc.toNat) then
            let first := if a.imm.getLsbD 8 then 0 else l / 16 * 16
            let lanes := ((List.range 32).filter fun m => decide (first ≤ m) &&
              decide (m < first + (if a.imm.getLsbD 8 then 32 else 16)) && act m)
            let q := cvtqBlock (a.imm.toNat % 256) (lanes.map fun m => decodeF .f32 (y.x.warp.vv a.va.toNat m).toNat)
            cellOf (if r = a.vc.toNat then BitVec.ofNat 32 q.2 else BitVec.ofNat 32 (q.1.getD (lanes.idxOf l) 0))
          else y.x.warp.v_ r l)

/-- Special functions and conversions: special, rounded and exact results, and frame (R37, R41, R43, R44, R161, R202, R203, R208). -/
def Obligations.SpecialFunctionsAndConversions : Prop :=
  Spec.SpecialFunctionResults ∧
  Spec.ConversionResults

/-- The operation in flight that a dispatching lane instruction leaves. -/
def Sys2Proof.Spec.opOf (y : LCtx) (i : Instr) (accs : List Acc) (rel : RelSt) (aux : OpAux) : Op :=
  { id := y.x.warp.freshOp, serial := y.x.core.serial, entry := y.x.who.entry, clauseSerial := y.clause.serial,
    unit := y.unit, instr := i, flags := opFlags y i, act := y.act, accs := accs, rel := rel, aux := aux
    counted := !accs.any (·.st.held), clause := some y.clause }

/-- The instruction is in flight (R7, R58, R138): from `u` on, the flags of its clause have risen, the operation stands
behind the warp's others, the clause has moved on, and INSTR has counted the instruction unless it stalls at its dispatch;
registers, memory and everything else are what they were. -/
def Sys2Proof.Spec.Launches (u t : State) (y : LCtx) (o : Op) : Prop :=
  Local u t y.x { u.core y.x.who.core with serial := y.x.core.serial + 1 }
    ((({ y.x.warp.raise o.flags with ops := y.x.warp.ops ++ [o], nextId := o.id + 1 }).modSplit y.x.who.entry
      Split.stepClause).sweep y.x.who.entry)
    (if o.counted then y.x.team.counted else y.x.team)

/-- The global memory instructions of classes 7 to 9 but GATHER.P and PREF. -/
def Sys2Proof.Spec.globalInstrs (x : MemArgs) : List Instr :=
  [.ld x, .gather x, .st x, .scatter x, .ldf x, .ldfRc x, .adja x, .adjr x, .adjrWait x, .adjq x, .atomAdd x, .atomMin x,
   .atomMax x, .atomAnd x, .atomOr x, .atomXor x, .atomExch x, .atomCas x, .redAdd x, .redMin x, .redMax x, .redAnd x,
   .redOr x, .redXor x]

/-- R58, R211, R213, R214, R215, R219, R223 to R226: LD, GATHER, ST, SCATTER, LDF, LDF.rc, ADJA, ADJR, ADJR.wait,
ADJQ, ATOM and RED whose lanes are translated, none with a replayable fault, of LD and ST none with a fault at all, and
none in the fabric aperture, dispatch: one access for each active lane is in flight, at the captured pair plus va, with
the lane's store data; no access is performed yet and no register or byte of memory changes. -/
def Sys2Proof.Spec.GlobalAccessesDispatch : Prop :=
  ∀ (s u : State) (y : LCtx) (x : MemArgs) (sp : MemSpec) (accs : List Acc), ∀ i ∈ Spec.globalInstrs x,
    LaneReady s y i → memSpec i = some (x, sp) →
    s.checkAccs y.x.who.core y.x.team sp (y.lanes.map (laneAcc y i x sp)) = (u, accs) →
    (∀ a ∈ accs, a.soft = none ∧ (sp.whole = true → a.hard = none) ∧ (a.st = .todo → a.path ≠ .fabric)) →
    (∃ a ∈ accs, a.st = .todo) →
    ∃ t, exec i s = .next t ∧ Spec.TranslationOnly s u ∧
      Spec.Launches u t y (Spec.opOf y i accs (if sp.rel = true then .pending else .none) .none) ∧
      accs.map (·.lane) = y.lanes ∧ sp.n = (match i with | .adja _ | .adjq _ => 4 | _ => x.w.bytes) ∧
      ∀ a ∈ accs, a.va = globalAddr y.x.warp y.clause.gs x.g x.va a.lane ∧
        a.data = vGroup y.x.warp x.vb x.w.regs a.lane % 256 ^ sp.n ∧
        (sp.aligned = true → a.va % sp.n ≠ 0 → a.st = .failed .misaligned)

/-- R171, R213: LD and ST check every lane before any is performed: the lowest lane with a fault that is not replayable
is recorded against the split, whose queue is discarded, and memory and registers stay as they are. -/
def Sys2Proof.Spec.WholeAccessFaults : Prop :=
  ∀ (s u : State) (y : LCtx) (x : MemArgs) (sp : MemSpec) (accs : List Acc) (a : Acc) (c : Cause),
    ∀ i ∈ [Instr.ld x, .st x], LaneReady s y i → memSpec i = some (x, sp) → y.x.split.live = true →
    s.checkAccs y.x.who.core y.x.team sp (y.lanes.map (laneAcc y i x sp)) = (u, accs) →
    accs.find? (·.hard.isSome) = some a → a.hard = some c →
    ∃ t sp', exec i s = .next t ∧ t.split y.x.who = some sp' ∧ sp'.cq = [] ∧
      sp'.pend = y.x.split.pend ++
        [{ laneTrap c a.lane y.va (BitVec.ofNat 54 a.va) with held := !s.issuing y.x.who.core y.x.warp.team }] ∧ t.mem = s.mem ∧
      (∀ b ∈ accs, b.lane < a.lane → b.hard = none) ∧
      ∃ w, t.warp y.x.who.core y.x.who.slot = some w ∧ w.v = y.x.warp.v ∧ w.g = y.x.warp.g ∧ w.f = y.x.warp.f ∧
        w.ops = y.x.warp.ops

/-- R123, R171: lanes with a replayable fault stall the operation, which is in flight, each on a fault-queue record with
its cause, SOURCE 0 and the core, for an address of its page; no byte of memory and no register changes.
That one record covers the lanes of one cause and page is the model's choice (log 38). -/
def Sys2Proof.Spec.ReplayableLanesStall : Prop :=
  ∀ (s u : State) (y : LCtx) (x : MemArgs) (sp : MemSpec) (accs : List Acc), ∀ i ∈ Spec.globalInstrs x,
    LaneReady s y i → memSpec i = some (x, sp) →
    s.checkAccs y.x.who.core y.x.team sp (y.lanes.map (laneAcc y i x sp)) = (u, accs) →
    (∀ a ∈ accs, a.hard = none ∧ (a.st = .todo → a.path ≠ .fabric)) → (∃ a ∈ accs, a.soft ≠ none) →
    ∃ t v as, exec i s = .next t ∧
      v = { u with hub := { u.hub with faultQ := v.hub.faultQ, nextFseq := v.hub.nextFseq } } ∧
      Spec.Launches v t y (Spec.opOf y i as (if sp.rel = true then .pending else .none) .none) ∧
      as.map (·.lane) = y.lanes ∧
      (∀ a ∈ as, ∀ a' ∈ as, ∀ b ∈ accs, ∀ b' ∈ accs, b.lane = a.lane → b'.lane = a'.lane → b.soft ≠ none →
        b.soft = b'.soft → b.va / 8192 = b'.va / 8192 → a.st = a'.st) ∧
      ∀ a ∈ as, (a.st = .todo ∧ a ∈ accs) ∨
        ∃ r ∈ v.hub.faultQ, a.st = .stalled r.fseq ∧ r.source = 0 ∧ r.core = y.x.who.core ∧ r.unit = y.x.who.slot ∧
          r.asid = y.x.team.asid ∧ r.va / 8192 = a.va / 8192 ∧ r.lanes.getLsbD a.lane = true ∧
          ∃ b ∈ accs, b.lane = a.lane ∧ b.soft = some r.cause

/-- Lane access faults: whole-instruction faults and lanes that stall for a replay (R123, R171, R213). -/
def Obligations.LaneAccessFaults : Prop :=
  Spec.WholeAccessFaults ∧
  Spec.ReplayableLanesStall

/-- R217: GATHER.P looks each lane up in the TLBs alone. A lane whose page is in none is complete at dispatch with 0 in
vc, and a walk that serves its page is queued; the other lanes are in flight. Memory does not change, nor does any other lane
register. -/
def Sys2Proof.Spec.GatherPDispatches : Prop :=
  ∀ (s u : State) (y : LCtx) (x : MemArgs) (sp : MemSpec) (accs : List Acc), LaneReady s y (.gatherP x) →
    memSpec (.gatherP x) = some (x, sp) →
    s.peekAccs y.x.who.core y.x.team sp (y.lanes.map (laneAcc y (.gatherP x) x sp)) = (u, accs) →
    (∀ a ∈ accs, a.soft ≠ some .migration ∧ (a.st = .todo → a.path ≠ .fabric)) → (∃ a ∈ accs, a.st = .todo) →
    ∃ t w o, exec (.gatherP x) s = .next t ∧ t.warp y.x.who.core y.x.who.slot = some w ∧ t.mem = s.mem ∧
      w.ops = ((({ y.x.warp with ops := y.x.warp.ops ++ [o] }).modSplit y.x.who.entry Split.stepClause).sweep
        y.x.who.entry).ops ∧
      o = Spec.opOf y (.gatherP x) (accs.map fun a => if a.soft = none then a else { a with st := .done })
        (if sp.rel = true then .pending else .none) .none ∧
      (∀ a ∈ accs, a.soft = some .notPresent →
        w.v_ x.vc.toNat a.lane = cellOf 0 ∧
        ∃ k ∈ t.hub.walks, k.gatherP = true ∧ u.sameWalk k y.x.team.asid a.va = true) ∧
      ∀ r l, l < 32 → (r ≠ x.vc.toNat ∨ ∀ a ∈ accs, a.lane = l → a.soft = none) → w.v_ r l = y.x.warp.v_ r l

/-- R218: PREF faults in no lane, and it changes no register and no byte of memory.
That the line of its lowest active lane is in the L1 afterwards, where the page is readable, its accesses take the L1 path and
the L1 has room, is the model's reading of 'fetches' (log 49). -/
def Sys2Proof.Spec.PrefetchFaultsNever : Prop :=
  ∀ (s : State) (y : LCtx) (x : MemArgs), LaneReady s y (.pref x) → (s.core y.x.who.core).l1.length + 32 ≤ 4096 →
    let va := globalAddr y.x.warp y.clause.gs x.g x.va y.low
    ∃ t w, exec (.pref x) s = .next t ∧ t.warp y.x.who.core y.x.who.slot = some w ∧
      w = (y.x.warp.modSplit y.x.who.entry Split.stepClause).sweep y.x.who.entry ∧ t.mem = s.mem ∧ t.hub = s.hub ∧
      (inAperture va = false → ∀ u p, s.translate y.x.who.core y.x.team.asid y.x.team.priv va .read = (u, .ok p) →
        pathAt p = .l1 → (t.core y.x.who.core).line (p.pa / 64) ≠ none)

/-- Global lane accesses go into flight with one access for each active lane (R58, R211, R213, R214, R215, R217, R218, R219, R223, R224, R225, R226). -/
def Obligations.GlobalAccessDispatch : Prop :=
  Spec.GlobalAccessesDispatch ∧
  Spec.GatherPDispatches ∧
  Spec.PrefetchFaultsNever

/-- R74, R76, R213, R216: LDL and STL on aligned offsets within the team's partition whose bytes can be read run at
dispatch. LDL writes each active lane's bytes, low word first; of lanes of STL that store to one byte, the highest
stays. Nothing else of registers, LM or memory changes. -/
def Sys2Proof.Spec.LocalMemoryAccesses : Prop :=
  ∀ (s : State) (y : LCtx) (x : MemArgs),
    let n := x.w.bytes
    let at_ (l : Nat) : Nat := y.x.team.lmBase + localAddr y.x.warp x.va x.imm l
    let k := s.core y.x.who.core
    (∀ l ∈ y.lanes, lmFault y.x.team (localAddr y.x.warp x.va x.imm l) n = none ∧
      ∀ m ∈ unitsOf (at_ l) n, m ∉ k.lmBad) →
    (LaneReady s y (.ldl x) → ∃ t w, exec (.ldl x) s = .next t ∧ Dispatches s t y k w ∧ w = { y.x.warp with v := w.v } ∧
      (∀ l ∈ y.lanes, ∀ j, j < x.w.regs →
        w.v_ (x.vd.toNat + j) l = cellOf ((loadWords x.w (leNat (byteRead k.lm (at_ l) n))).getD j 0)) ∧
      ∀ r l, l < 32 → (l ∉ y.lanes ∨ r < x.vd.toNat ∨ x.vd.toNat + x.w.regs ≤ r) → w.v_ r l = y.x.warp.v_ r l) ∧
    (LaneReady s y (.stl x) → ∃ t k', exec (.stl x) s = .next t ∧ Dispatches s t y k' y.x.warp ∧
      k' = { k with lm := k'.lm, lmBad := k'.lmBad } ∧
      ∀ a, amGet 0 k'.lm a =
        match y.lanes.reverse.find? fun l => decide (at_ l ≤ a ∧ a < at_ l + n) with
        | some l => BitVec.ofNat 8 (vGroup y.x.warp x.vb x.w.regs l / 256 ^ (a - at_ l))
        | none => amGet 0 k.lm a)

/-- R74, R76, R213: LDL and STL with a misaligned lane offset, or one outside the partition, access nothing: the lowest
such lane's fault is recorded.
That TRAP_ADDR holds the offset is the model's choice (log 24). -/
def Sys2Proof.Spec.LocalMemoryFaults : Prop :=
  ∀ (s : State) (y : LCtx) (x : MemArgs) (l : Nat) (c : Cause), ∀ i ∈ [Instr.ldl x, .stl x], LaneReady s y i → l ∈ y.lanes →
    (∀ j ∈ y.lanes, j < l → lmFault y.x.team (localAddr y.x.warp x.va x.imm j) x.w.bytes = none) →
    lmFault y.x.team (localAddr y.x.warp x.va x.imm l) x.w.bytes = some c →
    (c = if localAddr y.x.warp x.va x.imm l % x.w.bytes ≠ 0 then Cause.misaligned else .lmOutOfRange) ∧
    exec i s = .next (s.laneFault y c l (BitVec.ofNat 54 (localAddr y.x.warp x.va x.imm l)))

/-- R77, R211, R216: LDC and STC dispatch their active lanes; a lane is to be performed at the core of the cluster that
its address names where the address is aligned, names a core that holds a team of the gang and lies in that team's
partition, and has failed otherwise. CLUSTER_LM_ACK then writes a lane's bytes of STC into that core's LM, and
LOAD_DATA_LANDS the bytes of LDC into the lane's registers. -/
def Sys2Proof.Spec.ClusterMemoryAccesses : Prop :=
  (∀ (s : State) (y : LCtx) (x : MemArgs), ∀ i ∈ [Instr.ldc x, .stc x], LaneReady s y i →
    let adr (l : Nat) : Nat := localAddr y.x.warp x.va x.imm l
    let good (l : Nat) : Prop := adr l % x.w.bytes = 0 ∧ adr l < 2 ^ 24 ∧
      ∃ m, (s.core (clusterCore y.x.who.core (adr l))).gangTeam y.x.team.gang = some m ∧ adr l % 2 ^ 20 < m.2.lmSize
    (∃ l ∈ y.lanes, good l) →
    ∃ t accs, exec i s = .next t ∧ Spec.Launches s t y (Spec.opOf y i accs .none .none) ∧ accs.map (·.lane) = y.lanes ∧
      ∀ a ∈ accs, a.path = .lm ∧ a.va = adr a.lane ∧
        (good a.lane → a.st = .todo ∧ a.pa = clusterCore y.x.who.core a.va * 2 ^ 20 + a.va % 2 ^ 20) ∧
        (¬good a.lane → a.st = .failed (if a.va % x.w.bytes ≠ 0 then .misaligned else .lmOutOfRange))) ∧
  (∀ (s : State) (c w : Nat) (o : Op) (v : Warp) (m tm : Team) (tk : Nat) (x : MemArgs) (a : Acc),
    s.findOp c w o.id = some (o, v, m) → o.accs.find? (·.lane == a.lane) = some a → a.lane < 32 → a.st = .todo →
    a.path = .lm → mayCluster v o a = true → (s.core (a.pa / 2 ^ 20)).gangTeam m.gang = some (tk, tm) →
    (∀ n ∈ unitsOf (tm.lmBase + a.pa % 2 ^ 20) x.w.bytes, n ∉ (s.core (a.pa / 2 ^ 20)).lmBad) →
    (o.instr = .stc x → ∃ t, exec (.clusterLmAck c w o.id (maskOf [a.lane])) s = .next t ∧ t.mem = s.mem ∧
      (t.core (a.pa / 2 ^ 20)).lm =
        byteWrite (s.core (a.pa / 2 ^ 20)).lm (tm.lmBase + a.pa % 2 ^ 20) (leBytes x.w.bytes a.data)) ∧
    (o.instr = .ldc x → ∃ t v', exec (.loadDataLands c w o.id (maskOf [a.lane])) s = .next t ∧ t.mem = s.mem ∧
      t.warp c w = some v' ∧ ∀ r l, v'.v_ r l = (v.setVs x.vd.toNat a.lane (loadWords x.w
        (leNat (byteRead (s.core (a.pa / 2 ^ 20)).lm (tm.lmBase + a.pa % 2 ^ 20) x.w.bytes)))).v_ r l))

/-- R103, R221: with tag banks, TAGL writes each active lane the slot of its tag, or all ones; TAGSET whose lanes can all
be installed leaves the tag of each lane found with the slot of the lowest lane that names it; TAGINV leaves no tag of
its lanes found in a table with no tag twice; without a bank each raises TAG_INVALID in its lowest active lane. -/
def Sys2Proof.Spec.TagTableResults : Prop :=
  (∀ (s : State) (y : LCtx) (x : MemArgs), y.x.team.banks ≠ [] →
    let k := s.core y.x.who.core
    let tag (l : Nat) : Word := y.x.warp.vv x.va.toNat l
    (LaneReady s y (.tagl x) → Spec.WritesLanes s y (.tagl x) x.vd fun l =>
      match k.tagFind y.x.team.banks (tag l) with
      | some i => (amGet TagEntry.reset k.tags i).slot
      | none => 0xFFFFFFFF) ∧
    (LaneReady s y (.tagset x) →
      (k.tagSet y.x.team.banks (y.lanes.map fun l => (l, tag l, y.x.warp.vv x.vb.toNat l)) []).2 = none →
      ∃ t k', exec (.tagset x) s = .next t ∧ Dispatches s t y k' y.x.warp ∧ k' = { k with tags := k'.tags } ∧
        ∀ l ∈ y.lanes, ∃ i l0, k'.tagFind y.x.team.banks (tag l) = some i ∧
          y.lanes.find? (fun j => tag j == tag l) = some l0 ∧
          amGet TagEntry.reset k'.tags i = ⟨true, tag l, y.x.warp.vv x.vb.toNat l0⟩) ∧
    (LaneReady s y (.taginv x) →
      (∀ i j, (amGet TagEntry.reset k.tags i).v = true → (amGet TagEntry.reset k.tags j).v = true →
        (amGet TagEntry.reset k.tags i).tag = (amGet TagEntry.reset k.tags j).tag → i = j) →
      ∃ t k', exec (.taginv x) s = .next t ∧ Dispatches s t y k' y.x.warp ∧ k' = { k with tags := k'.tags } ∧
        (∀ l ∈ y.lanes, k'.tagFind y.x.team.banks (tag l) = none) ∧
        ∀ i, (∀ l ∈ y.lanes, (amGet TagEntry.reset k.tags i).tag ≠ tag l) →
          amGet TagEntry.reset k'.tags i = amGet TagEntry.reset k.tags i)) ∧
  ∀ (s : State) (y : LCtx) (x : MemArgs), ∀ i ∈ [Instr.tagl x, .tagset x, .taginv x], LaneReady s y i →
    y.x.team.banks = [] → exec i s = .next (s.laneFault y .tagInvalid y.low 0)

/-- LDL, STL, cluster accesses and tag tables: results, frame and faults (R74, R76, R77, R103, R211, R213, R216, R221). -/
def Obligations.LocalAndClusterMemory : Prop :=
  Spec.LocalMemoryAccesses ∧
  Spec.LocalMemoryFaults ∧
  Spec.ClusterMemoryAccesses ∧
  Spec.TagTableResults

/-- Lane access `a` of operation `o` is next to be performed: its release is over, nothing of the operation waits for a
replay, no lane is for a peer, and no earlier access holds it back (R87, R142 to R147, R213, R219). -/
structure Sys2Proof.Spec.LaneTurn (s : State) (c w : Nat) (o : Op) (v : Warp) (m : Team) (x : MemArgs) (sp : MemSpec)
    (a : Acc) : Prop where
  op : s.findOp c w o.id = some (o, v, m)
  spec : memSpec o.instr = some (x, sp)
  idle : ∀ b ∈ o.accs, b.st.held = false ∧ (b.st = .todo → b.path ≠ .fabric)
  free : o.released = true
  lane : o.accs.find? (·.lane == a.lane) = some a
  low : a.lane < 32
  todo : a.st = .todo
  turn : mayPerform (s.core c) v o a sp.order = true

/-- After a lane is done: the operation goes on with its other lanes, or, where they are all over, it is gone and the flags
it raised have fallen by 1 (R7, R58). -/
def Sys2Proof.Spec.LaneDone (t : State) (c w : Nat) (o : Op) (v : Warp) (a : Acc) : Prop :=
  ∃ v', t.warp c w = some v' ∧
    ((∃ b ∈ o.accs, b.lane ≠ a.lane ∧ b.st.isOver = false) →
      v'.op o.id = some { o with accs := putAccs [{ a with st := .done }] o.accs } ∧ v'.f = v.f) ∧
    ((∀ b ∈ o.accs, b.lane ≠ a.lane → b.st.isOver = true) →
      v'.op o.id = none ∧ ∀ n, n < 12 → v'.flag n = if o.flags.getLsbD n = true then v.flag n - 1 else v.flag n)

/-- The byte at an address once a core's L1 lines among `lines` are written home: of a dirty byte the line's, of another
memory's (R79). -/
def Sys2Proof.Spec.homeByte (s : State) (c : Nat) (lines : List Nat) (a : Nat) : Byte :=
  match (s.core c).line (a / 64) with
  | some l =>
    if a / 64 ∈ lines ∧ l.dirty.getLsbD (a % 64) = true then BitVec.ofNat 8 (l.data.toNat / 256 ^ (a % 64))
    else Memory.read s.mem a
  | none => Memory.read s.mem a

/-- R74, R79, R141, R143: an ordinary load of good units returns the bytes at the address, lowest first: at home the bytes of
memory, in the L1 those of the line. A store to a page that is not counted writes the enabled bytes and no other: at home
into memory, in the L1 into the line, whose written bytes become dirty while memory stays. R144: before an access at home the
core's dirty bytes of the line go home, and its copy of the line is dropped. -/
def Obligations.AccessesFollowTheirPath : Prop :=
  ∀ (s : State) (c : Nat) (p : Xlat) (n : Nat), hubRange p.pa = false → p.cnt = false → p.pa % n = 0 →
    n ∈ [1, 2, 4, 8, 16] →
    (p.sh = true → (s.core c).line (p.pa / 64) = none → (∀ u ∈ unitsOf p.pa n, s.unitBad u = false) →
      s.loadAt c p n = (s, .ok (Memory.readNat s.mem p.pa n)) ∧
      ∀ m asid priv va data en, ∃ t, s.storeAt c m asid priv va p n data en = (t, .ok ()) ∧
        ∀ a, Memory.read t.mem a =
          if p.pa ≤ a ∧ a < p.pa + n ∧ bitAt en (a - p.pa) = true then BitVec.ofNat 8 (data / 256 ^ (a - p.pa))
          else Memory.read s.mem a) ∧
    (p.sh = true → ∀ l, (s.core c).line (p.pa / 64) = some l → l.bad = 0 →
      (∀ u, u < 8 → s.unitBad (p.pa / 64 * 8 + u) = false) →
      ∃ t, s.loadAt c p n = (t, .ok (Memory.readNat t.mem p.pa n)) ∧ (t.core c).line (p.pa / 64) = none ∧
        ∀ a, Memory.read t.mem a = Spec.homeByte s c [p.pa / 64] a) ∧
    (p.sh = false → ∀ l, (s.core c).line (p.pa / 64) = some l → l.bad = 0 →
      s.loadAt c p n = (s, .ok (l.data.toNat / 256 ^ (p.pa % 64) % 256 ^ n)) ∧
      ∀ m asid priv va data en, ∃ t l', s.storeAt c m asid priv va p n data en = (t, .ok ()) ∧ t.mem = s.mem ∧
        (t.core c).line (p.pa / 64) = some l' ∧
        ∀ k, k < 64 →
          let on : Prop := p.pa % 64 ≤ k ∧ k < p.pa % 64 + n ∧ bitAt en (k - p.pa % 64) = true
          (on → l'.data.toNat / 256 ^ k % 256 = data / 256 ^ (k - p.pa % 64) % 256 ∧ l'.dirty.getLsbD k = true) ∧
          (¬on → l'.data.toNat / 256 ^ k % 256 = l.data.toNat / 256 ^ k % 256 ∧ l'.dirty.getLsbD k = l.dirty.getLsbD k))

/-- R7, R144, R210, R214, R217: LOAD_DATA_LANDS performs a lane of LD, GATHER or a GATHER.P that does not count along its
path, an L1-path lane after the copies that earlier accesses at home drop, and writes its data into the lane's registers, low
word first, and for GATHER.P a 1 into vc; no other lane register changes, and memory is what the load leaves. R215:
STORE_PERFORMED performs a lane of ST or SCATTER along its path in the same way and writes no register. -/
def Sys2Proof.Spec.LaneAccessesPerformed : Prop :=
  ∀ (s : State) (c w : Nat) (o : Op) (v : Warp) (m : Team) (x : MemArgs) (sp : MemSpec) (a : Acc),
    Spec.LaneTurn s c w o v m x sp a →
    let d := if a.path = .l1 then s.dropEarlier c o (a.pa / 64) else s
    (∀ u val, d.loadAt c a.xlat sp.n a.drop = (u, .ok val) →
      (o.instr = .ld x ∨ o.instr = .gather x →
        ∃ t v', exec (.loadDataLands c w o.id (maskOf [a.lane])) s = .next t ∧ t.warp c w = some v' ∧ t.mem = u.mem ∧
          (∀ r l, v'.v_ r l = (v.setVs x.vd.toNat a.lane (loadWords x.w val)).v_ r l) ∧
          Spec.LaneDone t c w o v { a with ret := val }) ∧
      (o.instr = .gatherP x → x.imm ≠ 1 →
        ∃ t v', exec (.loadDataLands c w o.id (maskOf [a.lane])) s = .next t ∧ t.warp c w = some v' ∧ t.mem = u.mem ∧
          (∀ r l, v'.v_ r l =
            ((v.setVs x.vd.toNat a.lane (loadWords x.w val)).setV x.vc.toNat a.lane 1).v_ r l) ∧
          Spec.LaneDone t c w o v { a with ret := val })) ∧
    (∀ u, d.storeAt c v.team m.asid m.priv a.va a.xlat sp.n a.data a.en a.drop = (u, .ok ()) →
      o.instr = .st x ∨ o.instr = .scatter x →
      ∃ t v', exec (.storePerformed c w o.id (maskOf [a.lane])) s = .next t ∧ t.warp c w = some v' ∧ v'.v = v.v ∧
        t.mem = u.mem ∧ Spec.LaneDone t c w o v a)

/-- The new value each atomic of R219 writes, from its type, the old value and its operands. -/
def Sys2Proof.Spec.atomicResults (x : MemArgs) : List (Instr × (Nat → Nat → Nat → Nat)) :=
  let n := x.w.bytes
  let f := x.w == .f32
  let sgn := x.w == .s32 || x.w == .s64
  let lt (a b : Nat) : Bool := intOf sgn (8 * n) a < intOf sgn (8 * n) b
  let add (m b _c : Nat) : Nat := if f = true then fAdd .f32 m b else (m + b) % 256 ^ n
  let least (m b _c : Nat) : Nat := if f = true then fMin m b else if lt b m = true then b else m
  let most (m b _c : Nat) : Nat := if f = true then fMax m b else if lt m b = true then b else m
  [(.atomAdd x, add), (.redAdd x, add), (.atomMin x, least), (.redMin x, least), (.atomMax x, most), (.redMax x, most),
   (.atomAnd x, fun m b _ => m &&& b), (.redAnd x, fun m b _ => m &&& b), (.atomOr x, fun m b _ => m ||| b),
   (.redOr x, fun m b _ => m ||| b), (.atomXor x, fun m b _ => m ^^^ b), (.redXor x, fun m b _ => m ^^^ b),
   (.atomExch x, fun _ b _ => b), (.atomCas x, fun m b c => if m = b then c else m)]

/-- R144, R219: ATOMIC_AT_HOME reads the element at home, in a page that is not counted, and writes the operation's result
in the same step; an ATOM lane receives the old value, a RED lane nothing, and no other byte of memory changes. -/
def Sys2Proof.Spec.AtomicsAtHome : Prop :=
  ∀ (s : State) (c w : Nat) (o : Op) (v : Warp) (m : Team) (x : MemArgs) (sp : MemSpec) (a : Acc)
    (g : Nat → Nat → Nat → Nat),
    Spec.LaneTurn s c w o v m x sp a → (o.instr, g) ∈ Spec.atomicResults x → a.path = .home → a.cnt = false →
    hubRange a.pa = false → (s.core c).line (a.pa / 64) = none → (∀ u ∈ unitsOf a.pa sp.n, s.unitBad u = false) →
    x.w ∈ [AccType.b32, .n32, .s32, .f32, .b64, .n64, .s64] →
    let old := Memory.readNat s.mem a.pa sp.n
    ∃ t v', exec (.atomicAtHome c w o.id (maskOf [a.lane])) s = .next t ∧ t.warp c w = some v' ∧
      t.mem = Memory.writeN s.mem a.pa (leBytes sp.n (g old a.data a.cmp)) ∧
      (∀ r l, v'.v_ r l = (match o.instr with
        | .atomAdd _ | .atomMin _ | .atomMax _ | .atomAnd _ | .atomOr _ | .atomXor _ | .atomExch _ | .atomCas _ =>
          v.setVs x.vd.toNat a.lane (loadWords x.w old)
        | _ => v).v_ r l) ∧
      Spec.LaneDone t c w o v { a with ret := old }

/-- Lanes complete their loads, and atomics are performed at home (R7, R144, R210, R214, R215, R217, R219). -/
def Obligations.LaneAccessesAndAtomics : Prop :=
  Spec.LaneAccessesPerformed ∧
  Spec.AtomicsAtHome

/-- Address `va` at home is a primary address of a valid ADT entry `e`, whose count word at `cpa` reads `n`. -/
def Sys2Proof.Spec.CountedAt (s u : State) (asid : Asid) (priv : Bool) (va pa : Nat) (cnt : Bool) (acc : Access)
    (e : AdtEnt) (n cpa : Nat) : Prop :=
  ∃ u', s.classAdj (homeOf pa).1 asid va cnt = (u', .ok (.primary e)) ∧
    u'.countAt (homeOf pa).1 asid priv e va acc = (u, .ok (n, cpa))

/-- An operation has ended with a fault of a lane at an address: the trap is recorded against the operation's split, whose
queue is discarded (R171, R280). -/
def Sys2Proof.Spec.FaultRecorded (s t : State) (c w : Nat) (o : Op) (v : Warp) (m : Team) (lane va : Nat) (k : Cause) :
    Prop :=
  ∀ sp, s.split ⟨c, w, o.entry⟩ = some sp → sp.live = true → ∃ sp', t.split ⟨c, w, o.entry⟩ = some sp' ∧ sp'.cq = [] ∧
    sp'.pend = sp.pend ++
      [{ laneTrap k lane (laneVa m o.unit) (BitVec.ofNat 54 va) with held := !s.issuing c v.team }]

/-- Lane access `a` of an operation fails at its home: no register changes; the operation goes on with its other lanes or,
where `a` is its only one, is gone with its trap recorded (R171, R213). -/
def Sys2Proof.Spec.LaneFails (s t : State) (c w : Nat) (o : Op) (v : Warp) (m : Team) (a : Acc) (k : Cause) : Prop :=
  ∃ v', t.warp c w = some v' ∧ v'.v = v.v ∧
    ((∃ b ∈ o.accs, b.lane ≠ a.lane ∧ b.st.isOver = false) →
      v'.op o.id = some { o with accs := putAccs [{ a with st := .failed k }] o.accs }) ∧
    ((∀ b ∈ o.accs, b.lane = a.lane) → v'.op o.id = none ∧ Spec.FaultRecorded s t c w o v m a.lane a.va k)

/-- R86, R223: COUNTED_LOAD_AT_HOME returns the primary element of LDF and raises the granule's COUNT by 1, clearing the
sticky bit as COUNT leaves 0; a full COUNT raises ADJ_COUNT_OVERFLOW. R223, R226: LDF.rc loads without counting, and ADJQ
returns the count word. -/
def Sys2Proof.Spec.CountedLoads : Prop :=
  ∀ (s u : State) (c w : Nat) (o : Op) (v : Warp) (m : Team) (x : MemArgs) (sp : MemSpec) (a : Acc) (e : AdtEnt)
    (n cpa : Nat),
    Spec.LaneTurn s c w o v m x sp a → a.path = .home → a.cnt = true → hubRange a.pa = false →
    (s.core c).line (a.pa / 64) = none → (∀ k ∈ unitsOf a.pa sp.n, s.unitBad k = false) →
    (o.instr = .ldf x → Spec.CountedAt s u m.asid m.priv a.va a.pa true .atomic e n cpa →
      (countOf n ≠ 2 ^ 24 - 1 →
        ∃ t v', exec (.countedLoadAtHome c w o.id (maskOf [a.lane])) s = .next t ∧ t.warp c w = some v' ∧
          t.mem = Memory.writeN s.mem cpa (leBytes 4 ((if countOf n = 0 then n - n / 2 ^ 24 % 2 * 2 ^ 24 else n) + 1)) ∧
          (∀ r l, v'.v_ r l =
            (v.setVs x.vd.toNat a.lane (loadWords x.w (Memory.readNat s.mem a.pa sp.n))).v_ r l)) ∧
      (countOf n = 2 ^ 24 - 1 →
        ∃ t, exec (.countedLoadAtHome c w o.id (maskOf [a.lane])) s = .next t ∧ t.mem = s.mem ∧
          Spec.LaneFails s t c w o v m a .adjCountOverflow)) ∧
    (o.instr = .ldfRc x → ∀ u', s.classAdj (homeOf a.pa).1 m.asid a.va true = (u', .ok (.primary e)) →
      ∃ t v', exec (.loadDataLands c w o.id (maskOf [a.lane])) s = .next t ∧ t.warp c w = some v' ∧ t.mem = s.mem ∧
        ∀ r l, v'.v_ r l = (v.setVs x.vd.toNat a.lane (loadWords x.w (Memory.readNat s.mem a.pa sp.n))).v_ r l) ∧
    (o.instr = .adjq x → ∀ u', s.classify (homeOf a.pa).1 m.asid a.va true = (u', .ok (.primary e)) →
      u'.countAt (homeOf a.pa).1 m.asid m.priv e a.va .read = (u, .ok (n, cpa)) →
      ∃ t v', exec (.loadDataLands c w o.id (maskOf [a.lane])) s = .next t ∧ t.warp c w = some v' ∧ t.mem = s.mem ∧
        ∀ r l, v'.v_ r l = (v.setVs x.vd.toNat a.lane (loadWords x.w n)).v_ r l)

/-- R49, R50, R87, R224: ADJA_AT_HOME adds the addend to the twin element, in f32 or exactly in fx64, and lowers the
granule's COUNT by 1, in one step; with COUNT 0 the lane fails with ADJ_SURPLUS_STORE and memory stays. -/
def Sys2Proof.Spec.AdjointAccumulates : Prop :=
  ∀ (s u u' z : State) (c w : Nat) (o : Op) (v : Warp) (m : Team) (x : MemArgs) (sp : MemSpec) (a : Acc) (e : AdtEnt)
    (n cpa : Nat) (tw : Xlat),
    Spec.LaneTurn s c w o v m x sp a → o.instr = .adja x → a.path = .home → a.cnt = true →
    (s.core c).line (a.pa / 64) = none → s.classAdj (homeOf a.pa).1 m.asid a.va true = (u, .ok (.primary e)) →
    (a.va - e.pbase) % 2 ^ e.esz = 0 →
    u.translateStack (homeOf a.pa).1 m.asid m.priv (e.twinVa a.va) .atomic = (u', .ok tw) →
    u'.countAt (homeOf a.pa).1 m.asid m.priv e a.va .atomic = (z, .ok (n, cpa)) →
    (∀ k ∈ unitsOf tw.pa e.tsize, s.unitBad k = false) →
    let old := Memory.readNat s.mem tw.pa e.tsize
    (countOf n ≠ 0 →
      ∃ t v', exec (.adjaAtHome c w o.id (maskOf [a.lane])) s = .next t ∧ t.warp c w = some v' ∧ v'.v = v.v ∧
        t.mem = Memory.writeN (Memory.writeN s.mem tw.pa (leBytes e.tsize
          (if e.tf = true then (adjFx old (decodeF .f32 a.data) e.scale).1 else fAdd .f32 old a.data))) cpa
          (leBytes 4 ((n - 1) ||| if e.tf = true ∧ (adjFx old (decodeF .f32 a.data) e.scale).2 = true then 2 ^ 24 else 0))) ∧
    (countOf n = 0 →
      ∃ t, exec (.adjaAtHome c w o.id (maskOf [a.lane])) s = .next t ∧ t.mem = s.mem ∧
        Spec.LaneFails s t c w o v m a .adjSurplusStore)

/-- R88, R225: ADJR_AT_HOME with COUNT 0 returns the twin element, as f32 or whole, and writes zero over it in the same
step. With COUNT not 0, ADJR.wait, and ADJR where EBLK is set, wait at home for up to the ADT's time limit, and an ADJR
with EBLK clear fails with ADJ_EARLY_READ and memory as it was. ADJR_WAIT_RELEASE performs a waiting lane once COUNT is 0,
and ADJR_WAIT_TIMEOUT ends one whose time is over with ADJ_EARLY_READ. -/
def Sys2Proof.Spec.AdjointReads : Prop :=
  (∀ (s u u' z : State) (c w : Nat) (o : Op) (v : Warp) (m : Team) (x : MemArgs) (sp : MemSpec) (a : Acc) (e : AdtEnt)
    (n cpa : Nat) (tw : Xlat),
    s.findOp c w o.id = some (o, v, m) → memSpec o.instr = some (x, sp) → o.instr = .adjr x ∨ o.instr = .adjrWait x →
    o.accs.find? (·.lane == a.lane) = some a → a.lane < 32 → a.path = .home → a.cnt = true →
    (∀ b ∈ o.accs, b.st.held = false ∧ (b.st = .todo → b.path ≠ .fabric)) →
    (s.core c).line (a.pa / 64) = none → s.classAdj (homeOf a.pa).1 m.asid a.va true = (u, .ok (.primary e)) →
    (a.va - e.pbase) % 2 ^ e.esz = 0 → (x.w = .fx64 → e.tf = true) →
    u.translateStack (homeOf a.pa).1 m.asid m.priv (e.twinVa a.va) .atomic = (u', .ok tw) →
    u'.countAt (homeOf a.pa).1 m.asid m.priv e a.va .read = (z, .ok (n, cpa)) →
    (∀ k ∈ unitsOf tw.pa e.tsize, s.unitBad k = false) →
    let el := Memory.readNat s.mem tw.pa e.tsize
    let val := if e.tf = true ∧ x.w ≠ .fx64 then fxToF32 el e.scale else el
    let read (t : State) : Prop := ∃ v', t.warp c w = some v' ∧
      t.mem = Memory.writeN s.mem tw.pa (List.replicate e.tsize 0) ∧
      ∀ r l, v'.v_ r l = (v.setVs x.vd.toNat a.lane (loadWords x.w val)).v_ r l
    (Spec.LaneTurn s c w o v m x sp a →
      (countOf n = 0 → ∃ t, exec (.adjrAtHome c w o.id (maskOf [a.lane])) s = .next t ∧ read t) ∧
      (countOf n ≠ 0 →
        ∃ t v', exec (.adjrAtHome c w o.id (maskOf [a.lane])) s = .next t ∧ t.mem = s.mem ∧ t.warp c w = some v' ∧
          v'.v = v.v ∧
          (o.instr = .adjrWait x ∨ e.eblk = true → v'.op o.id = some { o with accs := putAccs [{ a with
            st := .waiting (if e.tmo = 0 then none else some (s.clock.toNat + e.tmo * 940)) }] o.accs }) ∧
          (o.instr = .adjr x → e.eblk = false → Spec.LaneFails s t c w o v m a .adjEarlyRead))) ∧
    (∀ d, a.st = .waiting d → countOf n = 0 →
      ∃ t, exec (.adjrWaitRelease c w o.id (maskOf [a.lane])) s = .next t ∧ read t)) ∧
  ∀ (s : State) (c w : Nat) (o : Op) (v : Warp) (m : Team) (x : MemArgs) (sp : MemSpec) (a : Acc) (d : Nat),
    s.findOp c w o.id = some (o, v, m) → memSpec o.instr = some (x, sp) →
    o.accs.find? (·.lane == a.lane) = some a → a.lane < 32 → a.st = .waiting (some d) → d ≤ s.clock.toNat →
    (∀ b ∈ o.accs, b.lane = a.lane) →
    ∃ t v', exec (.adjrWaitTimeout c w o.id (maskOf [a.lane])) s = .next t ∧ t.mem = s.mem ∧ t.warp c w = some v' ∧
      v'.v = v.v ∧ v'.op o.id = none ∧ Spec.FaultRecorded s t c w o v m a.lane a.va .adjEarlyRead

/-- Counted loads, adjoint accumulates and adjoint reads at home (R49, R50, R86, R87, R88, R223, R224, R225, R226). -/
def Obligations.AdjointOperations : Prop :=
  Spec.CountedLoads ∧
  Spec.AdjointAccumulates ∧
  Spec.AdjointReads

/-- R145, R220: PHASE.rel dispatches over the lines dirty then and PHASE.acq over those clean then, once the warp's earlier
memory accesses are performed; PHASE_COMPLETE of a PHASE.rel leaves none of its lines dirty, and the dirty bytes of those whose
units are all good are in memory, where no other byte has changed; of a PHASE.acq it leaves none in the L1 while clean;
L1_WRITEBACK writes a dirty line's good bytes home and drops the line, and does nothing to another. -/
def Obligations.PhasesAndWriteBack : Prop :=
  (∀ (s : State) (y : LCtx) (x : EngArgs), y.x.warp.priorDone y.x.warp.freshOp = true →
    (LaneReady s y (.phaseRel x) → ∃ t, exec (.phaseRel x) s = .next t ∧ Spec.Launches s t y (Spec.opOf y (.phaseRel x) []
      .none (.phase (((s.core y.x.who.core).l1.filter fun l => decide (l.dirty ≠ 0)).map (·.line))))) ∧
    (LaneReady s y (.phaseAcq x) → ∃ t, exec (.phaseAcq x) s = .next t ∧ Spec.Launches s t y (Spec.opOf y (.phaseAcq x) []
      .none (.phase (((s.core y.x.who.core).l1.filter fun l => decide (l.dirty = 0)).map (·.line)))))) ∧
  (∀ (s : State) (c w : Nat) (o : Op) (v : Warp) (m : Team) (x : EngArgs) (lines : List Nat),
    s.findOp c w o.id = some (o, v, m) → o.aux = .phase lines → o.accs = [] →
    (o.instr = .phaseRel x → ∃ t, exec (.phaseComplete c w o.id) s = .next t ∧
      (∀ n ∈ lines, ∀ l, (t.core c).line n = some l → l.dirty = 0) ∧
      ((∀ n ∈ lines, ∀ l, (s.core c).line n = some l → l.bad = 0 ∧ ∀ u, u < 8 → s.unitBad (n * 8 + u) = false) →
        ∀ a, Memory.read t.mem a = Spec.homeByte s c lines a) ∧
      ∃ v', t.warp c w = some v' ∧ v'.op o.id = none) ∧
    (o.instr = .phaseAcq x → ∃ t, exec (.phaseComplete c w o.id) s = .next t ∧ t.mem = s.mem ∧
      (∀ n ∈ lines, ∀ l, (t.core c).line n = some l → l.dirty ≠ 0) ∧ ∃ v', t.warp c w = some v' ∧ v'.op o.id = none)) ∧
  (∀ (s : State) (c n : Nat), (∀ l, (s.core c).line n = some l → l.dirty = 0) → exec (.l1Writeback c n) s = .next s) ∧
  ∀ (s : State) (c n : Nat) (l : L1Line), (s.core c).line n = some l → l.dirty ≠ 0 → l.bad = 0 →
    (∀ u, u < 8 → s.unitBad (n * 8 + u) = false) → s.firnDown (n * 64) = false →
    ∃ t, exec (.l1Writeback c n) s = .next t ∧ (t.core c).line n = none ∧
      ∀ a, Memory.read t.mem a = Spec.homeByte s c [n] a

/-- An operation is in flight in the warp, whose clause has moved on and which is else as before but for its flags (R7,
R23, R58). -/
def Sys2Proof.Spec.InFlight (t : State) (y : LCtx) (o : Op) : Prop :=
  ∃ w, t.warp y.x.who.core y.x.who.slot = some w ∧
    w = { y.x.warp with f := w.f, splits := w.splits, ops := w.ops, nextId := o.id + 1 } ∧
    w.ops = ((({ y.x.warp with ops := y.x.warp.ops ++ [o] }).modSplit y.x.who.entry Split.stepClause).sweep
      y.x.who.entry).ops ∧
    ∀ n, n < 12 → w.flag n = y.x.warp.flag n + if o.flags.getLsbD n = true then 1 else 0

/-- R238: GANGSET of 0 clears GANG; of a mask of the team's warps that holds the warp's own index, in a matrix team, it sets
GANG to V and the mask; a value with bits above 15 raises RESERVED_FIELD, and any other raises GANG_INVALID; a fault leaves
GANG as it was. -/
def Sys2Proof.Spec.GangsetResults : Prop :=
  ∀ (s : State) (y : LCtx) (x : EngArgs), LaneReady s y (.gangset x) →
    let v := captured y.clause.gs x.g
    let sets (g : Word) : Prop := ∃ t, exec (.gangset x) s = .next t ∧
      Dispatches s t y (s.core y.x.who.core) { y.x.warp with gang := g }
    let fails (c : Cause) : Prop := exec (.gangset x) s = .next (s.laneFault y c y.low 0)
    (v.toNat < 2 ^ 16 → v = 0 → sets 0) ∧
    (v.toNat < 2 ^ 16 → v ≠ 0 → y.x.team.matrix = true → v.getLsbD y.x.warp.widx = true →
      v.toNat < 2 ^ y.x.team.warps.length → sets (0x80000000 ||| v)) ∧
    (2 ^ 16 ≤ v.toNat → fails .reservedField) ∧
    (v.toNat < 2 ^ 16 → v ≠ 0 →
      y.x.team.matrix = false ∨ v.getLsbD y.x.warp.widx = false ∨ 2 ^ y.x.team.warps.length ≤ v.toNat →
      fails .gangInvalid)

/-- R45, R46, R233, R235: where the stored and the compute format of A agree and no outlier mode is on, output (r, c) of an
MMA's dispatch is the exact sum over the slice of A's row r by B's column c, in one pass, or two in redundant mode. -/
def Obligations.MatrixSumsAreExact : Prop :=
  ∀ (k : Core) (m : Team) (f : FmtBlk) (a b : List (List XVal)), f.out = 0 → f.sfa = f.cfa → f.ok = true →
    readA k m f 0 64 = .ok a → readB k f 0 128 = .ok b →
    ∃ sums, mmaSums k m f = .ok (sums, if f.red = true then 2 else 1) ∧ sums.length = 8192 ∧
      ∀ r c, r < 64 → c < 128 →
        sums.getD (128 * r + c) xZero = xsum (List.zipWith xmul (a.getD r []) (b.getD c []))

/-- R234 to R236, R239, R240: an MMA whose block checks, at a free array, is in flight until 32 cycles a pass have gone by,
and the array is busy as long; MMA_DISPATCH does so for an MMA that waited for the array; at a busy array MMA waits. An
MMA.j before the last of its mask waits at its latch and raises no flag; the MMA.j of a warp that is its whole mask
dispatches as an MMA. -/
def Sys2Proof.Spec.MatrixMultipliesDispatch : Prop :=
  ∀ (s : State) (y : LCtx) (x : EngArgs), y.x.team.matrix = true → blkFault y.x.team x.imm.toNat = none →
    let c := y.x.who.core
    let runs (i : Instr) (s t : State) (f : FmtBlk) (r : List XVal × Nat) : Prop :=
      Spec.InFlight t y (Spec.opOf y i [] .none
        (.mma f.acc (f.accm == 1) (s.clock.toNat + 32 * r.2) r.1 [] (if f.red = true then some false else none))) ∧
      (t.core c).mmaBusy = 32 * r.2 ∧
      t.mem = s.mem ∧ (t.core c).am = (s.core c).am
    (∀ f r, mmaWork s.feat (s.core c) y.x.team x.imm.toNat = .ok (f, r) → (s.core c).mmaBusy = 0 →
      (LaneReady s y (.mma x) → ∃ t, exec (.mma x) s = .next t ∧ runs (.mma x) s t f r) ∧
      (∀ z, s.headInstr y.x.who = some (y, .mma x) →
        LaneReady { s.noteIssue y.x.who true with cur := y.x.who } z (.mma x) →
        y.x.split.laneWait = .array → (s.core c).inLatch y.x.who.slot = false →
        ∃ t, exec (.mmaDispatch c y.x.who.slot y.x.who.entry) s = .next t ∧ runs (.mma x) s t f r) ∧
      (LaneReady s y (.mmaJ x) → s.headInstr y.x.who = some (y, .mmaJ x) → (s.core c).latches = [] →
        y.x.warp.gang.getLsbD 31 = true → maskCount (BitVec.ofNat 16 y.x.warp.gang.toNat) = 1 → y.x.warp.retired = false →
        (s.core c).listedRetired y.x.warp.team (BitVec.ofNat 16 y.x.warp.gang.toNat) = false →
        ∃ t, exec (.mmaJ x) s = .next t ∧ runs (.mmaJ x) s t f r)) ∧
    ((s.core c).mmaBusy ≠ 0 → LaneReady s y (.mma x) →
      exec (.mma x) s = .next (s.modSplit y.x.who fun sp => { sp with laneWait := .array })) ∧
    (LaneReady s y (.mmaJ x) → (s.core c).latches = [] → y.x.warp.gang.getLsbD 31 = true →
      1 < maskCount (BitVec.ofNat 16 y.x.warp.gang.toNat) →
      (s.core c).listedRetired y.x.warp.team (BitVec.ofNat 16 y.x.warp.gang.toNat) = false →
      ∃ t w, exec (.mmaJ x) s = .next t ∧ t.warp c y.x.who.slot = some w ∧ w.f = y.x.warp.f ∧ w.ops = y.x.warp.ops ∧
        (t.core c).latches = [{ team := y.x.warp.team, wmask := BitVec.ofNat 16 y.x.warp.gang.toNat, imm := x.imm,
                                waiting := [(y.x.who.slot, y.x.who.entry)] }])

/-- GANGSET and the dispatch of MMA and MMA.j (R234, R235, R236, R238, R239, R240). -/
def Obligations.MatrixDispatch : Prop :=
  Spec.GangsetResults ∧
  Spec.MatrixMultipliesDispatch

/-- R150, R237: MMA_COMPLETE, once its last pass has ended and no earlier AM write to its tile is in flight, writes each of
the tile's 8,192 words: the old word, or +0 in overwrite mode, plus its exact sum, rounded once to f32 with the default
NaN; no other AM word changes, and the operation ends. In redundant mode, where the halves differ, no AM word changes;
R83: nor where an old word that it adds to cannot be read.
That a soft error of the array raises MATRIX_MISMATCH with TRAP_ADDR 0 is the model's reading (log 45). -/
def Sys2Proof.Spec.MatrixMultiplyCompletes : Prop :=
  ∀ (s : State) (c w : Nat) (o : Op) (v : Warp) (m : Team) (acc : Nat) (ow : Bool) (endsAt : Nat) (sums : List XVal)
    (half : Option Bool),
    s.findOp c w o.id = some (o, v, m) → o.accs = [] → o.aux = .mma acc ow endsAt sums [] half → sums.length = 8192 →
    endsAt ≤ s.clock.toNat → (s.core c).amFirst o = true →
    (half = some true → ∃ t, exec (.mmaComplete c w o.id) s = .next t ∧ (t.core c).am = (s.core c).am ∧ t.mem = s.mem) ∧
    (half ≠ some true → ow = false → (s.core c).badTile acc ≠ none →
      ∃ t, exec (.mmaComplete c w o.id) s = .next t ∧ (t.core c).am = (s.core c).am ∧ t.mem = s.mem) ∧
    (half ≠ some true → ow = true ∨ (s.core c).badTile acc = none →
    ∃ t v', exec (.mmaComplete c w o.id) s = .next t ∧ t.warp c w = some v' ∧ v'.op o.id = none ∧ v'.v = v.v ∧
      t.mem = s.mem ∧
      ∀ i, amGet 0 (t.core c).am i =
        if acc ≤ i ∧ i < acc + 8192 then
          let r := xadd (decodeF .f32 (if ow = true then 0 else (amGet 0 (s.core c).am i).toNat)) (sums.getD (i - acc) xZero)
          BitVec.ofNat 32 (roundF .f32 (if r.isNan = true then xDefault else r))
        else amGet 0 (s.core c).am i)

/-- R241: BLD whose lanes pass its checks reads each active lane's LM bytes at dispatch and is in flight with them;
BLD_COMPLETE puts them into the névé slice, the highest lane's bytes on top, and ends the operation. -/
def Sys2Proof.Spec.BlockLoads : Prop :=
  (∀ (s : State) (y : LCtx) (x : EngArgs), LaneReady s y (.bld x) → y.x.team.matrix = true →
    let n := x.imm.toNat
    let src (l : Nat) : Nat := (y.x.warp.vv x.va.toNat l).toNat
    let dst (l : Nat) : Nat := (y.x.warp.vv x.vb.toNat l).toNat
    (∀ l ∈ y.lanes, src l % 16 = 0 ∧ dst l % 16 = 0 ∧ src l + n ≤ y.x.team.lmSize ∧ dst l + n ≤ 2 ^ 18 ∧
      ∀ u ∈ unitsOf (y.x.team.lmBase + src l) n, u ∉ (s.core y.x.who.core).lmBad) →
    ∃ t, exec (.bld x) s = .next t ∧ Spec.Launches s t y (Spec.opOf y (.bld x) [] .none
      (.bld (y.lanes.map fun l => (dst l, byteRead (s.core y.x.who.core).lm (y.x.team.lmBase + src l) n))))) ∧
  ∀ (s : State) (c w : Nat) (o : Op) (v : Warp) (m : Team) (parts : List (Nat × List Byte)),
    s.findOp c w o.id = some (o, v, m) → o.accs = [] → o.aux = .bld parts →
    ∃ t v', exec (.bldComplete c w o.id) s = .next t ∧ t.warp c w = some v' ∧ v'.op o.id = none ∧ v'.v = v.v ∧
      t.mem = s.mem ∧
      ∀ a, amGet 0 (t.core c).neve a =
        match parts.reverse.find? fun p => decide (p.1 ≤ a ∧ a < p.1 + p.2.length) with
        | some p => p.2.getD (a - p.1) 0
        | none => amGet 0 (s.core c).neve a

/-- R150, R242: with every lane's AM index a multiple of the width and inside AM, LDACC writes AM words to the lanes'
registers; STACC and ZACC are in flight with the words each lane writes, and ACC_WRITE_APPLIED writes them, higher lanes
last, after every earlier AM write of the core to the same words. -/
def Sys2Proof.Spec.AccumulatorAccesses : Prop :=
  (∀ (s : State) (y : LCtx) (x : EngArgs), y.x.team.matrix = true →
    let c := accWidth x.q6
    let k := s.core y.x.who.core
    let at_ (l : Nat) : Nat := ((y.x.warp.vv x.va.toNat l).toNat + x.imm.toNat) % 2 ^ 32
    ((∀ l ∈ y.lanes, at_ l % c = 0 ∧ at_ l + c ≤ 65536) →
      (LaneReady s y (.ldacc x) → (∀ l ∈ y.lanes, ∀ j, j < c → (at_ l + j) / 2 ∉ k.amBad) →
        ∃ t w, exec (.ldacc x) s = .next t ∧ Dispatches s t y k w ∧ w = { y.x.warp with v := w.v } ∧
          (∀ l ∈ y.lanes, ∀ j, j < c → w.v_ (x.vd.toNat + j) l = cellOf (amGet 0 k.am (at_ l + j))) ∧
          ∀ r l, l < 32 → (l ∉ y.lanes ∨ r < x.vd.toNat ∨ x.vd.toNat + c ≤ r) → w.v_ r l = y.x.warp.v_ r l) ∧
      (LaneReady s y (.stacc x) → ∃ t, exec (.stacc x) s = .next t ∧ Spec.Launches s t y (Spec.opOf y (.stacc x) [] .none
        (.acc (y.lanes.map fun l => (at_ l, (List.range c).map fun j => y.x.warp.vv (x.vb.toNat + j) l)))))) ∧
    ((∀ l ∈ y.lanes, at_ l % 128 = 0 ∧ at_ l ≤ 65408) → LaneReady s y (.zacc x) →
      ∃ t, exec (.zacc x) s = .next t ∧ Spec.Launches s t y (Spec.opOf y (.zacc x) [] .none
        (.acc (y.lanes.map fun l => (at_ l, List.replicate 128 0)))))) ∧
  ∀ (s : State) (c w : Nat) (o : Op) (v : Warp) (m : Team) (parts : List (Nat × List Word)),
    s.findOp c w o.id = some (o, v, m) → o.accs = [] → o.aux = .acc parts → parts.length = (lanesOf o.act).length →
    (s.core c).amFirst o = true → (s.core c).amBad = [] →
    ∃ t v', exec (.accWriteApplied c w o.id) s = .next t ∧ t.warp c w = some v' ∧ v'.op o.id = none ∧ v'.v = v.v ∧
      t.mem = s.mem ∧
      ∀ i, amGet 0 (t.core c).am i =
        match parts.reverse.find? fun p => decide (p.1 ≤ i ∧ i < p.1 + p.2.length) with
        | some p => p.2.getD (i - p.1) 0
        | none => amGet 0 (s.core c).am i

/-- R106, R231, R243, R244: DUPMAP of a format block, of which it reads word 3 alone, with an even MAP inside the partition
loads a valid map of N channels, all 64 entries of it, and leaves all else; a map with a bad N or channel raises
FORMAT_BLOCK_INVALID. MWAIT with no earlier
matrix work in flight, of the warp, or in its core form of the core, goes on at once. -/
def Sys2Proof.Spec.DupmapAndMwait : Prop :=
  (∀ (s : State) (y : LCtx) (x : EngArgs) (ws bs : List Byte), LaneReady s y (.dupmap x) →
    y.x.team.matrix = true → blkFault y.x.team x.imm.toNat = none →
    (s.core y.x.who.core).lmRead (y.x.team.lmBase + x.imm.toNat + 24) 8 = .ok ws →
    let f := parseBlk 0 0 0 (leNat ws)
    f.map % 2 = 0 → f.ktot ≠ 0 →
    f.map + 130 ≤ y.x.team.lmSize → (s.core y.x.who.core).lmRead (y.x.team.lmBase + f.map) 130 = .ok bs →
    let n := leNat (bs.take 2)
    let ch (j : Nat) : Nat := leNat ((bs.drop (2 + 2 * j)).take 2)
    let good : Prop := n ≤ 64 ∧ (∀ j, j < n → ch j < f.ktot) ∧ ∀ i j, i < n → j < n → ch i = ch j → i = j
    (good → ∃ t, exec (.dupmap x) s = .next t ∧
      Dispatches s t y { s.core y.x.who.core with dupN := n, dupCh := (List.range 64).map fun j => BitVec.ofNat 16 (ch j) }
        y.x.warp) ∧
    (¬good → exec (.dupmap x) s = .next (s.laneFault y .formatBlockInvalid y.low 0))) ∧
  ∀ (s : State) (y : LCtx) (x : EngArgs), LaneReady s y (.mwait x) →
    (∀ p ∈ (s.core y.x.who.core).warps, x.q6.getLsbD 0 = true ∨ p.1 = y.x.who.slot →
      ∀ o ∈ p.2.ops, isMatrix o.instr = false) →
    ∃ t w, exec (.mwait x) s = .next t ∧ t.warp y.x.who.core y.x.who.slot = some w ∧ w.v = y.x.warp.v ∧
      w.f = y.x.warp.f ∧ t.mem = s.mem ∧ (∀ o ∈ w.ops, ¬∃ z, o.instr = .mwait z ∧ o.id = y.x.warp.freshOp)

/-- Matrix multiplies, block loads and accumulator accesses complete (R83, R106, R150, R231, R237, R241, R242, R243, R244). -/
def Obligations.MatrixUnitResults : Prop :=
  Spec.MatrixMultiplyCompletes ∧
  Spec.BlockLoads ∧
  Spec.AccumulatorAccesses ∧
  Spec.DupmapAndMwait

/-- Instructions of the engine class whose operations write LM for their warp until they end: a pull, and an arrival on a
barrier object (R75, R131, R149). -/
def Sys2Proof.Spec.lmWriters (x : EngArgs) : List Instr :=
  [.next x, .nextBounded x, .barrive x, .barriveBytes x, .gbar x, .fbar x]

/-- R62, R63, R149, R248, R249: a KICK whose value passes the checks of R248, with no LM write of the warp outstanding, joins
its channel's kick queue; with COUNT 0 it changes nothing; a queue of 8 kicks, or an outstanding LM write, holds it
undispatched. WPTR writes SEQ and OFF of
the channel to each active lane. -/
def Obligations.KickAndWritePointer : Prop :=
  (∀ (s : State) (y : LCtx) (x : EngArgs), LaneReady s y (.kick x) →
    let v := (captured y.clause.gs x.g).toNat
    let chan := v % 4
    let first := v / 4 % 2 ^ 20 * 4
    let count := v / 2 ^ 22 % 256
    let k := s.core y.x.who.core
    v < 2 ^ 30 → v / 4 % 8 = 0 →
    (count = 0 → ∃ t, exec (.kick x) s = .next t ∧ Dispatches s t y k y.x.warp) ∧
    (count ≠ 0 → first + 32 * count ≤ y.x.team.lmSize →
      (8 ≤ (k.chan chan).kicks.length →
        exec (.kick x) s = .next (s.modSplit y.x.who fun sp => { sp with laneWait := .kickFull })) ∧
      ((k.chan chan).kicks.length < 8 → (∃ o ∈ y.x.warp.ops, (∃ z, o.instr = .stc z) ∨ ∃ z, o.instr ∈ Spec.lmWriters z) →
        exec (.kick x) s = .next (s.modSplit y.x.who fun sp => { sp with laneWait := .operand })) ∧
      ((k.chan chan).kicks.length < 8 →
        (∀ o ∈ y.x.warp.ops, (∀ z, o.instr ≠ .stc z) ∧ ∀ z, o.instr ∉ Spec.lmWriters z) →
        ∃ t k', exec (.kick x) s = .next t ∧ Dispatches s t y k' y.x.warp ∧ k' = { k with chans := k'.chans } ∧
          (k'.chan chan).kicks = (k.chan chan).kicks ++
            [{ team := y.x.warp.team, gang := y.x.team.gang, first := first, count := count }] ∧
          ∀ j, j ≠ chan → k'.chan j = k.chan j))) ∧
  ∀ (s : State) (y : LCtx) (x : EngArgs), LaneReady s y (.wptr x) →
    Spec.WritesLanes s y (.wptr x) x.vd fun _ =>
      BitVec.ofNat 32 (((s.core y.x.who.core).chan (x.imm.toNat % 4)).seq.toNat * 2 ^ 20 +
        ((s.core y.x.who.core).chan (x.imm.toNat % 4)).off.toNat)

/-- R247, R250 to R252, R257 to R259: with aligned addresses, and for LAUNCH a queue number below 64, QPUSH, QFENCE, TQPOP,
TQSTEAL, TQDONE and LAUNCH dispatch: the operation is in flight with the claim's address in each lane that claims, nothing
claimed yet, and no register or byte of memory has changed. A misaligned address raises MISALIGNED; of TQDONE, whose lanes
go on whatever another does, only where every lane is misaligned, and otherwise those lanes have failed.
The value a QFENCE will write to BELL is open: it is a free value of the model (log 4). -/
def Sys2Proof.Spec.ClaimsDispatch : Prop :=
  ∀ (s : State) (y : LCtx) (x : EngArgs),
    let desc := capturedPair y.clause.gs x.g
    let pair (l : Nat) : Nat := (y.x.warp.vv x.va.toNat l).toNat + (y.x.warp.vv (x.va.toNat + 1) l).toNat * 2 ^ 32
    (LaneReady s y (.qpush x) → desc % 64 = 0 → ∃ t, exec (.qpush x) s = .next t ∧ Spec.Launches s t y
      (Spec.opOf y (.qpush x) (y.lanes.map fun l => claimAcc l desc 0) .none (.eng 0 []))) ∧
    (LaneReady s y (.qfence x) → desc % 64 = 0 → ∃ t body bell, exec (.qfence x) s = .next t ∧
      Spec.Launches { s with nfree := s.nfree + 1 } t y
        (Spec.opOf y (.qfence x) [claimAcc y.low desc body] .none (.eng 0 [0, 0, bell])) ∧
      ∀ j, j < 3 → body / 2 ^ (64 * j) % 2 ^ 64 =
        if y.act.getLsbD j = true then 2 ^ 63 + pair j / 2 ^ 32 % 256 * 2 ^ 32 + pair j % 2 ^ 32 else 0) ∧
    (LaneReady s y (.tqpop x) → pair y.low % 64 = 0 → ∃ t, exec (.tqpop x) s = .next t ∧ Spec.Launches s t y
      (Spec.opOf y (.tqpop x) [claimAcc y.low (pair y.low % 2 ^ 54) 0] .none (.eng 0 []))) ∧
    (LaneReady s y (.tqsteal x) → pair y.low % 64 = 0 → ∃ t, exec (.tqsteal x) s = .next t ∧ Spec.Launches s t y
      (Spec.opOf y (.tqsteal x) [claimAcc y.low (pair y.low % 2 ^ 54) 0] .none (.eng 0 []))) ∧
    (LaneReady s y (.tqdone x) → (∃ l ∈ y.lanes, pair l % 64 = 0) → ∃ t, exec (.tqdone x) s = .next t ∧ Spec.Launches s t y
      (Spec.opOf y (.tqdone x) (y.lanes.map fun l =>
        let a := claimAcc l (pair l % 2 ^ 54) (pair l / 2 ^ 54)
        if pair l % 64 = 0 then a else { a with st := .failed .misaligned }) .pending (.eng 0 []))) ∧
    (LaneReady s y (.tqdone x) → (∀ l ∈ y.lanes, pair l % 64 ≠ 0) →
      exec (.tqdone x) s = .next (s.laneFault y .misaligned y.low (BitVec.ofNat 54 (pair y.low % 2 ^ 54)))) ∧
    (LaneReady s y (.launch x) → (captured y.clause.gs x.g).toNat < 64 → (∀ l ∈ y.lanes, pair l % 32 = 0) →
      ∃ t, exec (.launch x) s = .next t ∧
        Spec.Launches { s with hub := { s.hub with launches := s.hub.launches + 1 } } t y (Spec.opOf y (.launch x)
          (y.lanes.map fun l => claimAcc l (pair l % 2 ^ 54) 0) .pending
          (.launch (captured y.clause.gs x.g).toNat [] false s.hub.launches))) ∧
    (LaneReady s y (.launch x) → (captured y.clause.gs x.g).toNat < 64 →
      ∀ l, y.lanes.find? (fun j => pair j % 32 != 0) = some l →
      exec (.launch x) s = .next (s.laneFault y .misaligned l (BitVec.ofNat 54 (pair l % 2 ^ 54)))) ∧
    (desc % 64 ≠ 0 → ∀ i ∈ [Instr.qpush x, .qfence x], LaneReady s y i →
      exec i s = .next (s.laneFault y .misaligned y.low (BitVec.ofNat 54 desc))) ∧
    (pair y.low % 64 ≠ 0 → ∀ i ∈ [Instr.tqpop x, .tqsteal x], LaneReady s y i →
      exec i s = .next (s.laneFault y .misaligned y.low (BitVec.ofNat 54 (pair y.low))))

/-- R125, R250, R257: one step of a claim at a home of this device, on a page that is not counted: QPUSH adds the number of
its lanes to WIDX in one atomic step; with RIDX read, each lane whose slot is free receives its slot number, by
QPUSH_SLOT_FREE where it had to wait; TQPOP takes an entry that is still as it was read by marking it CLAIMED. R142, R144: each
is so where no earlier access holds the claim back. -/
def Sys2Proof.Spec.ClaimSteps : Prop :=
  ∀ (s u : State) (c w : Nat) (o : Op) (v : Warp) (m : Team) (x : EngArgs) (a : Acc) (p : Xlat) (vals : List Nat),
    s.findOp c w o.id = some (o, v, m) → o.accs.find? (fun b => !b.st.isOver) = some a → a.st = .todo →
    o.released = true → hubRange p.pa = false → p.cnt = false → (s.core c).line (p.pa / 64) = none →
    (∀ k ∈ unitsOf p.pa 8, s.unitBad k = false) →
    let old := Memory.readNat s.mem p.pa 8
    (o.instr = .qpush x → o.aux = .eng 1 vals → descOk (engVal vals 0) = true → inAperture (a.va + 8) = false →
      s.claimHeld c v m o a (a.va + 8) = false → s.translate c m.asid m.priv (a.va + 8) .atomic = (u, .ok p) →
      ∃ t v', exec (.atomicAtHome c w o.id 0) s = .next t ∧ t.warp c w = some v' ∧ v'.v = v.v ∧
        t.mem = Memory.writeN s.mem p.pa (leBytes 8 ((old + o.accs.length) % 2 ^ 64)) ∧
        v'.op o.id = some { o with aux := .eng 2 [engVal vals 0, old] }) ∧
    (o.instr = .qpush x → o.aux = .eng 2 vals → inAperture (a.va + 16) = false →
      s.claimHeld c v m o a (a.va + 16) = false → s.translate c m.asid m.priv (a.va + 16) .atomic = (u, .ok p) → (∀ b ∈ o.accs, b.st = .todo) →
      o.accs.map (·.lane) = lanesOf o.act → engVal vals 1 + o.accs.length - old ≤ 2 ^ (engVal vals 0 / 2 ^ 58) →
      ∀ e ∈ [Instr.atomicAtHome c w o.id 0, .qpushSlotFree c w o.id 1],
        ∃ t v', exec e s = .next t ∧ t.warp c w = some v' ∧ t.mem = s.mem ∧ v'.op o.id = none ∧
          ∀ (j : Nat) (b : Acc), o.accs[j]? = some b → v'.v_ x.vd.toNat b.lane = cellOf (BitVec.ofNat 32 (engVal vals 1 + j))) ∧
    (o.instr = .tqpop x → o.aux = .eng 3 vals → engVal vals 2 = old → inAperture (tqEntry a.va (engVal vals 1)) = false →
      s.claimHeld c v m o a (tqEntry a.va (engVal vals 1)) = false →
      s.translate c m.asid m.priv (tqEntry a.va (engVal vals 1)) .atomic = (u, .ok p) →
      ∃ t v', exec (.atomicAtHome c w o.id 0) s = .next t ∧ t.warp c w = some v' ∧ v'.g = v.g ∧
        t.mem = Memory.writeN s.mem p.pa (leBytes 8 (putField old 62 2 1)) ∧
        v'.op o.id = some { o with aux := .eng 4 [engVal vals 0, engVal vals 1, old, 1] })

/-- R30, R114, R252: LAUNCH_APPEND, with the room reserved and the records read, writes them in lane order into the queue's next
places and no other byte of memory, advances TAIL by their number, gives up the reservation and ends the LAUNCH; it writes no
lane register.
That it looks at the queue's V and ASID no more is the model's choice (log 75). -/
def Sys2Proof.Spec.LaunchAppends : Prop :=
  ∀ (s : State) (c w : Nat) (o : Op) (v : Warp) (m : Team) (q : Nat) (rs : List (List Byte))
    (n : Nat), s.findOp c w o.id = some (o, v, m) → o.aux = .launch q rs true n → (∀ a ∈ o.accs, a.st = .waiting none) →
    let d := s.hub.queue q
    ∃ t v', exec (.launchAppend c w o.id) s = .next t ∧ t.warp c w = some v' ∧ v'.op o.id = none ∧ v'.v = v.v ∧ v'.g = v.g ∧
      (t.hub.queue q) = { d with tail := d.tail + BitVec.ofNat 32 rs.length } ∧
      (∀ p, p ≠ q → t.hub.queue p = s.hub.queue p) ∧ (q, c * 64 + w, o.id) ∉ t.hub.reservations ∧
      (∀ r, rs = [r] → t.mem = Memory.writeN s.mem (d.slot d.tail.toNat) r) ∧
      let place (j : Nat) : Nat := d.slot (d.tail + BitVec.ofNat 32 j).toNat
      ((∀ r ∈ rs, r.length = 32) → rs.length ≤ 32 → rs.length ≤ 2 ^ d.log2.toNat →
        (∀ j r, rs[j]? = some r → Memory.readN t.mem (place j) 32 = r) ∧
        ∀ a, (∀ j, j < rs.length → a < place j ∨ place j + 32 ≤ a) → Memory.read t.mem a = Memory.read s.mem a)

/-- Task-queue claims, QPUSH, QFENCE and LAUNCH: dispatch and steps (R30, R114, R125, R142, R144, R247, R250, R251, R252, R257, R258, R259). -/
def Obligations.QueuesAndLaunches : Prop :=
  Spec.ClaimsDispatch ∧
  Spec.ClaimSteps ∧
  Spec.LaunchAppends

/-- R130, R253: BARINIT of an object of the team's partition that is at rest or broken, with a kind below 3 and 1 to 16
arrivals expected, writes kind and EXPECTED, PHASE, ARRIVED, PENDING and PCOUNT zero, and leaves SV and SREC, all other LM and
all registers; another value, or an object in use, raises BARRIER_INVALID. R83: a word 0 that cannot be read raises
MEMORY_UNCORRECTABLE with the offset; that it does so before a bad value raises is the model's order (log 73). -/
def Sys2Proof.Spec.BarrierInitialised : Prop :=
  ∀ (s : State) (y : LCtx) (x : EngArgs), LaneReady s y (.barinit x) → blkFault y.x.team x.imm.toNat = none →
    let v := (captured y.clause.gs x.g).toNat
    let k := s.core y.x.who.core
    let a := y.x.team.lmBase + x.imm.toNat
    ((∃ u ∈ unitsOf a 8, u ∈ k.lmBad) → exec (.barinit x) s =
      .next (s.laneFault y .memoryUncorrectable y.low (BitVec.ofNat 54 x.imm.toNat))) ∧
    ((∀ u ∈ unitsOf a 8, u ∉ k.lmBad) →
     (v < 2 ^ 10 → v / 2 ^ 5 % 8 = 0 → 1 ≤ v % 32 → v % 32 ≤ 16 → v / 2 ^ 8 ≠ 3 →
      ((k.bar a).arrived = 0 ∧ (k.bar a).ldone = false) ∨ (k.bar a).brk = true → s.barWaits y.x.who.core y.x.warp.team x.imm.toNat = false →
      ∃ t w, exec (.barinit x) s = .next t ∧ t.warp y.x.who.core y.x.who.slot = some w ∧ w.v = y.x.warp.v ∧
        w.g = y.x.warp.g ∧ t.mem = s.mem ∧
        (t.core y.x.who.core).bar a = ⟨v / 2 ^ 8 * 2 ^ 62 + v % 32 * 2 ^ 48, 0, 0, (k.bar a).w3⟩ ∧
        ∀ j, (j < a ∨ a + 24 ≤ j) → amGet 0 (t.core y.x.who.core).lm j = amGet 0 k.lm j) ∧
     (2 ^ 10 ≤ v ∨ v / 2 ^ 5 % 8 ≠ 0 ∨ v % 32 = 0 ∨ 16 < v % 32 ∨ v / 2 ^ 8 % 4 = 3 ∨
        ((k.bar a).brk = false ∧ ((k.bar a).arrived ≠ 0 ∨ (k.bar a).ldone = true)) →
      exec (.barinit x) s = .next (s.laneFault y .barrierInvalid y.low 0)))

/-- R246, R254 to R256: BARRIVE, BARRIVE.bytes, GBAR and FBAR on an aligned object of the partition dispatch as arrivals in
flight, with the bytes or the root device captured. STRAG on a valid object with SV dispatches a read of each lane's member. -/
def Sys2Proof.Spec.BarrierInstructionsDispatch : Prop :=
  ∀ (s : State) (y : LCtx) (x : EngArgs),
    let off := x.imm.toNat
    let val := (captured y.clause.gs x.g).toNat
    (blkFault y.x.team off = none →
      (LaneReady s y (.barrive x) → ∃ t, exec (.barrive x) s = .next t ∧ Spec.Launches s t y
        (Spec.opOf y (.barrive x) [] .none (.arrive off none none))) ∧
      (LaneReady s y (.barriveBytes x) → ∃ t, exec (.barriveBytes x) s = .next t ∧ Spec.Launches s t y
        (Spec.opOf y (.barriveBytes x) [] .none (.arrive off (some val) none))) ∧
      (LaneReady s y (.gbar x) → ∃ t, exec (.gbar x) s = .next t ∧ Spec.Launches s t y
        (Spec.opOf y (.gbar x) [] .none (.arrive off none none))) ∧
      (LaneReady s y (.fbar x) → val ≤ 992 → ∃ t, exec (.fbar x) s = .next t ∧ Spec.Launches s t y
        (Spec.opOf y (.fbar x) [] .none (.arrive off none (some val)))) ∧
      (LaneReady s y (.fbar x) → 992 < val →
        exec (.fbar x) s = .next (s.laneFault y .barrierInvalid y.low 0))) ∧
    (off < 2 ^ 25 → blkFault y.x.team (off % 2 ^ 20) = none →
      let z := (s.core y.x.who.core).bar (y.x.team.lmBase + off % 2 ^ 20)
      (s.core y.x.who.core).barBad (y.x.team.lmBase + off % 2 ^ 20) = false → z.sv = true → z.kind ≠ 3 → z.brk = false →
      LaneReady s y (.strag x) → ∃ t, exec (.strag x) s = .next t ∧ Spec.Launches s t y (Spec.opOf y (.strag x)
        (y.lanes.map fun l => claimAcc l z.srec (32 * (off / 2 ^ 20) + l)) .none .none))

/-- BARINIT, arrivals and STRAG: results, dispatch and traps (R83, R130, R246, R253, R254, R255, R256). -/
def Obligations.BarrierInstructions : Prop :=
  Spec.BarrierInitialised ∧
  Spec.BarrierInstructionsDispatch

/-- R131, R133, R254: ARRIVAL_PERFORMED of a warp that has not arrived, no higher slot's arrival having been performed in
the cycle, at an object of the kind its instruction takes with
neither BRK nor LDONE and no straggler record, counts the arrival; the arrival that completes a team-kind phase with no
byte pending flips PHASE, raises PCOUNT and clears ARRIVED and MASK; one that arrives twice, or at another kind, changes
nothing and its operation ends with BARRIER_INVALID. -/
def Sys2Proof.Spec.ArrivalsPerformed : Prop :=
  ∀ (s : State) (c w : Nat) (o : Op) (v : Warp) (m : Team) (off : Nat) (bytes root : Option Nat),
    s.findOp c w o.id = some (o, v, m) → o.accs = [] → o.aux = .arrive off bytes root → v.priorDone o.id = true →
    s.barWaits c v.team off = false → (s.core c).barBad (m.lmBase + off) = false → (s.core c).portAdmits w = true →
    let a := m.lmBase + off
    let b := (s.core c).bar a
    let p : Int := b.pending + ((bytes.getD 0 : Nat) : Int)
    let ends (t : State) : Prop := ∃ v', t.warp c w = some v' ∧ v'.op o.id = none ∧ v'.v = v.v ∧ v'.g = v.g
    (v.widx < 16 → b.arrived < 31 → kindOk o.instr b.kind = true → b.w0.testBit v.widx = false → b.ldone = false →
      b.brk = false → -(2 ^ 47) ≤ p → p < 2 ^ 47 → b.sv = false →
      (b.arrived + 1 ≠ b.expected ∨ p ≠ 0 →
        ∃ t, exec (.arrivalPerformed c w o.id) s = .next t ∧ ends t ∧ t.mem = s.mem ∧
          ((t.core c).bar a).arrived = b.arrived + 1 ∧ ((t.core c).bar a).pending = p ∧
          ((t.core c).bar a).phase = b.phase ∧ ((t.core c).bar a).pcount = b.pcount ∧
          ∀ j, j < 16 → ((t.core c).bar a).w0.testBit j = (b.w0.testBit j || decide (j = v.widx))) ∧
      (b.arrived + 1 = b.expected → p = 0 → b.kind = 0 →
        ∃ t, exec (.arrivalPerformed c w o.id) s = .next t ∧ ends t ∧ t.mem = s.mem ∧
          ((t.core c).bar a).arrived = 0 ∧ ((t.core c).bar a).pending = 0 ∧
          ((t.core c).bar a).phase = !b.phase ∧ ((t.core c).bar a).pcount = (b.pcount + 1) % 2 ^ 32 ∧
          ((t.core c).bar a).w0 % 2 ^ 16 = 0)) ∧
    (kindOk o.instr b.kind = false ∨ b.w0.testBit v.widx = true ∨ b.ldone = true ∨ b.brk = true →
      ∃ t, exec (.arrivalPerformed c w o.id) s = .next t ∧ ends t ∧ (t.core c).lm = (s.core c).lm ∧ t.mem = s.mem ∧
        Spec.FaultRecorded s t c w o v m ((lanesOf o.act).headD 0) 0 .barrierInvalid)

/-- R132, R148: GANG_BARRIER_REPORT of a team whose local part of a gang-kind object is complete, without a straggler
record, performs PHASE.rel, after which the dirty bytes of good lines are in memory, and reports the team; GANG_BARRIER_COMPLETE, once every team has reported, flips the phase of
every team's object together. R370: STRAGGLER_RECORD_REPLAYED performs an arrival held on a straggler record once the
record's fault was replayed, in its turn among the cycle's arrivals, and ends it with BARRIER_INVALID and its object as it was
where the replay failed. -/
def Sys2Proof.Spec.GangBarriers : Prop :=
  (∀ (s : State) (c k off : Nat) (m : Team), s.team c k = some m →
    let b := (s.core c).bar (m.lmBase + off)
    b.kind = 1 → b.ldone = true → b.brk = false → b.sv = false → m.teamId ∉ (s.hub.gangBar m.gang off).reported →
    (s.core c).barHeld k off = false →
    ∃ t, exec (.gangBarrierReport c k off) s = .next t ∧ (∀ n l, (t.core c).line n = some l → l.dirty = 0) ∧
      ((∀ n l, (s.core c).line n = some l → l.bad = 0 ∧ ∀ u, u < 8 → s.unitBad (n * 8 + u) = false) →
        ∀ a, Memory.read t.mem a = Spec.homeByte s c ((s.core c).l1.map (·.line)) a) ∧
      (t.hub.gangBar m.gang off).reported = (s.hub.gangBar m.gang off).reported ++ [m.teamId] ∧
      (t.core c).lm = (s.core c).lm) ∧
  (∀ (s : State) (gang off : Nat), s.gangTeams gang ≠ [] → ((s.gangTeams gang).map (·.1)).Nodup →
    (s.hub.gangBar gang off).hold = none →
    (∀ m ∈ s.gangTeams gang, m.2.2.teamId ∈ (s.hub.gangBar gang off).reported) →
    (∀ m ∈ s.gangTeams gang, ((s.core m.1).bar (m.2.2.lmBase + off)).sv = false) →
    (∀ m ∈ s.gangTeams gang, (s.core m.1).barBad (m.2.2.lmBase + off) = false) →
    (∀ m ∈ s.gangTeams gang, ∀ n ∈ s.gangTeams gang,
      ((s.core m.1).bar (m.2.2.lmBase + off)).srec = ((s.core n.1).bar (n.2.2.lmBase + off)).srec) →
    ∃ t, exec (.gangBarrierComplete gang off) s = .next t ∧ t.mem = s.mem ∧
      ∀ m ∈ s.gangTeams gang,
        let b := (s.core m.1).bar (m.2.2.lmBase + off)
        let b' := (t.core m.1).bar (m.2.2.lmBase + off)
        b'.phase = !b.phase ∧ b'.arrived = 0 ∧ b'.ldone = false ∧ b'.pcount = (b.pcount + 1) % 2 ^ 32) ∧
  ∀ (s : State) (c w id : Nat) (off : Nat) (h : HeldObj) (o : Op) (v : Warp) (m : Team) (bytes root : Option Nat),
    (s.core c).held = [h] → h.off = off → h.op = some (w, id) → h.completing = false → h.team = v.team → o.id = id →
    s.findOp c w id = some (o, v, m) → o.aux = .arrive off bytes root → o.accs = [] → (s.core c).portAdmits w = true →
    let s' := s.modCore c fun k => { k with held := [], portLast := some w }
    (h.hold = .ready →
      ∃ t, exec (.stragglerRecordReplayed c off) s = .next t ∧ t = endArrival c w o (s'.arrival c w v m o off bytes root)) ∧
    (∀ e, h.hold = .failed e →
      ∃ t v', exec (.stragglerRecordReplayed c off) s = .next t ∧ t.warp c w = some v' ∧ v'.op id = none ∧
        (t.core c).lm = (s.core c).lm ∧ t.mem = s.mem ∧
        Spec.FaultRecorded s t c w o v m ((lanesOf o.act).headD 0) 0 .barrierInvalid)

/-- Arrivals are counted and gang barriers complete together (R131, R132, R133, R148, R254, R370). -/
def Obligations.ArrivalsAndGangBarriers : Prop :=
  Spec.ArrivalsPerformed ∧
  Spec.GangBarriers

/-- R262, R265 to R267: ITOPEN of a stack that passes the checks opens a claimed, free iterator over it, with LIVE set in
each object; ENOUGH ends an open one, drops its carried values and clears LIVE, and a NEXT in flight on it ends with the
values it has; ITSAVE writes the image of an iterator;
ITLOAD of a valid image restores it; ITSTAT writes its status to the G destination.
That an ENOUGH of a stack whose objects cannot be read raises MEMORY_UNCORRECTABLE and ends nothing is the model's choice (log
98). -/
def Obligations.IteratorInstructions : Prop :=
  ∀ (s : State) (y : LCtx) (x : EngArgs) (n : Nat), y.x.team.iters[x.imm.toNat % 16]? = some n →
    let k := s.core y.x.who.core
    let it := k.iter n
    let off := (y.x.warp.vv x.va.toNat y.low).toNat
    let keeps (t : State) : Prop := ∃ w, t.warp y.x.who.core y.x.who.slot = some w ∧ w.v = y.x.warp.v ∧
      w.g = y.x.warp.g ∧ w.f = y.x.warp.f ∧ t.mem = s.mem
    (∀ sh, LaneReady s y (.itopen x) → it.opn = false ∨ it.ended = true →
      stackCheck k y.x.team off (x.imm.toNat / 16 % 8 + 1) true = .ok sh →
      ∃ t, exec (.itopen x) s = .next t ∧ keeps t ∧
        (t.core y.x.who.core).iter n = { Iter.reset with
          opn := true, pair := (sh.getD (x.imm.toNat / 16 % 8) (0, false)).2, dm1 := x.imm.toNat / 16 % 8, base := off } ∧
        ∀ j, j < x.imm.toNat / 16 % 8 + 1 →
          (t.core y.x.who.core).lmWord (y.x.team.lmBase + off + 32 * j) =
            putField (k.lmWord (y.x.team.lmBase + off + 32 * j)) 55 1 1 ∧
          (t.core y.x.who.core).lmWord (y.x.team.lmBase + off + 32 * j + 24) = 0) ∧
    (LaneReady s y (.enough x) → it.opn = true → it.ended = false →
      (∃ u ∈ unitsOf (y.x.team.lmBase + it.base) (32 * (it.dm1 + 1)), u ∈ k.lmBad) →
      exec (.enough x) s = .next (s.laneFault y .memoryUncorrectable y.low (BitVec.ofNat 54 it.base))) ∧
    (LaneReady s y (.enough x) → it.opn = true → it.ended = false →
      (∀ u ∈ unitsOf (y.x.team.lmBase + it.base) (32 * (it.dm1 + 1)), u ∉ k.lmBad) →
      ∃ t w, exec (.enough x) s = .next t ∧ t.warp y.x.who.core y.x.who.slot = some w ∧ t.mem = s.mem ∧
        (t.core y.x.who.core).iter n =
          { it with ended := true, carry := [], bnd := ((t.core y.x.who.core).iter n).bnd } ∧
        (k.pulls y.x.warp.team (x.imm.toNat % 16) = [] →
          w.v = y.x.warp.v ∧ w.g = y.x.warp.g ∧ ((t.core y.x.who.core).iter n).bnd = it.bnd) ∧
        (∀ (r : Nat) (o : Op) (v : Warp) (m : Team) (z : EngArgs) (b stop look : Bool) (out : List (Word × Word))
          (got : List (Nat × Nat)), k.pulls y.x.warp.team (x.imm.toNat % 16) = [(r, o.id)] →
          s.findOp y.x.who.core r o.id = some (o, v, m) → nextArgs o.instr = some (z, b) →
          o.aux = .pull out stop look got →
          ∃ v', t.warp y.x.who.core r = some v' ∧ v'.op o.id = none ∧
            v'.gv z.g = (if z.g = 0 then 0 else BitVec.ofNat 32 out.length)) ∧
        ∀ j, j < it.dm1 + 1 → (t.core y.x.who.core).lmWord (y.x.team.lmBase + it.base + 32 * j) =
          putField (k.lmWord (y.x.team.lmBase + it.base + 32 * j)) 55 1 0) ∧
    (LaneReady s y (.itsave x) → off + 320 ≤ y.x.team.lmSize →
      ∃ t, exec (.itsave x) s = .next t ∧ keeps t ∧ (t.core y.x.who.core).iter n = it ∧
        byteRead (t.core y.x.who.core).lm (y.x.team.lmBase + off) 320 = it.image) ∧
    (∀ bs sh, LaneReady s y (.itload x) → it.opn = false ∨ it.ended = true → off % 32 = 0 → off + 320 ≤ y.x.team.lmSize →
      k.lmRead (y.x.team.lmBase + off) 320 = .ok bs → imageOk bs = true →
      stackCheck k y.x.team (iterOfImage bs).base ((iterOfImage bs).dm1 + 1) true = .ok sh →
      (iterOfImage bs).pair = (sh.getD (iterOfImage bs).dm1 (0, false)).2 →
      ∃ t, exec (.itload x) s = .next t ∧ keeps t ∧ (t.core y.x.who.core).iter n = iterOfImage bs) ∧
    (LaneReady s y (.itstat x) → (∀ p ∈ k.warps, ∀ o ∈ p.2.ops, nextArgs o.instr = none) →
      ∃ t, exec (.itstat x) s = .next t ∧ Dispatches s t y k (y.x.warp.setG x.g (BitVec.ofNat 32
        ((if it.opn = true then 1 else 0) + (if it.exh = true then 2 else 0) + (if it.ended = true then 4 else 0) +
          (if it.brk = true then 8 else 0) + (if it.bnd = true then 16 else 0) + it.carry.length % 64 * 2 ^ 8 +
          it.ranges.toNat % 2 ^ 16 * 2 ^ 16))))

/-- R264, R266, R268, R285: NEXT and NEXT.bounded on a claimed, open iterator that is not broken, whose carried values are
none or the warp's own, and for pairs with a good vd and vc, dispatch: the pull is in flight with the carried values
taken; on any other iterator they raise ITERATOR_INVALID, and where another warp's values are carried they wait. -/
def Sys2Proof.Spec.NextDispatches : Prop :=
  ∀ (s : State) (y : LCtx) (x : EngArgs),
    let k := s.core y.x.who.core
    ∀ i ∈ [Instr.next x, .nextBounded x], LaneReady s y i →
    (y.x.team.iters[x.imm.toNat % 16]? = none → exec i s = .next (s.laneFault y .iteratorInvalid y.low 0)) ∧
    ∀ n, y.x.team.iters[x.imm.toNat % 16]? = some n →
      let it := k.iter n
      let pairOk : Prop := it.pair = true →
        x.vd.toNat % 2 = 0 ∧ x.vd.toNat + 1 < y.x.warp.budget ∧ x.vc.toNat ≠ x.vd.toNat + 1
      (it.opn = false ∨ it.brk = true ∨ ¬pairOk → exec i s = .next (s.laneFault y .iteratorInvalid y.low 0)) ∧
      (it.opn = true → it.brk = false → pairOk →
        (it.carry ≠ [] → it.cw ≠ y.x.warp.widx →
          exec i s = .next (s.modSplit y.x.who fun sp => { sp with laneWait := .carry })) ∧
        (it.carry = [] ∨ it.cw = y.x.warp.widx →
          ∃ t stop look k', exec i s = .next t ∧ k' = { k with iters := k'.iters, serial := k.serial + 1 } ∧
            k'.iter n = { it with carry := [] } ∧ (∀ j, j ≠ n → k'.iter j = k.iter j) ∧
            (let o := Spec.opOf y i [claimAcc y.low 0 0] .none (.pull it.carry stop look [])
             Dispatches s t y k' { y.x.warp.raise o.flags with ops := y.x.warp.ops ++ [o], nextId := o.id + 1 }) ∧
            (i = .next x → stop = false ∧ look = false) ∧
            (i = .nextBounded x → stop = (it.bnd && !it.carry.isEmpty))))

/-- R264: a NEXT whose values suffice ends: the active lanes receive the values in ascending order with 1 in vc, a lane
past the last value receives 0 in vc and keeps vd, and the G destination receives their number. -/
def Sys2Proof.Spec.NextCompletes : Prop :=
  ∀ (s : State) (c w : Nat) (o : Op) (v : Warp) (m : Team) (x : EngArgs) (n : Nat) (out : List (Word × Word)),
    s.findOp c w o.id = some (o, v, m) → o.instr = .next x → o.aux = .pull out false false [] →
    (∀ a ∈ o.accs, a.st = .todo) → m.iters[x.imm.toNat % 16]? = some n →
    (s.core c).pulling v.team (x.imm.toNat % 16) o.serial = false →
    let it := (s.core c).iter n
    it.brk = false → it.pair = false → x.vd ≠ x.vc →
    ((lanesOf o.act).length ≤ out.length ∧
      ∀ u ∈ unitsOf (m.lmBase + it.base) (32 * (it.dm1 + 1)), u ∉ (s.core c).lmBad) ∨ it.exh = true →
    out.length ≤ (lanesOf o.act).length →
    ∃ t v', exec (.loadDataLands c w o.id 0) s = .next t ∧ t.warp c w = some v' ∧ v'.op o.id = none ∧ t.mem = s.mem ∧
      v'.gv x.g = (if x.g = 0 then 0 else BitVec.ofNat 32 out.length) ∧
      (∀ (j l : Nat) (p : Word × Word), (lanesOf o.act)[j]? = some l → out[j]? = some p →
        v'.v_ x.vd.toNat l = cellOf p.1 ∧ v'.v_ x.vc.toNat l = cellOf 1) ∧
      (∀ (j l : Nat), (lanesOf o.act)[j]? = some l → out.length ≤ j →
        v'.v_ x.vd.toNat l = v.v_ x.vd.toNat l ∧ v'.v_ x.vc.toNat l = cellOf 0) ∧
      ∀ r l, l < 32 → (l ∉ lanesOf o.act ∨ (r ≠ x.vd.toNat ∧ r ≠ x.vc.toNat)) → v'.v_ r l = v.v_ r l

/-- NEXT dispatches and its pull completes (R264, R266, R268, R285). -/
def Obligations.NextPulls : Prop :=
  Spec.NextDispatches ∧
  Spec.NextCompletes

/-- R116, R117, R118, R138: COPY_RECORD_BEGIN takes the record the next kick names, reads its 32 bytes, checks it, and decides the
outcome of one that fails or delivers nothing; R346: one whose operation's feature is absent fails like a reserved one, which is
the model's reading (log 96). COPY_BYTES_DELIVERED of one unit copies 16 bytes from home to LM for a
contiguous fill and from LM to home for a contiguous store-out, MOVED of the kicking team rises by 16, and with the last unit
STATUS and DONE are written into the record. COPY_RECORD_FINISH writes STATUS and DONE into the record, unless they were with its
last bytes, and advances SEQ. R83: that a word of the record that cannot be read stays as it is, is the model's choice (log 98).
That OFF is 0 from a record's start, and from the finish of one that another follows, is the model's reading (log 44). -/
def Obligations.CopyRecordSteps : Prop :=
  (∀ (s : State) (c n : Nat) (m : Team) (q : Kick) (qs : List Kick) (bs : List Byte),
    let ch := (s.core c).chan n
    ch.cur = none → ch.kicks = q :: qs → s.team c q.team = some m → (s.core c).lmRead (m.lmBase + q.first) 32 = .ok bs →
    ∃ t r, exec (.copyRecordBegin c n) s = .next t ∧ t.mem = s.mem ∧
      (t.core c).chan n = { ch with
        off := 0
        kicks := if q.count ≤ 1 then qs else { q with first := q.first + 32, count := q.count - 1 } :: qs
        cur := some r } ∧
      r.team = q.team ∧ r.gang = q.gang ∧ r.off = q.first ∧ r.pos = 0 ∧ r.stall = none ∧
      (∀ i, i < 4 → r.w i = leNat ((bs.drop (8 * i)).take 8)) ∧
      r.status = (if r.reservedBad = true ∨ s.copyAbsent r = true then some (some .reservedField)
        else if r.misaligned = true then some (some .misaligned)
        else if s.copyOutside c m r = true ∨ s.copyBarOutside c r = true then some (some .lmOutOfRange)
        else if r.total = 0 ∨ r.receivers c = [] then some none else none)) ∧
  (∀ (s u : State) (c n : Nat) (m : Team) (r : CopyRec) (p : Xlat),
    let ch := (s.core c).chan n
    ch.cur = some r → r.status = none → r.stall = none → r.sent = none → r.got = none → r.bv = false → s.team c r.team = some m →
    hubRange p.pa = false → (m.lmBase + r.off + 16) / 8 ∉ (s.core c).lmBad →
    let r' := { r with pos := r.pos + 16, status := if r.total ≤ r.pos + 16 then some none else none }
    let mark (k : Core) : List (Nat × Byte) :=
      if r.total ≤ r.pos + 16 then
        (k.setLmWord (m.lmBase + r.off + 16) (putField (putField (k.lmWord (m.lmBase + r.off + 16)) 56 8 0) 55 1 1)).lm
      else k.lm
    let ends (t : State) : Prop := ((t.core c).chan n).cur = some r' ∧ ((t.core c).chan n).kicks = ch.kicks ∧
      ∃ m', t.team c r.team = some m' ∧ m'.moved = m.moved + 16
    (r.op = 0 → r.src + r.pos < 2 ^ 54 → inAperture (r.src + r.pos) = false →
      s.translate c m.asid m.priv (r.src + r.pos) .read = (u, .ok p) → s.badLine p.pa = false →
      ∃ t, exec (.copyBytesDelivered c n 1) s = .next t ∧ ends t ∧ t.mem = s.mem ∧
        (t.core c).lm = mark { s.core c with
          lm := byteWrite (s.core c).lm (m.lmBase + r.dst + r.pos) (Memory.readN s.mem p.pa 16) }) ∧
    (∀ bs, r.op = 3 → r.dst + r.pos < 2 ^ 54 → inAperture (r.dst + r.pos) = false →
      s.translate c m.asid m.priv (r.dst + r.pos) .write = (u, .ok p) → p.cnt = false →
      (s.core c).lmRead (m.lmBase + r.src + r.pos) 16 = .ok bs → (∀ k ∈ unitsOf p.pa 16, s.unitBad k = false) →
      ∃ t, exec (.copyBytesDelivered c n 1) s = .next t ∧ ends t ∧ (t.core c).lm = mark (s.core c) ∧
        t.mem = Memory.writeN s.mem p.pa bs)) ∧
  ∀ (s : State) (c n : Nat) (m : Team) (r : CopyRec) (st : Option Cause),
    let ch := (s.core c).chan n
    ch.cur = some r → r.status = some st → r.bv = false → s.team c r.team = some m →
    ∃ t, exec (.copyRecordFinish c n) s = .next t ∧ t.mem = s.mem ∧
      (t.core c).chan n = { ch with cur := none, seq := ch.seq + 1, off := if ch.kicks = [] then ch.off else 0 } ∧
      (st = none ∧ 0 < r.total ∧ r.total ≤ r.pos → (t.core c).lm = (s.core c).lm) ∧
      (¬(st = none ∧ 0 < r.total ∧ r.total ≤ r.pos) → (m.lmBase + r.off + 16) / 8 ∉ (s.core c).lmBad →
        (t.core c).lmWord (m.lmBase + r.off + 16) =
          putField (putField ((s.core c).lmWord (m.lmBase + r.off + 16)) 56 8 (st.elim 0 Cause.code)) 55 1 1)

/-- R11, R18, R31, R114: WARP_RETIRE retires a warp whose lanes have all left and whose queues, operations and flags are empty.
GANG_JOIN_DECREMENT of a gang whose warps have all retired, with no dirty line on its cores, takes its teams off their cores
and lowers COUNT of its task's join object; JOIN_DECREMENT_REPLAYED makes a decrement that waited. SUCCESSOR_APPEND puts a
successor's record into its queue and advances TAIL. -/
def Sys2Proof.Spec.RetiringAndDecrements : Prop :=
  (∀ (s : State) (c w : Nat) (v : Warp), s.warp c w = some v → v.retired = false → v.mayRetire = true →
    (∀ l ∈ (s.core c).latches, l.team ≠ v.team) →
    ∃ t, exec (.warpRetire c w) s = .next t ∧ t.warp c w = some { v with retired := true } ∧ t.mem = s.mem ∧
      ∀ n, n ≠ w → t.warp c n = s.warp c n) ∧
  (∀ (s : State) (k : Nat) (g : Gang) (j : JoinObj), s.hub.gangs.find? (·.key == k) = some g → s.gangDone g = true →
    (∀ p ∈ g.teams, (s.core p.1).dirtyLines = []) → s.joinRead g.asid (recJoin g.record) = .ok j → 1 < j.count →
    ∃ t, exec (.gangJoinDecrement k) s = .next t ∧ t.mem = Memory.writeN s.mem j.pa (leBytes 4 (j.count - 1)) ∧
      (∀ h ∈ t.hub.gangs, h.key ≠ k) ∧ ∀ p ∈ g.teams, t.team p.1 p.2 = none) ∧
  (∀ (s : State) (n : Nat) (d : JoinDec) (j : JoinObj), s.hub.decs[n]? = some d → d.hold = .ready → d.ack = .none →
    d.noted = none → d.after = none → s.joinRead d.asid d.va = .ok j → 1 < j.count →
    ∃ t, exec (.joinDecrementReplayed n) s = .next t ∧ t.mem = Memory.writeN s.mem j.pa (leBytes 4 (j.count - 1)) ∧
      t.hub.decs = s.hub.decs.eraseIdx n) ∧
  ∀ (s : State) (q : Nat) (x : Successor), s.hub.successors.find? (·.queue == q) = some x →
    let d := s.hub.queue q
    d.v = true → d.asid = x.asid → s.hub.reservedAt q = false → d.room ≠ 0 → x.notify = 0 → x.noted = none →
    s.populated (d.slot d.tail.toNat) = true →
    ∃ t, exec (.successorAppend q) s = .next t ∧ t.hub.queue q = { d with tail := d.tail + 1 } ∧
      (∀ p, p ≠ q → t.hub.queue p = s.hub.queue p) ∧ t.hub.successors = s.hub.successors.erase x ∧
      t.mem = Memory.writeN s.mem (d.slot d.tail.toNat) x.record

/-- R11: a decrement of a join object whose COUNT is 0 changes no memory and records QUEUE_INVALID. One that lowers COUNT
from 1 to 0 then holds the successor's append where SV is 1; else it decrements the object NOTIFY names; else the
regions of the tasks that name the object leave the dependence unit. R123: while the fault queue has no room for the record of a
refused decrement, the hub keeps the decrement, waiting for that record. -/
def Sys2Proof.Spec.JoinObjectReachesZero : Prop :=
  ∀ (s : State) (asid : Asid) (va : Nat) (j : JoinObj), s.joinRead asid va = .ok j →
    let t := s.joinDecrement asid va .none
    (j.count = 0 → t.mem = s.mem ∧ ∃ f, t.hub.faultQ = s.hub.faultQ ++ [f] ∧ f.cause = .queueInvalid ∧ f.va = va ∧
      f.asid = asid ∧ f.source = 5 ∧ (s.faultRoom = true → t.hub.decs = s.hub.decs) ∧
      (s.faultRoom = false → ∃ d, t.hub.decs = s.hub.decs ++ [d] ∧ d.noted = some f.fseq ∧ d.va = va)) ∧
    (j.count = 1 → j.bad = false →
      let lowered := Memory.writeN s.mem j.pa (leBytes 4 0)
      (bitAt j.sq 7 = true → t.mem = lowered ∧ t.hub.table = s.hub.table ∧ t.hub.successors = s.hub.successors ++
        [{ queue := j.sq % 64, asid := asid, record := j.succ, notify := j.notify, join := va }]) ∧
      (bitAt j.sq 7 = false → j.notify = 0 → t.mem = lowered ∧ t.hub.successors = s.hub.successors ∧
        (∀ e, e ∈ t.hub.table ↔ e ∈ s.hub.table ∧ ¬(e.asid = asid ∧ e.join = va)) ∧
        ∀ k, k ∈ t.hub.tasks ↔ k ∈ s.hub.tasks ∧ ¬(k.asid = asid ∧ recJoin k.record = va)) ∧
      (∀ n, bitAt j.sq 7 = false → j.notify ≠ 0 → (s.hubPut j.pa (leBytes 4 0)).joinRead asid j.notify = .ok n →
        1 < n.count → t.mem = Memory.writeN lowered n.pa (leBytes 4 (n.count - 1))))

/-- Teams retire, join objects are decremented, and the last decrement appends (R11, R18, R31, R114, R123). -/
def Obligations.JoinsAndRetiring : Prop :=
  Spec.RetiringAndDecrements ∧
  Spec.JoinObjectReachesZero

/-- R6, R13, R15, R16, R17, R52: where every head record is checked and in the dependence unit, GANG_PLACE places the next gang of the
record the placer's order gives on its cluster. Each team has its TEAM_ID, GANG_ID, ASID and claims; each warp starts with
one split of all 32 lanes at the descriptor's entry, g1 its warp index and g2:g3 the frame, and every other register
zero. The record leaves its queue with its last gang. -/
def Obligations.GangPlacement : Prop :=
  ∀ (s : State) (q : Nat) (h : Head) (cl : Nat) (fits : List (Nat × Fit)) (d : Desc),
    (∀ e ∈ s.hub.heads, e.2.checked = true ∧ e.2.gone = none ∧ (e.2.regions = [] ∨ e.2.entered.isSome = true)) →
    s.hub.regs.captureCtl = 0 → s.noteWaits.nextPlace [3, 2, 1, 0] = some (q, h, cl, fits) → parseDesc h.desc = some d →
    let asid := (s.hub.queue q).asid
    let frame : VAddr := BitVec.ofNat 54 (recFrame h.record)
    ∃ t g, exec .gangPlace s = .next t ∧ g ∈ t.hub.gangs ∧ g.cluster = cl ∧ g.record = h.record ∧ g.gangId = h.next ∧
      g.asid = asid ∧ g.queue = q ∧ g.task = h.task.getD s.hub.nextTask ∧ g.state = .running ∧ t.mem = s.mem ∧
      g.teams = fits.zipIdx.map (fun p => (p.1.1, teamKey g.key p.2)) ∧
      (∀ (i c : Nat) (f : Fit), fits[i]? = some (c, f) →
        (∃ m, t.team c (teamKey g.key i) = some m ∧ m.teamId = i ∧ m.gangId = h.next ∧ m.taskId = g.task ∧ m.asid = asid ∧
          m.priv = d.priv ∧ m.lmBase = f.base ∧ m.lmSize = d.part ∧ m.banks = f.banks ∧ m.iters = f.iters ∧
          m.warps = f.slots ∧ m.instr = 0 ∧ m.moved = 0 ∧ m.wbytes = 0) ∧
        ∀ (w n : Nat) (r : Role × Nat), f.slots[w]? = some n → d.warpRoles[w]? = some r →
          ∃ v, t.warp c n = some v ∧ v.role = r.1 ∧ v.budget = r.2 ∧ v.widx = w ∧
            v.splits = [(0, newSplit (BitVec.ofNat 54 d.entry))] ∧ v.gv 1 = BitVec.ofNat 32 w ∧
            v.gv 2 = BitVec.ofNat 32 frame.toNat ∧ v.gv 3 = BitVec.ofNat 32 (frame.toNat / 2 ^ 32) ∧
            (∀ g, g ≠ 1 → g ≠ 2 → g ≠ 3 → v.gv g = 0) ∧ ∀ g l, v.vv g l = 0) ∧
      (t.hub.queue q).head = (s.hub.queue q).head + (if h.next + 1 = recGangs h.record then 1 else 0)

/-- R51, R119 to R122: BTE_BELL, where the BTE has to look since BELL was written or a packet completed (log 19), takes the packet of slot RIDX if its RDY bit has the slot's
parity, and otherwise only ends the look; where it has not to look it does nothing. A copy writes the bytes read, a
fill its 8-byte pattern, a reduce-copy the sums or conversions of R51, each to
its destination up to a line's end. A fence completes once every valid pair is over, and waits before. A launch
appends its record. The completion record, then CWIDX, then RIDX are written, and the packet is over.
That a BTE reads and writes with the rights of a team that is not privileged, and that one run goes up to the end of a line, is
the model's reading (log 22). -/
def Obligations.BlockTransfers : Prop :=
  (∀ (s : State) (a : Asid) (va : Nat) (bs : List Byte) (x : Xlat), s.translateHub a false va .write = .ok x →
    hubRange x.pa = false → x.cnt = false → (∀ u ∈ unitsOf x.pa bs.length, s.unitBad u = false) →
    ∃ t, s.bteWrite a va bs = (t, .ok ()) ∧ t.mem = Memory.writeN s.mem x.pa bs) ∧
  (∀ (s : State) (q w0 n : Nat) (p : BtePkt), s.bteServed q = true → (s.hub.bteq q).cur = none →
    s.bteWord q 0 = .ok w0 → s.bteWord q 2 = .ok n → 4 ≤ w0 / 2 ^ 58 → w0 / 2 ^ 58 ≤ 16 → w0 / 2 ^ 54 % 16 = 0 →
    s.det (s.hub.bteq q).asid = false → s.captures (s.hub.bteq q).asid.toNat = false →
    s.btePacket q ((w0 % 2 ^ 54 + n % 2 ^ (w0 / 2 ^ 58) * 64) % 2 ^ 54) n = .ok p →
    let free : Prop := (p.w 0 / 2 ^ 63 % 2 = 1 ↔ n / 2 ^ (w0 / 2 ^ 58) % 2 = 0)
    (q ∉ s.bells → exec (.bteBell q) s = .next s) ∧
    (q ∈ s.bells → s.boot.rest = 0 → free → ∃ t, exec (.bteBell q) s = .next t ∧ t.bells = s.bells.filter (· != q) ∧
      t.hub.bteq q = { s.hub.bteq q with cur := some p } ∧ t.mem = s.mem ∧
      p.seq = n % 2 ^ 32 ∧ p.pos = 0 ∧ p.bytes = 0) ∧
    (q ∈ s.bells → s.boot.rest = 0 → ¬free → exec (.bteBell q) s = .next { s with bells := s.bells.filter (· != q) })) ∧
  (∀ (s u : State) (q : Nat) (p : BtePkt), s.bteServed q = true → (s.hub.bteq q).cur = some p → p.words ≠ [] →
    p.result = none → p.stall = none → p.sent = none → p.buf = [] → p.wr = 0 → p.cut = none → p.run ≠ 0 →
    let a := (s.hub.bteq q).asid
    let k := p.run
    let ends (t : State) (b : Nat) : Prop := t.mem = u.mem ∧ ∃ ls, (t.hub.bteq q).cur = some { p with
      pos := p.pos + k, bytes := p.bytes + k * b, lines := ls, result := if p.total ≤ p.pos + k then some none else none }
    (∀ r, p.kind = 1 → inAperture (p.at (p.w 1, 1)) = false → s.bteRead a (p.at (p.w 1, 1)) k = .ok r → hostPa r.1 = false →
      inAperture (p.at (p.w 2, 1)) = false → s.bteWrite a (p.at (p.w 2, 1)) r.2 = (u, .ok ()) →
      ∃ t, exec (.bteCopy q 1) s = .next t ∧ ends t 1) ∧
    (p.kind = 3 → inAperture (p.at (p.w 2, 8)) = false →
      s.bteWrite a (p.at (p.w 2, 8)) ((List.range k).flatMap fun _ => leBytes 8 (p.w 1)) = (u, .ok ()) →
      ∃ t, exec (.bteFill q 1) s = .next t ∧ ends t 8) ∧
    (∀ x y, p.kind = 2 → p.total ≤ p.pos + k → p.mode = 1 ∨ p.mode = 2 →
      let sum (i : Nat) : Nat := fAdd .f32 (elemAt x.2 2 i * 2 ^ 16) (elemAt y.2 4 i)
      let d := p.at (p.w 3, if p.mode = 2 then 4 else 2)
      inAperture (p.at (p.w 1, 2)) = false → s.bteRead a (p.at (p.w 1, 2)) (k * 2) = .ok x → hostPa x.1 = false →
      inAperture (p.at (p.w 2, 4)) = false → s.bteRead a (p.at (p.w 2, 4)) (k * 4) = .ok y → hostPa y.1 = false →
      inAperture d = false →
      s.bteWrite a d ((List.range k).flatMap fun i =>
        if p.mode = 2 then leBytes 4 (sum i) else leBytes 2 (roundF .bf16 (decodeF .f32 (sum i)))) = (u, .ok ()) →
      ∃ t, exec (.bteReduceCopy q 1) s = .next t ∧ ends t (if p.mode = 2 then 4 else 2))) ∧
  (∀ (s : State) (q : Nat) (p : BtePkt), (s.hub.bteq q).cur = some p → p.words ≠ [] → p.result = none → p.stall = none →
    (p.kind = 4 → s.captures (s.hub.bteq q).asid.toNat = false →
      ((∀ i ∈ [1, 2, 3], s.fencePair q p i = .ok true) → ∃ t, exec (.bteFence q) s = .next t ∧ t.mem = s.mem ∧
        (t.hub.bteq q).cur = some { p with result := some none }) ∧
      ((∀ i ∈ [1, 2, 3], ∃ b, s.fencePair q p i = .ok b) → (∃ i ∈ [1, 2, 3], s.fencePair q p i = .ok false) →
        exec (.bteFence q) s = .next s)) ∧
    (p.kind = 5 →
      let d := s.hub.queue (p.w 1 % 64)
      d.v = true → d.asid = (s.hub.bteq q).asid → s.hub.reservedAt (p.w 1 % 64) = false → d.room ≠ 0 →
      s.populated (d.slot d.tail.toNat) = true →
      ∃ t, exec (.bteLaunch q) s = .next t ∧ (t.hub.bteq q).cur = some { p with result := some none } ∧
        t.hub.queue (p.w 1 % 64) = { d with tail := d.tail + 1 } ∧
        t.mem = Memory.writeN s.mem (d.slot d.tail.toNat) ([4, 5, 6, 7].flatMap fun i => leBytes 8 (p.w i)))) ∧
  ∀ (s u v w : State) (q ridx w3 c cr : Nat) (p : BtePkt) (st : Option Cause), (s.hub.bteq q).cur = some p →
    p.result = some st → p.stall = none → s.captures (s.hub.bteq q).asid.toNat = false → s.bteWord q 2 = .ok ridx →
      s.bteWord q 3 = .ok w3 → s.bteWord q 4 = .ok c →
    s.bteWord q 5 = .ok cr → 4 ≤ w3 / 2 ^ 58 → w3 / 2 ^ 58 ≤ 16 → w3 / 2 ^ 54 % 16 = 0 → c - cr ≠ 2 ^ (w3 / 2 ^ 58) →
    let a := (s.hub.bteq q).asid
    let desc := (s.hub.bteq q).desc.toNat
    let parity := (c / 2 ^ (w3 / 2 ^ 58) + 1) % 2
    s.bteWrite a ((w3 % 2 ^ 54 + c % 2 ^ (w3 / 2 ^ 58) * 16) % 2 ^ 54)
      (leBytes 1 (parity * 128 + if st.isSome then 1 else 0) ++ leBytes 1 (st.elim 0 Cause.code) ++ leBytes 2 q ++
        leBytes 4 p.seq ++ leBytes 8 p.bytes) = (u, .ok ()) →
    u.bteWrite a ((desc + 32) % 2 ^ 54) (leBytes 8 (c + 1)) = (v, .ok ()) →
    v.bteWrite a ((desc + 16) % 2 ^ 54) (leBytes 8 (ridx + 1)) = (w, .ok ()) →
    ∃ t, exec (.bteCompletionWrite q) s = .next t ∧ t.mem = w.mem ∧ (t.hub.bteq q).cur = none ∧ q ∈ t.bells

/-- The splits that wait for range invalidation `n`. -/
def Sys2Proof.Spec.waitingOn (s : State) (n : Nat) : List Who :=
  s.cores.flatMap fun k => k.2.warps.flatMap fun w =>
    (w.2.splits.filter fun e => e.2.wait == .tlbinv n).map fun e => ⟨k.1, w.1, e.1⟩

/-- R7, R26, R27, R171: CLAUSE_START starts a split's head clause once every flag in its wait mask reads zero, and neither
before nor while an earlier operation of the split stalls or has failed. A candidate that has waited at least 256 cycles and
longer than every other of its side is the side's choice, and WAIT_COUNT_AGED lets the next cycle follow.
That an operation which stalls or has failed holds the clauses behind its own is the model's reading (log 15); that the next cycle
follows by way of the agenda is the model's own order of steps (logs 3, 51). -/
def Sys2Proof.Spec.ClauseStartAndAging : Prop :=
  (∀ (s : State) (x : Ctx) (c : Clause) (cs : List Clause), s.ctxOf x.who = some x → x.split.cq = c :: cs →
    let clear : Prop := ∀ n, n < 12 → c.header.getLsbD n = true → x.warp.flag n = 0
    let held : Prop := ∃ o ∈ x.warp.ops, o.entry = x.who.entry ∧ ∃ a ∈ o.accs, a.st.held = true ∨ a.st.bad = true
    (teamRuns x.team = true → clear → ¬held → ∃ t v, exec (.clauseStart x.who.core x.who.slot x.who.entry) s = .next t ∧
      t.warp x.who.core x.who.slot = some v ∧
      amFind v.splits x.who.entry = some { x.split with cq := { c with started := true } :: cs } ∧
      v = { x.warp with splits := v.splits } ∧ t.mem = s.mem) ∧
    (¬clear ∨ held ∨ teamRuns x.team = false → exec (.clauseStart x.who.core x.who.slot x.who.entry) s = .next s)) ∧
  ∀ (s : State) (w : Who) (r : Role) (age : Nat) (lane : Bool),
    (w, r, age) ∈ candidates s w.core (w.slot / 12) lane → 256 ≤ age → age < 2 ^ 32 →
    (∀ d ∈ candidates s w.core (w.slot / 12) lane, d ≠ (w, r, age) → d.2.2 < age) →
    (sideOf s w.core (w.slot / 12, lane)).pick = some w ∧
    exec (.waitCountAged w.core w.slot w.entry lane) s = .next { s with agenda := .cycle :: s.agenda }

/-- ISSUE appends a clause, and a clause starts once its wait mask is clear (R7, R22, R26, R27, R163, R164, R171, R188). -/
def Obligations.ClausesIssueAndStart : Prop :=
  Spec.IssueAppendsClause ∧
  Spec.ClauseStartAndAging

/-- R123, R310, R336: the oldest fault record goes into the fault queue as the 32 bytes of R123 once the ring is valid and has room:
it is written at the write index, which advances, and vector 0 is sent where the ring was empty; without room nothing
changes. A captured event of 32 or fewer bytes goes into its ring the same way. -/
def Sys2Proof.Spec.RingWrites : Prop :=
  (∀ (s : State) (r : FaultRec) (rs : List FaultRec), s.hub.faultQ = r :: rs →
    let g := s.hub.regs
    let size := g.fqSize.toNat
    (s.ringOk g.fqBase.toNat size 24 = true → ringRoom size g.fqWidx.toNat g.fqRidx.toNat ≠ 0 →
      ∃ t, exec .faultRecordWrite s = .next t ∧ t.hub.faultQ = rs ∧ t.hub.regs = { g with fqWidx := g.fqWidx + 1 } ∧
        t.mem = Memory.writeN s.mem (g.fqBase.toNat + g.fqWidx.toNat % (size / 32) * 32)
          (leBytes 8 r.va ++ leBytes 1 r.cause.code ++ leBytes 1 r.source ++ leBytes 1 r.flags ++ leBytes 1 r.unit ++
            leBytes 2 r.core ++ leBytes 2 r.asid.toNat ++ leBytes 4 r.lanes.toNat ++ leBytes 4 r.fseq ++
            leBytes 8 s.clock.toNat) ∧
        t.hub.msixSent = s.hub.msixSent ++ (if g.fqWidx = g.fqRidx ∧ s.hub.masked 0 = false then [0] else [])) ∧
    (s.ringOk g.fqBase.toNat size 24 = false ∨ ringRoom size g.fqWidx.toNat g.fqRidx.toNat = 0 →
      exec .faultRecordWrite s = .next s)) ∧
  ∀ (s : State) (bs : List Byte) (rs : List (List Byte)), s.hub.capture = bs :: rs → bs.length = 32 →
    let g := s.hub.regs
    let size := g.captureSize.toNat
    s.ringOk g.captureBase.toNat size 26 = true → ringRoom size g.captureWidx.toNat g.captureRidx.toNat ≠ 0 →
    ∃ t, exec .captureRecordWrite s = .next t ∧ t.hub.capture = rs ∧
      t.hub.regs = { g with captureWidx := g.captureWidx + 1 } ∧
      t.mem = Memory.writeN s.mem (g.captureBase.toNat + g.captureWidx.toNat % (size / 32) * 32) bs

/-- R118, R122, R123, R287: with no posted write waiting, REPLAY of a written record makes every requester stalled on it try
again: splits, lanes, copy channels and BTE queues. REPLAY_FAIL with PROTECTION, OUT_OF_RANGE or MEMORY_UNCORRECTABLE
ends them with that cause. A number
that names no such record does nothing; that one still to be written is none such is the model's reading (log 23). R346: without
its feature REPLAY_FAIL is ignored. -/
def Sys2Proof.Spec.Replays : Prop :=
  ∀ (s : State) (f : Nat), f < 2 ^ 32 → s.hub.posted = [] →
    (s.replayable f = true → ∃ t, exec (.replay (BitVec.ofNat 64 f)) s = .next t ∧ t.mem = s.mem ∧
      (∀ c w e v sp va, s.warp c w = some v → amFind v.splits e = some sp →
        sp.wait = .replay f va ∨ sp.wait = .refetch f va →
        ∃ v', t.warp c w = some v' ∧ amFind v'.splits e = some { sp with wait := .run }) ∧
      (∀ c w id v o, s.warp c w = some v → v.op id = some o → ∃ v', t.warp c w = some v' ∧ v'.v = v.v ∧
        v'.op id = some { o with
          accs := o.accs.map fun a => if a.st = .stalled f then { a with st := .retry } else a }) ∧
      (∀ c n r, ((s.core c).chan n).cur = some r → r.stall = some f →
        ((t.core c).chan n).cur = some { r with stall := none }) ∧
      ∀ q p, (s.hub.bteq q).cur = some p → p.stall = some f → (t.hub.bteq q).cur = some { p with stall := none }) ∧
    (∀ code c, (code, c) ∈ [(0x11, Cause.protection), (0x13, .outOfRange), (0x14, .memoryUncorrectable)] →
      s.hasFeature 39 = true → s.replayable f = true →
      ∃ t, exec (.replayFail (BitVec.ofNat 64 (code * 2 ^ 32 + f))) s = .next t ∧
      (s.opsOn f = [] → t.mem = s.mem ∧
        (∀ k w e v sp va, s.warp k w = some v → amFind v.splits e = some sp →
          sp.wait = .replay f va ∨ sp.wait = .refetch f va →
          ∃ v', t.warp k w = some v' ∧ amFind v'.splits e = some { sp with wait := .replayFailed c va }) ∧
        (∀ k n r, ((s.core k).chan n).cur = some r → r.stall = some f →
          ((t.core k).chan n).cur = some { r with stall := none, status := some (some c) }) ∧
        ∀ q p, (s.hub.bteq q).cur = some p → p.stall = some f →
          (t.hub.bteq q).cur = some { p with stall := none, result := some (some c) })) ∧
    (s.replayable f = false → exec (.replay (BitVec.ofNat 64 f)) s = .next s.wake ∧
      ∀ n, n < 2 ^ 8 → exec (.replayFail (BitVec.ofNat 64 (n * 2 ^ 32 + f))) s = .next s.wake) ∧
    (s.hasFeature 39 = false → ∀ n, n < 2 ^ 8 → exec (.replayFail (BitVec.ofNat 64 (n * 2 ^ 32 + f))) s = .next s.wake)

/-- Fault and capture rings take records, and a replay retries its requesters (R118, R122, R123, R287, R310, R336, R346). -/
def Obligations.RingsAndReplays : Prop :=
  Spec.RingWrites ∧
  Spec.Replays

/-- R99, R100, R217, R276, R337: a stack's oldest waiting walk starts while fewer than 64 are at work; its completion installs the leaf at
all three levels, records NOT_PRESENT where V is 0, and leaves no entry for any other fault. TLBI_GO, with no posted write waiting, removes
every entry of the ASID that meets the range, and notes the accesses in flight that used one; the invalidation completes once none
of those is open: TLBI_GO reads 0, or the TLBINV retires. Which accesses these are is the model's reading (log 52). -/
def Sys2Proof.Spec.WalksAndInvalidationsPart : Prop :=
  (∀ (s : State) (st : Nat) (w : Walk), ((s.hub.walksOf st).filter (·.started)).length < 64 →
    (s.hub.walksOf st).find? (fun v => !v.started) = some w →
    ∃ t, exec (.pageWalk st) s = .next t ∧ { w with started := true } ∈ t.hub.walks ∧ w ∉ t.hub.walks ∧ t.mem = s.mem ∧
      ∀ v, v ≠ w → v ∈ s.hub.walks → v ∈ t.hub.walks) ∧
  (∀ (s : State) (st n : Nat) (w : Walk), ((s.hub.walksOf st).filter (·.started))[n]? = some w →
    ∃ t, exec (.pageWalkComplete st n) s = .next t ∧ t.mem = s.mem ∧ t.hub.walks = s.hub.walks.erase w ∧
      (∀ e, (s.walk st w.asid w.va).2 = .ok e → t.hub.faultQ = s.hub.faultQ ∧ e ∈ (t.core w.core).utlb ∧
        (clusterOf w.core, e) ∈ t.ctlb ∧ (st, e) ∈ t.stlb) ∧
      ((s.walk st w.asid w.va).2 = .error .notPresent → t.cores = s.cores ∧ ∃ f, t.hub.faultQ = s.hub.faultQ ++ [f] ∧
        f.cause = .notPresent ∧ f.va = w.va ∧ f.asid = w.asid ∧ f.core = w.core) ∧
      ∀ c, (s.walk st w.asid w.va).2 = .error c → c ≠ .notPresent → t.hub.faultQ = s.hub.faultQ ∧ t.cores = s.cores) ∧
  (∀ (s : State) (x : BitVec 64), s.hub.posted = [] →
    let g := s.hub.regs
    let asid : Asid := BitVec.ofNat 12 g.tlbiAsid.toNat
    let start := g.tlbiStart.toNat % 2 ^ 54
    let len := g.tlbiLen.toNat % 2 ^ 55
    let cut := min len (2 ^ 54 - start)
    (g.tlbiGo = none → len ≠ 0 → ∃ t id, exec (.tlbiGo x) s = .next t ∧ t.hub.regs.tlbiGo = some id ∧
      { id := id, asid := asid, users := s.usersOf asid ((start, cut) :: s.removedSpans asid start cut), host := true } ∈
        t.hub.invals ∧ t.mem = s.mem ∧
      (∀ c e, e ∈ (t.core c).utlb ↔ e ∈ (s.core c).utlb ∧ e.inRange asid start cut = false) ∧
      (∀ e, e ∈ t.ctlb ↔ e ∈ s.ctlb ∧ e.2.inRange asid start cut = false) ∧
      ∀ e, e ∈ t.stlb ↔ e ∈ s.stlb ∧ e.2.inRange asid start cut = false) ∧
    (∀ id, g.tlbiGo = some id → exec (.tlbiGo x) s = .next s.wake)) ∧
  ∀ (s : State) (n : Nat) (v : Inval), s.hub.invals[n]? = some v →
    (s.rangeBusy v = true → exec (.tlbInvalidationComplete n) s = .next s) ∧
    (s.rangeBusy v = false → v.host = true → s.hub.regs.tlbiGo = some v.id →
      ∃ t, exec (.tlbInvalidationComplete n) s = .next t ∧ t.hub.regs.tlbiGo = none ∧
        t.hub.invals = s.hub.invals.erase v ∧ t.mem = s.mem ∧ t.cores = s.cores) ∧
    ∀ x, s.rangeBusy v = false → v.host = false → s.ctxOf x.who = some x → Spec.waitingOn s v.id = [x.who] →
      ∃ t w m, exec (.tlbInvalidationComplete n) s = .next t ∧ t.hub.invals = s.hub.invals.erase v ∧ t.mem = s.mem ∧
        t.warp x.who.core x.who.slot = some w ∧ t.team x.who.core x.warp.team = some m ∧ m.instr = x.team.instr + 1 ∧
        amFind w.splits x.who.entry = some (x.split.goOn (x.split.spc + 4))

/-- R83, R337: PGREL_GO, with no posted write waiting, starts a release of the range of whole pages the registers then name
while none runs, and is ignored otherwise; that a range of other than whole pages is ignored is the model's choice (log 52). Its
completion leaves
no core a line of the range and every other line as it was, writes the dirty bytes of a line that one core holds home
unless their unit is lost, and changes no byte of memory outside the range. -/
def Sys2Proof.Spec.PageRelease : Prop :=
  (∀ (s : State) (x : BitVec 64), s.hub.posted = [] →
    let ok : Prop := s.hub.regs.pgrelBusy = false ∧ s.hub.regs.pgrelPa.toNat % 8192 = 0 ∧ s.hub.regs.pgrelLen.toNat % 8192 = 0
    (ok → ∃ t, exec (.pgrelGo x) s = .next t ∧ t.mem = s.mem ∧ t.cores = s.cores ∧
      t.hub.regs = { s.hub.regs with
        pgrelBusy := true, pgrelRange := (s.hub.regs.pgrelPa, s.hub.regs.pgrelLen), pgrelLost := false }) ∧
    (¬ok → exec (.pgrelGo x) s = .next s.wake)) ∧
  ∀ (s : State), s.hub.regs.pgrelBusy = true →
    ∃ t, exec .pgrelComplete s = .next t ∧ t.hub.regs.pgrelBusy = false ∧
      (∀ c n, (t.core c).line n = if s.hub.regs.inRelease n = true then none else (s.core c).line n) ∧
      (∀ a, s.hub.regs.inRelease (a / 64) = false → Memory.read t.mem a = Memory.read s.mem a) ∧
      ∀ c l k, (s.core c).line l.line = some l → s.hub.regs.inRelease l.line = true →
        (∀ p ∈ s.cores, ∀ m ∈ p.2.l1, m.line = l.line → m = l) → k < 64 → l.dirty.getLsbD k = true →
        k / 8 ∉ s.lostUnits l → Memory.read t.mem (l.line * 64 + k) = BitVec.ofNat 8 (l.data.toNat / 256 ^ k)

/-- Page walks, range invalidations and page release (R83, R99, R100, R217, R276, R337). -/
def Obligations.WalksAndInvalidations : Prop :=
  Spec.WalksAndInvalidationsPart ∧
  Spec.PageRelease ∧
  Spec.TlbInvalidateStarts

/-- The gang of key `k` in a state. -/
def Sys2Proof.Spec.gang (s : State) (k : Nat) : Option Gang := s.hub.gangs.find? (·.key == k)

/-- What becomes of a gang that a request with order q and deadline `d` (a value of CLOCK) names (R289 to R291): it
drains, as it always does without save pre-emption (R346), or is to be saved or
discarded in its turn where free slots suffice, or drains until they do. -/
def Sys2Proof.Spec.Chosen (s t : State) (g : Gang) (q d : Nat) (drain : Bool) : Prop :=
  ∃ g' order, Spec.gang t g.key = some g' ∧ g' = { g with state := g'.state } ∧ t.mem = s.mem ∧
    let c := s.gangChoice g drain (d - s.clock.toNat)
    (c = .drain ∨ s.hasFeature 32 = false → g'.state = .draining d q false) ∧
    (c ≠ .drain → s.hasFeature 32 = true → s.slotsFor g.teams.length = true → g'.state = .saveAsked q order (decide (c = .discard)) false) ∧
    (c ≠ .drain → s.hasFeature 32 = true → s.slotsFor g.teams.length = false → g'.state = .draining d q true)

/-- R289, R291: a write of PREEMPT_TGT, with no posted write waiting, names the gang of a TASK_ID and GANG_ID, the
gangs of an ASID or the gangs on a cluster, by
MODE of PREEMPT_CTL; a running gang it names takes its action with the deadline of PREEMPT_CTL. A head record that
waits for more than 64 µs asks for the lower-level gangs of the first cluster they would leave room on, once. A
drain whose deadline has passed chooses again without draining. R346: without save pre-emption every gang it names drains, which
is the model's reading (log 96). -/
def Sys2Proof.Spec.PreemptionRequests : Prop :=
  (∀ (s : State) (v : BitVec 64) (g : Gang),
    let ctl := s.hub.regs.preemptCtl.toNat
    let d := s.clock.toNat + ctl / 2 ^ 32 % 2 ^ 28 * 940
    s.hub.posted = [] → Spec.gang s g.key = some g → g.state = .running →
    (ctl / 2 ^ 62 = 0 → s.hub.gangs.filter (fun h => h.task.toNat == v.toNat / 2 ^ 16 % 2 ^ 32 && h.gangId == v.toNat % 2 ^ 16) = [g] →
      ∃ t, exec (.preemptGang v) s = .next t ∧ Spec.Chosen s t g (ctl / 2 ^ 60 % 4) d true) ∧
    (ctl / 2 ^ 62 = 1 → s.hub.gangs.filter (fun h => h.asid.toNat == v.toNat % 2 ^ 12) = [g] →
      ∃ t, exec (.preemptAsid v) s = .next t ∧ Spec.Chosen s t g (ctl / 2 ^ 60 % 4) d true) ∧
    (ctl / 2 ^ 62 = 2 → s.hub.gangs.filter (fun h => h.cluster == v.toNat % 2 ^ 6) = [g] →
      ∃ t, exec (.preemptCluster v) s = .next t ∧ Spec.Chosen s t g (ctl / 2 ^ 60 % 4) d true)) ∧
  (∀ (s : State) (q : Nat) (h : Head) (a cl : Nat) (d : Desc) (g : Gang), s.noteWaits.hub.headOf q = some h →
    h.waitSince = some a → parseDesc h.desc = some d → h.asked = false → a + 64 * 940 ≤ s.clock.toNat →
    (List.range 64).find? (fun c => !(s.hub.lower (q / 16) c).isEmpty && s.wouldFit c (s.hub.lower (q / 16) c) d.claims) = some cl →
    s.hub.lower (q / 16) cl = [g] → Spec.gang s g.key = some g → g.state = .running →
    ∃ t, exec (.placerPreemptRequest q) s = .next t ∧ t.hub.headOf q = some { h with asked := true } ∧
      Spec.Chosen s t g (recPrio h.record) (s.clock.toNat + s.hub.regs.preDeadline.toNat * 940) true) ∧
  ∀ (s : State) (g : Gang) (d q : Nat), Spec.gang s g.key = some g → g.state = .draining d q false →
    (d ≤ s.clock.toNat → ∃ t, exec (.drainDeadlineExpire g.key) s = .next t ∧ Spec.Chosen s t g q d false) ∧
    (s.clock.toNat < d → exec (.drainDeadlineExpire g.key) s = .next s)

/-- R290, R292, R294, R297, R298, R305: in its turn a gang of one team whose instructions are over leaves its core: saved, its
slot holds STATE, TASK_ID, GANG_ID and ASID; to be restarted, it joins the resume list at once, but where IRREV is set by
then it is to be saved instead. SAVE_LM_WRITE writes the LM partition into the slot and
puts the saved gang on its resume list. A gang dropped by the host is gone.
That the slot taken is the lowest-numbered free one is the model's choice (log 25); that a discarded gang joins its resume list in
the step in which it is discarded is the model's reading, for R297 gives no moment (log 108). -/
def Sys2Proof.Spec.GangsLeaveTheirCores : Prop :=
  (∀ (s : State) (g : Gang) (c key q o n : Nat) (b : Bool) (ns : List Nat) (m : Team), Spec.gang s g.key = some g →
    g.teams = [(c, key)] → s.team c key = some m → s.gangQuiet g = true →
    (s.saveTurn g = true → s.freeSlots = n :: ns →
      (g.state = .saveAsked q o false b →
        ∃ t v x, exec (.gangSave g.key) s = .next t ∧ Spec.gang t g.key = none ∧ t.team c key = none ∧
          t.hub.saving = s.hub.saving ++ [v] ∧ v.gang.key = g.key ∧ v.kind = .save ∧ v.teams = [x] ∧ x.slot = n ∧ x.core = c ∧
          x.key = key ∧ Memory.readNat t.mem (s.slotPa n) 4 % 8 = 1 ∧
          Memory.readNat t.mem (s.slotPa n + 0x30) 4 = g.task.toNat ∧
          Memory.readNat t.mem (s.slotPa n + 0x34) 2 = g.gangId % 2 ^ 16 ∧
          Memory.readNat t.mem (s.slotPa n + 0x38) 2 = g.asid.toNat) ∧
      (g.state = .saveAsked q o true b → m.irrev = true →
        ∃ t, exec (.gangDiscard g.key) s = .next t ∧ t.mem = s.mem ∧
          Spec.gang t g.key = some { g with state := .saveAsked q o false true }) ∧
      (g.state = .saveAsked q o true b → m.irrev = false →
        ∃ t v, exec (.gangDiscard g.key) s = .next t ∧ Spec.gang t g.key = none ∧ t.team c key = none ∧
          t.hub.resume = s.hub.resume ++ [v] ∧ v.gang.key = g.key ∧ v.kind = .restart)) ∧
    (g.state = .dropAsked o →
      ∃ t, exec (.gangDiscard g.key) s = .next t ∧ Spec.gang t g.key = none ∧ t.team c key = none ∧
        t.hub.resume = s.hub.resume ∧ t.hub.saving = s.hub.saving)) ∧
  (∀ (s : State) (v : SavedGang) (x : SavedTeam), s.hub.saving.find? (fun w => w.gang.key == v.gang.key) = some v →
    v.kind = .save → v.teams = [x] → s.copiesOf v.gang.cluster v.gang.key = false →
    ∃ t, exec (.saveLmWrite v.gang.key) s = .next t ∧ (∀ w ∈ t.hub.saving, w.gang.key ≠ v.gang.key) ∧
      (∃ ls, t.hub.resume = s.hub.resume ++ [{ v with teams := [{ x with locals := ls }] }]) ∧
      Memory.readNat t.mem (s.slotPa x.slot) 4 % 8 = 2 ∧
      Memory.readNat t.mem (s.slotPa x.slot + 0x68) 8 = s.clock.toNat ∧
      Memory.readN t.mem (s.slotPa x.slot + 0x100000) x.team.lmSize =
        byteRead (s.core x.core).lm x.team.lmBase x.team.lmSize)

/-- Pre-emption requests choose an action, and gangs are saved, discarded or dropped (R289, R290, R291, R292, R294, R297, R298, R305, R346). -/
def Obligations.PreemptionAndSaves : Prop :=
  Spec.PreemptionRequests ∧
  Spec.GangsLeaveTheirCores

/-- R296, R297, R299: GANG_RESTORE gives the first gang of a level's resume list, in its turn and where a cluster fits
it, its place: a saved
one has its teams back on their cores with the claims found, a discarded one starts again. That the restore counts as the
placer's last placement of R16 is the model's choice (log 102). A temperature above
THERM_LIMIT makes the core hot from then, any other ends that; a gang resident for more than 2 ms with a core as long hot is to
be migrated, whether it runs or drains; without thermal migration none is (R346).
Where a migration is asked for without the host is the model's reading (log 55), and that a draining gang drains on where it is
restored (log 78). -/
def Obligations.RestoreAndMigration : Prop :=
  (∀ (s : State) (l cl : Nat) (v : SavedGang) (fits : List (Nat × Fit)), s.hub.resumeFirst l = some v →
    s.codeGone v = false → s.levelTurn l = true → s.findCluster v.claims (s.clusterOrder v.gang.asid) = some (cl, fits) →
    (∀ x c f, v.kind = .save → v.teams = [x] → fits = [(c, f)] →
      ∃ t g m, exec (.gangRestore l) s = .next t ∧ g ∈ t.hub.gangs ∧ g.cluster = cl ∧
        g.state = (match v.gang.state with
          | .migrateAsked _ _ (some (d, q, n)) => .draining d q n
          | _ => .running) ∧
        g.task = v.gang.task ∧ g.gangId = v.gang.gangId ∧ g.teams = [(c, x.key)] ∧ t.hub.lastCluster = cl ∧
        (∀ w ∈ t.hub.resume, w.gang.key ≠ v.gang.key) ∧ t.team c x.key = some m ∧ m.lmBase = f.base ∧ m.warps = f.slots ∧
        m.instr.toNat = Memory.readNat s.mem (s.slotPa x.slot + 0x40) 8 % 2 ^ 64) ∧
    (∀ d, v.kind = .restart → parseDesc v.gang.desc = some d →
      ∃ t g, exec (.gangRestore l) s = .next t ∧ g ∈ t.hub.gangs ∧ g.cluster = cl ∧ g.state = .running ∧
        g.task = v.gang.task ∧ g.gangId = v.gang.gangId ∧ (∀ w ∈ t.hub.resume, w.gang.key ≠ v.gang.key) ∧
        ∀ (i c : Nat) (f : Fit), fits[i]? = some (c, f) → ∃ m, t.team c (teamKey g.key i) = some m ∧ m.lmBase = f.base ∧
          m.instr = 0)) ∧
  (∀ (s : State) (c temp : Nat), ∃ t, exec (.thermalSample c temp) s = .next t ∧ (t.core c).temp = temp ∧
    (t.core c).hot = (if s.hub.regs.thermLimit.toNat % 256 < temp then some ((s.core c).hot.getD s.clock.toNat) else none) ∧
    t.mem = s.mem ∧ t.hub = s.hub ∧ ∀ d, d ≠ c → t.core d = s.core d) ∧
  ∀ (s : State) (g : Gang) (dr : Option (Nat × Nat × Bool)), Spec.gang s g.key = some g →
    (g.state = .running ∧ dr = none) ∨ (∃ d q n, g.state = .draining d q n ∧ dr = some (d, q, n)) →
    let late : Prop := g.since + 2000 * 940 < s.clock.toNat ∧
      ∃ p ∈ g.teams, ∃ a, (s.core p.1).hot = some a ∧ a + 2000 * 940 < s.clock.toNat
    (late → s.hasFeature 31 = true → (s.coolCluster (s.claimsOf g)).isSome = true → s.slotsFor g.teams.length = true →
      ∃ t n, exec (.thermalMigrate g.key) s = .next t ∧
        Spec.gang t g.key = some { g with state := .migrateAsked n false dr } ∧ t.mem = s.mem) ∧
    (¬late ∨ s.hasFeature 31 = false → exec (.thermalMigrate g.key) s = .next s)

/-- R139, R300, R302: SAMPLE_TAKE of a quadrant whose counter is 0 moves the pointer to the next occupied slot, reloads
the counter and, where
the ring has room, writes one 32-byte record of the split sampled: its SPC, for one that issued in this cycle the one it issued at
(log 72), PCOUNT of the object its BARWAIT names, else of
the one its warp last arrived at, its place, its team, ASID, CLOCK and TASK_ID; a split that issued in this cycle has ISSUED
set, no reason and no BLAME, and is recorded where it left by that issue as well. Without room the record is
dropped and counted. -/
def Obligations.Sampling : Prop :=
  ∀ (s : State) (quad j e : Nat) (w : Warp) (issued : Option VAddr) (x : Ctx), x.who.slot = quad * 12 + j → x.who.entry = e →
    let k := s.core x.who.core
    let q := amGet Quad.reset k.quads quad
    let g := s.hub.regs
    let size := g.sampleSize.toNat
    let room : Prop := s.ringOk g.sampleBase.toNat size 26 = true ∧ ringRoom size g.sampleWidx.toNat g.sampleRidx.toNat ≠ 0
    s.hasFeature 28 = true → k.sampleCtl.getLsbD 0 = true → q.counter = 0 → nextOccupied k quad q.pointer = some j →
    s.warp x.who.core x.who.slot = some w → sampleSplit q x.who.slot w = some (e, issued) →
    (s.ctxOf x.who = some x ∨
      (s.ctxOf x.who = none ∧ issued.isSome = true ∧ x.core = k ∧ x.warp = w ∧ s.team x.who.core w.team = some x.team ∧
        x.split = { newSplit0 with live := false })) →
    ∃ t, exec (.sampleTake x.who.core quad) s = .next t ∧
      amGet Quad.reset (t.core x.who.core).quads quad =
        { q with counter := BitVec.ofNat 16 (2 ^ (6 + k.sampleCtl.toNat / 2 % 16) - 1), pointer := j } ∧
      (¬room → t.mem = s.mem ∧ t.hub.regs = { g with sampleDrop := g.sampleDrop + 1 }) ∧
      (room → t.hub.regs = { g with sampleWidx := g.sampleWidx + 1 } ∧ ∃ r, r.length = 32 ∧
        t.mem = Memory.writeN s.mem (g.sampleBase.toNat + g.sampleWidx.toNat % (size / 32) * 32) r ∧
        leNat (r.take 8) % 2 ^ 54 = (issued.getD x.split.spc).toNat ∧
        (issued.isSome = true → leNat (r.take 8) = 2 ^ 63 + 2 ^ 62 + (issued.getD x.split.spc).toNat ∧ leNat ((r.drop 8).take 8) = 0) ∧
        leNat ((r.drop 24).take 8) = x.team.asid.toNat * 2 ^ 52 + s.clock.toNat % 2 ^ 20 * 2 ^ 32 + x.team.taskId.toNat ∧
        ∃ p, leNat ((r.drop 16).take 8) = (p * 2 ^ 48 + x.team.gangId % 2 ^ 16 * 2 ^ 32 + e * 2 ^ 24 + w.widx * 2 ^ 20 +
            x.who.slot * 2 ^ 14 + x.team.teamId * 2 ^ 10 + x.who.core) % 2 ^ 64 ∧
          (∀ off, x.split.wait = .barwait off → p = (k.bar (x.team.lmBase + off)).pcount % 2 ^ 16) ∧
          ((∀ off, x.split.wait ≠ .barwait off) →
            (∀ off, w.lastBar = some off → p = (k.bar (x.team.lmBase + off)).pcount % 2 ^ 16) ∧
            (w.lastBar = none → p = 0xFFFF)))

/-- R303 to R307, R336: with no posted write waiting, STOP of a placed, running team makes it stop with SRC 3; the team is
stopped once its operations are over or stalled and its copy records have finished, and vector 7 is sent. RESUME of a
stopped team lets it go on (where the trap of a draining entry was held meanwhile, that trap stops it again with SRC 1: R171;
one at each resume is log 100), DISCARD marks its gang
to be dropped, DUMP_REQ asks for a dump of it behind those asked for before. A value that names no placed team changes nothing. -/
def Sys2Proof.Spec.StopsAndResumes : Prop :=
  (∀ (s : State) (v : BitVec 64) (c k : Nat) (m : Team), s.hub.posted = [] → s.namedTeam v = some (c, k, m) →
    s.team c k = some m →
    (m.run = .running → ∃ t m', exec (.stop v) s = .next t ∧ t.team c k = some m' ∧ m'.run = .stopping 3 ∧
      m'.stop.cause = 0 ∧ m'.stop.clock = s.clock ∧ m' = { m with run := m'.run, stop := m'.stop } ∧ t.mem = s.mem) ∧
    (∀ src, m.run = .stopped src →
      (s.heldTraps c k = [] →
        ∃ t, exec (.resume v) s = .next t ∧ t.team c k = some { m with run := .running } ∧ t.mem = s.mem) ∧
      (∀ p ps, s.heldTraps c k = p :: ps → ∃ t m', exec (.resume v) s = .next t ∧ t.team c k = some m' ∧
        m'.run = .stopping 1 ∧ m'.stop.cause = p.2.cause.code ∧ t.mem = s.mem) ∧
      (∀ g, s.hub.gangs.find? (·.key == m.gang) = some g → ∃ t n, exec (.discard v) s = .next t ∧
        t.hub.gangs.find? (·.key == m.gang) = some { g with state := .dropAsked n } ∧ t.mem = s.mem) ∧
      ∃ t, exec (.dumpReq v) s = .next t ∧ t.hub.dumps = s.hub.dumps ++ [(c, k)] ∧ t.mem = s.mem) ∧
    ((∀ src, m.run ≠ .stopped src) → exec (.resume v) s = .next s.wake ∧ exec (.discard v) s = .next s.wake ∧
      exec (.dumpReq v) s = .next s.wake)) ∧
  (∀ (s : State) (v : BitVec 64), s.hub.posted = [] → v.toNat % 2 ^ 13 ≠ 0 ∨ s.hub.gangs = [] →
    ∀ i ∈ [Instr.stop v, .resume v, .discard v, .dumpReq v],
    exec i s = .next s.wake) ∧
  ∀ (s : State) (c k src : Nat) (m : Team), s.team c k = some m → m.run = .stopping src →
    let quiet : Prop := (∀ w ∈ s.warpsOf c k, w.2.ops = [] ∧ ∀ e ∈ w.2.splits, e.2.midway = false) ∧
      (s.core c).copiesBy k = false
    (quiet → ∃ t m', exec (.teamStopped c k) s = .next t ∧ t.team c k = some m' ∧ m'.run = .stopped src ∧ t.mem = s.mem ∧
      t.hub.msixSent = s.hub.msixSent ++ (if s.hub.masked 7 = true then [] else [7])) ∧
    ((s.core c).copiesBy k = true → exec (.teamStopped c k) s = .next s)

/-- R306 to R308, R313: DUMP_WRITE of the oldest dump asked for, once it has begun and DONE is 0, writes the header at DUMP_BASE: its magic
number, the team's TASK_ID, GANG_ID, TEAM_ID, ASID and LM size; DONE becomes 1 and vector 3 is sent. While DONE is 1 it
waits. A write of DUMP_CTL with bit 0 clear, with no posted write waiting, clears DONE. -/
def Sys2Proof.Spec.Dumps : Prop :=
  (∀ (s : State) (c k : Nat) (ds : List (Nat × Nat)) (m : Team), s.hub.dumps = (c, k) :: ds →
    (s.hub.regs.dumpDone = true → exec .dumpWrite s = .next s) ∧
    (s.hub.regs.dumpDone = false → 0x50 ≤ s.dumpRoom →
      (s.hub.regs.dumpBusy = false → ∃ t, exec .dumpWrite s = .next t ∧ t.hub.regs = { s.hub.regs with dumpBusy := true } ∧
        t.mem = s.mem) ∧
      (s.hub.regs.dumpBusy = true → s.team c k = some m →
        let b := s.hub.regs.dumpBase.toNat
        ∃ t, exec .dumpWrite s = .next t ∧ t.hub.dumps = ds ∧
          t.hub.regs = { s.hub.regs with dumpDone := true, dumpBusy := false } ∧
          t.hub.msixSent = s.hub.msixSent ++ (if s.hub.masked 3 = true then [] else [3]) ∧
          Memory.readNat t.mem b 4 = 0x4B4D4450 ∧ Memory.readNat t.mem (b + 0x20) 4 = m.taskId.toNat ∧
          Memory.readNat t.mem (b + 0x24) 2 = m.gangId % 2 ^ 16 ∧ Memory.readNat t.mem (b + 0x26) 1 = m.teamId % 2 ^ 8 ∧
          Memory.readNat t.mem (b + 0x28) 2 = m.asid.toNat ∧ Memory.readNat t.mem (b + 0x2C) 4 = m.lmSize % 2 ^ 32 ∧
          Memory.readNat t.mem (b + 0x38) 8 = s.clock.toNat))) ∧
  ∀ (s : State) (v : BitVec 64), s.hub.posted = [] →
    (v.toNat < 4 → v.toNat % 2 = 0 → ∃ t, exec (.dumpCtlWrite v) s = .next t ∧
      t.hub.regs = { s.hub.regs with dumpDone := false } ∧ t.mem = s.mem) ∧
    (4 ≤ v.toNat ∨ v.toNat % 2 = 1 → exec (.dumpCtlWrite v) s = .next s.wake)

/-- Host stops, resumes and dumps (R171, R303, R304, R305, R306, R307, R308, R313, R336). -/
def Obligations.StopsAndDumps : Prop :=
  Spec.StopsAndResumes ∧
  Spec.Dumps

/-- R113, R153, R331, R332: a register write through BAR0 wakes the device, is performed after every posted write before it,
and replaces the register at its offset: the rings' bases, sizes and read
indexes, the pre-emption, thermal, debug, dump, capture and fabric controls, the invalidation and release ranges. A write of a
read-only index or an unassigned offset changes nothing else. A write of a queue descriptor to a disabled queue gives
it its fields; to an enabled one it only clears V, and one that breaks a condition on its fields is ignored as a whole. The wake
is R366's.
That writes of the write indexes and counters change nothing is the model's reading (log 31). -/
def Sys2Proof.Spec.HostRegisterWrites : Prop :=
  (∀ (s : State) (v : BitVec 64), s.hub.posted = [] →
    let r := s.hub.regs
    ∀ p ∈ [(0x1000, { r with fqBase := v }), (0x1008, { r with fqSize := v }), (0x1018, { r with fqRidx := v }),
        (0x2000, { r with olBase := v }), (0x2008, { r with olSize := v }), (0x2018, { r with olRidx := v }),
        (0x3000, { r with preemptCtl := v }), (0x3010, { r with preDeadline := v }), (0x3018, { r with saveBase := v }),
        (0x4000, { r with sampleBase := v }), (0x4008, { r with sampleSize := v }), (0x4018, { r with sampleRidx := v }),
        (0x5000, { r with dbgCtl := v }), (0x5020, { r with dumpBase := v }), (0x5028, { r with dumpSize := v }),
        (0x6000, { r with captureCtl := v }), (0x6008, { r with captureBase := v }), (0x6010, { r with captureSize := v }),
        (0x6020, { r with captureRidx := v }), (0x7000, { r with fabAdapt := v }), (0x8000, { r with tlbiAsid := v }),
        (0x8008, { r with tlbiStart := v }), (0x8010, { r with tlbiLen := v }), (0x8020, { r with pgrelPa := v }),
        (0x8028, { r with pgrelLen := v }), (0x1010, r), (0x2010, r), (0x4010, r), (0x4020, r), (0x6018, r), (0x0F00, r)],
      exec (.registerWrite p.1 v) s = .next { s.wake with hub := { s.hub with regs := p.2 } }) ∧
  (∀ (s : State) (off : Nat) (v : BitVec 64), s.captures s.captureAsid = false →
    exec (.registerWrite off v) s = .next (s.wake.drainPosted.registerWrite off v) ∧
    ∀ p, s.hub.posted = [p] → (∀ u ∈ unitsOf p.pa p.data.length, s.unitBad u = false) →
      s.wake.drainPosted.mem = Memory.writeN s.mem p.pa p.data ∧ s.wake.drainPosted.hub.posted = []) ∧
  ∀ (s : State) (q : Nat) (v : BitVec 64), s.hub.posted = [] → q < 64 →
    let c := s.hub.queue q
    let n := v.toNat
    (c.v = true → ∃ t, exec (.cqDescriptorWrite q v) s = .next t ∧
      t.hub.queue q = { c with v := v.getLsbD 63 } ∧ t.mem = s.mem) ∧
    (c.v = false → 6 ≤ n / 2 ^ 57 % 64 → n / 2 ^ 57 % 64 ≤ 20 → n / 2 ^ 41 % 16 = 0 →
      n % 2 ^ 41 * 2048 % (2 ^ (n / 2 ^ 57 % 64) * 32) = 0 → ∃ t d, exec (.cqDescriptorWrite q v) s = .next t ∧
      t.hub.queue q = d ∧ d.v = v.getLsbD 63 ∧ d.log2.toNat = n / 2 ^ 57 % 64 ∧ d.asid.toNat = n / 2 ^ 45 % 2 ^ 12 ∧
      d.base.toNat = n % 2 ^ 41 ∧ d.head = c.head ∧ d.tail = c.tail ∧ t.mem = s.mem) ∧
    (c.v = false → 20 < n / 2 ^ 57 % 64 ∨ n / 2 ^ 57 % 64 < 6 ∨ n / 2 ^ 41 % 16 ≠ 0 ∨
      n % 2 ^ 41 * 2048 % (2 ^ (n / 2 ^ 57 % 64) * 32) ≠ 0 → exec (.cqDescriptorWrite q v) s = .next s.wake)

/-- R153, R331, R333, R334, R366: with no posted write waiting, a host access of a window that is enabled, lies in bonded DRAM and,
through BAR4, only in pages whose ownership bits are set, is performed: a read changes nothing, a strongly ordered write and a
notify write put their bytes at the window's address. An access that is not performed counts in HREF and changes no memory; a
read of BAR0 is never refused, and a payload of more than 512 bytes is not taken. Any access wakes the device. Before the device
has begun stage 0 both windows refuse (R367). -/
def Sys2Proof.Spec.HostWindows : Prop :=
  ∀ (s : State) (off req : Nat) (bs : List Byte), bs ≠ [] → s.hub.posted = [] →
    let refused (t : State) (bar : Nat) : Prop := t.mem = s.mem ∧ t.boot = { s.boot with rest := 0 } ∧
      t.hub.regs.hrefCount = BitVec.ofNat 64 (min (s.hub.regs.hrefCount.toNat + 1) (2 ^ 32 - 1)) ∧
      t.hub.regs.hrefAddr = BitVec.ofNat 64 (bar * 2 ^ 61 + off % 2 ^ 36)
    (∀ bar n, bar ∈ [2, 4] →
      (∀ pa, s.hostAccess bar off n = some pa → exec (.hostWindowRead bar off n) s = .next s.wake) ∧
      (s.hostAccess bar off n = none → ∃ t, exec (.hostWindowRead bar off n) s = .next t ∧ refused t bar)) ∧
    (∀ n, exec (.hostWindowRead 0 off n) s = .next s.wake) ∧
    (512 < bs.length → exec (.hostWindowWrite off bs req false) s = .next s.wake ∧
      exec (.hostNotifyWrite off bs req) s = .next s.wake) ∧
    (bs.length ≤ 512 →
     (∀ relaxed, s.hostAccess 4 off bs.length = none →
      ∃ t, exec (.hostWindowWrite off bs req relaxed) s = .next t ∧ refused t 4) ∧
     (s.hostAccess 2 off bs.length = none → ∃ t, exec (.hostNotifyWrite off bs req) s = .next t ∧ refused t 2) ∧
     ∀ pa, s.captures s.captureAsid = false → (∀ u ∈ unitsOf pa bs.length, s.unitBad u = false) →
      (s.hostAccess 4 off bs.length = some pa → ∃ t, exec (.hostWindowWrite off bs req false) s = .next t ∧
        t.mem = Memory.writeN s.mem pa bs ∧ t.boot = { s.boot with rest := 0 }) ∧
      (s.hostAccess 2 off bs.length = some pa → ∃ t, exec (.hostNotifyWrite off bs req) s = .next t ∧
        t.mem = Memory.writeN s.mem pa bs ∧ t.boot = { s.boot with rest := 0 })) ∧
    (∀ n pa, s.hostAccess 4 off n = some pa → s.boot.begun = true ∧ s.hub.regs.shwinBase.getLsbD 63 = true ∧
      pa = s.hub.regs.shwinBase.toNat % 2 ^ 63 + off ∧ s.dramRange pa (max n 1) = true ∧
      ∀ a, off ≤ a → a < off + max n 1 → s.ownBit (a / 8192) = true) ∧
    ∀ n, s.hostAccess 2 off n = (if s.boot.begun = true ∧ s.hub.regs.notifyBase.getLsbD 63 = true ∧ off < 2 ^ 25 ∧
        s.dramRange (s.hub.regs.notifyBase.toNat % 2 ^ 63 + off) (max n 1) = true then
      some (s.hub.regs.notifyBase.toNat % 2 ^ 63 + off) else none)

/-- Host register writes and window accesses (R113, R153, R331, R332, R333, R334, R366, R367). -/
def Obligations.HostAccesses : Prop :=
  Spec.HostRegisterWrites ∧
  Spec.HostWindows

/-- R336, R361, R363, R364, R365, R366, R367, R368: DEVICE_RESET restarts the start sequence with the stored firmware. STAGE rises by
1 to at most 2 and sends vector 4, unless a FAIL stands: with a stack that does not train it stays at 0 with FAIL 4. Bits 31 to 0 of LAT_TOL take a write. The device enters the
deepest rest state that is admitted and whose condition holds, and leaves it once the condition fails. A write
of RCV_GO starts a recovery attempt unless one runs. An attempt with a bad address or length ends with RESULT 4, with an unreadable
release with 5, with a malformed one with 4, with a bad signature with 2, with a version below the fuse's with 3, and with a
release that verifies restarts the sequence with it.
What a device reset keeps is the model's reading (log 29). -/
def Sys2Proof.Spec.StartRestAndRecovery : Prop :=
  (∀ s : State, ∃ t, exec .deviceReset s = .next t ∧ t.boot.stage = 0 ∧ t.boot.running = s.boot.store ∧ t.boot.store = s.boot.store ∧
    t.boot.rest = 0 ∧ t.cores = State.reset.cores ∧ t.hub = State.reset.hub ∧ t.mem = s.mem ∧
    (s.boot.store.sigOk = true → s.boot.fuseSvn ≤ s.boot.store.svn → s.boot.store.microOk = true →
      t.boot.fail = if Config.stackTrains 0 = true then 0 else 4) ∧
    (s.boot.store.sigOk = true → s.boot.fuseSvn ≤ s.boot.store.svn → s.boot.store.microOk = false → t.boot.fail = 3) ∧
    (s.boot.store.sigOk = false → t.boot.fail = 1) ∧
    (s.boot.store.sigOk = true → s.boot.store.svn < s.boot.fuseSvn → t.boot.fail = 2)) ∧
  (∀ s : State,
    let rises (t : State) : Prop := t.boot.fail = 0 ∧ t.mem = s.mem ∧
      t.hub.msixSent = s.hub.msixSent ++ (if s.hub.masked 4 = true then [] else [4])
    (s.boot.stage = 2 → exec .stageAdvance s = .next s) ∧
    (s.boot.fail ≠ 0 → exec .stageAdvance s = .next s) ∧
    (s.boot.fail = 0 → s.boot.stage = 1 → ∃ t, exec .stageAdvance s = .next t ∧ t.boot.stage = 2 ∧ rises t ∧
      t.fab.inc = s.fab.inc + 1 ∧ t.fab.device < 993) ∧
    (s.boot.fail = 0 → s.boot.stage = 0 → (∀ k, 0 < k → k < 8 → Config.stackTrains k = true) →
      ∃ t, exec .stageAdvance s = .next t ∧ t.boot.stage = 1 ∧ rises t) ∧
    (s.boot.fail = 0 → s.boot.stage = 0 → (∃ k, 0 < k ∧ k < 8 ∧ Config.stackTrains k = false) → ∃ t, exec .stageAdvance s = .next t ∧
      t.boot.stage = 0 ∧ t.boot.fail = 4)) ∧
  (∀ (s : State) (v : BitVec 64), s.hub.posted = [] → ∃ t, exec (.latTolWrite v) s = .next t ∧ t.boot.latTol.toNat = v.toNat % 2 ^ 32 ∧
    t.boot.rest = 0 ∧ t.mem = s.mem) ∧
  (∀ (s : State) (n : Nat),
    (s.boot.rest < n → n ≤ s.restAllow → s.restHolds n = true → (∀ k, n < k → k ≤ s.restAllow → s.restHolds k = false) →
      (∀ x ∈ s.stale, s.firnDown (x.1 * 64) = false) → ∃ t, exec .restEntry s = .next t ∧ t.boot = { s.boot with rest := n } ∧ t.mem = s.mem ∧
        (2 ≤ n → ∀ c l, l ∈ (t.core c).l1 ↔ l ∈ (s.core c).l1 ∧ l.dirty ≠ 0) ∧ (3 ≤ n → t.stale = [])) ∧
    (s.boot.rest ≠ 0 → s.restHolds s.boot.rest = false → exec .restExit s = .next s.wake) ∧
    (s.restHolds s.boot.rest = true → s.boot.rest ≤ s.restAllow → s.bells = [] → exec .restExit s = .next s)) ∧
  (∀ (s : State) (v : BitVec 64), s.hub.posted = [] →
    (s.boot.fail ∈ [1, 2, 3] → v.getLsbD 0 = true → s.boot.rcvGo = false → exec (.recoveryAttempt v) s = .next { s with
      boot := { s.boot with rest := 0, rcvGo := true, rcvKeep := v.getLsbD 1 }, late := s.late ++ [.recover] }) ∧
    (s.boot.fail ∉ [1, 2, 3] ∨ v.getLsbD 0 = false ∨ s.boot.rcvGo = true → exec (.recoveryAttempt v) s = .next s.wake)) ∧
  ∀ s : State,
    (s.boot.rcvGo = false → stepAction .recover s = .next s) ∧
    (s.boot.rcvGo = true →
    let b := s.boot
    let a := b.rcvAddr.toNat
    let n := b.rcvLen.toNat
    let good : Prop := a < 2 ^ 50 ∧ a % 4096 = 0 ∧ n % 4096 = 0 ∧ 4096 ≤ n ∧ n ≤ 2 ^ 26
    (¬good → stepAction .recover s = .next { s with boot := { b with rcvResult := 4, rcvGo := false } }) ∧
    (good → ∀ c, s.homeRead (2 ^ 51 + a) n = .error c →
      stepAction .recover s = .next { s with boot := { b with rcvResult := 5, rcvGo := false } }) ∧
    (good → ∀ bs, s.homeRead (2 ^ 51 + a) n = .ok bs →
      let i := imageOf bs
      let ends (r : Nat) : Prop := stepAction .recover s = .next { s with
        boot := { b with rcvResult := r, rcvSvn := i.svn, rcvGo := false } }
      (i.wellFormed = false → ends 4) ∧
      (i.wellFormed = true → i.sigOk = false → ends 2) ∧
      (i.wellFormed = true → i.sigOk = true → i.svn < b.fuseSvn → ends 3) ∧
      (i.wellFormed = true → i.sigOk = true → b.fuseSvn ≤ i.svn → i.microOk = false → ends 2) ∧
      (i.wellFormed = true → i.sigOk = true → b.fuseSvn ≤ i.svn → i.microOk = true →
        ∃ t, stepAction .recover s = .next t ∧ t.boot.rcvResult = 1 ∧ t.boot.rcvSvn = i.svn ∧ t.boot.rcvGo = false ∧
          t.boot.fail = (if Config.stackTrains 0 = true then 0 else 4) ∧ t.boot.stage = 0 ∧ t.boot.running = i ∧
          t.boot.store = (if b.rcvKeep = true then i else b.store) ∧ t.mem = s.mem)))

/-- R369: every SPDM request is answered by one message, and changes nothing else but the count of free values:
GET_VERSION answers version 1.2,
NEGOTIATE_ALGORITHMS ECDSA P-256 with SHA-256 or an error, GET_DIGESTS the digest of slot 0's chain, GET_CERTIFICATE
the portion asked for, GET_MEASUREMENTS of a block its SHA-256 digest, block 5's that of FEAT0 to FEAT15, a request for another slot
or an unsupported one an error.
The bytes are DMTF SPDM 1.2's, taken from outside the spec (log 30); the certificates, the signatures and what the other blocks
measure are free (log 5). -/
def Sys2Proof.Spec.SpdmAnswers : Prop :=
  ∀ (s : State) (req : List Byte),
    let gives (i : Instr) (m : List Byte → Prop) : Prop := ∃ t bs, exec i s = .next t ∧ m bs ∧
      t = { s with nfree := t.nfree, boot := { s.boot with answers := s.boot.answers ++ [bs] } }
    let slot := (req.getD 2 0).toNat % 16
    let off := leNat ((req.drop 4).take 2)
    let len := leNat ((req.drop 6).take 2)
    gives (.getVersion req) (fun bs => bs = [0x10, 0x04, 0, 0, 0, 1, 0x00, 0x12]) ∧
    gives (.getCapabilities req) (fun bs => bs.take 2 = [0x12, 0x61]) ∧
    gives (.negotiateAlgorithms req) (fun bs => bs.take 2 =
      if bitAt (req.getD 8 0).toNat 4 = true ∧ bitAt (req.getD 12 0).toNat 0 = true then [0x12, 0x63] else [0x12, 0x7F]) ∧
    gives (.getDigests req) (fun bs => bs = [0x12, 0x01, 0, 1] ++ sha256 s.chain) ∧
    gives (.getCertificate req) (fun bs =>
      (slot ≠ 0 → bs = [0x12, 0x7F, 0x01, 0]) ∧
      (slot = 0 → off ≤ s.chain.length → bs.drop 8 = (s.chain.drop off).take len)) ∧
    gives (.challenge req) (fun bs => if slot ≠ 0 then bs = [0x12, 0x7F, 0x01, 0] else
      bs.take 4 = [0x12, 0x03, 0, 1] ∧ (bs.drop 4).take (sha256 s.chain).length = sha256 s.chain) ∧
    (s.hasFeature 34 = true → gives (.getMeasurements req) fun bs =>
      let op := (req.getD 3 0).toNat
      bs.take 2 = (if op = 0 ∨ op = 0xFF ∨ op ≤ 5 then [0x12, 0x60] else [0x12, 0x7F]) ∧
      (1 ≤ op → op ≤ 5 → let d := s.measurement op
        (bs.drop 8).take (7 + d.length) = leBytes 1 op ++ [1] ++ leBytes 2 35 ++ leBytes 1 (op - 1) ++ leBytes 2 32 ++ d ∧
        (op = 5 → d = sha256 (leBytes 64 s.feat.toNat)))) ∧
    gives (.spdmUnsupported req) (fun bs => bs = [0x12, 0x7F, 0x07, 0])

/-- The start sequence, rest states, recovery and SPDM (R336, R361, R363, R364, R365, R366, R367, R368, R369). -/
def Obligations.StartRestAndAttestation : Prop :=
  Spec.StartRestAndRecovery ∧
  Spec.SpdmAnswers

/-- A request of a peer with an up entry that is to be performed here now, as it arrives: none of the same device to its block is before it,
and no capture record holds it. -/
structure Sys2Proof.Spec.Received (s : State) (p : Packet) (kind : Nat) : Prop where
  kind : p.kind = kind
  peer : s.fab.arrives p = true
  mine : s.fab.sent.contains p = false
  turn : s.fab.blocked p = false
  ring : s.captureHolds p = false
  new : s.fab.early.any (fun e => e.packet == p) = false
  fresh : s.fab.grants.any (fun g => g.1 == p) = false
  plain : s.hub.regs.captureCtl = 0
  awake : s.boot.rest ≤ 2

/-- The device answers request `p` with a STATUS and data: a reply, or an acknowledgement of a write, is queued in
class C0 at the port toward the
sender (R318, R320). -/
def Sys2Proof.Spec.Answers (s t : State) (p : Packet) (status : Nat) (data : List Byte) : Prop :=
  ∀ port, s.portTo p.src p.off = some port → (t.fab.port port).queues = (s.fab.port port).queues ++ [(0, s.clock.toNat,
    { kind := if p.kind = 2 ∨ p.kind = 5 then 7 else 6, cls := 0, src := s.fab.device, inc := s.fab.inc, dst := p.src
      inter := 0x3FF, tag := p.tag, off := p.off, tree := 0, status := status, be := p.be, bel := 0, dlOrig := 0, dlLeft := 0
      op := 0, w := 0, scope := 0, barAsid := 0, barOff := 0, pcount := 0, verdict := 0, data := data })]

/-- R110, R136, R317, R318, R321, R366: a received request is checked against the export entry of its window and translated
as an access that is not
privileged of the entry's ASID. A read answers the enabled bytes of its line; a write of one part writes its enabled
bytes and is acknowledged; an atomic of one lane writes R219's result and answers the old value; an invalid window, or
a write where the entry allows none, answers PROTECTION and changes no memory. Window 1,023 reads the straggler page. In rest state
S3 a request that comes in wakes the device first; in S4 no port is up and none comes in. -/
def Sys2Proof.Spec.FabricRequests : Prop :=
  (∀ (s : State) (p : Packet) (w : Bool) (asid : Asid) (base : Nat) (x : Xlat), p.off / 2 ^ 32 % 1024 ≠ 1023 →
    s.fab.exportEntry (p.off / 2 ^ 32 % 1024) = some (w, asid, base) →
    let va := (base * 2 ^ 32 + p.off / 64 * 64 % 2 ^ 32) % 2 ^ 54
    (Spec.Received s p 1 → s.translateHub asid false va .read = .ok x →
      (∀ k, k < 64 → p.be.getLsbD k = true → s.unitBad ((x.pa + k) / 8) = false) →
      ∃ t, exec (.fabricRead p) s = .next t ∧ t.mem = s.mem ∧ Spec.Answers s t p 0
        ((List.range 64).map fun k => if p.be.getLsbD k = true then Memory.read s.mem (x.pa + k) else 0)) ∧
    (Spec.Received s p 2 → p.off / 2 ^ 32 % 1024 ≠ 1022 → w = true → p.data.length = 64 →
      s.translateHub asid false va .write = .ok x → x.cnt = false → (∀ k, k < 64 → s.unitBad ((x.pa + k) / 8) = false) →
      ∃ t, exec (.fabricWrite p) s = .next t ∧ Spec.Answers s t p 0 [] ∧ ∀ a, Memory.read t.mem a =
        if x.pa ≤ a ∧ a < x.pa + 64 ∧ p.be.getLsbD (a - x.pa) = true then p.data.getD (a - x.pa) 0 else Memory.read s.mem a) ∧
    (∀ o n, Spec.Received s p 3 → w = true → 8 ≤ p.op → p.op ≤ 0x15 → packetLanes p n = [o] → n = codeBytes p.w →
      s.translateHub asid false va .atomic = .ok x → x.cnt = false → (∀ u ∈ unitsOf (x.pa + o) n, s.unitBad u = false) →
      let old := Memory.readNat s.mem (x.pa + o) n
      ∃ t, exec (.fabricAtomic p) s = .next t ∧
        Spec.Answers s t p 0 (putBytes (List.replicate 64 0) o n old) ∧
        t.mem = Memory.writeN s.mem (x.pa + o) (leBytes n (atomValue p.op p.w old (packetValue p o n) (packetValue p (64 + o) n)))) ∧
    (w = false →
      (Spec.Received s p 2 → p.off / 2 ^ 32 % 1024 ≠ 1022 →
        ∃ t, exec (.fabricWrite p) s = .next t ∧ t.mem = s.mem ∧ Spec.Answers s t p 0x11 []) ∧
      (Spec.Received s p 3 → ∃ t, exec (.fabricAtomic p) s = .next t ∧ t.mem = s.mem ∧ Spec.Answers s t p 0x11 []))) ∧
  (∀ (s : State) (p : Packet), p.off / 2 ^ 32 % 1024 ≠ 1023 → s.fab.exportEntry (p.off / 2 ^ 32 % 1024) = none →
    (Spec.Received s p 1 → ∃ t, exec (.fabricRead p) s = .next t ∧ t.mem = s.mem ∧ Spec.Answers s t p 0x11 []) ∧
    (Spec.Received s p 4 → ∃ t, exec (.fabricAdjoint p) s = .next t ∧ t.mem = s.mem ∧ Spec.Answers s t p 0x11 [])) ∧
  (∀ (s : State) (p : Packet), ∀ e ∈ [(1, Instr.fabricRead p), (2, .fabricWrite p), (3, .fabricAtomic p), (4, .fabricAdjoint p)],
    Spec.Received s.wake p e.1 → (s.boot.rest = 3 → exec e.2 s = exec e.2 s.wake) ∧
      (s.boot.rest = 4 → exec e.2 s = .next s)) ∧
  ∀ (s : State) (p : Packet), Spec.Received s p 1 → p.off / 2 ^ 32 % 1024 = 1023 → p.off % 2 ^ 32 < 64 →
    ∃ t, exec (.fabricRead p) s = .next t ∧ t.mem = s.mem ∧ Spec.Answers s t p 0 ((List.range 64).map fun k =>
      if p.be.getLsbD k = true then (leBytes 8 s.fab.pageWord0.toNat ++ leBytes 8 s.fab.pageWord1.toNat ++
        leBytes 8 (s.fab.device % 1024 + s.fab.inc.toNat * 2 ^ 16)).getD k 0 else 0)

/-- R91, R110, R111, R112, R227: a counting load of a peer counts at home and in the remote-count entry of the peer,
its incarnation and the granule;
with no entry free it is refused and counts nowhere. A refused load is sent again 1 µs (940 cycles) after its refusal came in. When a peer's entry
leaves the up state its remote counts are freed, each one logged that is not zero, and its packets here are dropped.
That STATUS 0xFF answers a refused load is the model's reading (log 28). -/
def Sys2Proof.Spec.RemoteCounts : Prop :=
  (∀ (s u : State) (p : Packet) (w : Bool) (asid : Asid) (base : Nat) (x : Xlat) (o v : Nat), Spec.Received s p 4 → p.op = 0 →
    p.off / 2 ^ 32 % 1024 ≠ 1023 → s.fab.exportEntry (p.off / 2 ^ 32 % 1024) = some (w, asid, base) →
    let va := (base * 2 ^ 32 + p.off / 64 * 64 % 2 ^ 32) % 2 ^ 54
    s.hasFeature 12 = true → s.translateHub asid false va .read = .ok x → packetLanes p (codeBytes p.w) = [o] →
    s.countedLoad asid false (va + o) (x.pa + o) x.cnt (codeBytes p.w) = (u, .value v) → p.src ≠ s.fab.device →
    let r := s.fab.countRemote (homeOf (x.pa + o)).1 p.src p.inc ((x.pa + o) / 64 * 64) 1
    (∀ f, r = some f → ∃ t, exec (.fabricAdjoint p) s = .next t ∧ t.mem = u.mem ∧ t.fab.remote = f.remote ∧
      Spec.Answers s t p 0 (putBytes (List.replicate 64 0) o (codeBytes p.w) v)) ∧
    (r = none → ∃ t, exec (.fabricAdjoint p) s = .next t ∧ t.mem = s.mem ∧ t.fab.remote = s.fab.remote ∧
      Spec.Answers s t p 0xFF [])) ∧
  (∀ (f : Fabric) (stack peer : Nat) (inc : BitVec 16) (g : Nat),
    let mine (e : Nat × Remote) : Bool := e.1 == stack && e.2.peer == peer && e.2.inc == inc && e.2.granule == g
    (f.remote.any mine = false → (f.remote.filter (·.1 == stack)).length < 4096 →
      ∃ z, f.countRemote stack peer inc g 1 = some z ∧ z.remote = f.remote ++ [(stack, ⟨peer, inc, g, 1⟩)]) ∧
    (f.remote.any mine = false → 4096 ≤ (f.remote.filter (·.1 == stack)).length → f.countRemote stack peer inc g 1 = none) ∧
    ∀ e, f.remote.find? mine = some e →
      ∃ z, f.countRemote stack peer inc g 1 = some z ∧
        (e.2.net + 1 = 0 → z.remote.any mine = false) ∧
        (e.2.net + 1 ≠ 0 → z.remote.find? mine = some (stack, { e.2 with net := e.2.net + 1 }))) ∧
  (∀ (s : State) (p : Packet) (o : Outstanding), p.kind = 6 → p.status = 0xFF → o.packet.kind = 4 →
    s.fab.outstanding.find? (fun q => q.tag == p.tag && q.peer == p.src && !(q.packet.kind == 2 || q.packet.kind == 5)) = some o →
    s.fab.arrives p = true → s.fab.sent.contains p = false → s.boot.rest ≤ 2 →
    ∃ t, exec (.fabricReply p) s = .next t ∧ t.mem = s.mem ∧ t.cores = s.cores ∧ t.fab.outstanding =
      s.fab.outstanding.map fun q => if q.tag = o.tag then { q with retryAt := some (s.clock.toNat + 940) } else q) ∧
  (∀ (s : State) (n port at_ : Nat) (o : Outstanding), s.fab.outstanding[n]? = some o → o.retryAt = some at_ →
    (at_ ≤ s.clock.toNat → o.packet.dst ≠ s.fab.device → o.packet.inter = 0x3FF → s.portTo o.packet.dst o.hop = some port →
      ∃ t, exec (.remoteCountRetry n) s = .next t ∧ t.fab.outstanding[n]? = some { o with retryAt := none } ∧
        (t.fab.port port).queues = (s.fab.port port).queues ++ [(o.packet.cls, s.clock.toNat, o.packet)]) ∧
    (s.clock.toNat < at_ → exec (.remoteCountRetry n) s = .next s)) ∧
  ∀ (s : State) (peer state : Nat) (inc : BitVec 16), peer ≤ 992 → state = 0 ∨ state = 2 → (s.fab.peer peer).state = 1 →
    (∀ o ∈ s.fab.outstanding, o.peer ≠ peer) → s.fab.bars = [] → peer ≠ s.fab.device →
    ∃ t, exec (.peerReset peer state inc) s = .next t ∧ t.fab.peer peer = ⟨state, inc⟩ ∧
      (∀ e, e ∈ t.fab.remote ↔ e ∈ s.fab.remote ∧ e.2.peer ≠ peer) ∧ (∀ p ∈ t.fab.sent, p.src ≠ peer) ∧
      ∀ e, s.fab.remote.filter (fun e => e.2.peer == peer) = [e] → e.2.net ≠ 0 → s.hasFeature 36 = true →
        let g := s.hub.regs
        let size := g.olSize.toNat
        let room : Prop := s.ringOk g.olBase.toNat size 24 = true ∧ ringRoom size g.olWidx.toNat g.olRidx.toNat ≠ 0
        (¬room → t.hub.regs.olLost = g.olLost + 1 ∧ t.mem = s.mem) ∧
        (room → t.hub.regs.olWidx = g.olWidx + 1 ∧ t.mem = Memory.writeN s.mem
          (g.olBase.toNat + g.olWidx.toNat % (size / 32) * 32)
          (leBytes 8 e.2.granule ++ leBytes 4 (BitVec.ofInt 32 e.2.net).toNat ++ leBytes 2 peer ++ leBytes 2 e.2.inc.toNat ++
            leBytes 8 s.clock.toNat ++ leBytes 4 (if s.hub.olMark = true then 1 else 0) ++ leBytes 4 0))

/-- R108, R109, R110, R315, R316, R321, R323: a packet for another device goes on to the port its routing entry names; one that reaches its
intermediate goes on toward its destination. A multicast write goes on at the port of its tree entry, or the spare that
doubles it, to a peer that is up, is refused where the entry's V is 0 or multicast trees are absent, and dropped as RESERVED_FIELD where its enables
break R321. Multicast trees are feature 17 (R346). -/
def Sys2Proof.Spec.RoutesAndTrees : Prop :=
  (∀ (s : State) (p : Packet) (port : Nat), s.boot.rest ≤ 2 → p.dst ≤ 992 → p.src ≤ 992 → p.src ≠ s.fab.device → p.dst ≠ s.fab.device →
    s.portTo p.dst p.off = some port →
    packetFits p = true → (p.inter = 0x3FF → s.fab.device ≠ 0x3FF → ∃ t, exec (.packetForward p) s = .next t ∧ t.mem = s.mem ∧
      (t.fab.port port).queues = (s.fab.port port).queues ++ [(p.cls, s.clock.toNat, p)]) ∧
    (p.inter = s.fab.device → ∃ t, exec (.packetForward p) s = .next t ∧ t.mem = s.mem ∧
      (t.fab.port port).queues = (s.fab.port port).queues ++ [(p.cls, s.clock.toNat, { p with inter := 0x3FF })])) ∧
  (∀ (s : State) (p : Packet) (ingress : Nat), Spec.Received s p 5 → p.src ≠ s.fab.device → packetParts p = none →
    ∃ t, exec (.multicastWrite ingress p) s = .next t ∧ t.mem = s.mem ∧ Spec.Answers s t p 0x02 []) ∧
  (∀ (s : State) (p : Packet) (ingress : Nat), Spec.Received s p 5 → p.src ≠ s.fab.device → packetParts p ≠ none →
    let entry := (amGet 0 s.fab.trees (ingress % 36 * 256 + p.tree % 256)).toNat
    (bitAt entry 63 = false ∨ s.hasFeature 17 = false → ∃ t, exec (.multicastWrite ingress p) s = .next t ∧ t.mem = s.mem ∧ Spec.Answers s t p 0x62 []) ∧
    (∀ port peer, s.hasFeature 17 = true → bitAt entry 63 = true → bitAt entry 62 = false → (List.range 36).filter (bitAt entry) = [port] →
      s.portPeer port = some peer → (s.fab.peer peer).state = 1 → s.fab.casts = [] →
      let out := s.doubled port p.off
      ∃ t q, exec (.multicastWrite ingress p) s = .next t ∧ t.mem = s.mem ∧ t.fab.casts = [⟨p, 0⟩] ∧
        (t.fab.port out).queues = (s.fab.port out).queues ++ [(1, s.clock.toNat, q)] ∧ q.kind = 5 ∧ q.dst = peer ∧
        q.src = s.fab.device ∧ q.off = p.off ∧ q.tree = p.tree ∧ q.be = p.be ∧ q.bel = p.bel ∧ q.data = p.data))

/-- Remote counts, routes and multicast trees (R91, R108, R109, R110, R111, R112, R227, R315, R316, R321, R323, R346). -/
def Obligations.RemoteCountsAndRoutes : Prop :=
  Spec.RemoteCounts ∧
  Spec.RoutesAndTrees

/-- R108, R109, R110, R361: from stage 2 on, FABRIC_TABLE_WRITE writes one entry of the routing, tree or incarnation tables.
The numbers of FABRIC_TABLE_WRITE, and that it stores reserved bits of an entry as zero, are the model's (log 28). -/
def Sys2Proof.Spec.FabricTables : Prop :=
  ∀ (s : State) (v : BitVec 64) (off : Nat),
    (s.boot.stage.toNat < 2 → exec (.fabricTableWrite off v) s = .next s) ∧
    (2 ≤ s.boot.stage.toNat →
    (off ≤ 992 → bitAt (s.fab.route off) 63 = false → ∃ t, exec (.fabricTableWrite off v) s = .next t ∧
      t.fab.route off = (v &&& 0xFFFFE0FFFFFFFFFF#64).toNat ∧ ∀ d, d ≠ off → t.fab.route d = s.fab.route d) ∧
    (off < 36 * 256 → ∃ t, exec (.fabricTableWrite (0x1000 + off) v) s = .next t ∧
      amGet 0 t.fab.trees off = v &&& 0xC000000FFFFFFFFF#64) ∧
    (off < 256 → ∃ t, exec (.fabricTableWrite (0x4000 + off) v) s = .next t ∧
      amGet 0 t.fab.roots off = v &&& 0xC000000FFFFFFFFF#64) ∧
    (off ≤ 992 → v.toNat / 2 ^ 16 % 4 < 3 → ((s.fab.peer off).state = 1 → v.toNat / 2 ^ 16 % 4 = 1) →
      ∃ t, exec (.fabricTableWrite (0x5000 + off) v) s = .next t ∧
      t.fab.peer off = ⟨v.toNat / 2 ^ 16 % 4, BitVec.ofNat 16 v.toNat⟩))

/-- A device performs the requests its peers send, and its tables are written (R108, R109, R110, R136, R219, R317, R318, R321, R361, R366). -/
def Obligations.FabricRequestsAndTables : Prop :=
  Spec.FabricRequests ∧
  Spec.FabricTables

/-- R152, R175, R318, R366: a reply to a split's load gives its register the word at its offset and lets the split go
on; an acknowledgement of a
split's store lets it go on; a request without reply for FAB_TMO µs ends with FABRIC_TIMEOUT, for a split a trap at
its instruction. A reply that answers no request changes nothing but drops it. -/
def Sys2Proof.Spec.FabricReplies : Prop :=
  (∀ (s : State) (x : Ctx) (o : Outstanding) (p : Packet), s.ctxOf x.who = some x →
    s.fab.outstanding.find? (fun q => q.tag == p.tag && q.peer == p.src && (p.kind == 7) == (q.packet.kind == 2 || q.packet.kind == 5)) = some o →
    o.who = .scalar x.who.core x.who.slot x.who.entry → s.fab.arrives p = true → s.fab.sent.contains p = false →
    s.hub.regs.captureCtl = 0 → s.boot.rest ≤ 2 → p.status = 0 → s.fab.casts = [] → s.fab.members = [] →
    let pc := x.split.spc + 4
    let ends (t : State) (w : Warp) : Prop := t.warp x.who.core x.who.slot = some w ∧
      amFind w.splits x.who.entry = some (x.split.goOn pc) ∧ t.mem = s.mem ∧ ∀ q ∈ t.fab.outstanding, q.tag ≠ o.tag
    (∀ d, p.kind = 6 → x.split.wait = .fabric o.tag (some d) →
      ∃ t w, exec (.fabricReply p) s = .next t ∧ ends t w ∧
        ∀ r, w.gv r = if r = 0 then 0 else if r = d then
          BitVec.ofNat 32 (leNat ((p.data.drop (packetFirst o.packet)).take 4)) else x.warp.gv r) ∧
    (p.kind = 7 → x.split.wait = .fabric o.tag none →
      ∃ t w, exec (.writeAcknowledge p) s = .next t ∧ ends t w ∧ ∀ r, w.gv r = x.warp.gv r)) ∧
  (∀ (s : State) (p : Packet), s.fab.sent = [] → (∀ o ∈ s.fab.outstanding, o.tag ≠ p.tag) →
    (p.kind = 6 → exec (.fabricReply p) s = .next s) ∧ (p.kind = 7 → exec (.writeAcknowledge p) s = .next s)) ∧
  ∀ (s : State) (n : Nat) (x : Ctx) (o : Outstanding) (d : Option GReg), s.fab.outstanding[n]? = some o →
    (s.clock.toNat < o.sentAt + s.hub.regs.fabTmo.toNat * 940 → exec (.fabricTimeoutExpire n) s = .next s) ∧
    (o.sentAt + s.hub.regs.fabTmo.toNat * 940 ≤ s.clock.toNat → s.ctxOf x.who = some x →
      o.who = .scalar x.who.core x.who.slot x.who.entry → x.split.wait = .fabric o.tag d → x.warp.latch = none →
      s.fab.casts = [] → s.fab.members = [] →
      ∃ t w, exec (.fabricTimeoutExpire n) s = .next t ∧ t.mem = s.mem ∧ (∀ q ∈ t.fab.outstanding, q.tag ≠ o.tag) ∧
        t.warp x.who.core x.who.slot = some w ∧ w.trapCause = BitVec.ofNat 32 Cause.fabricTimeout.code ∧
        w.trapPc = x.split.spc ∧ w.latch = some x.who.entry)

/-- R132, R133, R136, R328, R329: a report of a listed device that has not reported this phase, with the entry's PCOUNT, is noted with its
arrival time, and its straggler entry is updated; a second one of it in the phase is ignored; one of a device that is not listed,
with another PCOUNT, or for an entry that gave its phase up is answered with an abort (step 2). A completion makes the waiting
objects complete their phase and rewrites the straggler page; an abort breaks them. -/
def Sys2Proof.Spec.FabricBarriers : Prop :=
  (∀ (s u : State) (p : Packet) (i rank : Nat) (b : FabBar) (list : List Nat), p.kind = 8 → s.fab.arrives p = true →
    s.fab.sent.contains p = false → s.boot.rest ≤ 2 → s.fab.barOf p.barAsid p.barOff = some (i, b) → b.hold = none →
    s.barList b = .ok list → (∀ d ∈ list, d ∉ b.left) →
    (rankIn p.src list 0 = some rank → b.dead = false → p.pcount = b.pcount → p.data = [] →
      (∀ d ∈ list, d ≠ s.fab.device → (s.fab.peer d).state = 1) →
      (∀ r ∈ b.reports, r.1 ≠ rank) → b.reports.length + 1 < b.n →
      srecArrive (hubTr b.asid true) s b.srec.toNat rank (s.clock.toNat / 940) = (u, .ok) →
      ∃ t, exec (.barrierReport p) s = .next t ∧ t.mem = u.mem ∧
        t.fab.bar i = { b with members := list, left := [], reports := b.reports ++ [(rank, s.clock.toNat / 940)] }) ∧
    (rankIn p.src list 0 = some rank → b.dead = false → p.pcount = b.pcount →
      (∀ d ∈ list, d ≠ s.fab.device → (s.fab.peer d).state = 1) → (∃ r ∈ b.reports, r.1 = rank) → b.reports.length < b.n →
      exec (.barrierReport p) s = .next s) ∧
    (rankIn p.src list 0 = none ∨ b.dead = true ∨ p.pcount ≠ b.pcount →
      ∃ t, exec (.barrierReport p) s = .next t ∧ t.mem = s.mem ∧ t.fab.bars = s.fab.bars ∧
        ∀ port, s.portTo p.src 0 = some port → ∃ q, (t.fab.port port).queues = (s.fab.port port).queues ++ [(0, s.clock.toNat, q)] ∧
          q.kind = 10 ∧ q.dst = p.src ∧ q.barAsid = p.barAsid ∧ q.barOff = p.barOff ∧ q.pcount = p.pcount)) ∧
  ∀ (s : State) (p : Packet) (c k : Nat) (m : Team), s.fab.arrives p = true → s.fab.sent.contains p = false → s.boot.rest ≤ 2 →
    s.hub.saving = [] → s.hub.resume = [] → s.rootWaiters p.barAsid p.barOff = [(c, k, m)] →
    let a := m.lmBase + p.barOff
    let b := (s.core c).bar a
    (s.core c).barBad a = false →
    (p.kind = 9 → ∃ t, exec (.barrierComplete p) s = .next t ∧ t.mem = s.mem ∧ t.fab.pageWord1 = s.clock ∧
      t.fab.pageWord0 = BitVec.ofNat 64 (p.verdict % 2 + p.verdict / 2 % 32 * 2 ^ 16 + p.pcount.toNat * 2 ^ 32) ∧
      (∀ l ∈ (t.core c).l1, l.dirty ≠ 0) ∧
      let b' := (t.core c).bar a
      b'.phase = !b.phase ∧ b'.ldone = false ∧ b'.arrived = 0 ∧ b'.pcount = (b.pcount + 1) % 2 ^ 32 ∧ b'.brk = b.brk ∧
        b'.expected = b.expected ∧ b'.w1 = b.w1 ∧ b'.w3 = b.w3) ∧
    (p.kind = 10 → ∃ t, exec (.barrierAbort p) s = .next t ∧ t.mem = s.mem ∧
      let b' := (t.core c).bar a
      b'.brk = true ∧ b'.phase = b.phase ∧ b'.arrived = b.arrived ∧ b'.w1 = b.w1 ∧ b'.w2 = b.w2 ∧ b'.w3 = b.w3)

/-- Fabric replies, timeouts and fabric barriers (R132, R133, R136, R152, R175, R318, R328, R329, R366). -/
def Obligations.FabricRepliesAndBarriers : Prop :=
  Spec.FabricReplies ∧
  Spec.FabricBarriers

/-- R140, R322, R324, R325, R326, R361, R366: the steps of a Floe port. A running port with nothing to replay and room in its retry buffer sends
the next flit of the packet it is sending, which takes TXSEQ. A good flit with the expected number is accepted and every
32nd is acknowledged; another number asks for a replay, and a flit that could not be corrected is dropped. An
acknowledgement frees the flits before its number, a replay request sends again from it. A failed lane stops the port to
retrain, without a working lane it goes down, and training, of a port that trains at stage 2, starts its counters at 0. A good flit received
on a port that runs wakes the device from S3. -/
def Sys2Proof.Spec.PortSteps : Prop :=
  ∀ (s : State) (i : Nat), i < 36 →
    let q := s.fab.port i
    let becomes (e : Instr) (q' : Port) : Prop := exec e s = .next { s with fab := { s.fab with ports := amPut s.fab.ports i q' } }
    (∀ n c p, q.up = true → q.training = false → q.sendNext = q.txSeq → (q.txSeq - q.ackSeq).toNat < 4096 →
      q.cur = some (n, c, p) → ∃ q', becomes (.flitSend i) q' ∧ q'.txSeq = q.txSeq + 1 ∧ q'.sendNext = q.txSeq + 1 ∧
        q'.retry = q.retry ++ [(q.txSeq, p)] ∧ q'.cur = (if n ≤ 1 then none else some (n - 1, c, p)) ∧ q'.queues = q.queues ∧
        q'.ackSeq = q.ackSeq ∧ q'.rxSeq = q.rxSeq) ∧
    (∀ seq good, q.up = true → q.training = false → ∃ q', exec (.flitReceive i seq good) s =
        .next { s with fab := { s.fab with ports := amPut s.fab.ports i q' }, boot := { s.boot with
          rest := if s.boot.rest = 3 ∧ good = true then 0 else s.boot.rest } } ∧
      (good = false → q' = q) ∧
      (good = true → seq = q.rxSeq → q'.rxSeq = q.rxSeq + 1 ∧ q'.asked = none ∧
        (q.accepted + 1 = 32 → q'.accepted = 0 ∧ q'.lastAck = s.clock.toNat) ∧
        (q.accepted + 1 ≠ 32 → q'.accepted = q.accepted + 1 ∧ q'.lastAck = q.lastAck)) ∧
      (good = true → seq ≠ q.rxSeq → q' = { q with asked := some q.rxSeq })) ∧
    (∀ seq good, q.up = false ∨ q.training = true → becomes (.flitReceive i seq good) q) ∧
    (∀ seq, q.up = true → q.training = false → (seq - q.ackSeq).toNat ≤ (q.txSeq - q.ackSeq).toNat →
      (∃ q', becomes (.acknowledgement i seq) q' ∧ q'.ackSeq = seq ∧ q'.txSeq = q.txSeq ∧
        q'.retry = q.retry.drop (seq - q.ackSeq).toNat) ∧
      ∃ q', becomes (.replayRequest i seq) q' ∧ q'.ackSeq = seq ∧ q'.sendNext = seq ∧ q'.txSeq = q.txSeq ∧
        q'.retry = q.retry.drop (seq - q.ackSeq).toNat) ∧
    (q.up = true → q.training = false → q.lastAck + 940 ≤ s.clock.toNat →
      becomes (.ackTimer i) { q with accepted := 0, lastAck := s.clock.toNat }) ∧
    (∀ l, l < 4 → q.up = true → ∃ q', becomes (.laneFail i l) q' ∧ q'.training = true ∧ q'.up = true ∧
      q'.retry = q.retry ∧ q'.queues = q.queues ∧ ∀ k, k < 4 → q'.lanes.getLsbD k = (q.lanes.getLsbD k && k != l)) ∧
    (q.up = true → q.training = true → q.lanes ≠ 0 →
      becomes (.portRetrain i) { q with training := false, sendNext := q.ackSeq }) ∧
    (q.up = true → q.lanes = 0 → becomes (.portDown i) { q with up := false, training := false }) ∧
    (s.boot.stage ≠ 2 ∨ Config.portTrains i = false → exec (.portTrain i) s = .next s) ∧
    (s.boot.stage = 2 → Config.portTrains i = true → ∃ q', becomes (.portTrain i) q' ∧ q'.up = true ∧ q'.training = false ∧ q'.lanes = 0xF ∧ q'.txSeq = 0 ∧ q'.ackSeq = 0 ∧
      q'.rxSeq = 0 ∧ q'.sendNext = 0 ∧ q'.retry = [] ∧ q'.queues = q.queues)

/-- R83, R336, R338, R339: a firn read that times out, or meets poison, makes the units of its line uncorrectable unless the stack cache
holds it dirty; a write-back that times out or is refused is dropped, and what the expander held remains. Each counts in
FIRN_ERR of its port, whose count leaving 0 sends vector 5. A port that goes down is down until it is trained again. -/
def Sys2Proof.Spec.FirnErrors : Prop :=
  ∀ (s : State) (port pa : Nat), port < 8 → s.hub.regs.firnErr.length = 8 →
    let old := (s.hub.regs.firnErr.getD port 0).toNat
    let dpa := s.hub.regs.firnDpa pa
    let logged (t : State) (kind dpa : Nat) : Prop :=
      ((t.hub.regs.firnErr.getD port 0).toNat = min (old / 2 ^ 48 + 1) 0xFFFF * 2 ^ 48 + kind * 2 ^ 44 + dpa % 2 ^ 42) ∧
      (∀ j, j ≠ port → t.hub.regs.firnErr.getD j 0 = s.hub.regs.firnErr.getD j 0) ∧
      t.hub.msixSent = s.hub.msixSent ++ (if old / 2 ^ 48 = 0 ∧ s.hub.masked 5 = false then [5] else [])
    (s.behind port pa = true → s.firnDown pa = false →
      ((∀ x ∈ s.stale, x.1 ≠ pa / 64) → ∀ p ∈ [(Instr.firnTimeout port false pa, 2), (.firnError port 1 pa, 1)],
        ∃ t, exec p.1 s = .next t ∧ logged t p.2 dpa ∧ t.mem = s.mem ∧ t.stale = s.stale ∧
          ∀ u, u ∈ t.memBad ↔ u ∈ s.memBad ∨ u / 8 = pa / 64) ∧
      (∀ x, s.stale.find? (fun x => x.1 == pa / 64) = some x →
        (∃ t, exec (.firnTimeout port false pa) s = .next t ∧ logged t 2 dpa ∧ t.mem = s.mem ∧ t.memBad = s.memBad) ∧
        ∀ p ∈ [(Instr.firnTimeout port true pa, 2), (.firnError port 3 pa, 3)],
          ∃ t, exec p.1 s = .next t ∧ logged t p.2 dpa ∧ (∀ y ∈ t.stale, y.1 ≠ pa / 64) ∧
            t.mem = Memory.writeN s.mem (pa / 64 * 64) (leBytes 64 x.2.toNat))) ∧
    ((s.fab.cxlPort port).up = true → ∃ t, exec (.firnError port 4 pa) s = .next t ∧ t.mem = s.mem ∧
      t.fab.cxlPort port = { s.fab.cxlPort port with up := false } ∧ ∃ a, logged t 4 a) ∧
    ((s.fab.cxlPort port).up = false → (s.fab.cxlPort port).trained = true → ∃ t, exec (.cxlPortTrain port) s = .next t ∧
      t.mem = s.mem ∧ t.fab.cxlPort port = { s.fab.cxlPort port with up := true })

/-- Floe ports, credits and retries, and firn errors (R83, R140, R322, R324, R325, R326, R336, R338, R339, R361, R366). -/
def Obligations.LinksAndFirn : Prop :=
  Spec.PortSteps ∧
  Spec.FirnErrors

/-- R155, R165 to R168: a scalar instruction whose fields are ones its encoding admits is read back from its word, with every operand. -/
def Obligations.ScalarEncodingRoundTrip : Prop :=
  ∀ (i : Instr) (w : Nat), encodeScalar i = some w → i.wellFormed = true →
    w < 2 ^ 32 ∧ decodeScalar (BitVec.ofNat 32 w) = .ok i ∧ decodeWords (encode i) = .ok i

/-- R155, R158 to R162, R168, R209: a lane instruction whose fields are ones its encoding admits is read back from its
96-bit word, with every operand. -/
def Obligations.LaneEncodingRoundTrip : Prop :=
  ∀ (i : Instr) (w : Nat), encodeLane i = some w → i.wellFormed = true →
    w < 2 ^ 96 ∧ decodeLane (BitVec.ofNat 96 w) = .ok i ∧ decodeWords (encode i) = .ok i

/-- What holds of every state the machine can reach: memory lists its bytes in the one canonical form, the feature mask is the
part's (R64, R346), and STAGE is one of the start stages 0 to 2 (R361). -/
def Sys2Proof.Spec.Inv (s : State) : Prop :=
  Memory.wf s.mem = true ∧ s.feat = State.reset.feat ∧ s.boot.stage.toNat ≤ 2

/-- R64, R346, R361: every step keeps the canonical form of memory, the feature mask, which nothing changes, and a legal start stage.
The canonical form is the model's, and unwritten bytes read 0 (log 1). -/
def Obligations.StepKeepsInvariant : Prop :=
  ∀ s t : State, Spec.Inv s → step s = .next t → Spec.Inv t

/-- No run stops: every state has a next state, whatever instruction or event is next; what an instruction may not do ends in the
trap the spec names (R170, R171), never in a stop of the machine.
An event whose operands name nothing leaves the state: the model's choice (log 67). -/
def Obligations.StepNeverStops : Prop :=
  ∀ s : State, ∃ t, step s = .next t

/-- R64, R66, R79, R93, R98, R361, R366: right after device reset CLOCK and STAGE are 0, no team is resident, no memory byte is listed,
every TLB and L1 is empty, the device is at rest state S0, and the feature bits 0 to 39 read 1 and the others 0. The
registers with a stated reset value hold it. The invariant of `StepKeepsInvariant` holds.
Memory that lists nothing, the DBL registers' 0x3F, a stack 0 that trains and every other value the spec does not give are the model's
choice (log 1, log 2, log 5). -/
def Obligations.ResetState : Prop :=
  Spec.Inv State.reset ∧ State.reset.clock = 0 ∧ State.reset.boot.stage = 0 ∧ State.reset.boot.rest = 0 ∧
  State.reset.mem = [] ∧ State.reset.ctlb = [] ∧ State.reset.stlb = [] ∧ State.reset.asCache = [] ∧
  (∀ c n, State.reset.warp c n = none ∧ State.reset.team c n = none ∧ (State.reset.core c).l1 = [] ∧
    (State.reset.core c).utlb = [] ∧ (State.reset.core c).sampleCtl = 0) ∧
  (∀ i, i < 512 → (State.reset.hasFeature i = true ↔ i < 40)) ∧
  State.reset.hub.regs.thermLimit = 95 ∧ State.reset.hub.regs.fabAdapt = 512 ∧ State.reset.hub.regs.fabTmo = 2000 ∧
  State.reset.hub.regs.offloadDl = 10000 ∧ State.reset.hub.regs.dbl = [0x3F, 0x3F, 0x3F, 0x3F] ∧
  State.reset.hub.regs.hrefCount = 0 ∧ State.reset.boot.latTol = 0 ∧ State.reset.hub.gangs = [] ∧
  ∀ p, (State.reset.fab.port p).txSeq = 0 ∧ (State.reset.fab.port p).rxSeq = 0

/-- R7, R26, R155, R172: one instruction of a side, for the split the side chose: where no trap of the split is pending and the bytes at its
SPC, read at the home of its translated address, decode to an instruction i whose feature and privilege checks pass, the step is exec
of i at that state, with the issue noted; on the lane side, where the next word of the head clause decodes to i. A TLBINV and a write
of SAMPLE_CTL come after the lane instructions of their cycle, whatever those raised (R26). A
step that an event takes is exec of the event. A cycle's issue puts the split that each side of each quadrant chooses on
the agenda; of a lane side, a barrier instruction of the port comes at the cycle's end.
The agenda, and the order within a cycle where no rule gives one, are the model's choice (log 3, log 48). -/
def Obligations.StepRunsTheDecodedInstruction : Prop :=
  (∀ (s u : State) (late : Bool) (rest : List Action) (w : Who) (x : Ctx) (p : Xlat) (bs : List Byte) (i : Instr),
    (∀ v ∈ s.allSplits, s.mustWake v = false) → s.agenda = (if late = true then .issued w else .scalar w) :: rest →
    let s0 : State := { s with agenda := rest }
    let s1 := { (if late = true then s0 else s0.noteIssue w false) with cur := w }
    s1.ctx = some x → (late = false → x.split.pend = [] ∧ ∀ e a, x.split.wait ≠ .replayFailed e a) →
    inAperture x.split.spc.toNat = false →
    s1.translate w.core x.team.asid x.team.priv x.split.spc.toNat .fetch = (u, .ok p) → u.homeRead p.pa 4 = .ok bs →
    decodeScalar (BitVec.ofNat 32 (leNat bs)) = .ok i → s.hasFeature 0 = true →
    ((∃ d a b, i = .tlbinv d a b) → x.team.priv = true) →
    step s = exec i u) ∧
  (∀ (s : State) (rest : List Action) (w : Who) (x : Ctx) (k : Clause) (ks : List Clause) (b : BitVec 96) (i : Instr),
    (∀ v ∈ s.allSplits, s.mustWake v = false) → s.agenda = .lane w :: rest →
    let s0 : State := { s with agenda := rest }
    laneFree s0 w = true →
    let s1 := { s0.noteIssue w true with cur := w }
    s1.ctx = some x → x.split.cq = k :: ks → k.words[k.next]? = some b → decodeLane b = .ok i →
    step s = exec i (s1.modSplit w fun sp => match sp.cq with
      | [] => sp
      | h :: t => { sp with cq := { h with started := true } :: t })) ∧
  (∀ (s : State) (i : Instr) (rest : List Action), (∀ v ∈ s.allSplits, s.mustWake v = false) →
    s.agenda = .event i :: rest → isEvent i = true → step s = exec i { s with agenda := rest }) ∧
  ∀ (s : State) (c q : Nat) (w : Who) (k : Core), (c, k) ∈ s.cores → q < 4 →
    let start : State := { s with cores := s.cores.map fun e => (e.1, e.2.atStart (s.hasFeature 28)) }
    let held := (start.cores.flatMap fun e => coreSplits start e.1).foldl State.noteHold start
    ((sideOf held c (q, false)).pick = some w → Action.scalar w ∈ s.issue.agenda ∨
      (writeRank (pickedScalar held w) = 2 ∧ Action.issued w ∈ s.issue.agenda)) ∧
    ((sideOf held c (q, true)).pick = some w →
      Action.lane w ∈ s.issue.agenda ∨ Action.lane w ∈ s.issue.late ∨
        Action.event (.mmaDispatch w.core w.slot w.entry) ∈ s.issue.agenda)

/-- R166 to R168: words written out from the encoding tables decode to the instructions they stand for. -/
def Obligations.DecodedWords : Prop :=
  decodeScalar 0x24408000#32 = .ok (.ldg 4 2 0) ∧ decodeScalar 0x7401FFFD#32 = .ok (.loop 7 0x3FFD) ∧
  decodeScalar 0x90000123#32 = .ok (.trap 0x123) ∧ decodeScalar 0x9C010015#32 = .ok (.wrsr 4 0x15) ∧
  decodeScalar 0x04000001#32 = .ok (.sub 0 0 0) ∧
  decodeLane 0x30C282C3_03400000_00000000#96 = .ok (.ffma
    { vd := 10, va := 11, b := .lane 12, vc := 13, q := 0, imm := 0, pred := .none }) ∧
  decodeLane 0xA0400000_00000001_00000400#96 = .ok (.mmaJ
    { vd := 0, va := 0, vb := 0, vc := 0, g := 0, q6 := 1, imm := 0x400, pred := .none })

/-- R162: PMODE decides the lanes in which a lane instruction is active. A word with PMODE 00 decodes only with PRED 0, and
names no predicate; 01 names PRED and 10 its inverse; 11 raises ILLEGAL_OP. Whatever lane instruction a word holds, it takes
either predicate. Of the lanes of the EXEC captured at ISSUE, those in which the predicate holds are active. A PRED at or
above the warp's budget raises RESERVED_FIELD. -/
def Obligations.PredicatesSelectLanes : Prop :=
  (∀ (w : BitVec 96) (i : Instr), decodeLane w = .ok i →
    let v : VReg := BitVec.ofNat 8 (bits w 40 8)
    (bits w 38 2 = 0 ∧ bits w 40 8 = 0 ∧ instrPred i = .none) ∨ (bits w 38 2 = 1 ∧ instrPred i = .ifSet v) ∨
      (bits w 38 2 = 2 ∧ instrPred i = .ifNot v)) ∧
  (∀ w : BitVec 96, bits w 38 2 = 3 → decodeLane w = .error .illegalOp) ∧
  (∀ (w : BitVec 96) (i : Instr) (m v : Nat), decodeLane w = .ok i → bits w 38 2 = 0 → m = 1 ∨ m = 2 → v < 256 →
    ∃ j, decodeLane (w + BitVec.ofNat 96 (m * 2 ^ 38 + v * 2 ^ 40)) = .ok j) ∧
  (∀ (s : State) (p : Pred) (y : LCtx), s.lctx p = some y → y.clause.owed = none → ∀ l, l < 32 →
    (y.act.getLsbD l = true ↔ y.clause.exec.getLsbD l = true ∧ match p with
      | .none => True
      | .ifSet v => (y.x.warp.vv v.toNat l).getLsbD 0 = true
      | .ifNot v => (y.x.warp.vv v.toNat l).getLsbD 0 = false)) ∧
  ∀ (s : State) (i : Instr) (y : LCtx) (v : VReg), encodeLane i ≠ none → instrPred i = .ifSet v ∨ instrPred i = .ifNot v →
    s.lctx (instrPred i) = some y → s.hasFeature (gateOf i) = true → y.x.warp.budget ≤ v.toNat →
    exec i s = .next (s.laneFault y .reservedField 0 0)

/-- R181: LOOP takes 1 from its g register, modulo 2^32, and goes to SPC + 4 × sext(off14) unless the result is 0; then it goes
on at SPC + 4. A register that held 0 wraps to 0xFFFFFFFF and the loop branches. The word of LOOP g0 raises RESERVED_FIELD at
the fetch. `LOOP g7` three words back is 0x7401FFFD. -/
def Obligations.LoopCountsDown : Prop :=
  (∀ (s : State) (x : Ctx) (g : GReg) (o : BitVec 14), ScalarReady s x (.loop g o) → g ≠ 0 →
    let n := x.warp.gv g - 1
    ∃ t w, exec (.loop g o) s = .next t ∧ w.gv g = n ∧ w = x.warp.setG g n ∧
      Retires s t x w (if n = 0 then x.split.spc + 4 else x.split.spc + o.signExtend 54 * 4) ∧
      (x.warp.gv g = 0 → n = 0xFFFFFFFF#32 ∧ Retires s t x w (x.split.spc + o.signExtend 54 * 4))) ∧
  (∀ (s u : State) (x : Ctx) (o : Nat), o < 2 ^ 14 → x.split.pend = [] → x.split.wait = .run →
    s.fetchScalar x.who.core x.team x.split.spc = (u, .ok (BitVec.ofNat 32 (0x1D * 2 ^ 26 + o))) → u.hasFeature 0 = true →
    scalarFetch s x = (u.scalarFault x .reservedField 0, none)) ∧
  encodeScalar (.loop 7 0x3FFD) = some 0x7401FFFD ∧ decodeScalar 0x7401FFFD#32 = .ok (.loop 7 0x3FFD) ∧
  (0x3FFD#14).signExtend 54 * 4 = -12#54

/-- R190: YIELD changes no register, no memory and nothing else but the split's PC and the team's count. The split is no scalar
candidate in the cycle after it issues, and after that cycle nothing holds it. -/
def Obligations.YieldSkipsACycle : Prop :=
  ∀ (s : State) (x : Ctx), ScalarReady s x .yield → ∃ t, exec .yield s = .next t ∧
    Local s t x (s.core x.who.core)
      (x.warp.modSplit x.who.entry fun sp => { sp with spc := x.split.spc + 4, wait := .yielded true }) x.team.counted ∧
    (x.split.pend = [] → scalarReady t.tick x.who = false ∧
      ∃ y, t.tick.tick.ctxOf x.who = some y ∧ y.split.wait = .run ∧ y.warp.g = x.warp.g ∧ y.warp.v = x.warp.v)

/-- R255: BARTRY of an object of the team's partition writes PHASE, LDONE, ARRIVED and the low half of PCOUNT, in bits 0, 1, 6:2
and 31:16 with the others 0, to vd of every active lane, and changes nothing else: it arrives nowhere. An object with KIND 3
or BRK 1 raises BARRIER_INVALID. -/
def Obligations.BartryReadsTheObject : Prop :=
  ∀ (s : State) (y : LCtx) (x : EngArgs), LaneReady s y (.bartry x) → blkFault y.x.team x.imm.toNat = none →
    (s.core y.x.who.core).barBad (y.x.team.lmBase + x.imm.toNat) = false →
    let b := (s.core y.x.who.core).bar (y.x.team.lmBase + x.imm.toNat)
    let r : Word := BitVec.ofNat 32 ((if b.phase = true then 1 else 0) + (if b.ldone = true then 2 else 0) + 4 * b.arrived +
      2 ^ 16 * (b.pcount % 2 ^ 16))
    (b.kind ≠ 3 → b.brk = false → Spec.WritesLanes s y (.bartry x) x.vd fun _ => r) ∧
    (r.getLsbD 0 = b.phase ∧ r.getLsbD 1 = b.ldone ∧ r.toNat / 4 % 32 = b.arrived ∧ r.toNat / 2 ^ 16 = b.pcount % 2 ^ 16 ∧
      r.toNat / 2 ^ 7 % 2 ^ 9 = 0) ∧
    (b.kind = 3 ∨ b.brk = true → exec (.bartry x) s = .next (s.laneFault y .barrierInvalid y.low 0))

/-- R298: the first gang of a level's resume list is not placed while a slot of it carries the CODE_GONE mark, bit 2 of the
slot's state word. Its turn at the head of the list takes it off the list, frees its slots, and adds a fault record with CAUSE 0x70,
SOURCE 4 and VA the CODE of its record. Nothing else changes: of memory only the slots' state words do, so the task's join
object stays as it was. While the fault queue has no room for the record the hub stalls (R123). Every memory write of any agent can set the mark: a forced unload is the host's. -/
def Obligations.MarkedGangsAreNotPlaced : Prop :=
  ∀ (s : State) (l : Nat) (v : SavedGang), s.hub.resumeFirst l = some v →
    (∃ x ∈ v.teams, (Memory.readNat s.mem (s.slotPa x.slot) 4).testBit 2 = true) →
    exec (.gangRestore l) s = .next s.noteWaits ∧
    s.noteWaits = { s with hub := { s.hub with heads := s.noteWaits.hub.heads } } ∧
    (s.faultRoom = false → exec (.codeGoneRetire l) s = .next s) ∧
    (s.faultRoom = true → ∃ t f, exec (.codeGoneRetire l) s = .next t ∧ f.cause.code = 0x70 ∧ f.source = 4 ∧ f.va = recWord v.gang.record 0 % 2 ^ 54 ∧
      (∀ x ∈ v.teams, Memory.readNat t.mem (s.slotPa x.slot) 4 = 0) ∧
      (∀ a, (∀ x ∈ v.teams, a < s.slotPa x.slot ∨ s.slotPa x.slot + 4 ≤ a) → Memory.read t.mem a = Memory.read s.mem a) ∧
      Spec.WaitsOnly s t ∧
      t = { s with
        mem := t.mem, memBad := t.memBad, stale := t.stale, bells := t.bells, cores := t.cores
        hub := { s.hub with
          resume := s.hub.resume.filter fun w => w.gang.key != v.gang.key, faultQ := s.hub.faultQ ++ [f]
          nextFseq := s.hub.nextFseq + 1 } })

end
end

