-- ==== Sys2Proof/Laws/Tables.lean ====
section
/-! SUPPORT. Laws of sparse tables and of memory: reading after writing, and the canonical form every write keeps. -/

namespace Sys2Proof.Laws

open Sys2Proof.Machine

variable {α : Type}

/-! ### Lookup after an update -/

@[simp] theorem amGet_nil (d : α) (k : Nat) : amGet d [] k = d := rfl
@[simp] theorem amFind_nil (k : Nat) : amFind ([] : SMap α) k = none := rfl

theorem amGet_amPut (d : α) (m : SMap α) (k : Nat) (v : α) (j : Nat) :
    amGet d (amPut m k v) j = if j = k then v else amGet d m j := by
  induction m with
  | nil => simp [amPut, amGet]
  | cons p t ih =>
    obtain ⟨k', v'⟩ := p
    simp only [amPut]
    split
    · simp [amGet]
    · split
      · subst_vars; simp only [amGet]; split <;> simp_all
      · simp only [amGet, ih]; split <;> simp_all [eq_comm]

theorem amFind_amPut (m : SMap α) (k : Nat) (v : α) (j : Nat) :
    amFind (amPut m k v) j = if j = k then some v else amFind m j := by
  induction m with
  | nil => simp [amPut, amFind]
  | cons p t ih =>
    obtain ⟨k', v'⟩ := p
    simp only [amPut]
    split
    · simp [amFind]
    · split
      · subst_vars; simp only [amFind]; split <;> simp_all
      · simp only [amFind, ih]; split <;> simp_all [eq_comm]

theorem amGet_amDel (d : α) (m : SMap α) (k j : Nat) :
    amGet d (amDel m k) j = if j = k then d else amGet d m j := by
  induction m with
  | nil => simp [amDel, amGet]
  | cons p t ih =>
    obtain ⟨k', v'⟩ := p
    simp only [amDel]
    split
    · subst_vars; rw [ih]; simp only [amGet]; split <;> simp_all
    · simp only [amGet, ih]; split <;> simp_all [eq_comm]

theorem amFind_amDel (m : SMap α) (k j : Nat) :
    amFind (amDel m k) j = if j = k then none else amFind m j := by
  induction m with
  | nil => simp [amDel, amFind]
  | cons p t ih =>
    obtain ⟨k', v'⟩ := p
    simp only [amDel]
    split
    · subst_vars; rw [ih]; simp only [amFind]; split <;> simp_all
    · simp only [amFind, ih]; split <;> simp_all [eq_comm]

@[simp] theorem amGet_amPut_self (d : α) (m : SMap α) (k : Nat) (v : α) : amGet d (amPut m k v) k = v := by
  simp [amGet_amPut]

@[simp] theorem amFind_amPut_self (m : SMap α) (k : Nat) (v : α) : amFind (amPut m k v) k = some v := by
  simp [amFind_amPut]

theorem amGet_amPut_ne (d : α) (m : SMap α) {k j : Nat} (v : α) (h : j ≠ k) :
    amGet d (amPut m k v) j = amGet d m j := by simp [amGet_amPut, h]

theorem amFind_amPut_ne (m : SMap α) {k j : Nat} (v : α) (h : j ≠ k) :
    amFind (amPut m k v) j = amFind m j := by simp [amFind_amPut, h]

/-- A table read with a default is the lookup, or the default where nothing is listed. -/
theorem amGet_eq (d : α) (m : SMap α) (k : Nat) : amGet d m k = (amFind m k).getD d := by
  induction m with
  | nil => rfl
  | cons p t ih => obtain ⟨k', v'⟩ := p; simp only [amGet, amFind]; split <;> simp_all

theorem amGet_of_find {d : α} {m : SMap α} {k : Nat} {v : α} (h : amFind m k = some v) : amGet d m k = v := by
  simp [amGet_eq, h]

/-- Writing a value twice at one key is writing it once. -/
theorem amPut_amPut (m : SMap α) (k : Nat) (u v : α) : amPut (amPut m k u) k v = amPut m k v := by
  induction m with
  | nil => simp [amPut]
  | cons p t ih =>
    obtain ⟨k', v'⟩ := p
    simp only [amPut]
    split
    · simp [amPut]
    · split
      · simp [amPut]
      · simp only [amPut, ih]; simp [*]

section
variable [DecidableEq α]

theorem amGet_smPut (d : α) (m : SMap α) (k : Nat) (v : α) (j : Nat) :
    amGet d (smPut d m k v) j = if j = k then v else amGet d m j := by
  unfold smPut; split <;> simp_all [amGet_amDel, amGet_amPut]

@[simp] theorem amGet_smPut_self (d : α) (m : SMap α) (k : Nat) (v : α) : amGet d (smPut d m k v) k = v := by
  simp [amGet_smPut]

theorem amGet_smPut_ne (d : α) (m : SMap α) {k j : Nat} (v : α) (h : j ≠ k) :
    amGet d (smPut d m k v) j = amGet d m j := by simp [amGet_smPut, h]

/-! ### The canonical form -/

/-- Whether a key lies above a bound. -/
theorem smWfFrom_cons (d : α) (lo : Option Nat) (k : Nat) (v : α) (t : SMap α) :
    smWfFrom d lo ((k, v) :: t) = true ↔ (∀ l, lo = some l → l < k) ∧ v ≠ d ∧ smWfFrom d (some k) t = true := by
  cases lo <;> simp [smWfFrom, and_assoc]

theorem smWfFrom_mono {d : α} {a b : Nat} (h : a ≤ b) :
    ∀ {m : SMap α}, smWfFrom d (some b) m = true → smWfFrom d (some a) m = true := by
  intro m
  cases m with
  | nil => simp [smWfFrom]
  | cons p t => obtain ⟨k, v⟩ := p; simp only [smWfFrom_cons]; rintro ⟨h1, h2, h3⟩; exact ⟨by simp at h1 ⊢; omega, h2, h3⟩

theorem smWfFrom_none {d : α} {b : Option Nat} {m : SMap α} (h : smWfFrom d b m = true) : smWfFrom d none m = true := by
  cases m with
  | nil => simp [smWfFrom]
  | cons p t => obtain ⟨k, v⟩ := p; simp only [smWfFrom_cons] at h ⊢; exact ⟨by simp, h.2⟩

theorem smWfFrom_amDel {d : α} (k : Nat) :
    ∀ {m : SMap α} {lo : Option Nat}, smWfFrom d lo m = true → smWfFrom d lo (amDel m k) = true := by
  intro m
  induction m with
  | nil => intro lo _; simp [amDel, smWfFrom]
  | cons p t ih =>
    obtain ⟨k', v'⟩ := p
    intro lo h
    rw [smWfFrom_cons] at h
    simp only [amDel]
    split
    · have := ih h.2.2
      cases lo with
      | none => exact smWfFrom_none this
      | some l => exact smWfFrom_mono (Nat.le_of_lt (h.1 l rfl)) this
    · rw [smWfFrom_cons]; exact ⟨h.1, h.2.1, ih h.2.2⟩

theorem smWfFrom_amPut {d : α} {v : α} (hv : v ≠ d) (k : Nat) :
    ∀ {m : SMap α} {lo : Option Nat}, (∀ l, lo = some l → l < k) → smWfFrom d lo m = true →
      smWfFrom d lo (amPut m k v) = true := by
  intro m
  induction m with
  | nil => intro lo hl _; simp only [amPut]; rw [smWfFrom_cons]; exact ⟨hl, hv, by simp [smWfFrom]⟩
  | cons p t ih =>
    obtain ⟨k', v'⟩ := p
    intro lo hl h
    rw [smWfFrom_cons] at h
    simp only [amPut]
    split
    · rw [smWfFrom_cons, smWfFrom_cons]; exact ⟨hl, hv, by simpa using ‹k < k'›, h.2⟩
    · split
      · subst_vars; rw [smWfFrom_cons]; exact ⟨hl, hv, h.2.2⟩
      · rw [smWfFrom_cons]; exact ⟨h.1, h.2.1, ih (by intro l hl; cases hl; omega) h.2.2⟩

/-- A write keeps the canonical form. -/
theorem smWf_smPut {d : α} {m : SMap α} (k : Nat) (v : α) (h : smWf d m = true) : smWf d (smPut d m k v) = true := by
  unfold smPut smWf at *
  split
  · exact smWfFrom_amDel k h
  · exact smWfFrom_amPut ‹_› k (by simp) h

end

/-! ### Global memory -/

@[simp] theorem Memory.wf_nil : Memory.wf [] = true := rfl

theorem Memory.wf_write {m : List Host.Cell} (a : Nat) (b : Byte) (h : Memory.wf m = true) :
    Memory.wf (Memory.write m a b) = true := smWf_smPut a b h

theorem Memory.wf_writeN {m : List Host.Cell} (a : Nat) (bs : List Byte) (h : Memory.wf m = true) :
    Memory.wf (Memory.writeN m a bs) = true := by
  induction bs generalizing m a with
  | nil => exact h
  | cons b bs ih => exact ih (a + 1) (Memory.wf_write a b h)

theorem Memory.read_write (m : List Host.Cell) (a : Nat) (b : Byte) (j : Nat) :
    Memory.read (Memory.write m a b) j = if j = a then b else Memory.read m j := amGet_smPut _ _ _ _ _

/-- A byte after a run of writes: the byte written there, or what stood there before. -/
theorem Memory.read_writeN (m : List Host.Cell) (a : Nat) (bs : List Byte) (j : Nat) :
    Memory.read (Memory.writeN m a bs) j =
      if a ≤ j ∧ j < a + bs.length then bs.getD (j - a) 0 else Memory.read m j := by
  induction bs generalizing m a with
  | nil => simp [Memory.writeN]
  | cons b bs ih =>
    simp only [Memory.writeN, ih, Memory.read_write, List.length_cons]
    by_cases h : j = a
    · subst h; simp
    · by_cases h2 : a + 1 ≤ j ∧ j < a + 1 + bs.length
      · have e : j - a = (j - (a + 1)) + 1 := by omega
        rw [if_pos h2, if_pos (by omega), e]; simp
      · rw [if_neg h2, if_neg h, if_neg (by omega)]

@[simp] theorem Memory.readN_length (m : List Host.Cell) (a n : Nat) : (Memory.readN m a n).length = n := by
  induction n generalizing a with
  | zero => rfl
  | succ n ih => simp [Memory.readN, ih]

end Sys2Proof.Laws
end

