-- ==== Sys2Proof/Laws/State.lean ====
section
/-! SUPPORT. What each field of State reads after each update, and what stands at a core, warp, team and split after one.
-/

namespace Sys2Proof.Laws

open Sys2Proof.Machine

/-! ### setCore -/

@[simp] theorem setCore_clock (s : State) (c : Nat) (k : Core) : (s.setCore c k).clock = s.clock := rfl
@[simp] theorem setCore_feat (s : State) (c : Nat) (k : Core) : (s.setCore c k).feat = s.feat := rfl
@[simp] theorem setCore_mem (s : State) (c : Nat) (k : Core) : (s.setCore c k).mem = s.mem := rfl
@[simp] theorem setCore_memBad (s : State) (c : Nat) (k : Core) : (s.setCore c k).memBad = s.memBad := rfl
@[simp] theorem setCore_stale (s : State) (c : Nat) (k : Core) : (s.setCore c k).stale = s.stale := rfl
@[simp] theorem setCore_records (s : State) (c : Nat) (k : Core) : (s.setCore c k).records = s.records := rfl
@[simp] theorem setCore_bells (s : State) (c : Nat) (k : Core) : (s.setCore c k).bells = s.bells := rfl
@[simp] theorem setCore_asCache (s : State) (c : Nat) (k : Core) : (s.setCore c k).asCache = s.asCache := rfl
@[simp] theorem setCore_adtCache (s : State) (c : Nat) (k : Core) : (s.setCore c k).adtCache = s.adtCache := rfl
@[simp] theorem setCore_ctlb (s : State) (c : Nat) (k : Core) : (s.setCore c k).ctlb = s.ctlb := rfl
@[simp] theorem setCore_stlb (s : State) (c : Nat) (k : Core) : (s.setCore c k).stlb = s.stlb := rfl
@[simp] theorem setCore_hub (s : State) (c : Nat) (k : Core) : (s.setCore c k).hub = s.hub := rfl
@[simp] theorem setCore_fab (s : State) (c : Nat) (k : Core) : (s.setCore c k).fab = s.fab := rfl
@[simp] theorem setCore_boot (s : State) (c : Nat) (k : Core) : (s.setCore c k).boot = s.boot := rfl
@[simp] theorem setCore_cur (s : State) (c : Nat) (k : Core) : (s.setCore c k).cur = s.cur := rfl
@[simp] theorem setCore_agenda (s : State) (c : Nat) (k : Core) : (s.setCore c k).agenda = s.agenda := rfl
@[simp] theorem setCore_late (s : State) (c : Nat) (k : Core) : (s.setCore c k).late = s.late := rfl
@[simp] theorem setCore_nfree (s : State) (c : Nat) (k : Core) : (s.setCore c k).nfree = s.nfree := rfl

/-! ### modCore -/

@[simp] theorem modCore_clock (s : State) (c : Nat) (f : Core → Core) : (s.modCore c f).clock = s.clock := rfl
@[simp] theorem modCore_feat (s : State) (c : Nat) (f : Core → Core) : (s.modCore c f).feat = s.feat := rfl
@[simp] theorem modCore_mem (s : State) (c : Nat) (f : Core → Core) : (s.modCore c f).mem = s.mem := rfl
@[simp] theorem modCore_memBad (s : State) (c : Nat) (f : Core → Core) : (s.modCore c f).memBad = s.memBad := rfl
@[simp] theorem modCore_stale (s : State) (c : Nat) (f : Core → Core) : (s.modCore c f).stale = s.stale := rfl
@[simp] theorem modCore_records (s : State) (c : Nat) (f : Core → Core) : (s.modCore c f).records = s.records := rfl
@[simp] theorem modCore_bells (s : State) (c : Nat) (f : Core → Core) : (s.modCore c f).bells = s.bells := rfl
@[simp] theorem modCore_asCache (s : State) (c : Nat) (f : Core → Core) : (s.modCore c f).asCache = s.asCache := rfl
@[simp] theorem modCore_adtCache (s : State) (c : Nat) (f : Core → Core) : (s.modCore c f).adtCache = s.adtCache := rfl
@[simp] theorem modCore_ctlb (s : State) (c : Nat) (f : Core → Core) : (s.modCore c f).ctlb = s.ctlb := rfl
@[simp] theorem modCore_stlb (s : State) (c : Nat) (f : Core → Core) : (s.modCore c f).stlb = s.stlb := rfl
@[simp] theorem modCore_hub (s : State) (c : Nat) (f : Core → Core) : (s.modCore c f).hub = s.hub := rfl
@[simp] theorem modCore_fab (s : State) (c : Nat) (f : Core → Core) : (s.modCore c f).fab = s.fab := rfl
@[simp] theorem modCore_boot (s : State) (c : Nat) (f : Core → Core) : (s.modCore c f).boot = s.boot := rfl
@[simp] theorem modCore_cur (s : State) (c : Nat) (f : Core → Core) : (s.modCore c f).cur = s.cur := rfl
@[simp] theorem modCore_agenda (s : State) (c : Nat) (f : Core → Core) : (s.modCore c f).agenda = s.agenda := rfl
@[simp] theorem modCore_late (s : State) (c : Nat) (f : Core → Core) : (s.modCore c f).late = s.late := rfl
@[simp] theorem modCore_nfree (s : State) (c : Nat) (f : Core → Core) : (s.modCore c f).nfree = s.nfree := rfl

/-! ### setWarp -/

@[simp] theorem setWarp_clock (s : State) (c w : Nat) (x : Warp) : (s.setWarp c w x).clock = s.clock := rfl
@[simp] theorem setWarp_feat (s : State) (c w : Nat) (x : Warp) : (s.setWarp c w x).feat = s.feat := rfl
@[simp] theorem setWarp_mem (s : State) (c w : Nat) (x : Warp) : (s.setWarp c w x).mem = s.mem := rfl
@[simp] theorem setWarp_memBad (s : State) (c w : Nat) (x : Warp) : (s.setWarp c w x).memBad = s.memBad := rfl
@[simp] theorem setWarp_stale (s : State) (c w : Nat) (x : Warp) : (s.setWarp c w x).stale = s.stale := rfl
@[simp] theorem setWarp_records (s : State) (c w : Nat) (x : Warp) : (s.setWarp c w x).records = s.records := rfl
@[simp] theorem setWarp_bells (s : State) (c w : Nat) (x : Warp) : (s.setWarp c w x).bells = s.bells := rfl
@[simp] theorem setWarp_asCache (s : State) (c w : Nat) (x : Warp) : (s.setWarp c w x).asCache = s.asCache := rfl
@[simp] theorem setWarp_adtCache (s : State) (c w : Nat) (x : Warp) : (s.setWarp c w x).adtCache = s.adtCache := rfl
@[simp] theorem setWarp_ctlb (s : State) (c w : Nat) (x : Warp) : (s.setWarp c w x).ctlb = s.ctlb := rfl
@[simp] theorem setWarp_stlb (s : State) (c w : Nat) (x : Warp) : (s.setWarp c w x).stlb = s.stlb := rfl
@[simp] theorem setWarp_hub (s : State) (c w : Nat) (x : Warp) : (s.setWarp c w x).hub = s.hub := rfl
@[simp] theorem setWarp_fab (s : State) (c w : Nat) (x : Warp) : (s.setWarp c w x).fab = s.fab := rfl
@[simp] theorem setWarp_boot (s : State) (c w : Nat) (x : Warp) : (s.setWarp c w x).boot = s.boot := rfl
@[simp] theorem setWarp_cur (s : State) (c w : Nat) (x : Warp) : (s.setWarp c w x).cur = s.cur := rfl
@[simp] theorem setWarp_agenda (s : State) (c w : Nat) (x : Warp) : (s.setWarp c w x).agenda = s.agenda := rfl
@[simp] theorem setWarp_late (s : State) (c w : Nat) (x : Warp) : (s.setWarp c w x).late = s.late := rfl
@[simp] theorem setWarp_nfree (s : State) (c w : Nat) (x : Warp) : (s.setWarp c w x).nfree = s.nfree := rfl

/-! ### modHub -/

@[simp] theorem modHub_clock (s : State) (f : Hub → Hub) : (s.modHub f).clock = s.clock := rfl
@[simp] theorem modHub_feat (s : State) (f : Hub → Hub) : (s.modHub f).feat = s.feat := rfl
@[simp] theorem modHub_mem (s : State) (f : Hub → Hub) : (s.modHub f).mem = s.mem := rfl
@[simp] theorem modHub_memBad (s : State) (f : Hub → Hub) : (s.modHub f).memBad = s.memBad := rfl
@[simp] theorem modHub_stale (s : State) (f : Hub → Hub) : (s.modHub f).stale = s.stale := rfl
@[simp] theorem modHub_records (s : State) (f : Hub → Hub) : (s.modHub f).records = s.records := rfl
@[simp] theorem modHub_bells (s : State) (f : Hub → Hub) : (s.modHub f).bells = s.bells := rfl
@[simp] theorem modHub_asCache (s : State) (f : Hub → Hub) : (s.modHub f).asCache = s.asCache := rfl
@[simp] theorem modHub_adtCache (s : State) (f : Hub → Hub) : (s.modHub f).adtCache = s.adtCache := rfl
@[simp] theorem modHub_ctlb (s : State) (f : Hub → Hub) : (s.modHub f).ctlb = s.ctlb := rfl
@[simp] theorem modHub_stlb (s : State) (f : Hub → Hub) : (s.modHub f).stlb = s.stlb := rfl
@[simp] theorem modHub_cores (s : State) (f : Hub → Hub) : (s.modHub f).cores = s.cores := rfl
@[simp] theorem modHub_fab (s : State) (f : Hub → Hub) : (s.modHub f).fab = s.fab := rfl
@[simp] theorem modHub_boot (s : State) (f : Hub → Hub) : (s.modHub f).boot = s.boot := rfl
@[simp] theorem modHub_cur (s : State) (f : Hub → Hub) : (s.modHub f).cur = s.cur := rfl
@[simp] theorem modHub_agenda (s : State) (f : Hub → Hub) : (s.modHub f).agenda = s.agenda := rfl
@[simp] theorem modHub_late (s : State) (f : Hub → Hub) : (s.modHub f).late = s.late := rfl
@[simp] theorem modHub_nfree (s : State) (f : Hub → Hub) : (s.modHub f).nfree = s.nfree := rfl

/-! ### modRegs -/

@[simp] theorem modRegs_clock (s : State) (f : Regs → Regs) : (s.modRegs f).clock = s.clock := rfl
@[simp] theorem modRegs_feat (s : State) (f : Regs → Regs) : (s.modRegs f).feat = s.feat := rfl
@[simp] theorem modRegs_mem (s : State) (f : Regs → Regs) : (s.modRegs f).mem = s.mem := rfl
@[simp] theorem modRegs_memBad (s : State) (f : Regs → Regs) : (s.modRegs f).memBad = s.memBad := rfl
@[simp] theorem modRegs_stale (s : State) (f : Regs → Regs) : (s.modRegs f).stale = s.stale := rfl
@[simp] theorem modRegs_records (s : State) (f : Regs → Regs) : (s.modRegs f).records = s.records := rfl
@[simp] theorem modRegs_bells (s : State) (f : Regs → Regs) : (s.modRegs f).bells = s.bells := rfl
@[simp] theorem modRegs_asCache (s : State) (f : Regs → Regs) : (s.modRegs f).asCache = s.asCache := rfl
@[simp] theorem modRegs_adtCache (s : State) (f : Regs → Regs) : (s.modRegs f).adtCache = s.adtCache := rfl
@[simp] theorem modRegs_ctlb (s : State) (f : Regs → Regs) : (s.modRegs f).ctlb = s.ctlb := rfl
@[simp] theorem modRegs_stlb (s : State) (f : Regs → Regs) : (s.modRegs f).stlb = s.stlb := rfl
@[simp] theorem modRegs_cores (s : State) (f : Regs → Regs) : (s.modRegs f).cores = s.cores := rfl
@[simp] theorem modRegs_fab (s : State) (f : Regs → Regs) : (s.modRegs f).fab = s.fab := rfl
@[simp] theorem modRegs_boot (s : State) (f : Regs → Regs) : (s.modRegs f).boot = s.boot := rfl
@[simp] theorem modRegs_cur (s : State) (f : Regs → Regs) : (s.modRegs f).cur = s.cur := rfl
@[simp] theorem modRegs_agenda (s : State) (f : Regs → Regs) : (s.modRegs f).agenda = s.agenda := rfl
@[simp] theorem modRegs_late (s : State) (f : Regs → Regs) : (s.modRegs f).late = s.late := rfl
@[simp] theorem modRegs_nfree (s : State) (f : Regs → Regs) : (s.modRegs f).nfree = s.nfree := rfl

/-! ### wake -/

@[simp] theorem wake_clock (s : State) : (s.wake).clock = s.clock := rfl
@[simp] theorem wake_feat (s : State) : (s.wake).feat = s.feat := rfl
@[simp] theorem wake_mem (s : State) : (s.wake).mem = s.mem := rfl
@[simp] theorem wake_memBad (s : State) : (s.wake).memBad = s.memBad := rfl
@[simp] theorem wake_stale (s : State) : (s.wake).stale = s.stale := rfl
@[simp] theorem wake_records (s : State) : (s.wake).records = s.records := rfl
@[simp] theorem wake_bells (s : State) : (s.wake).bells = s.bells := rfl
@[simp] theorem wake_asCache (s : State) : (s.wake).asCache = s.asCache := rfl
@[simp] theorem wake_adtCache (s : State) : (s.wake).adtCache = s.adtCache := rfl
@[simp] theorem wake_ctlb (s : State) : (s.wake).ctlb = s.ctlb := rfl
@[simp] theorem wake_stlb (s : State) : (s.wake).stlb = s.stlb := rfl
@[simp] theorem wake_cores (s : State) : (s.wake).cores = s.cores := rfl
@[simp] theorem wake_hub (s : State) : (s.wake).hub = s.hub := rfl
@[simp] theorem wake_fab (s : State) : (s.wake).fab = s.fab := rfl
@[simp] theorem wake_cur (s : State) : (s.wake).cur = s.cur := rfl
@[simp] theorem wake_agenda (s : State) : (s.wake).agenda = s.agenda := rfl
@[simp] theorem wake_late (s : State) : (s.wake).late = s.late := rfl
@[simp] theorem wake_nfree (s : State) : (s.wake).nfree = s.nfree := rfl

/-! ### Updates that look first -/

@[simp] theorem modWarp_clock (s : State) (c w : Nat) (f : Warp → Warp) : (s.modWarp c w f).clock = s.clock := by
  unfold State.modWarp; split <;> rfl
@[simp] theorem modWarp_feat (s : State) (c w : Nat) (f : Warp → Warp) : (s.modWarp c w f).feat = s.feat := by
  unfold State.modWarp; split <;> rfl
@[simp] theorem modWarp_mem (s : State) (c w : Nat) (f : Warp → Warp) : (s.modWarp c w f).mem = s.mem := by
  unfold State.modWarp; split <;> rfl
@[simp] theorem modWarp_memBad (s : State) (c w : Nat) (f : Warp → Warp) : (s.modWarp c w f).memBad = s.memBad := by
  unfold State.modWarp; split <;> rfl
@[simp] theorem modWarp_stale (s : State) (c w : Nat) (f : Warp → Warp) : (s.modWarp c w f).stale = s.stale := by
  unfold State.modWarp; split <;> rfl
@[simp] theorem modWarp_records (s : State) (c w : Nat) (f : Warp → Warp) : (s.modWarp c w f).records = s.records := by
  unfold State.modWarp; split <;> rfl
@[simp] theorem modWarp_bells (s : State) (c w : Nat) (f : Warp → Warp) : (s.modWarp c w f).bells = s.bells := by
  unfold State.modWarp; split <;> rfl
@[simp] theorem modWarp_asCache (s : State) (c w : Nat) (f : Warp → Warp) : (s.modWarp c w f).asCache = s.asCache := by
  unfold State.modWarp; split <;> rfl
@[simp] theorem modWarp_adtCache (s : State) (c w : Nat) (f : Warp → Warp) : (s.modWarp c w f).adtCache = s.adtCache := by
  unfold State.modWarp; split <;> rfl
@[simp] theorem modWarp_ctlb (s : State) (c w : Nat) (f : Warp → Warp) : (s.modWarp c w f).ctlb = s.ctlb := by
  unfold State.modWarp; split <;> rfl
@[simp] theorem modWarp_stlb (s : State) (c w : Nat) (f : Warp → Warp) : (s.modWarp c w f).stlb = s.stlb := by
  unfold State.modWarp; split <;> rfl
@[simp] theorem modWarp_hub (s : State) (c w : Nat) (f : Warp → Warp) : (s.modWarp c w f).hub = s.hub := by
  unfold State.modWarp; split <;> rfl
@[simp] theorem modWarp_fab (s : State) (c w : Nat) (f : Warp → Warp) : (s.modWarp c w f).fab = s.fab := by
  unfold State.modWarp; split <;> rfl
@[simp] theorem modWarp_boot (s : State) (c w : Nat) (f : Warp → Warp) : (s.modWarp c w f).boot = s.boot := by
  unfold State.modWarp; split <;> rfl
@[simp] theorem modWarp_cur (s : State) (c w : Nat) (f : Warp → Warp) : (s.modWarp c w f).cur = s.cur := by
  unfold State.modWarp; split <;> rfl
@[simp] theorem modWarp_agenda (s : State) (c w : Nat) (f : Warp → Warp) : (s.modWarp c w f).agenda = s.agenda := by
  unfold State.modWarp; split <;> rfl
@[simp] theorem modWarp_late (s : State) (c w : Nat) (f : Warp → Warp) : (s.modWarp c w f).late = s.late := by
  unfold State.modWarp; split <;> rfl
@[simp] theorem modWarp_nfree (s : State) (c w : Nat) (f : Warp → Warp) : (s.modWarp c w f).nfree = s.nfree := by
  unfold State.modWarp; split <;> rfl

@[simp] theorem modTeam_clock (s : State) (c t : Nat) (f : Team → Team) : (s.modTeam c t f).clock = s.clock := by
  unfold State.modTeam; split <;> rfl
@[simp] theorem modTeam_feat (s : State) (c t : Nat) (f : Team → Team) : (s.modTeam c t f).feat = s.feat := by
  unfold State.modTeam; split <;> rfl
@[simp] theorem modTeam_mem (s : State) (c t : Nat) (f : Team → Team) : (s.modTeam c t f).mem = s.mem := by
  unfold State.modTeam; split <;> rfl
@[simp] theorem modTeam_memBad (s : State) (c t : Nat) (f : Team → Team) : (s.modTeam c t f).memBad = s.memBad := by
  unfold State.modTeam; split <;> rfl
@[simp] theorem modTeam_stale (s : State) (c t : Nat) (f : Team → Team) : (s.modTeam c t f).stale = s.stale := by
  unfold State.modTeam; split <;> rfl
@[simp] theorem modTeam_records (s : State) (c t : Nat) (f : Team → Team) : (s.modTeam c t f).records = s.records := by
  unfold State.modTeam; split <;> rfl
@[simp] theorem modTeam_bells (s : State) (c t : Nat) (f : Team → Team) : (s.modTeam c t f).bells = s.bells := by
  unfold State.modTeam; split <;> rfl
@[simp] theorem modTeam_asCache (s : State) (c t : Nat) (f : Team → Team) : (s.modTeam c t f).asCache = s.asCache := by
  unfold State.modTeam; split <;> rfl
@[simp] theorem modTeam_adtCache (s : State) (c t : Nat) (f : Team → Team) : (s.modTeam c t f).adtCache = s.adtCache := by
  unfold State.modTeam; split <;> rfl
@[simp] theorem modTeam_ctlb (s : State) (c t : Nat) (f : Team → Team) : (s.modTeam c t f).ctlb = s.ctlb := by
  unfold State.modTeam; split <;> rfl
@[simp] theorem modTeam_stlb (s : State) (c t : Nat) (f : Team → Team) : (s.modTeam c t f).stlb = s.stlb := by
  unfold State.modTeam; split <;> rfl
@[simp] theorem modTeam_hub (s : State) (c t : Nat) (f : Team → Team) : (s.modTeam c t f).hub = s.hub := by
  unfold State.modTeam; split <;> rfl
@[simp] theorem modTeam_fab (s : State) (c t : Nat) (f : Team → Team) : (s.modTeam c t f).fab = s.fab := by
  unfold State.modTeam; split <;> rfl
@[simp] theorem modTeam_boot (s : State) (c t : Nat) (f : Team → Team) : (s.modTeam c t f).boot = s.boot := by
  unfold State.modTeam; split <;> rfl
@[simp] theorem modTeam_cur (s : State) (c t : Nat) (f : Team → Team) : (s.modTeam c t f).cur = s.cur := by
  unfold State.modTeam; split <;> rfl
@[simp] theorem modTeam_agenda (s : State) (c t : Nat) (f : Team → Team) : (s.modTeam c t f).agenda = s.agenda := by
  unfold State.modTeam; split <;> rfl
@[simp] theorem modTeam_late (s : State) (c t : Nat) (f : Team → Team) : (s.modTeam c t f).late = s.late := by
  unfold State.modTeam; split <;> rfl
@[simp] theorem modTeam_nfree (s : State) (c t : Nat) (f : Team → Team) : (s.modTeam c t f).nfree = s.nfree := by
  unfold State.modTeam; split <;> rfl

@[simp] theorem modSplit_clock (s : State) (x : Who) (f : Split → Split) : (s.modSplit x f).clock = s.clock := by
  unfold State.modSplit State.modWarp; split <;> rfl
@[simp] theorem modSplit_feat (s : State) (x : Who) (f : Split → Split) : (s.modSplit x f).feat = s.feat := by
  unfold State.modSplit State.modWarp; split <;> rfl
@[simp] theorem modSplit_mem (s : State) (x : Who) (f : Split → Split) : (s.modSplit x f).mem = s.mem := by
  unfold State.modSplit State.modWarp; split <;> rfl
@[simp] theorem modSplit_memBad (s : State) (x : Who) (f : Split → Split) : (s.modSplit x f).memBad = s.memBad := by
  unfold State.modSplit State.modWarp; split <;> rfl
@[simp] theorem modSplit_stale (s : State) (x : Who) (f : Split → Split) : (s.modSplit x f).stale = s.stale := by
  unfold State.modSplit State.modWarp; split <;> rfl
@[simp] theorem modSplit_records (s : State) (x : Who) (f : Split → Split) : (s.modSplit x f).records = s.records := by
  unfold State.modSplit State.modWarp; split <;> rfl
@[simp] theorem modSplit_bells (s : State) (x : Who) (f : Split → Split) : (s.modSplit x f).bells = s.bells := by
  unfold State.modSplit State.modWarp; split <;> rfl
@[simp] theorem modSplit_asCache (s : State) (x : Who) (f : Split → Split) : (s.modSplit x f).asCache = s.asCache := by
  unfold State.modSplit State.modWarp; split <;> rfl
@[simp] theorem modSplit_adtCache (s : State) (x : Who) (f : Split → Split) : (s.modSplit x f).adtCache = s.adtCache := by
  unfold State.modSplit State.modWarp; split <;> rfl
@[simp] theorem modSplit_ctlb (s : State) (x : Who) (f : Split → Split) : (s.modSplit x f).ctlb = s.ctlb := by
  unfold State.modSplit State.modWarp; split <;> rfl
@[simp] theorem modSplit_stlb (s : State) (x : Who) (f : Split → Split) : (s.modSplit x f).stlb = s.stlb := by
  unfold State.modSplit State.modWarp; split <;> rfl
@[simp] theorem modSplit_hub (s : State) (x : Who) (f : Split → Split) : (s.modSplit x f).hub = s.hub := by
  unfold State.modSplit State.modWarp; split <;> rfl
@[simp] theorem modSplit_fab (s : State) (x : Who) (f : Split → Split) : (s.modSplit x f).fab = s.fab := by
  unfold State.modSplit State.modWarp; split <;> rfl
@[simp] theorem modSplit_boot (s : State) (x : Who) (f : Split → Split) : (s.modSplit x f).boot = s.boot := by
  unfold State.modSplit State.modWarp; split <;> rfl
@[simp] theorem modSplit_cur (s : State) (x : Who) (f : Split → Split) : (s.modSplit x f).cur = s.cur := by
  unfold State.modSplit State.modWarp; split <;> rfl
@[simp] theorem modSplit_agenda (s : State) (x : Who) (f : Split → Split) : (s.modSplit x f).agenda = s.agenda := by
  unfold State.modSplit State.modWarp; split <;> rfl
@[simp] theorem modSplit_late (s : State) (x : Who) (f : Split → Split) : (s.modSplit x f).late = s.late := by
  unfold State.modSplit State.modWarp; split <;> rfl
@[simp] theorem modSplit_nfree (s : State) (x : Who) (f : Split → Split) : (s.modSplit x f).nfree = s.nfree := by
  unfold State.modSplit State.modWarp; split <;> rfl

/-! ### What stands at a place after an update -/

theorem core_setCore (s : State) (c : Nat) (k : Core) (d : Nat) :
    (s.setCore c k).core d = if d = c then k else s.core d := amGet_amPut _ _ _ _ _

@[simp] theorem core_setCore_self (s : State) (c : Nat) (k : Core) : (s.setCore c k).core c = k := by
  simp [core_setCore]

theorem core_modCore (s : State) (c : Nat) (f : Core → Core) (d : Nat) :
    (s.modCore c f).core d = if d = c then f (s.core c) else s.core d := core_setCore _ _ _ _

@[simp] theorem core_modCore_self (s : State) (c : Nat) (f : Core → Core) : (s.modCore c f).core c = f (s.core c) := by
  simp [core_modCore]

theorem warp_setWarp (s : State) (c n : Nat) (w : Warp) (d m : Nat) :
    (s.setWarp c n w).warp d m = if d = c ∧ m = n then some w else s.warp d m := by
  unfold State.setWarp State.warp
  rw [core_modCore]
  by_cases h : d = c
  · subst h; simp [amFind_amPut]
  · simp [h]

theorem warp_modWarp (s : State) (c n : Nat) (f : Warp → Warp) (d m : Nat) :
    (s.modWarp c n f).warp d m = if d = c ∧ m = n then (s.warp c n).map f else s.warp d m := by
  unfold State.modWarp
  split
  · rename_i h; rw [warp_setWarp]; split <;> simp_all
  · rename_i h; split <;> simp_all

theorem team_setWarp (s : State) (c n : Nat) (w : Warp) (d m : Nat) : (s.setWarp c n w).team d m = s.team d m := by
  unfold State.setWarp State.team
  rw [core_modCore]
  split <;> simp_all

theorem team_modWarp (s : State) (c n : Nat) (f : Warp → Warp) (d m : Nat) :
    (s.modWarp c n f).team d m = s.team d m := by
  unfold State.modWarp; split
  · rw [team_setWarp]
  · rfl

theorem team_modTeam (s : State) (c n : Nat) (f : Team → Team) (d m : Nat) :
    (s.modTeam c n f).team d m = if d = c ∧ m = n then (s.team c n).map f else s.team d m := by
  unfold State.modTeam
  split
  · rename_i h
    unfold State.team at h ⊢
    rw [core_modCore]
    by_cases e : d = c
    · subst e; simp only [true_and, if_true, amFind_amPut]; split <;> simp_all
    · simp [e]
  · rename_i h; split <;> simp_all

theorem warp_modTeam (s : State) (c n : Nat) (f : Team → Team) (d m : Nat) :
    (s.modTeam c n f).warp d m = s.warp d m := by
  unfold State.modTeam
  split
  · unfold State.warp
    rw [core_modCore]
    split <;> simp_all
  · rfl

theorem splits_modSplit (w : Warp) (e : Nat) (f : Split → Split) (d : Nat) :
    amFind (w.modSplit e f).splits d = if d = e then (amFind w.splits e).map f else amFind w.splits d := by
  unfold Warp.modSplit
  split
  · rename_i h; simp only [amFind_amPut]; split <;> simp_all
  · rename_i h; split <;> simp_all

/-- A context names what stands in the state. -/
theorem ctxOf_some {s : State} {who : Who} {x : Ctx} (h : s.ctxOf who = some x) :
    x.who = who ∧ x.core = s.core who.core ∧ s.warp who.core who.slot = some x.warp ∧
      s.team who.core x.warp.team = some x.team ∧ amFind x.warp.splits who.entry = some x.split := by
  unfold State.ctxOf at h
  split at h
  · cases h
  · split at h
    · cases h; simp_all
    · cases h

theorem ctx_some {s : State} {x : Ctx} (h : s.ctx = some x) :
    x.who = s.cur ∧ x.core = s.core s.cur.core ∧ s.warp s.cur.core s.cur.slot = some x.warp ∧
      s.team s.cur.core x.warp.team = some x.team ∧ amFind x.warp.splits s.cur.entry = some x.split := ctxOf_some h

theorem withCtx_some {s : State} {x : Ctx} (h : s.ctx = some x) (k : Ctx → State) : s.withCtx k = .next (k x) := by
  unfold State.withCtx; rw [h]

end Sys2Proof.Laws
end

