-- ==== Sys2Proof/Laws/Cycle.lean ====
section
/-! SUPPORT. What the issue of an instruction, one advance of CLOCK and a whole cycle leave alone, and a step in which no QWAIT ends. -/

namespace Sys2Proof.Laws

open Sys2Proof.Machine

/-! ### noteIssue: the split's wait count and the quadrant's memory of its last issue -/

@[simp] theorem noteIssue_clock (s : State) (x : Who) (l : Bool) : (s.noteIssue x l).clock = s.clock := by simp [State.noteIssue]
@[simp] theorem noteIssue_feat (s : State) (x : Who) (l : Bool) : (s.noteIssue x l).feat = s.feat := by simp [State.noteIssue]
@[simp] theorem noteIssue_mem (s : State) (x : Who) (l : Bool) : (s.noteIssue x l).mem = s.mem := by simp [State.noteIssue]
@[simp] theorem noteIssue_memBad (s : State) (x : Who) (l : Bool) : (s.noteIssue x l).memBad = s.memBad := by simp [State.noteIssue]
@[simp] theorem noteIssue_hub (s : State) (x : Who) (l : Bool) : (s.noteIssue x l).hub = s.hub := by simp [State.noteIssue]
@[simp] theorem noteIssue_fab (s : State) (x : Who) (l : Bool) : (s.noteIssue x l).fab = s.fab := by simp [State.noteIssue]
@[simp] theorem noteIssue_boot (s : State) (x : Who) (l : Bool) : (s.noteIssue x l).boot = s.boot := by simp [State.noteIssue]
@[simp] theorem noteIssue_agenda (s : State) (x : Who) (l : Bool) : (s.noteIssue x l).agenda = s.agenda := by
  simp [State.noteIssue]
@[simp] theorem noteIssue_late (s : State) (x : Who) (l : Bool) : (s.noteIssue x l).late = s.late := by simp [State.noteIssue]

/-! ### tick -/

@[simp] theorem tick_clock (s : State) : s.tick.clock = s.clock + 1 := rfl
@[simp] theorem tick_mem (s : State) : s.tick.mem = s.mem := rfl
@[simp] theorem tick_feat (s : State) : s.tick.feat = s.feat := rfl
@[simp] theorem tick_hub (s : State) : s.tick.hub = s.hub := rfl
@[simp] theorem tick_fab (s : State) : s.tick.fab = s.fab := rfl
@[simp] theorem tick_boot (s : State) : s.tick.boot = s.boot := rfl
@[simp] theorem tick_agenda (s : State) : s.tick.agenda = s.agenda := rfl

/-! ### cycle: what ended the last one, one advance of CLOCK, the issue of every quadrant -/

@[simp] theorem cycle_agenda (s : State) : s.cycle.agenda = s.late ++ [.tick, .issue] ++ s.agenda := rfl
@[simp] theorem cycle_late (s : State) : s.cycle.late = [] := rfl

/-- A cycle only puts actions on the agenda. -/
theorem cycle_rest (s : State) : s.cycle = { s with agenda := s.cycle.agenda, late := [] } := rfl

/-! ### Steps -/

/-- Where no QWAIT ends, the watchers leave the state. -/
theorem wakeWatchers_none {s : State} (h : ∀ w ∈ s.allSplits, s.mustWake w = false) : s.wakeWatchers = s := by
  unfold State.wakeWatchers
  rw [List.filter_eq_nil_iff.2 fun w hw => by simp [h w hw]]
  rfl

/-- A step takes the first action of the agenda. -/
theorem step_agenda {s : State} {a : Action} {rest : List Action} (hw : ∀ w ∈ s.allSplits, s.mustWake w = false)
    (ha : s.agenda = a :: rest) : step s = stepAction a { s with agenda := rest } := by
  unfold step
  simp only [wakeWatchers_none hw, ha]

end Sys2Proof.Laws
end

