-- ==== Sys2Proof/Laws/Local.lean ====
section
/-! SUPPORT. What the shared operations of one warp do, in the terms of `Local`: each lemma says everything its operation
can do. -/

namespace Sys2Proof.Machine

open Sys2Proof.Laws

/-! ### Building a `Local` step by step -/

/-- Nothing has changed yet. -/
theorem Local.refl {s : State} {x : Ctx} (h : s.ctxOf x.who = some x) :
    Local s s x (s.core x.who.core) x.warp x.team := by
  obtain ⟨-, -, hw, ht, -⟩ := ctxOf_some h
  exact { rest := rfl, others := fun _ _ => rfl, core := rfl, warps := fun _ _ => rfl, warp := hw,
          teams := fun _ _ => rfl, team := ht }

theorem Local.of_ctx {s : State} {x : Ctx} (h : s.ctx = some x) :
    Local s s x (s.core x.who.core) x.warp x.team := by
  have e := (ctx_some h).1
  exact Local.refl (by rw [e]; exact h)

theorem setCore_rest {s t : State} (c : Nat) (k : Core) (h : t = { s with cores := t.cores }) :
    t.setCore c k = { s with cores := (t.setCore c k).cores } := by rw [h]; rfl

/-- Replace the warp. -/
theorem Local.setWarp {s t : State} {x : Ctx} {k : Core} {w : Warp} {m : Team} (h : Local s t x k w m) (v : Warp) :
    Local s (t.setWarp x.who.core x.who.slot v) x k v m where
  rest := setCore_rest _ _ h.rest
  others d hd := by unfold State.setWarp; rw [core_modCore, if_neg hd, h.others d hd]
  core := by unfold State.setWarp; rw [core_modCore_self, h.core]
  warps n hn := by rw [warp_setWarp, if_neg (fun e => hn e.2), h.warps n hn]
  warp := by rw [warp_setWarp]; simp
  teams n hn := by rw [team_setWarp, h.teams n hn]
  team := by rw [team_setWarp, h.team]

/-- Change the warp. -/
theorem Local.modWarp {s t : State} {x : Ctx} {k : Core} {w : Warp} {m : Team} (h : Local s t x k w m)
    (f : Warp → Warp) : Local s (t.modWarp x.who.core x.who.slot f) x k (f w) m := by
  unfold State.modWarp
  rw [h.warp]
  exact h.setWarp _

/-- Change the split. -/
theorem Local.modSplit {s t : State} {x : Ctx} {k : Core} {w : Warp} {m : Team} (h : Local s t x k w m)
    (f : Split → Split) : Local s (t.modSplit x.who f) x k (w.modSplit x.who.entry f) m := h.modWarp _

/-- Change the team. -/
theorem Local.modTeam {s t : State} {x : Ctx} {k : Core} {w : Warp} {m : Team} (h : Local s t x k w m)
    (f : Team → Team) : Local s (t.modTeam x.who.core x.warp.team f) x k w (f m) := by
  unfold State.modTeam
  rw [h.team]
  exact
    { rest := setCore_rest _ _ h.rest
      others := fun d hd => by rw [core_modCore, if_neg hd, h.others d hd]
      core := by rw [core_modCore_self, h.core]
      warps := fun n hn => by rw [← h.warps n hn]; unfold State.warp; rw [core_modCore_self]
      warp := by rw [← h.warp]; unfold State.warp; rw [core_modCore_self]
      teams := fun n hn => by
        rw [← h.teams n hn]; unfold State.team; rw [core_modCore_self]; exact amFind_amPut_ne _ _ hn
      team := by unfold State.team; rw [core_modCore_self]; simp }

/-- Change the core's own fields, residents apart. -/
theorem Local.modCore {s t : State} {x : Ctx} {k : Core} {w : Warp} {m : Team} (h : Local s t x k w m)
    (f : Core → Core) (hw : ∀ k ws ts, f { k with warps := ws, teams := ts } = { f k with warps := ws, teams := ts }) :
    Local s (t.modCore x.who.core f) x (f k) w m := by
  have e : (t.modCore x.who.core f).core x.who.core = { f k with warps := (t.core x.who.core).warps, teams := (t.core x.who.core).teams } := by
    rw [core_modCore_self, h.core]; exact hw _ _ _
  exact
    { rest := setCore_rest _ _ h.rest
      others := fun d hd => by rw [core_modCore, if_neg hd, h.others d hd]
      core := by rw [e]
      warps := fun n hn => by rw [← h.warps n hn]; unfold State.warp; rw [e]
      warp := by rw [← h.warp]; unfold State.warp; rw [e]
      teams := fun n hn => by rw [← h.teams n hn]; unfold State.team; rw [e]
      team := by rw [← h.team]; unfold State.team; rw [e] }

/-! ### Scalar instructions -/

theorem Warp.modSplit_modSplit (w : Warp) (e : Nat) (f g : Split → Split) :
    (w.modSplit e f).modSplit e g = w.modSplit e fun sp => g (f sp) := by
  unfold Warp.modSplit
  cases h : amFind w.splits e with
  | none => simp [h]
  | some sp => simp [amPut_amPut]

/-- Everything `goto` does. -/
theorem Local.goto {s t : State} {x : Ctx} {w : Warp} (h : Local s t x (s.core x.who.core) w x.team) (pc : VAddr) :
    Retires s (t.goto x pc) x w pc := (h.modTeam _).modSplit _

/-- Everything `result` does. -/
theorem Local.result {s t : State} {x : Ctx} {w : Warp} (h : Local s t x (s.core x.who.core) w x.team) (d : GReg)
    (v : Word) : Retires s (t.result x d v) x (w.setG d v) (x.split.spc + 4) := (h.modWarp _).goto _

/-- An instruction that is ready has its own effect. -/
theorem runScalar_ready {s : State} {x : Ctx} {i : Instr} (h : ScalarReady s x i) (body : Ctx → State) :
    runScalar s i body = .next (body x) := by
  unfold runScalar
  rw [withCtx_some h.ctx, h.budget, h.free, h.check]
  simp

/-! ### Lane instructions -/

theorem lctx_some {s : State} {p : Pred} {y : LCtx} (h : s.lctx p = some y) : s.ctx = some y.x := by
  unfold State.lctx State.lctxOf at h
  unfold State.ctx
  split at h
  · cases h
  · split at h
    · cases h
    · cases h; assumption

/-- Nothing has changed yet. -/
theorem Local.of_lctx {s : State} {p : Pred} {y : LCtx} (h : s.lctx p = some y) :
    Local s s y.x (s.core y.x.who.core) y.x.warp y.x.team := Local.of_ctx (lctx_some h)

/-- Everything `dispatched` does. -/
theorem Local.dispatched {s t : State} {y : LCtx} {k : Core} {w : Warp} (h : Local s t y.x k w y.x.team) :
    Dispatches s (t.dispatched y) y k w := (h.modTeam _).modWarp _

/-- An instruction that is ready has its own effect. -/
theorem runLane_ready {s : State} {y : LCtx} {i : Instr} (h : LaneReady s y i) (body : LCtx → State) :
    runLane s i body = .next (body y) := by
  unfold runLane
  have hf : (isLong i && y.act != 0 && flagsFull y.x.warp (hdrFlags y.clause.header)) = false := by
    have := h.flags
    cases hb : isLong i <;> simp_all
  have hw : laneWaits y i = .run := by
    unfold laneWaits
    rw [h.idle, h.gidle, h.clause, h.order, hf]
    rfl
  rw [h.ctx]
  simp only [h.feature, h.budget, hw, h.check, h.active]
  simp

end Sys2Proof.Machine
end

