-- ==== Sys2Proof/Laws/Lanes.lean ====
section
/-! SUPPORT. Lane registers after a write of lanes, masks as lists of lanes, and everything the shared form of the
arithmetic lane instructions does. -/

namespace Sys2Proof.Laws

open Sys2Proof.Machine

/-! ### Masks and lanes -/

theorem maskFold_getLsbD (l : Nat) (hl : l < 32) (ls : List Nat) (m : Lanes) :
    (ls.foldl (fun m l => m ||| BitVec.ofNat 32 (2 ^ l)) m).getLsbD l = (m.getLsbD l || ls.contains l) := by
  induction ls generalizing m with
  | nil => simp
  | cons a ls ih =>
    simp only [List.foldl_cons, ih, List.contains_cons, BitVec.getLsbD_or, BitVec.getLsbD_ofNat, hl, decide_true,
      Bool.true_and, Nat.testBit_two_pow, Bool.or_assoc]
    congr 2
    by_cases e : a = l
    · subst e; simp only [beq_self_eq_true, decide_true]
    · rw [decide_eq_false e, beq_eq_false_iff_ne.2 (Ne.symm e)]

/-- A lane is in the mask of a list of lanes exactly where the list holds it. -/
theorem maskOf_getLsbD (ls : List Nat) {l : Nat} (hl : l < 32) : (maskOf ls).getLsbD l = ls.contains l := by
  rw [maskOf, maskFold_getLsbD l hl, show (0 : Lanes).getLsbD l = false from BitVec.getLsbD_zero, Bool.false_or]

theorem lanes_ext {a b : Lanes} (h : ∀ l, l < 32 → a.getLsbD l = b.getLsbD l) : a = b :=
  BitVec.eq_of_getLsbD_eq h

theorem mem_lanesOf {m : Lanes} {l : Nat} : l ∈ lanesOf m ↔ l < 32 ∧ m.getLsbD l = true := by
  simp only [lanesOf, laneIn, List.mem_filter, List.mem_range]

/-! ### Writing lanes -/

/-- One lane of one register after a write of one lane of one register. -/
theorem v_setV (w : Warp) (r l : Nat) (x : Word) (q k : Nat) (hl : l < 32) (hk : k < 32) :
    (w.setV r l x).v_ q k = if q = r ∧ k = l then cellOf x else w.v_ q k := by
  unfold Warp.setV Warp.v_
  rw [amGet_smPut]
  by_cases h : q = r ∧ k = l
  · obtain ⟨rfl, rfl⟩ := h; simp
  · rw [if_neg h, if_neg (by omega)]

/-- A write of lane registers leaves the rest of the warp. -/
theorem setV_rest (w : Warp) (r l : Nat) (x : Word) : w.setV r l x = { w with v := (w.setV r l x).v } := rfl

theorem setLanes_rest (w : Warp) (r : Nat) (ps : List (Nat × Word)) :
    w.setLanes r ps = { w with v := (w.setLanes r ps).v } := by
  induction ps generalizing w with
  | nil => rfl
  | cons p ps ih => obtain ⟨l, x⟩ := p; rw [Warp.setLanes, ih]; rfl

/-- Every lane of every register after a write of some lanes of one. -/
theorem v_setLanes (w : Warp) (r : Nat) (f : Nat → Word) (ls : List Nat) (hls : ∀ l ∈ ls, l < 32) (q k : Nat)
    (hk : k < 32) :
    (w.setLanes r (ls.map fun l => (l, f l))).v_ q k = if q = r ∧ k ∈ ls then cellOf (f k) else w.v_ q k := by
  induction ls generalizing w with
  | nil => simp [Warp.setLanes]
  | cons l ls ih =>
    rw [List.map_cons, Warp.setLanes, ih _ (fun m hm => hls m (List.mem_cons_of_mem _ hm)),
      v_setV _ _ _ _ _ _ (hls l List.mem_cons_self) hk]
    by_cases h1 : q = r
    · by_cases h2 : k = l
      · subst h2; simp [h1]
      · simp [h1, h2]
    · simp [h1]

/-! ### Arithmetic lane instructions -/

/-- Operand b as the claims name it. -/
theorem operandB_eq (y : LCtx) (a : AluArgs) (l : Nat) : y.b a l = Spec.operandB y a l := by
  unfold LCtx.b opBVal Spec.operandB captured capturedCell
  cases a.b with
  | lane v => rfl
  | group g =>
    by_cases h : g = 0
    · simp only [h, if_true]; rfl
    · simp only [if_neg h]
  | imm => rfl

/-- Everything the shared form does when its instruction is ready. -/
theorem laneOp_ready {s : State} {y : LCtx} {i : Instr} (h : LaneReady s y i) (a : AluArgs) (f : LCtx → Nat → Word)
    (he : exec i s = laneOp s i a f) : Spec.WritesLanes s y i a.vd (f y) := by
  refine ⟨_, _, he.trans (runLane_ready h _), Local.dispatched ((Local.of_lctx h.ctx).modWarp _),
    setLanes_rest _ _ _, ?_⟩
  intro r l hl
  unfold LCtx.lanes
  rw [v_setLanes _ _ (f y) _ (fun m hm => (mem_lanesOf.1 hm).1) _ _ hl]
  simp only [mem_lanesOf, hl, true_and]

/-! ### Predicted residues (R68) -/

theorem res_of_good {a : RWord} (h : cellGood a = true) : a.res.toNat = a.val.toNat % 3 := by
  rw [eq_of_beq h, residueOf, BitVec.toNat_ofNat]
  omega

theorem addCell_of_good {a b : RWord} (ha : cellGood a = true) (hb : cellGood b = true) :
    addCell a b = cellOf (a.val + b.val) := by
  have := a.val.isLt
  have := b.val.isLt
  unfold addCell cellOf residueOf
  rw [res_of_good ha, res_of_good hb, BitVec.toNat_add]
  congr 2
  omega

theorem subCell_of_good {a b : RWord} (ha : cellGood a = true) (hb : cellGood b = true) :
    subCell a b = cellOf (a.val - b.val) := by
  have := a.val.isLt
  have := b.val.isLt
  unfold subCell cellOf residueOf
  rw [res_of_good ha, res_of_good hb, BitVec.toNat_sub]
  generalize a.val.toNat = x at *
  generalize b.val.toNat = z at *
  congr 2
  split
  · rw [Nat.mod_eq_of_lt (a := 2 ^ 32 - z + x) (by omega)]
    obtain ⟨k, rfl⟩ : ∃ k, z = x + k := ⟨z - x, by omega⟩
    omega
  · obtain ⟨k, rfl⟩ : ∃ k, x = z + k := ⟨x - z, by omega⟩
    rw [show 2 ^ 32 - z + (z + k) = k + 2 ^ 32 by omega, Nat.add_mod_right, Nat.mod_eq_of_lt (a := k) (by omega)]
    omega

/-- A number modulo 3 from its low word's and high part's residues: 2^32 is 1 modulo 3. -/
theorem mod_three_low (n : Nat) : (n % 3 + 2 * (n / 2 ^ 32)) % 3 = n % 2 ^ 32 % 3 := by omega

theorem mulCell_of_good {a b : RWord} (ha : cellGood a = true) (hb : cellGood b = true) :
    mulCell a b = cellOf (a.val * b.val) := by
  unfold mulCell cellOf residueOf
  rw [res_of_good ha, res_of_good hb, BitVec.toNat_mul, ← mod_three_low, Nat.mul_mod a.val.toNat]
  congr 2
  omega

theorem madCell_of_good {a b c : RWord} (ha : cellGood a = true) (hb : cellGood b = true) (hc : cellGood c = true) :
    madCell a b c = cellOf (a.val * b.val + c.val) := by
  have hm := Nat.mul_mod a.val.toNat b.val.toNat 3
  unfold madCell cellOf residueOf
  rw [res_of_good ha, res_of_good hb, res_of_good hc, BitVec.toNat_add, BitVec.toNat_mul, Nat.mod_add_mod, ← mod_three_low]
  congr 2
  omega

/-! ### Writing cells of lanes -/

theorem v_setVCell (w : Warp) (r l : Nat) (x : RWord) (q k : Nat) (hl : l < 32) (hk : k < 32) :
    (w.setVCell r l x).v_ q k = if q = r ∧ k = l then x else w.v_ q k := by
  unfold Warp.setVCell Warp.v_
  rw [amGet_smPut]
  by_cases h : q = r ∧ k = l
  · obtain ⟨rfl, rfl⟩ := h; simp
  · rw [if_neg h, if_neg (by omega)]

theorem setCells_rest (w : Warp) (r : Nat) (ps : List (Nat × RWord)) :
    w.setCells r ps = { w with v := (w.setCells r ps).v } := by
  induction ps generalizing w with
  | nil => rfl
  | cons p ps ih => obtain ⟨l, x⟩ := p; rw [Warp.setCells, ih]; rfl

/-- Every lane of every register after a write of cells to some lanes of one. -/
theorem v_setCells (w : Warp) (r : Nat) (f : Nat → RWord) (ls : List Nat) (hls : ∀ l ∈ ls, l < 32) (q k : Nat)
    (hk : k < 32) :
    (w.setCells r (ls.map fun l => (l, f l))).v_ q k = if q = r ∧ k ∈ ls then f k else w.v_ q k := by
  induction ls generalizing w with
  | nil => simp [Warp.setCells]
  | cons l ls ih =>
    rw [List.map_cons, Warp.setCells, ih _ (fun m hm => hls m (List.mem_cons_of_mem _ hm)),
      v_setVCell _ _ _ _ _ _ (hls l List.mem_cons_self) hk]
    by_cases h1 : q = r
    · by_cases h2 : k = l
      · subst h2; simp [h1]
      · simp [h1, h2]
    · simp [h1]

/-- Everything the form of the predicting instructions does when its instruction is ready: the cells it writes are those of
the results wherever the operands' residues are right. -/
theorem unitOp_ready {s : State} {y : LCtx} {i : Instr} (h : LaneReady s y i) (hp : predicts i = true) (a : AluArgs)
    (f : LCtx → Nat → RWord) (g : Nat → Word) (he : exec i s = unitOp s i a f)
    (hg : ∀ l, l ∈ lanesOf y.act → f y l = cellOf (g l)) : Spec.WritesLanes s y i a.vd g := by
  have hn := (h.unit hp).1
  refine ⟨_, _, he.trans (runLane_ready h _), Local.dispatched ((Local.of_lctx h.ctx).modWarp _), ?_, ?_⟩
  · rw [setCells_rest]
    simp [hn]
  intro r l hl
  have hs : ∀ k, struck y.x.warp k (f y k) = f y k := fun k => by unfold struck; rw [hn]
  unfold LCtx.lanes
  simp only [hs]
  refine (v_setCells y.x.warp a.vd.toNat (f y) (lanesOf y.act) (fun m hm => (mem_lanesOf.1 hm).1) r l hl).trans ?_
  by_cases hm : r = a.vd.toNat ∧ l ∈ lanesOf y.act
  · rw [if_pos hm, hg l hm.2, if_pos ⟨hm.1, (mem_lanesOf.1 hm.2).2⟩]
  · rw [if_neg hm, if_neg fun c => hm ⟨c.1, mem_lanesOf.2 ⟨hl, c.2⟩⟩]

end Sys2Proof.Laws
end

