-- ==== Sys2Proof/Tests/Slice0.lean ====
section
/-! SUPPORT. Tests: words of the encoding tables, ill-formed fields, single steps, and a witness for the hypotheses of each
statement. -/

namespace Sys2Proof.Tests

open Sys2Proof Sys2Proof.Machine

-- One theorem after another: each kernel evaluation gets the memory to itself.
set_option Elab.async false

/-! ### Decoding -/

/-- Each scalar word decodes to the instruction beside it, and that instruction encodes to the word. -/
def readsScalar (l : List (Nat × Instr)) : Bool := l.all fun p =>
  (match decodeScalar (BitVec.ofNat 32 p.1) with | .ok i => i == p.2 | .error _ => false) && encodeScalar p.2 == some p.1

/-- Each lane word decodes to the instruction beside it, and that instruction encodes to the word. -/
def readsLane (l : List (Nat × Instr)) : Bool := l.all fun p =>
  (match decodeLane (BitVec.ofNat 96 p.1) with | .ok i => i == p.2 | .error _ => false) && encodeLane p.2 == some p.1

/-- The spec's own scalar words (chapters "Encoding", "Scalar stream instructions", "System and trap instructions" and the stream ring program). -/
theorem test_decode_worked_scalar : readsScalar [
    (0x24408000, .ldg 4 2 0), (0x08500000, .addi 5 0 0), (0x04514400, .add 5 5 4), (0x08413FFF, .addi 4 4 0x3FFF),
    (0x44813FFE, .br .nz 4 0x3FFE), (0x28508004, .stg 5 2 4), (0x78000000, .exit), (0x20412345, .lui 4 0x12345),
    (0x10410678, .ori 4 4 0x678), (0x7401FFFD, .loop 7 0x3FFD), (0x7C800000, .issue 2 0), (0x50000005, .joinat 5),
    (0x4C018003, .split 6 3), (0x7C400003, .issue 1 3), (0x58000002, .jmp 2), (0x54000000, .join), (0x90000123, .trap 0x123),
    (0x9C010015, .wrsr 4 0x15), (0x880040A1, .barwait 0x205 true), (0x7F400028, .issue 13 40), (0x21000408, .lui 16 0x408)] = true := by decide +kernel

/-- The spec's own lane words (chapters "Encoding", "Lane arithmetic", "Memory", "Matrix" and "Engine" instructions and the two programs). -/
theorem test_decode_worked_lane : readsLane [
    (0x614040000000000000000000, .laneid ⟨1, 0, .lane 0, 0, 0, 0, .none⟩),
    (0x000080400004001000000000, .iadd ⟨2, 1, .group 4, 0, 0, 0, .none⟩),
    (0x30C282C30340000000000000, .ffma ⟨10, 11, .lane 12, 13, 0, 0, .none⟩),
    (0x204C00040A00000000000000, .laneSel ⟨48, 0, .lane 16, 40, 0, 0, .none⟩),
    (0x604C4C000000002000000010, .bfly ⟨49, 48, .imm, 0, 0, 16, .none⟩),
    (0x200141000007095200000000, .icmp ⟨5, 4, .group 7, 0, 2, 0, .ifSet 9⟩),
    (0x700100C00004000200000000, .ld ⟨4, 3, 0, 0, 4, .none, .b32, 0, .none⟩),
    (0x800000C14006000200000000, .st ⟨0, 3, 5, 0, 6, .none, .b32, 0, .none⟩),
    (0x9000C0800004000700000000, .ldf ⟨3, 2, 0, 0, 4, .none, .f32, 0, .none⟩),
    (0x908000810004000700000000, .adja ⟨0, 2, 4, 0, 4, .none, .f32, 0, .none⟩),
    (0x83C28082C308001200000000, .atomCas ⟨10, 2, 11, 12, 8, .acq, .b32, 0, .none⟩),
    (0xA18000000000000000000400, .dupmap ⟨0, 0, 0, 0, 0, 0, 0x400, .none⟩),
    (0xA00000000006000000000000, .gangset ⟨0, 0, 0, 0, 6, 0, 0, .none⟩),
    (0xA04000000000000100000400, .mmaJ ⟨0, 0, 0, 0, 0, 1, 0x400, .none⟩),
    (0xD10001000000000000000022, .itopen ⟨0, 4, 0, 0, 0, 0, 0x22, .none⟩),
    (0xD18500000549000000000002, .nextBounded ⟨20, 0, 0, 21, 9, 0, 2, .none⟩),
    (0x900140C00004024900000000, .ldf ⟨5, 3, 0, 0, 4, .none, .bf16, 0, .ifSet 2⟩),
    (0x904140C00004024900000000, .ldfRc ⟨5, 3, 0, 0, 4, .none, .bf16, 0, .ifSet 2⟩),
    (0x908000C200040B4700000000, .adja ⟨0, 3, 8, 0, 4, .none, .f32, 0, .ifSet 11⟩),
    (0xC0800000000D074000004000, .barriveBytes ⟨0, 0, 0, 0, 13, 0, 0x4000, .ifSet 7⟩),
    (0xB00000000014074000000000, .kick ⟨0, 0, 0, 0, 20, 0, 0, .ifSet 7⟩),
    (0x804000430000074400000010, .stl ⟨0, 1, 12, 0, 0, .none, .b128, 16, .ifSet 7⟩)] = true := by decide +kernel

/-- Major opcode 0x01, one word each (R165, R166, R173). -/
theorem test_decode_integer : readsScalar [
    (0x04423C00, .add 4 8 60), (0x04423C01, .sub 4 8 60), (0x04423C02, .mul 4 8 60), (0x04423C03, .mulhS32 4 8 60),
    (0x04423C04, .mulhN32 4 8 60), (0x04423C05, .and 4 8 60), (0x04423C06, .or 4 8 60), (0x04423C07, .xor 4 8 60),
    (0x04423C08, .shl 4 8 60), (0x04423C09, .shr 4 8 60), (0x04423C0A, .sar 4 8 60), (0x04423C0B, .minS32 4 8 60),
    (0x04423C0C, .minN32 4 8 60), (0x04423C0D, .maxS32 4 8 60), (0x04423C0E, .maxN32 4 8 60), (0x0442000F, .popc 4 8),
    (0x04420010, .clz 4 8), (0x07F04218, .cmpEq 63 1 2), (0x07F04219, .cmpNe 63 1 2), (0x07F0421A, .cmpLtS32 63 1 2),
    (0x07F0421B, .cmpLeS32 63 1 2), (0x07F0421C, .cmpLtN32 63 1 2), (0x07F0421D, .cmpLeN32 63 1 2), (0x047105C9, .sel 7 4 5 9)] = true := by decide +kernel

/-- Immediate, access and register-move opcodes, one word each (R165, R166). -/
theorem test_decode_immediate : readsScalar [
    (0x0810A000, .addi 1 2 0x2000), (0x0C10BFFF, .andi 1 2 0x3FFF), (0x10410678, .ori 4 4 0x678), (0x17F00001, .xori 63 0 1),
    (0x1892801F, .shli 9 10 31), (0x1C928011, .shri 9 10 17), (0x20412345, .lui 4 0x12345), (0x24408000, .ldg 4 2 0),
    (0x285FBFFC, .stg 5 62 0x3FFC), (0x2C500306, .vote 5 6 .count), (0x2C5002C8, .vote 5 200 .all), (0x3060C005, .movg 6 5 3),
    (0x3017C0FF, .movg 1 255 31), (0x3437C000, .rdt 3 31), (0x39E1C000, .wrt 30 7), (0x3C900000, .rdx 9), (0x4002C000, .wrx 11),
    (0x98C00021, .rdsr 12 0x21), (0x9C010015, .wrsr 4 0x15), (0xB4E00000, .clock 14), (0xB05001FF, .feat 5 0x1FF),
    (0xAC000000, .nop)] = true := by decide +kernel

/-- Control and system opcodes, one word each, every condition (R165 to R167). -/
theorem test_decode_control : readsScalar [
    (0x44003FFF, .br .always 0 0x3FFF), (0x44425FFF, .br .z 9 0x1FFF), (0x44825FFF, .br .nz 9 0x1FFF),
    (0x44C25FFF, .br .ltz 9 0x1FFF), (0x45025FFF, .br .gez 9 0x1FFF), (0x45425FFF, .br .gtz 9 0x1FFF),
    (0x45825FFF, .br .lez 9 0x1FFF), (0x4442400A, .br .z 9 10), (0x4A294002, .brl .any 0xA5 2), (0x4A694002, .brl .all 0xA5 2),
    (0x4AA94002, .brl .none 0xA5 2), (0x4AE94002, .brl .notall 0xA5 2), (0x4C018003, .split 6 3), (0x50000005, .joinat 5),
    (0x54000000, .join), (0x58000002, .jmp 2), (0x5C0F8000, .jmpr 62), (0x600000FE, .jmpv 0xFE), (0x640FFFFF, .call 0xFFFFF),
    (0x68010000, .callr 4), (0x6C000008, .callv 8), (0x70000000, .ret), (0x7401FFFD, .loop 7 0x3FFD), (0x78000000, .exit),
    (0x7C800000, .issue 2 0), (0x7FFFFFFF, .issue 15 0x3FFFFF), (0x80000001, .waitf 1), (0x80000801, .waitf 0x801),
    (0x84000000, .yield), (0x88000000, .barwait 0 false), (0x880FFFC1, .barwait 0x7FFE true), (0x8C00891A, .qwait 2 9 26),
    (0x90000123, .trap 0x123), (0x94000000, .rtt), (0xA0508400, .tlbinv 5 2 4), (0xA4000077, .bkpt 0x77), (0xA8000000, .halt)] = true := by decide +kernel

/-- Lane classes 0x0 to 0x2, one word each, every form of operand b (R159, R160, R168). -/
theorem test_decode_class0_to_2 : readsLane [
    (0x003FC0604000000000000000, .iadd ⟨255, 1, .lane 129, 0, 0, 0x0, .none⟩),
    (0x004080C00021001000000000, .isub ⟨2, 3, .group 33, 0, 0, 0x0, .none⟩),
    (0x008080C000000020DEADBEEF, .imul ⟨2, 3, .imm, 0, 0, 0xDEADBEEF, .none⟩),
    (0x00C080E04000000100000000, .imulh ⟨2, 3, .lane 129, 0, 1, 0x0, .none⟩),
    (0x010080C00161001000000000, .imad ⟨2, 3, .group 33, 5, 0, 0x0, .none⟩),
    (0x014080E04000000000000000, .imin ⟨2, 3, .lane 129, 0, 0, 0x0, .none⟩),
    (0x018080E04000558100000000, .imax ⟨2, 3, .lane 129, 0, 1, 0x0, .ifNot 85⟩),
    (0x01C080C00000000000000000, .iabs ⟨2, 3, .lane 0, 0, 0, 0x0, .none⟩),
    (0x020080C00000AA4000000000, .ineg ⟨2, 3, .lane 0, 0, 0, 0x0, .ifSet 170⟩),
    (0x024080000021001000000000, .mov ⟨2, 0, .group 33, 0, 0, 0x0, .none⟩),
    (0x028080000000000012345678, .movi ⟨2, 0, .lane 0, 0, 0, 0x12345678, .none⟩),
    (0x02C080C00000002FDEADBEEF, .lea ⟨2, 3, .imm, 0, 15, 0xDEADBEEF, .none⟩),
    (0x100080E04000000000000000, .laneAnd ⟨2, 3, .lane 129, 0, 0, 0x0, .none⟩),
    (0x104080C00021001000000000, .laneOr ⟨2, 3, .group 33, 0, 0, 0x0, .none⟩),
    (0x108080C000000020DEADBEEF, .laneXor ⟨2, 3, .imm, 0, 0, 0xDEADBEEF, .none⟩),
    (0x10C080C00000000000000000, .not ⟨2, 3, .lane 0, 0, 0, 0x0, .none⟩),
    (0x110080E04000000000000000, .laneShl ⟨2, 3, .lane 129, 0, 0, 0x0, .none⟩),
    (0x114080C000000020DEADBEEF, .laneShr ⟨2, 3, .imm, 0, 0, 0xDEADBEEF, .none⟩),
    (0x118080C00021001000000000, .laneSar ⟨2, 3, .group 33, 0, 0, 0x0, .none⟩),
    (0x11C080E04240000100000000, .bfe ⟨2, 3, .lane 129, 9, 1, 0x0, .none⟩),
    (0x120080E04240000000000000, .bfi ⟨2, 3, .lane 129, 9, 0, 0x0, .none⟩),
    (0x124080C00000000000000000, .lanePopc ⟨2, 3, .lane 0, 0, 0, 0x0, .none⟩),
    (0x128080C00000000000000000, .laneClz ⟨2, 3, .lane 0, 0, 0, 0x0, .none⟩),
    (0x200080E04000000900000000, .icmp ⟨2, 3, .lane 129, 0, 9, 0x0, .none⟩),
    (0x204080C002400020DEADBEEF, .laneSel ⟨2, 3, .imm, 9, 0, 0xDEADBEEF, .none⟩)] = true := by decide +kernel

/-- Lane classes 0x3 to 0x6 and 0xE, one word each (R159, R160, R168). -/
theorem test_decode_class3_to_6_and_e : readsLane [
    (0x300080E04000000000000000, .fadd ⟨2, 3, .lane 129, 0, 0, 0x0, .none⟩),
    (0x304080C00021001000000000, .fsub ⟨2, 3, .group 33, 0, 0, 0x0, .none⟩),
    (0x308080C000000020DEADBEEF, .fmul ⟨2, 3, .imm, 0, 0, 0xDEADBEEF, .none⟩),
    (0x30C080E04240000000000000, .ffma ⟨2, 3, .lane 129, 9, 0, 0x0, .none⟩),
    (0x310080E04000000000000000, .fmin ⟨2, 3, .lane 129, 0, 0, 0x0, .none⟩),
    (0x314080E04000000000000000, .fmax ⟨2, 3, .lane 129, 0, 0, 0x0, .none⟩),
    (0x318080C00021001700000000, .fcmp ⟨2, 3, .group 33, 0, 7, 0x0, .none⟩),
    (0x400080E04000000100000000, .hadd2 ⟨2, 3, .lane 129, 0, 1, 0x0, .none⟩),
    (0x404080C000000020DEADBEEF, .hmul2 ⟨2, 3, .imm, 0, 0, 0xDEADBEEF, .none⟩),
    (0x408080E04240000100000000, .hfma2 ⟨2, 3, .lane 129, 9, 1, 0x0, .none⟩),
    (0x500100C0000000000000120B, .cvt ⟨4, 3, .lane 0, 0, 0, 0x120B, .none⟩),
    (0x504080C00240000000000116, .cvtq ⟨2, 3, .lane 0, 9, 0, 0x116, .none⟩),
    (0x508080C00000000100000000, .had ⟨2, 3, .lane 0, 0, 1, 0x0, .none⟩),
    (0x600080E04000000000000000, .shfl ⟨2, 3, .lane 129, 0, 0, 0x0, .none⟩),
    (0x604080C000000020DEADBEEF, .bfly ⟨2, 3, .imm, 0, 0, 0xDEADBEEF, .none⟩),
    (0x608080C00021001000000000, .bcast ⟨2, 3, .group 33, 0, 0, 0x0, .none⟩),
    (0x60C080C00000000A00000000, .redux ⟨2, 3, .lane 0, 0, 10, 0x0, .none⟩),
    (0x610080C00000000400000001, .scan ⟨2, 3, .lane 0, 0, 4, 0x1, .none⟩),
    (0x617200000000000000000000, .laneid ⟨200, 0, .lane 0, 0, 0, 0x0, .none⟩),
    (0xE00040C00000000000000000, .rcp ⟨1, 3, .lane 0, 0, 0, 0x0, .none⟩),
    (0xE04080C00000000000000000, .rsq ⟨2, 3, .lane 0, 0, 0, 0x0, .none⟩),
    (0xE080C0C00000000000000000, .sqrt ⟨3, 3, .lane 0, 0, 0, 0x0, .none⟩),
    (0xE0C100C00000000000000000, .exp2 ⟨4, 3, .lane 0, 0, 0, 0x0, .none⟩),
    (0xE10140C00000000000000000, .log2 ⟨5, 3, .lane 0, 0, 0, 0x0, .none⟩),
    (0xE14180C00000000000000000, .sin ⟨6, 3, .lane 0, 0, 0, 0x0, .none⟩),
    (0xE181C0C00000000000000000, .cos ⟨7, 3, .lane 0, 0, 0, 0x0, .none⟩),
    (0xE1C200C00000000000000000, .tanh ⟨8, 3, .lane 0, 0, 0, 0x0, .none⟩),
    (0xE20240C00000000000000000, .sigm ⟨9, 3, .lane 0, 0, 0, 0x0, .none⟩)] = true := by decide +kernel

/-- Lane classes 0x7 to 0x9, one word each (R159, R160, R168). -/
theorem test_decode_class7_to_9 : readsLane [
    (0x700100C00004000200000000, .ld ⟨4, 3, 0, 0, 4, .none, .b32, 0, .none⟩),
    (0x704100C000000003FFFFFFFC, .ldl ⟨4, 3, 0, 0, 0, .none, .b64, 0xFFFFFFFC, .none⟩),
    (0x708200C00000000400000010, .ldc ⟨8, 3, 0, 0, 0, .none, .b128, 0x10, .none⟩),
    (0x70C080C0003E001600000000, .gather ⟨2, 3, 0, 0, 62, .acq, .s16, 0x0, .none⟩),
    (0x710080C00242000700000001, .gatherP ⟨2, 3, 0, 9, 2, .none, .f32, 0x1, .none⟩),
    (0x714000C00002000000000000, .pref ⟨0, 3, 0, 0, 2, .none, .b8, 0x0, .none⟩),
    (0x718080C00000000000000000, .tagl ⟨2, 3, 0, 0, 0, .none, .b8, 0x0, .none⟩),
    (0x800000C10006000200000000, .st ⟨0, 3, 4, 0, 6, .none, .b32, 0, .none⟩),
    (0x800000C20242003400000001, .st ⟨0, 3, 8, 9, 2, .acqRel, .b128, 0x1, .none⟩),
    (0x804000C08000000100000044, .stl ⟨0, 3, 2, 0, 0, .none, .b16, 0x44, .none⟩),
    (0x808000C08000000E00000100, .stc ⟨0, 3, 2, 0, 0, .none, .n64, 0x100, .none⟩),
    (0x80C000C08004002000000000, .scatter ⟨0, 3, 2, 0, 4, .rel, .b8, 0x0, .none⟩),
    (0x810000C08000000000000000, .tagset ⟨0, 3, 2, 0, 0, .none, .b8, 0x0, .none⟩),
    (0x814000C00000000000000000, .taginv ⟨0, 3, 0, 0, 0, .none, .b8, 0x0, .none⟩),
    (0x820100C18002000700000000, .atomAdd ⟨4, 3, 6, 0, 2, .none, .f32, 0x0, .none⟩),
    (0x824100C18002001D00000001, .atomMin ⟨4, 3, 6, 0, 2, .acq, .s64, 0x1, .none⟩),
    (0x828100C18002002C00000002, .atomMax ⟨4, 3, 6, 0, 2, .rel, .n32, 0x2, .none⟩),
    (0x82C100C18002003300000003, .atomAnd ⟨4, 3, 6, 0, 2, .acqRel, .b64, 0x3, .none⟩),
    (0x830100C18002000200000000, .atomOr ⟨4, 3, 6, 0, 2, .none, .b32, 0x0, .none⟩),
    (0x834100C18002001300000001, .atomXor ⟨4, 3, 6, 0, 2, .acq, .b64, 0x1, .none⟩),
    (0x838100C18002002200000002, .atomExch ⟨4, 3, 6, 0, 2, .rel, .b32, 0x2, .none⟩),
    (0x83C100C18202003300000003, .atomCas ⟨4, 3, 6, 8, 2, .acqRel, .b64, 0x3, .none⟩),
    (0x840000C18002000E00000000, .redAdd ⟨0, 3, 6, 0, 2, .none, .n64, 0x0, .none⟩),
    (0x844000C18002002700000001, .redMin ⟨0, 3, 6, 0, 2, .rel, .f32, 0x1, .none⟩),
    (0x848000C18002000B00000002, .redMax ⟨0, 3, 6, 0, 2, .none, .s32, 0x2, .none⟩),
    (0x84C000C18002002200000003, .redAnd ⟨0, 3, 6, 0, 2, .rel, .b32, 0x3, .none⟩),
    (0x850000C18002000300000000, .redOr ⟨0, 3, 6, 0, 2, .none, .b64, 0x0, .none⟩),
    (0x854000C18002002200000001, .redXor ⟨0, 3, 6, 0, 2, .rel, .b32, 0x1, .none⟩),
    (0x900100C00002000100000000, .ldf ⟨4, 3, 0, 0, 2, .none, .b16, 0x0, .none⟩),
    (0x904100C00002000300000000, .ldfRc ⟨4, 3, 0, 0, 2, .none, .b64, 0x0, .none⟩),
    (0x908000C1C002000700000000, .adja ⟨0, 3, 7, 0, 2, .none, .f32, 0x0, .none⟩),
    (0x90C100C00002000A00000000, .adjr ⟨4, 3, 0, 0, 2, .none, .fx64, 0x0, .none⟩),
    (0x910140C00002000700000000, .adjrWait ⟨5, 3, 0, 0, 2, .none, .f32, 0x0, .none⟩),
    (0x914140C00002000200000000, .adjq ⟨5, 3, 0, 0, 2, .none, .b32, 0x0, .none⟩)] = true := by decide +kernel

/-- Lane classes 0xA and 0xB, one word each (R159, R160, R168). -/
theorem test_decode_class_a_and_b : readsLane [
    (0xA00000000006000000000000, .gangset ⟨0, 0, 0, 0, 6, 0, 0, .none⟩),
    (0xA04000000000000080000401, .mma ⟨0, 0, 0, 0, 0, 0, 0x80000401, .none⟩),
    (0xA04000000000000100000400, .mmaJ ⟨0, 0, 0, 0, 0, 1, 0x400, .none⟩),
    (0xA08000C10000000000001000, .bld ⟨0, 3, 4, 0, 0, 0, 0x1000, .none⟩),
    (0xA0C200C00000000200000005, .ldacc ⟨8, 3, 0, 0, 0, 2, 0x5, .none⟩),
    (0xA10000C18000000100000007, .stacc ⟨0, 3, 6, 0, 0, 1, 0x7, .none⟩),
    (0xA14000C00000000000000009, .zacc ⟨0, 3, 0, 0, 0, 0, 0x9, .none⟩),
    (0xA18000000000000000000400, .dupmap ⟨0, 0, 0, 0, 0, 0, 0x400, .none⟩),
    (0xA1C000000000000100000000, .mwait ⟨0, 0, 0, 0, 0, 1, 0x0, .none⟩),
    (0xB0000000000A000000000000, .kick ⟨0, 0, 0, 0, 10, 0, 0, .none⟩),
    (0xB05340000000000000000003, .wptr ⟨77, 0, 0, 0, 0, 0, 0x3, .none⟩),
    (0xB08140000006000000000000, .qpush ⟨5, 0, 0, 0, 6, 0, 0x0, .none⟩),
    (0xB0C001000006000000000000, .qfence ⟨0, 4, 0, 0, 6, 0, 0x0, .none⟩),
    (0xB10001000007000000000000, .launch ⟨0, 4, 0, 0, 7, 0, 0x0, .none⟩)] = true := by decide +kernel

/-- Lane classes 0xC and 0xD, one word each (R159, R160, R168). -/
theorem test_decode_class_c_and_d : readsLane [
    (0xC000000000050000000FFFE0, .barinit ⟨0, 0, 0, 0, 5, 0, 0xFFFE0, .none⟩),
    (0xC04000000000000000000020, .barrive ⟨0, 0, 0, 0, 0, 0, 0x20, .none⟩),
    (0xC08000000008000000000000, .barriveBytes ⟨0, 0, 0, 0, 8, 0, 0, .none⟩),
    (0xC0C140000000000000000000, .bartry ⟨5, 0, 0, 0, 0, 0, 0, .none⟩),
    (0xC10000000000000000000040, .gbar ⟨0, 0, 0, 0, 0, 0, 0x40, .none⟩),
    (0xC14000000003000000000060, .fbar ⟨0, 0, 0, 0, 3, 0, 0x60, .none⟩),
    (0xC18000000000000000000000, .phaseRel ⟨0, 0, 0, 0, 0, 0, 0x0, .none⟩),
    (0xC1C000000000000000000000, .phaseAcq ⟨0, 0, 0, 0, 0, 0, 0x0, .none⟩),
    (0xD00140000000000001F00020, .strag ⟨5, 0, 0, 0, 0, 0, 0x1F00020, .none⟩),
    (0xD04001000009000000000000, .tqpop ⟨0, 4, 0, 0, 9, 0, 0x0, .none⟩),
    (0xD08001000009000000000000, .tqsteal ⟨0, 4, 0, 0, 9, 0, 0x0, .none⟩),
    (0xD0C001000000000000000000, .tqdone ⟨0, 4, 0, 0, 0, 0, 0x0, .none⟩),
    (0xD10001000000000000000022, .itopen ⟨0, 4, 0, 0, 0, 0, 0x22, .none⟩),
    (0xD141000001C900000000000F, .next ⟨4, 0, 0, 7, 9, 0, 0xF, .none⟩),
    (0xD1C000000000000000000002, .enough ⟨0, 0, 0, 0, 0, 0, 0x2, .none⟩),
    (0xD20001000000000000000003, .itsave ⟨0, 4, 0, 0, 0, 0, 0x3, .none⟩),
    (0xD24001000000000000000004, .itload ⟨0, 4, 0, 0, 0, 0, 0x4, .none⟩),
    (0xD28000000009000000000005, .itstat ⟨0, 0, 0, 0, 9, 0, 0x5, .none⟩)] = true := by decide +kernel

/-! ### Ill-formed fields -/

/-- Scalar fields no encoding admits: an unconditional BR that names a register, LOOP g0, odd register pairs, odd lane pairs,
a QWAIT deadline above 26 (R158, R166, R167, R181, R192). -/
theorem test_ill_formed_scalar : ([.br .always 1 0, .loop 0 5, .ldg 1 3 0, .stg 1 3 0, .jmpr 5, .callr 7, .jmpv 3, .callv 9,
    .qwait 3 1 0, .qwait 2 1 27, .tlbinv 1 3 2, .tlbinv 1 2 3, .clock 5] : List Instr).all (fun i => !i.wellFormed) = true := by
  decide +kernel

/-- Arithmetic lane fields: an unused register, an unassigned Q, an imm32 without a use, MOV of an immediate, a source the row
does not give, an unconvertible type code, an odd 64-bit group, CVTQ onto its own side register (R53, R160, R202, R203). -/
theorem test_ill_formed_arithmetic : ([
    .iadd ⟨1, 2, .lane 3, 4, 0, 0, .none⟩, .iadd ⟨1, 2, .lane 3, 0, 1, 0, .none⟩, .isub ⟨1, 2, .group 3, 0, 0, 7, .none⟩,
    .imulh ⟨1, 2, .lane 3, 0, 2, 0, .none⟩, .iabs ⟨1, 2, .lane 3, 0, 0, 0, .none⟩, .ineg ⟨1, 2, .lane 0, 0, 0, 9, .none⟩,
    .mov ⟨1, 0, .imm, 0, 0, 5, .none⟩, .mov ⟨1, 2, .lane 3, 0, 0, 0, .none⟩, .movi ⟨1, 2, .lane 0, 0, 0, 5, .none⟩,
    .bfe ⟨1, 2, .lane 3, 4, 2, 0, .none⟩, .icmp ⟨1, 2, .lane 3, 0, 10, 0, .none⟩, .fcmp ⟨1, 2, .lane 3, 0, 8, 0, .none⟩,
    .hadd2 ⟨1, 2, .lane 3, 0, 2, 0, .none⟩, .had ⟨1, 2, .lane 0, 0, 4, 0, .none⟩, .redux ⟨1, 2, .lane 0, 0, 11, 0, .none⟩,
    .scan ⟨1, 2, .lane 0, 0, 11, 0, .none⟩, .scan ⟨1, 2, .lane 0, 0, 0, 2, .none⟩, .laneid ⟨1, 2, .lane 0, 0, 0, 0, .none⟩,
    .cvt ⟨1, 2, .lane 0, 0, 0, 0x0816, .none⟩, .cvt ⟨1, 2, .lane 0, 0, 0, 0x1608, .none⟩,
    .cvt ⟨1, 2, .lane 0, 0, 0, 0x10808, .none⟩, .cvt ⟨1, 2, .lane 0, 0, 0, 0x080B, .none⟩,
    .cvt ⟨2, 3, .lane 0, 0, 0, 0x0F08, .none⟩, .cvtq ⟨1, 2, .lane 0, 1, 0, 0x13, .none⟩,
    .cvtq ⟨1, 2, .lane 0, 3, 0, 0x12, .none⟩, .cvtq ⟨1, 2, .lane 0, 3, 0, 0x213, .none⟩,
    .rcp ⟨1, 2, .lane 0, 3, 0, 0, .none⟩] : List Instr).all (fun i => !i.wellFormed) = true := by
  decide +kernel

/-- Memory lane fields: an odd base pair, a base no row gives, an unaligned register group, a type or an order the row refuses, a
mask register without its bit, a completion mask inside the data, a scope above 3 (R53, R209 to R211, R219). -/
theorem test_ill_formed_memory : ([
    .ld ⟨1, 2, 0, 0, 3, .none, .b32, 0, .none⟩, .ld ⟨1, 2, 0, 0, 2, .none, .b64, 0, .none⟩,
    .ld ⟨2, 2, 0, 0, 2, .none, .b128, 0, .none⟩, .ld ⟨2, 2, 0, 0, 2, .none, .fx64, 0, .none⟩,
    .ld ⟨1, 2, 0, 0, 2, .none, .b32, 1, .none⟩, .ldl ⟨1, 2, 0, 0, 2, .none, .b32, 0, .none⟩,
    .ldl ⟨1, 2, 0, 0, 0, .acq, .b32, 0, .none⟩, .stl ⟨0, 2, 1, 0, 0, .none, .b64, 0, .none⟩,
    .gather ⟨4, 2, 0, 0, 2, .none, .b128, 0, .none⟩, .gatherP ⟨4, 2, 0, 5, 2, .none, .b64, 0, .none⟩,
    .gatherP ⟨4, 2, 0, 6, 2, .none, .b32, 2, .none⟩, .pref ⟨0, 2, 0, 0, 2, .none, .b32, 0, .none⟩,
    .tagl ⟨1, 2, 0, 0, 0, .none, .b32, 0, .none⟩, .st ⟨0, 2, 3, 4, 2, .none, .b32, 0, .none⟩,
    .st ⟨0, 2, 3, 4, 2, .none, .b32, 2, .none⟩, .scatter ⟨1, 2, 3, 0, 2, .none, .b32, 0, .none⟩,
    .tagset ⟨0, 2, 3, 0, 0, .rel, .b8, 0, .none⟩, .taginv ⟨0, 2, 3, 0, 0, .none, .b8, 0, .none⟩,
    .atomAdd ⟨1, 2, 3, 0, 2, .none, .b8, 0, .none⟩, .atomAdd ⟨1, 2, 3, 0, 2, .none, .b32, 4, .none⟩,
    .atomMin ⟨1, 2, 3, 0, 2, .none, .b32, 0, .none⟩, .atomAnd ⟨1, 2, 3, 0, 2, .none, .n32, 0, .none⟩,
    .atomCas ⟨2, 2, 4, 3, 2, .none, .b64, 0, .none⟩, .redAdd ⟨0, 2, 3, 0, 2, .acq, .b32, 0, .none⟩,
    .redMax ⟨0, 2, 3, 0, 2, .acqRel, .s32, 0, .none⟩, .redOr ⟨1, 2, 3, 0, 2, .none, .b32, 0, .none⟩,
    .ldf ⟨1, 2, 0, 0, 2, .acq, .b32, 0, .none⟩, .adja ⟨0, 2, 3, 0, 2, .none, .b32, 0, .none⟩,
    .adjr ⟨1, 2, 0, 0, 2, .none, .b32, 0, .none⟩, .adjr ⟨1, 2, 0, 0, 2, .none, .fx64, 0, .none⟩,
    .adjq ⟨1, 2, 0, 0, 2, .none, .f32, 0, .none⟩] : List Instr).all (fun i => !i.wellFormed) = true := by
  decide +kernel

/-- Engine lane fields: an unused register, a Q6 above the row's, a matrix size outside 16 to 4096, an unaligned group, an odd
pair, an offset above 20 bits, an iterator above 15, NEXT's valid bit in its own value (R53, R229, R246, R264). -/
theorem test_ill_formed_engine : ([
    .gangset ⟨1, 0, 0, 0, 6, 0, 0, .none⟩, .mma ⟨0, 0, 0, 0, 0, 2, 0, .none⟩, .mmaJ ⟨0, 0, 0, 0, 0, 0, 0, .none⟩,
    .bld ⟨0, 1, 2, 0, 0, 0, 0, .none⟩, .bld ⟨0, 1, 2, 0, 0, 0, 24, .none⟩, .bld ⟨0, 1, 2, 0, 0, 0, 4112, .none⟩,
    .ldacc ⟨1, 2, 0, 0, 0, 1, 0, .none⟩, .ldacc ⟨1, 2, 0, 0, 0, 3, 0, .none⟩, .stacc ⟨0, 2, 2, 0, 0, 2, 0, .none⟩,
    .zacc ⟨0, 2, 1, 0, 0, 0, 0, .none⟩, .dupmap ⟨0, 0, 0, 0, 1, 0, 0, .none⟩, .mwait ⟨0, 0, 0, 0, 0, 2, 0, .none⟩,
    .kick ⟨0, 0, 0, 0, 1, 0, 1, .none⟩, .wptr ⟨1, 0, 0, 0, 0, 0, 4, .none⟩, .qpush ⟨1, 0, 0, 0, 3, 0, 0, .none⟩,
    .qfence ⟨0, 3, 0, 0, 2, 0, 0, .none⟩, .launch ⟨0, 3, 0, 0, 2, 0, 0, .none⟩, .barinit ⟨0, 0, 0, 0, 2, 0, 0x100000, .none⟩,
    .barrive ⟨0, 0, 0, 0, 2, 0, 0, .none⟩, .bartry ⟨1, 0, 0, 0, 2, 0, 0, .none⟩, .gbar ⟨1, 0, 0, 0, 0, 0, 0, .none⟩,
    .phaseRel ⟨0, 0, 0, 0, 0, 0, 1, .none⟩, .strag ⟨1, 0, 0, 0, 0, 0, 0x2000000, .none⟩, .tqpop ⟨0, 3, 0, 0, 2, 0, 0, .none⟩,
    .tqdone ⟨0, 3, 0, 0, 0, 0, 0, .none⟩, .itopen ⟨0, 3, 0, 0, 0, 0, 128, .none⟩, .next ⟨2, 0, 0, 2, 1, 0, 0, .none⟩,
    .next ⟨2, 0, 0, 3, 1, 0, 16, .none⟩, .enough ⟨0, 0, 0, 0, 0, 0, 16, .none⟩, .itsave ⟨1, 3, 0, 0, 0, 0, 0, .none⟩,
    .itstat ⟨0, 0, 0, 0, 1, 0, 16, .none⟩] : List Instr).all (fun i => !i.wellFormed) = true := by
  decide +kernel

/-- Opcodes, functions and PMODE 11 that no row gives raise ILLEGAL_OP; fields a format requires to be zero raise RESERVED_FIELD
(R162, R165, R168, R170). -/
theorem test_refused_words :
    decodeScalar 0x00000000#32 = .error .illegalOp ∧ decodeScalar 0xFC000000#32 = .error .illegalOp ∧
    decodeScalar 0x78000001#32 = .error (.reservedField 0 false) ∧ decodeScalar 0xA0000001#32 = .error (.reservedField 0 true) ∧
    decodeLane 0xF00000000000000000000000#96 = .error .illegalOp ∧ decodeLane 0x3FC000000000000000000000#96 = .error .illegalOp ∧
    decodeLane 0x61404000000000C000000000#96 = .error .illegalOp := by decide +kernel

/-! ### Single steps -/

/-- The machine with an instruction word next and its warp as `f` makes it. -/
def next (nbits w : Nat) (f : Warp → Warp) : State := (State.reset.withFetchWord nbits w).modWarp 0 0 f

/-- The state one step answers. -/
def after (s : State) : State :=
  match step s with
  | .next t => t
  | .fault _ => State.reset
  | .refused _ => State.reset

/-- The warp a step leaves. -/
def warpOf (s : State) : Warp := ((after s).warp 0 0).getD (newWarp 0 0 .general 0 0 0)

/-- The split a step leaves in entry 0. -/
def splitOf (s : State) : Split := (amFind (warpOf s).splits 0).getD (newSplit 0)

/-- A warp with words in consecutive lanes of a lane register, from lane `l`. -/
def laneWords (r : Nat) : Nat → List Nat → Warp → Warp
  | _, [], w => w
  | l, x :: xs, w => laneWords r (l + 1) xs (w.setV r l (BitVec.ofNat 32 x))

/-- One lane word run with words in lane 0 of v2 and v3: what v1 holds there. -/
def lane1 (w a b : Nat) : Nat :=
  ((warpOf (next 96 w fun x => (x.setV 2 0 (BitVec.ofNat 32 a)).setV 3 0 (BitVec.ofNat 32 b))).vv 1 0).toNat

/-- R174's example: LUI and ORI make 0x12345678. -/
theorem test_lui_then_ori :
    (warpOf (next 32 0x20412345 id)).gv 4 = 0x12345000 ∧
    (warpOf (next 32 0x10410678 fun w => w.setG 4 0x12345000)).gv 4 = 0x12345678 := by decide +kernel

/-- Chapter 1: ADDI g5, g0, 0 gives zero, ADD adds, and ADDI of −1 counts down (R173, R174); a write of g0 is lost (R55). -/
theorem test_add_forms :
    (warpOf (next 32 0x08500000 fun w => w.setG 5 7)).gv 5 = 0 ∧
    (warpOf (next 32 0x04514400 fun w => (w.setG 5 7).setG 4 0xFFFFFFFF)).gv 5 = 6 ∧
    (warpOf (next 32 0x08413FFF fun w => w.setG 4 0)).gv 4 = 0xFFFFFFFF ∧
    (warpOf (next 32 0x08000005 id)).gv 0 = 0 := by decide +kernel

/-- MULH.s32 and MULH.n32 of −1 and 2, SAR by gb[4:0], CLZ of 0, SEL by gc (R173). -/
theorem test_integer_corners :
    (warpOf (next 32 0x04404103 fun w => (w.setG 1 0xFFFFFFFF).setG 1 0xFFFFFFFF)).gv 4 = 0 ∧
    (warpOf (next 32 0x04404503 fun w => (w.setG 1 0xFFFFFFFF).setG 5 2)).gv 4 = 0xFFFFFFFF ∧
    (warpOf (next 32 0x04404504 fun w => (w.setG 1 0xFFFFFFFF).setG 5 2)).gv 4 = 1 ∧
    (warpOf (next 32 0x0440450A fun w => (w.setG 1 0x80000000).setG 5 0x21)).gv 4 = 0xC0000000 ∧
    (warpOf (next 32 0x04404010 fun w => w.setG 1 0)).gv 4 = 32 ∧
    (warpOf (next 32 0x047105C9 fun w => ((w.setG 4 10).setG 5 20).setG 9 1)).gv 7 = 10 ∧
    (warpOf (next 32 0x047105C9 fun w => ((w.setG 4 10).setG 5 20).setG 9 0)).gv 7 = 20 := by decide +kernel

/-- LOOP g7 three words back: at 1 it falls through, at 0 it wraps and branches (R181). -/
theorem test_loop :
    (splitOf (next 32 0x7401FFFD fun w => w.setG 7 1)).spc = 0x1004 ∧
    (splitOf (next 32 0x7401FFFD fun w => w.setG 7 0)).spc = 0xFF4 ∧
    (warpOf (next 32 0x7401FFFD fun w => w.setG 7 0)).gv 7 = 0xFFFFFFFF := by decide +kernel

/-- BR.nz two words back of R165's example, taken and not (R180). -/
theorem test_branch :
    (splitOf (next 32 0x44813FFE fun w => w.setG 4 1)).spc = 0xFF8 ∧
    (splitOf (next 32 0x44813FFE fun w => w.setG 4 0)).spc = 0x1004 := by decide +kernel

/-- The fourth fragment's JOINAT and SPLIT: JPC is five words on; lanes 1 and 3 go to the target in entry 1, and the rest
stay (R183, R184). -/
theorem test_joinat_and_split :
    (splitOf (next 32 0x50000005 id)).jpc = 0x1014 ∧
    (let w := warpOf (next 32 0x4C018003 (laneWords 6 0 [0, 1, 2, 3]))
     (amFind w.splits 0).map (fun e => (e.exec, e.spc)) = some (0xFFFFFFF5#32, 0x1004#54) ∧
     (amFind w.splits 1).map (fun e => (e.exec, e.lanes, e.spc)) = some (0xA#32, 0xA#32, 0x100C#54)) := by decide +kernel

/-- TRAP 0x123 (R273): USER_TRAP with the PC after it; with TRAP_BASE 0 the team begins to stop (R272). -/
theorem test_trap :
    (warpOf (next 32 0x90000123 id)).trapCause = 0x7F ∧ (warpOf (next 32 0x90000123 id)).trapPc = 0x1004 ∧
    ((after (next 32 0x90000123 id)).team 0 0).map (·.run) = some (.stopping 1) := by decide +kernel

/-- With a handler the split goes to TRAP_BASE and holds the latch (R272). -/
theorem test_trap_handler :
    (splitOf ((next 32 0x90000123 id).modTeam 0 0 fun t => { t with trapBase := 0x4000 })).spc = 0x4000 ∧
    (warpOf ((next 32 0x90000123 id).modTeam 0 0 fun t => { t with trapBase := 0x4000 })).latch = some 0 := by decide +kernel

/-- A word of opcode 0 raises ILLEGAL_OP, one with a bit its format requires zero RESERVED_FIELD (R170). -/
theorem test_decode_faults :
    (warpOf (next 32 0x00000000 id)).trapCause = 0x01 ∧ (warpOf (next 32 0x78000001 id)).trapCause = 0x02 := by decide +kernel

/-- WRSR of g4 into TRAP_BASE and RDSR of WARP_SLOT (R64, R275). -/
theorem test_system_registers :
    ((after (next 32 0x9C010015 fun w => w.setG 4 0x2000)).team 0 0).map (·.trapBase) = some 0x2000 ∧
    (warpOf (next 32 0x98400004 fun w => w.setG 4 9)).gv 4 = 0 := by decide +kernel

/-- The borderline results of chapter 12: IMULH, IABS, IMIN and LEA (R196). -/
theorem test_lane_integer_borderlines :
    lane1 0x00C04080C000000000000000 0xFFFFFFFF 2 = 0xFFFFFFFF ∧ lane1 0x00C04080C000000100000000 0xFFFFFFFF 2 = 1 ∧
    lane1 0x01C040800000000000000000 0x80000000 0 = 0x80000000 ∧ lane1 0x01404080C000000000000000 0xFFFFFFFF 1 = 0xFFFFFFFF ∧
    lane1 0x01404080C000000100000000 0xFFFFFFFF 1 = 1 ∧ lane1 0x02C04080C000000300000000 5 0x1000 = 0x1028 := by decide +kernel

/-- R197's example: position 8 and length 4 of 0xF00, unsigned and signed; position 28 with length 40 is clipped to 4 bits. -/
theorem test_bfe :
    (let run (w pos len : Nat) := ((warpOf (next 96 w fun x =>
        ((x.setV 2 0 0xF00).setV 3 0 (BitVec.ofNat 32 pos)).setV 4 0 (BitVec.ofNat 32 len))).vv 1 0).toNat
     run 0x11C04080C100000000000000 8 4 = 0xF ∧ run 0x11C04080C100000100000000 8 4 = 0xFFFFFFFF ∧
     run 0x11C04080C100000000000000 28 40 = 0) := by decide +kernel

/-- The example of R206: lanes 0, 1 and 3 to 7 active; SCAN.add, SCAN.add.excl and REDUX.add; lane 2 is unchanged. -/
theorem test_scan_and_redux :
    (let run (w : Nat) := (List.range 8).map fun l => ((warpOf ((next 96 w (laneWords 2 0 [3, 1, 4, 1, 5, 9, 2, 6])).modSplit ⟨0, 0, 0⟩ fun sp => { sp with cq := sp.cq.map fun c => { c with exec := 0xFB } })).vv 1 l).toNat
     run 0x610040800000000000000000 = [3, 4, 0, 5, 10, 19, 21, 27] ∧
     run 0x610040800000000000000001 = [0, 3, 0, 4, 5, 10, 19, 21] ∧
     run 0x60C040800000000000000000 = [27, 27, 0, 27, 27, 27, 27, 27]) := by decide +kernel

/-- The KB4 block of R41, through CVTQ: its codes in lanes 0 to 15 and the side word 0x627F (R203). -/
theorem test_cvtq_block :
    (let w := warpOf (next 96 0x504040800140000000000016 (laneWords 2 0 [0x3E99999A, 0xBF8CCCCD, 0x40000000, 0, 0x40B00000,
        0xBF333333, 0x42240000, 0x3FB33333, 0x3D4CCCCD, 0xC04CCCCD, 0x3F666666, 0x40266666, 0xBE800000, 0x3F800000,
        0x3F19999A, 0x408CCCCD]))
     (List.range 16).map (fun l => (w.vv 1 l).toNat % 16) = [1, 0xA, 4, 0, 7, 9, 8, 3, 0, 0xD, 2, 5, 9, 2, 1, 6] ∧
     w.vv 5 0 = 0x627F) := by decide +kernel

/-- f32 corners: 1 + 2^−24 is a tie and rounds to even; ∞ − ∞ is the default NaN; half the least subnormal rounds to zero (R35, R37, R42). -/
theorem test_float_corners :
    lane1 0x30004080C000000000000000 0x3F800000 0x33800000 = 0x3F800000 ∧
    lane1 0x30404080C000000000000000 0x7F800000 0x7F800000 = 0x7FC00000 ∧
    lane1 0x30804080C000000000000000 0x00000001 0x3F000000 = 0 := by decide +kernel

/-- A clear residue of IADD's example: 0xFFFFFFFF + 2 is 1 with residue 1 (R68). -/
theorem test_residue_example :
    (warpOf (next 96 0x00004080C000000000000000 fun x => (x.setV 2 0 0xFFFFFFFF).setV 3 0 2)).v_ 1 0 = ⟨1, 1⟩ := by
  decide +kernel

/-- The same example with bit 4 of the result flipped: REGISTER_CHECK of class 3, and v1 keeps its value (R69, R70). -/
theorem test_predicted_residue :
    (let s := next 96 0x00004080C000000000000000 fun x =>
       { ((x.setV 2 0 0xFFFFFFFF).setV 3 0 2).setV 1 0 7 with flip := some (0, 4) }
     (warpOf s).vv 1 0 = 7 ∧ (splitOf s).pend.map (fun t => (t.cause, t.addr.toNat / 2 ^ 16)) = [(.registerCheck, 3)]) := by
  decide +kernel

/-- BARTRY of an object in PHASE 1 with 3 arrivals and PCOUNT 9 (R130, R255). -/
theorem test_bartry :
    (((warpOf ((next 96 0xC0C140000000000000000000 id).modCore 0 fun k =>
      k.setBar 0 ⟨2 ^ 61 + 3 * 2 ^ 40, 0, 9 * 2 ^ 32, 0⟩)).vv 5 0).toNat) = 9 * 2 ^ 16 + 3 * 4 + 1 := by decide +kernel

/-- The walk example of R98: three reads reach the 8 MiB leaf, and the address is 0x2_0080_8ABC. -/
theorem test_walk_example :
    (let m := Memory.writeN (Memory.writeN (Memory.writeN (Memory.writeN [] 0x100008 (leBytes 8 0x104001)) 0x104010
        (leBytes 8 0x106001)) 0x106018 (leBytes 8 0x20080000F)) 0x200240 (leBytes 8 (2 ^ 63 + 0x100000))
     let s : State := { State.reset with mem := m }
     let s := { s with boot := { s.boot with stage := 2 } }.modRegs fun r => { r with astabBase := 0x200000 }
     (match (s.translate 0 9 false 0x80401808ABC .read).2 with | .ok x => x.pa | .error _ => 0) = 0x200808ABC) := by
  decide +kernel

/-- LDG and STG of the first fragment: a word through the page, little-endian; bytes 4 to 7 of the line dirty; a misaligned address (R74, R79, R175). -/
theorem test_ldg_stg :
    (warpOf ({ (next 32 0x24408000 fun w => w.setG 2 0x1100) with
      mem := Memory.writeN (next 32 0x24408000 id).mem 0x21100 [0x78, 0x56, 0x34, 0x12] })).gv 4 = 0x12345678 ∧
    ((after (next 32 0x28508004 fun w => (w.setG 2 0x1100).setG 5 0x12345678)).core 0).l1.map (fun l => (l.line, l.dirty)) =
      [(0x21100 / 64, 0xF0)] ∧
    (warpOf (next 32 0x24408000 fun w => w.setG 2 0x1102)).trapCause = 0x04 := by decide +kernel

/-- VOTE.count of bit 0 of v6 and MOVG of lane 3, with EXEC all ones (R176, R177). -/
theorem test_vote_movg :
    (warpOf (next 32 0x2C500306 (laneWords 6 0 [1, 2, 3, 5]))).gv 5 = 3 ∧
    (warpOf (next 32 0x3060C005 (laneWords 5 0 [1, 2, 3, 5]))).gv 6 = 5 := by decide +kernel

/-- CALLV of R187's example opens group 1, lanes 0 to 9 and 28 to 31, at A, with LK past the CALLV. -/
theorem test_callv :
    (let s := splitOf (next 32 0x6C000008 (laneWords 8 0 ((List.range 32).map fun l =>
      if l < 10 then 0x1000 else if l < 20 then 0x2000 else if l < 28 then 0 else 0x1000)))
     (s.exec, s.spc, s.lk) = (0xF00003FF#32, 0x1000#54, 0x1004#54)) := by decide +kernel

/-- The straggler update of R135's example: slot 5 of the four members, LATE and PERSIST after, MEDIAN and PHASES. -/
theorem test_straggler :
    (let z (n : Nat) : List Byte := List.replicate n 0
     let entry (a b slot arrive : Nat) : List Byte := List.replicate a 3 ++ z (5 - a) ++ leBytes 1 slot ++ List.replicate b 3 ++
       z (10 - b) ++ leBytes 8 arrive ++ leBytes 1 (a + b) ++ leBytes 1 2 ++ z 6
     let m := Memory.writeN [] 0x8000 (leBytes 8 (2 * 2 ^ 56 + 12 * 2 ^ 51 + 4) ++ leBytes 8 37 ++ z 48 ++ entry 0 0 0 1000 ++
       entry 0 1 0 1040 ++ entry 0 0 0 1100 ++ entry 1 10 1 1480)
     let s := (srecUpdate (fun s a => (s, .ok a)) { State.reset with mem := m, boot := { Boot.reset with stage := 2 } } 0x8000 false).1
     ([0, 1, 2, 3].map fun i => (Memory.readNat s.mem (0x8040 + 32 * i + 5) 1, Memory.readNat s.mem (0x8040 + 32 * i + 24) 1,
         Memory.readNat s.mem (0x8040 + 32 * i + 25) 1 % 2)) = [(0, 0, 0), (0, 1, 0), (0, 0, 0), (6, 12, 1)] ∧
     Memory.readNat s.mem 0x8010 8 = 1040 ∧ Memory.readNat s.mem 0x8008 4 = 38) := by decide +kernel


/-! ### Witnesses of the statements' hypotheses

Each `witness_…` is about states written here, and says that they meet the hypotheses of the clauses of the statement it is
named after: `meets` of what the hypotheses look up, and each hypothesis beside it. -/

/-- What is looked up exists and has the property. -/
def meets {α : Type} (o : Option α) (p : α → Bool) : Bool :=
  match o with
  | some a => p a
  | none => false

theorem meets_some {α : Type} {o : Option α} {p : α → Bool} (h : meets o p = true) : ∃ a, o = some a ∧ p a = true := by
  cases o with
  | none => cases h
  | some a => exact ⟨a, rfl, h⟩

/-- The conditions of `ScalarReady` beside the split itself. -/
def sReady (s : State) (x : Ctx) (i : Instr) : Bool :=
  !((scalarNames i).vs.any (x.warp.budget ≤ ·)) && scalarHold x i == .run && scalarCheck s x i == none &&
  (!predicts i || (x.warp.flip == none && badG x.warp (scalarNames i).rd == none))

theorem sReady_ready {s : State} {x : Ctx} {i : Instr} (hc : s.ctx = some x) (h : sReady s x i = true) : ScalarReady s x i := by
  simp only [sReady, Bool.and_eq_true, Bool.not_eq_true', beq_iff_eq] at h
  obtain ⟨⟨⟨h1, h2⟩, h3⟩, h4⟩ := h
  exact ⟨hc, h1, h2, h3, fun hp => by simpa [hp] using h4⟩

/-- The conditions of `LaneReady` beside the split itself. -/
def lReady (s : State) (y : LCtx) (i : Instr) : Bool :=
  s.hasFeature (gateOf i) && !((budgetRegs i).any (y.x.warp.budget ≤ ·)) && !((vSrcs i ++ vDests i).any y.x.warp.vBusy) &&
  !((gDest i).any y.x.warp.gBusy) && !y.x.warp.clauseHeld y.x.who.entry && !(y.x.warp.ops.any fun o => holdsLater o.instr) &&
  !(isLong i && flagsFull y.x.warp (hdrFlags y.clause.header)) && laneCheck s y i == none && y.act != 0 &&
  (!predicts i || (y.x.warp.flip == none && badWord y.x.warp (predRead y i ++ wordsRead y i) == none &&
    (capturedRegs i).all fun g => cellGood (capturedCell y.clause.gs (BitVec.ofNat 6 g))))

theorem lReady_ready {s : State} {y : LCtx} {i : Instr} (hc : s.lctx (instrPred i) = some y) (h : lReady s y i = true) :
    LaneReady s y i := by
  simp only [lReady, Bool.and_eq_true, Bool.not_eq_true', beq_iff_eq, bne_iff_ne] at h
  obtain ⟨⟨⟨⟨⟨⟨⟨⟨⟨h1, h2⟩, h3⟩, hg⟩, h4⟩, h5⟩, h6⟩, h7⟩, h8⟩, h9⟩ := h
  exact ⟨hc, h1, h2, h3, hg, h4, h5, h6, h7, fun hp => by simpa [hp, and_assoc] using h9, h8⟩

/-- In a state the executing split's instruction is ready and has the property. -/
def sOk (s : State) (i : Instr) (p : Ctx → Bool) : Bool := meets s.ctx fun x => sReady s x i && p x

/-- In a state the executing split's lane instruction is ready and has the property. -/
def lOk (s : State) (i : Instr) (p : LCtx → Bool) : Bool := meets (s.lctx (instrPred i)) fun y => lReady s y i && p y

/-- A property that asks nothing. -/
def yes {α : Type} (_ : α) : Bool := true

/-- A warp with words in g registers. -/
def gs : List (GReg × Nat) → Warp → Warp
  | [], w => w
  | p :: ps, w => gs ps (w.setG p.1 (BitVec.ofNat 32 p.2))

/-- A machine whose scalar instruction is next, its warp as `f` makes it and its split as `g` does. -/
def sNext (f : Warp → Warp) (g : Split → Split) : State := (next 32 0xAC000000 f).modSplit ⟨0, 0, 0⟩ g

/-- An open CALLV sequence whose group is all lanes. -/
def openSeq (kind : CallKind) (left : List (Nat × VAddr)) : CallSeq :=
  { id := 1, kind := kind, group := 0xFFFFFFFF, save := 0xFFFFFFFF, back := 0x2000, jpc := 0, left := left, off := 0 }

theorem witness_ScalarArithmeticResults :
    meets (next 32 0 id).ctx (fun x =>
      ((Spec.registerForms x.warp 4 8 60 9).all fun p => sReady (next 32 0 id) x p.1) &&
      ((Spec.registerForms x.warp 0 0 63 0).all fun p => sReady (next 32 0 id) x p.1) &&
      ((Spec.immediateForms x.warp 63 0 0x3FFF 31 0xFFFFF).all fun p => sReady (next 32 0 id) x p.1)) = true ∧
    (1#32 ≠ 0 ∧ 0xFFFFFFFF#32 ≠ 0) := by decide +kernel

theorem witness_ScalarMoveResults :
    meets (next 32 0 id).ctx (fun x =>
      ((Spec.readForms (next 32 0 id) x 4 255 31 511).all fun p => sReady (next 32 0 id) x p.1)) = true ∧
    ([.wrt 31 4, .movg 0 255 31, .clock 62, .nop, .waitf 0xFFF] : List Instr).all (fun i => sOk (next 32 0 id) i yes) = true ∧
    sOk (sNext (gs [(4, 0xFFFFFFFF)]) id) (.wrx 4) (fun x => x.warp.gv 4 &&& ~~~ x.split.execLanes == 0) = true ∧
    sOk (sNext (gs [(4, 0x80000000)]) id) (.wrx 4) (fun x => x.warp.gv 4 &&& ~~~ x.split.execLanes == 0) = true ∧
    sOk (sNext (gs [(4, 0x40000001)]) fun p => { p with seq := some { openSeq .callV [(1, 0x3000)] with group := 1, off := 0x80000000 } })
      (.wrx 4) (fun x => x.warp.gv 4 &&& ~~~ x.split.execLanes == 0) = true := by
  decide +kernel

theorem witness_SystemRegisterAccesses :
    ([0x00, 0x18, 0x2F] : List (BitVec 8)).all (fun n => sOk (next 32 0 id) (.rdsr 4 n) fun x =>
      (Spec.systemRegisters (next 32 0 id) x).any (·.1 == n.toNat)) = true ∧
    ([0x09, 0x17, 0x30, 0xFF] : List (BitVec 8)).all (fun n => sOk (next 32 0 id) (.rdsr 4 n) fun x =>
      !(Spec.systemRegisters (next 32 0 id) x).any (·.1 == n.toNat)) = true ∧
    ([(0x10, 0x3FFF), (0x11, 0xFFFFFFFC), (0x12, 0x3FFFFF), (0x13, 0xFFFFFFFF), (0x14, 0x3FFFFF), (0x15, 4), (0x16, 0x3FFFFF),
      (0x18, 0x115)] : List (BitVec 8 × Nat)).all (fun p => sOk (sNext (gs [(4, p.2)]) id) (.wrsr 4 p.1) fun x =>
        x.team.priv) = true ∧
    ([(0x09, 0), (0x17, 0), (0x00, 0), (0x08, 0), (0x20, 0), (0x2F, 0), (0x10, 2 ^ 14), (0x11, 1), (0x15, 2), (0x12, 2 ^ 22),
      (0x14, 2 ^ 22), (0x16, 2 ^ 22)] : List (BitVec 8 × Nat)).all (fun p =>
        sOk (sNext (gs [(4, p.2)]) id) (.wrsr 4 p.1) yes) = true ∧
    sOk ((sNext id id).modTeam 0 0 fun t => { t with priv := false }) (.wrsr 4 0x18) (fun x => !x.team.priv) = true := by
  decide +kernel

theorem witness_BranchesAndCalls :
    ([.br .always 0 0x1FFF, .br .lez 4 0x2000, .brl .any 5 1, .brl .notall 255 0x3FFF, .jmp 0x80000, .call 0x7FFFF] : List Instr).all
      (fun i => sOk (next 32 0 id) i fun x => x.split.seq == none) = true ∧
    sOk (sNext (gs [(4, 0xFFFFFFFC), (5, 0x3FFFFF)]) id) (.jmpr 4) (fun x => (x.warp.gPair 4).toNat % 4 == 0) = true ∧
    sOk (sNext (gs [(4, 1)]) id) (.jmpr 4) (fun x => (x.warp.gPair 4).toNat % 4 != 0) = true ∧
    ([0, 4, 0xFFFFFFFC] : List Nat).all (fun n => sOk (sNext (gs [(4, n)]) id) (.callr 4) fun x =>
      x.split.seq == none && (x.warp.gPair 4).toNat % 4 == 0) = true ∧
    sOk (sNext (gs [(4, 2)]) id) (.callr 4) (fun x => x.split.seq == none && (x.warp.gPair 4).toNat % 4 != 0) = true ∧
    sOk (sNext id fun p => { p with lk := 4 }) .ret (fun x => x.split.seq == none && x.split.lk != 0) = true ∧
    sOk (sNext id id) .ret (fun x => x.split.seq == none && x.split.lk == 0) = true ∧
    sOk (sNext id fun p => { p with jsave := 4 }) (.joinat 5) (fun x => x.split.jsave != 0) = true ∧
    ([0, 0x1004] : List VAddr).all (fun a => sOk (sNext id fun p => { p with jpc := a }) .join fun x =>
      x.split.seq == none && (x.split.jpc == 0 || x.split.jpc != x.split.spc)) = true ∧
    ([.call 1, .callr 4, .callv 2, .jmpv 4] : List Instr).all (fun i =>
      sOk (sNext id fun p => { p with seq := some (openSeq .callV []) }) i fun x => x.split.seq != none) = true ∧
    sOk (sNext (gs [(4, 0)]) id) (.wrx 4) (fun x => x.warp.gv 4 == 0) = true ∧
    sOk (sNext (gs [(4, 0x10)]) fun p => { p with lanes := 0xF, exec := 0xF }) (.wrx 4) (fun x =>
      x.warp.gv 4 &&& ~~~ x.split.execLanes != 0) = true ∧
    sOk (sNext (gs [(4, 0x80000001)]) fun p => { p with seq := some { openSeq .callV [(1, 0x3000)] with group := 1, off := 0x80000000 } })
      (.wrx 4) (fun x => x.warp.gv 4 &&& ~~~ x.split.execLanes != 0) = true := by decide +kernel

theorem witness_LoopCountsDown :
    ([0, 1, 0xFFFFFFFF] : List Nat).all (fun n => sOk (sNext (gs [(7, n)]) id) (.loop 7 0x2000) yes) = true ∧
    (let s := next 32 0x74003FFF id
     meets s.ctx fun x => x.split.pend == [] && x.split.wait == .run &&
      match s.fetchScalar x.who.core x.team x.split.spc with
      | (u, .ok w) => w == BitVec.ofNat 32 (0x1D * 2 ^ 26 + 0x3FFF) && u.hasFeature 0
      | _ => false) = true := by decide +kernel

theorem witness_YieldSkipsACycle :
    sOk (next 32 0x84000000 id) .yield (fun x => x.split.pend == []) = true := by decide +kernel

theorem witness_SplitDividesLanes :
    ([List.replicate 32 1, [], [1], List.replicate 31 0 ++ [1]] : List (List Nat)).all (fun vs =>
      sOk (sNext (laneWords 6 0 vs) id) (.split 6 0x2000) fun x =>
        amFind x.warp.splits 1 == none && amFind x.warp.splits 0 != none) = true ∧
    ([(List.replicate 32 1, 0xFFFFFFFF#32), ([], 0#32), ([1], 1#32)] : List (List Nat × Lanes)).all (fun p =>
      sOk (sNext (laneWords 6 0 p.1) id) (.split 6 1) fun x => (List.range 32).all fun l =>
        p.2.getLsbD l == (x.split.exec.getLsbD l && (x.warp.vv 6 l).getLsbD 0)) = true := by decide +kernel

/-- A warp whose entries 0 and 1 are a family with its join point at 0x1000, both arrived. -/
def twoArrived (w : Warp) : Warp :=
  let sp : Split := { newSplit 0x1000 with lanes := 0xFFFF, exec := 0xFFFF, jpc := 0x1000, fam := 1, jw := true, wait := .join }
  { w with splits := [(0, sp), (1, { sp with lanes := 0xFFFF0000, exec := 0xFFFF0000 })] }

theorem witness_FamiliesOfSplits :
    sOk (sNext id id) (.joinat 0x1FFF) (fun x => x.split.jsave == 0) = true ∧
    sOk (sNext id fun p => { p with jpc := 0x1000 }) .join (fun x =>
      x.split.seq == none && x.split.jpc == x.split.spc && x.split.jpc != 0) = true ∧
    meets ((sNext twoArrived id).warp 0 0) (fun w => (w.family 1).all (·.2.arrived 1) &&
      match (w.family 1).filter fun p => p.2.live && p.2.jw with
      | (e, sp) :: _ => e == 0 && sp.seq == none && w.groupSplits 1 == []
      | [] => false) = true ∧
    sOk (sNext id id) .exit (fun x => x.split.seq == none && x.split.cq == [] && x.split.pend == []) = true ∧
    sOk (sNext id fun p => { p with cq := [plainClause 0] }) .exit (fun x => x.split.seq == none && x.split.cq != []) = true := by
  decide +kernel

theorem witness_CallSequences :
    ([(.callv 8, [0, 0x1000]), (.callv 8, []), (.jmpv 8, [4, 0xFFFFFFFC])] : List (Instr × List Nat)).all (fun p =>
      sOk (sNext (laneWords 8 0 p.2) id) p.1 fun x => x.split.seq == none && (List.range 32).all fun l =>
        (pairVal (x.warp.vv 8 l) (x.warp.vv 9 l)).toNat % 4 == 0) = true ∧
    ([[], [(1, 0x3000)], [(31, 0x3000), (2, 0x4000)]] : List (List (Nat × VAddr))).all (fun ls =>
      sOk (sNext id fun p => { p with seq := some (openSeq .callV ls) }) .ret fun x =>
        let sp0 : Split := { x.split with atEnd := true, wait := .join }
        (x.warp.modSplit x.who.entry fun _ => sp0).groupSplits 1 == [(x.who.entry, sp0)]) = true := by decide +kernel

/-- The second fragment's clause as text of the team at VA 0x1100 (chapter "Encoding"). -/
def withText (s : State) : State :=
  { s with mem := Memory.writeN s.mem 0x21100 (leBytes 12 0xF00000000000000000800000 ++
      leBytes 12 0x614040000000000000000000 ++ leBytes 12 0x000080400004001000000000) }.modTeam 0 0
    fun t => { t with laneBase := 0x1100, laneLen := 3 }

theorem witness_ClausesIssueAndStart :
    (let s := withText (sNext id id)
     sOk s (.issue 2 0) fun x => match issueRead s x 2 0 with
      | (_, .ok (_, ws)) => captureSet ws == [4] && (captureSet ws).all fun g =>
          !x.warp.gPending (BitVec.ofNat 6 g) && cellGood (x.warp.g_ (BitVec.ofNat 6 g))
      | _ => false) = true ∧
    ([(plainClause 0, true), ({ plainClause 0 with header := 0x800 }, true), ({ plainClause 0 with header := 1 }, false)] :
        List (Clause × Bool)).all (fun p =>
      meets ((sNext (fun w => { w with f := [(0, 63)] }) fun q => { q with cq := [p.1] }).ctxOf ⟨0, 0, 0⟩) fun x =>
        teamRuns x.team && ((List.range 12).all fun n => !p.1.header.getLsbD n || x.warp.flag n == 0) == p.2) = true ∧
    (let s := next 32 0xAC000000 (fun w => w.modSplit 0 fun p => { p with scalarAge := 256 })
     candidates s 0 0 false == [(⟨0, 0, 0⟩, .matrix, 256)]) = true := by decide +kernel

/-- A machine whose address space 0 exists, with no page in it. -/
def withSpace (s : State) : State := { s with mem := Memory.writeN s.mem 0x10000 (leBytes 8 (2 ^ 63 + 0x30000)) }

theorem witness_ScalarMemoryAndWaits :
    ([.ldg 4 2 0x7FC, .stg 4 2 0x7FC] : List Instr).all (fun i =>
      let s := sNext (gs [(2, 0x1800)]) id
      sOk s i fun x => match s.translate x.who.core x.team.asid x.team.priv 0x1FFC .read with
        | (u, .ok p) => (match u.loadAt 0 p 4 with | (_, .ok _) => true | _ => false) &&
            (match u.storeAt 0 0 0 true 0x1FFC p 4 0 (allBytes 4) with | (_, .ok _) => true | _ => false)
        | _ => false) = true ∧
    ([.ldg 4 2 3, .stg 4 2 0x3FFF] : List Instr).all (fun i => sOk (sNext (gs [(2, 0x1800)]) id) i yes) = true ∧
    ([(.ldg 4 2 0, .read), (.stg 4 2 0, .write)] : List (Instr × Access)).all (fun p =>
      (let s := withSpace (sNext (gs [(2, 0x2000)]) id)
       sOk s p.1 fun x => match s.translate x.who.core x.team.asid x.team.priv 0x2000 p.2 with
        | (_, .error c) => c == .notPresent
        | _ => false) &&
      (let s := ((sNext (gs [(2, 0x1FFC)]) id).modCore 0 fun k => { k with utlb := [{ plainEntry with p := true }] }).modTeam 0 0
         fun t => { t with priv := false }
       sOk s p.1 fun x => match s.translate x.who.core x.team.asid x.team.priv 0x1FFC p.2 with
        | (_, .error c) => c != .notPresent && c != .migration
        | _ => false)) = true ∧
    ([(24575, 0, true, true), (24576, 0, true, false), (0, 2 ^ 61, false, true), (0, 2 ^ 59, true, true),
      (0, 3 * 2 ^ 62, true, true)] : List (BitVec 15 × Nat × Bool × Bool)).all (fun p =>
      sOk ((sNext id id).modCore 0 fun k => k.setBar (p.1.toNat * 32) ⟨p.2.1, 0, 0, 0⟩) (.barwait p.1 p.2.2.1) fun x =>
        decide (p.1.toNat * 32 + 32 ≤ x.team.lmSize) == p.2.2.2 && x.core.lmBad == []) = true ∧
    ([0, 5] : List Nat).all (fun n =>
      let s := sNext (gs [(2, 0x1FFC), (4, n)]) id
      sOk s (.qwait 2 4 26) fun x => match s.translate x.who.core x.team.asid x.team.priv 0x1FFC .read with
        | (u, .ok p) => !hubRange p.pa && (u.core 0).line (p.pa / 64) == none && u.memBad == []
        | _ => false) = true ∧
    meets ((sNext id fun p => { p with wait := .qwait 0x21100 0x1100 5 (some 0) }).ctxOf ⟨0, 0, 0⟩) (fun x =>
      !hubRange 0x21100 && x.split.wait == .qwait 0x21100 0x1100 5 (some 0)) = true := by decide +kernel

theorem witness_TrapEntry :
    ([none, some 0, some 3] : List (Option Nat)).all (fun l =>
      meets ((sNext (fun w => { w with latch := l }) id).ctxOf ⟨0, 0, 0⟩) fun x =>
        x.who == ⟨0, 0, 0⟩ && x.warp.latch == l && x.team.run == .running) = true ∧
    meets (((sNext id id).modTeam 0 0 fun t => { t with run := .stopping 1 }).ctxOf ⟨0, 0, 0⟩) (fun x =>
      x.team.run != .running) = true ∧
    sOk (next 32 0x900FFFFF id) (.trap 0xFFFFF) (fun x => x.warp.latch == none && x.team.run == .running) = true ∧
    ([0x1001, 0x2000] : List Nat).all (fun d =>
      sOk ((next 32 0xA4000077 id).modRegs fun r => { r with dbgCtl := BitVec.ofNat 64 d }) (.bkpt 0x77) fun x =>
        (d % 4096 != x.team.asid.toNat || !d.testBit 12) && x.team.run == .running) = true ∧
    ([(0, .run), (0x2000, .run), (0, .tlbinv 1), (0, .fabric 4 none)] : List (VAddr × Wait)).all (fun p =>
      meets (((sNext id fun sp => { sp with wait := p.2, pend := [laneTrap .misaligned 31 0x40 0x1235] }).modTeam 0 0 fun t =>
        { t with trapBase := p.1 }).ctxOf ⟨0, 0, 0⟩) fun x =>
        x.split.pend == [laneTrap .misaligned 31 0x40 0x1235] && x.split.live && x.team.run == .running &&
        x.team.trapBase == p.1 && x.split.midway == (p.2 != .run)) = true := by
  decide +kernel

theorem witness_StopsAndReturnFromTrap :
    sOk (next 32 0xA8000000 id) .halt (fun x => x.team.run == .running) = true ∧
    sOk ((next 32 0xA4000000 id).modRegs fun r => { r with dbgCtl := 0x1000 }) (.bkpt 0) (fun x =>
      x.team.run == .running && x.team.asid == 0) = true ∧
    ([(0, 4), (0, 0), (0x2000, 0)] : List (Word × VAddr)).all (fun p =>
      sOk (sNext (fun w => { w with trapCause := p.1, trapPc := p.2, latch := some 0 }) id) .rtt fun x =>
        x.split.seq == none && x.split.cq == [] && x.split.pend == []) = true := by decide +kernel

/-- A machine whose lane instruction is next, its warp as `f` makes it. -/
def lNext (f : Warp → Warp) : State := next 96 0 f

/-- Fields of an arithmetic lane instruction with the given b, Q and immediate. -/
def aluOf (b : OpB) (q : BitVec 4) (imm : Word) : AluArgs := ⟨4, 8, b, 12, q, imm, .none⟩

theorem witness_LaneIntegerResults :
    ([.lane 20, .group 5, .imm] : List OpB).all (fun b => ([0, 1, 9] : List (BitVec 4)).all fun q =>
      (Spec.integerLaneForms (aluOf b q 0xFFFFFFFF) 1 2 3 4).all fun p => lOk (lNext id) p.1 yes) = true ∧
    lOk (lNext (laneWords 9 0 [1])) (.iadd ⟨255, 255, .lane 255, 0, 0, 0, .ifSet 9⟩) (fun y => y.act == 1) = true := by
  decide +kernel

theorem witness_LaneFloatAndCompareResults :
    ([.lane 20, .group 5, .imm] : List OpB).all (fun b => ([0, 1] : List (BitVec 4)).all fun q =>
      (Spec.floatLaneForms (aluOf b q 0x7F800000) 1 2 3).all fun p => lOk (lNext id) p.1 yes) = true ∧
    ([0, 7] : List (BitVec 4)).all (fun q => lOk (lNext id) (.fcmp (aluOf .imm q 0)) yes) = true ∧
    (decodeF .f32 0x7FC00000).isNan = true ∧ decodeF .f32 0x80000000 = .fin true 0 (-149) ∧
    decodeF .f32 0x3F800000 = .fin false (2 ^ 23) (-23) := by decide +kernel

theorem witness_CrossLaneResultsAndCombinations :
    ([.shfl (aluOf (.lane 20) 0 0), .bfly (aluOf .imm 0 31), .bcast (aluOf (.group 5) 0 0), .laneid (aluOf (.lane 0) 0 0),
      .redux (aluOf (.lane 0) 10 0), .scan (aluOf (.lane 0) 8 1), .had (aluOf (.lane 0) 3 0)] : List Instr).all (fun i =>
        lOk (lNext id) i fun y => y.act.getLsbD 0) = true ∧
    lOk (lNext (laneWords 8 0 [0, 0x7F800001])) (.had (aluOf (.lane 0) 0 0)) (fun y => y.act.getLsbD 0 &&
      (decodeF .f32 (y.x.warp.vv 8 1).toNat).isNan && !(decodeF .f32 (y.x.warp.vv 8 0).toNat).isNan) = true ∧
    ([[0x7FC00000], [0x3F800000, 0x80000000, 0xFF800000]] : List (List Word)).all (fun ws =>
      decide (ws ≠ []) && (ws.find? fun w => (decodeF .f32 w.toNat).isNan).isSome == decide (ws.length = 1)) = true := by decide +kernel

theorem witness_SingleRoundingIsNearestEven :
    ([(0, 0), (1, -150), (3, -150), (0x1FFFFFE, 103), (2 ^ 24 + 1, 0)] : List (Nat × Int)).all (fun p =>
      decide (roundMag .f32 p.1 p.2 ≤ Fmt.f32.maxCode)) = true := by decide +kernel

theorem witness_SpecialFunctionsAndConversions :
    (let a := aluOf (.lane 0) 0 0
     ([.rcp a, .rsq a, .sqrt a, .exp2 a, .log2 a, .sin a, .cos a, .tanh a, .sigm a] : List Instr).all fun i =>
      lOk (lNext id) i yes) = true ∧
    ([0x0808, 0x0B0F, 0x1512] : List Word).all (fun n => lOk (lNext id) (.cvt (aluOf (.lane 0) 0 n)) yes) = true ∧
    ([0x13, 0x116] : List Word).all (fun n => lOk (lNext id) (.cvtq (aluOf (.lane 0) 0 n)) yes) = true ∧
    (decodeF .f32 0x7F800001).isNan = true ∧ decodeF .f32 0x43160000 = .fin false 0x960000 (-16) ∧
    decodeF .f32 0xC3160000 = .fin true 0x960000 (-16) ∧ decodeF .f32 0x3F800000 = .fin false 0x800000 (-23) := by decide +kernel

/-- Values at which the bounds of the clauses on special values hold: 150 and −150, and 1 which is an integer and a power of two. -/
theorem witness_special_values :
    128 ≤ Spec.realOf (.fin false 0x960000 (-16)) ∧ Spec.realOf (.fin true 0x960000 (-16)) ≤ -150 ∧
    Spec.realOf (.fin false 0x800000 (-23)) = ((1 : ℤ) : ℝ) ∧ Spec.realOf (.fin false 0x800000 (-23)) = (2 : ℝ) ^ (0 : ℤ) := by
  norm_num [Spec.realOf]

theorem witness_SpecialFunctionAccuracy :
    decodeF .f32 0x3F800000 = .fin false 0x800000 (-23) ∧ (0x800000 : Nat) ≠ 0 ∧
    0 < Spec.realOf (.fin false 0x800000 (-23)) ∧ Spec.realOf (.fin false 0x800000 (-23)) < 128 := by
  refine ⟨by decide +kernel, by decide, ?_, ?_⟩ <;> norm_num [Spec.realOf]

/-- Types, values and blocks that the clauses on conversions speak of. -/
theorem witness_conversions :
    ((0x08, true, 8) ∈ Spec.intTypes ∧ (0x0F, false, 64) ∈ Spec.intTypes ∧ (0x10, Fmt.f32) ∈ Spec.floatTypes ∧
      (0x13, Fmt.e4m3) ∈ Spec.floatTypes ∧ Fmt.e4m3 ≠ Fmt.f32) ∧
    ([(0x7FC00000, true), (0x7F800000, false), (0xFF800000, false), (0x3F800000, false)] : List (Nat × Bool)).all (fun p =>
      (decodeF .f32 (p.1 % 2 ^ (Fmt.f32.low + 1))).isNan == p.2) = true ∧
    decodeF .f32 (0x7F800000 % 2 ^ (Fmt.f32.low + 1)) = .inf false ∧ decodeF .f32 (0xFF800000 % 2 ^ (Fmt.f32.low + 1)) = .inf true ∧
    ([[.nan false 0x400000], [.inf false, .fin false 1 0]] : List (List XVal)).all (fun xs => (xs.any (·.isNan)) == decide (xs.length = 1)) = true ∧
    (let xs : List XVal := [.fin false 2 0, .fin false 1 0]
     xs[0]? = some (.fin false 2 0) ∧ (∀ x ∈ xs, x.isNan = false ∧ x.isInf = false) ∧
      (∀ x ∈ xs, |Spec.realOf x| ≤ |Spec.realOf (.fin false 2 0)|) ∧ |Spec.realOf (.fin false 1 0)| ≠ 0 ∧ xs.eraseIdx 0 = [.fin false 1 0]) := by
  refine ⟨by decide, by decide +kernel, by decide +kernel, by decide +kernel, by decide +kernel, by decide, by decide, ?_, ?_, by decide⟩ <;>
    norm_num [Spec.realOf]

/-- The head clause's next instruction with PMODE 11, and one with PRED in mode 01. -/
theorem witness_PredicatesSelectLanes :
    (match decodeLane 0x000080400004001000000000#96 with | .ok _ => true | .error _ => false) = true ∧
    bits 0x0000804000040FD000000000#96 38 2 = 3 ∧ bits 0x000080400004001000000000#96 38 2 = 0 ∧
    ([.none, .ifSet 9, .ifNot 255] : List Pred).all (fun p => meets ((lNext (laneWords 9 0 [1, 2, 3])).lctx p) fun y =>
      y.clause.owed == none) = true ∧
    (let i : Instr := .iadd ⟨1, 2, .lane 3, 0, 0, 0, .ifSet 8⟩
     let s := lNext fun w => { w with budget := 8 }
     meets (s.lctx (instrPred i)) fun y => s.hasFeature (gateOf i) && decide (y.x.warp.budget ≤ 8) &&
      (encodeLane i).isSome) = true := by decide +kernel

/-- Fields of a global access at [g4 + v3], of the given type. -/
def memOf (w : AccType) : MemArgs := ⟨8, 3, 12, 16, 4, .none, w, 0, .none⟩

/-- A machine with a page for the access at the head of the clause queue: the pair g4:g5 captured as `va`, the page counted or not. -/
def memNext (va : Nat) (f : TlbEntry → TlbEntry) (v : Warp → Warp) : State :=
  ((lNext v).modCore 0 fun k => { k with utlb := [f plainEntry] }).modSplit ⟨0, 0, 0⟩ fun sp =>
    { sp with cq := sp.cq.map fun c => { c with gs := [(4, cellOf (BitVec.ofNat 32 va))] } }

/-- The accesses a dispatching instruction checks, in the state it checks them in. -/
def checked (s : State) (i : Instr) (p : MemSpec → State → List Acc → Bool) : Bool :=
  lOk s i fun y => match memSpec i with
    | some (x, sp) => (fun r => p sp r.1 r.2) (s.checkAccs y.x.who.core y.x.team sp (y.lanes.map (laneAcc y i x sp)))
    | none => false

theorem witness_GlobalAccessDispatch :
    (([.ld (memOf .b64), .gather (memOf .b8), .st (memOf .b128), .scatter (memOf .b16), .atomAdd (memOf .f32),
      .atomMin (memOf .s64), .atomMax (memOf .n32), .atomAnd (memOf .b64), .atomOr (memOf .b32), .atomXor (memOf .b32),
      .atomExch (memOf .b32), .atomCas (memOf .b64), .redAdd (memOf .f32), .redMin (memOf .s32), .redMax (memOf .n64),
      .redAnd (memOf .b32), .redOr (memOf .b64), .redXor (memOf .b32)] : List Instr).all fun i =>
        checked (memNext 0x1F00 id (laneWords 3 0 (List.replicate 32 0x40))) i fun sp _ as => as.all fun a =>
          a.soft == none && (!sp.whole || a.hard == none) && (a.st != .todo || a.path != .fabric) && as.any (·.st == .todo)) = true ∧
    (let i := Instr.gatherP { memOf .b32 with vd := 8, vc := 9 }
     let s := memNext 0x1FFC id (laneWords 3 0 [0, 0, 0x2000])
     lOk s i fun y => match memSpec i with
      | some (x, sp) => (s.peekAccs y.x.who.core y.x.team sp (y.lanes.map (laneAcc y i x sp))).2.all fun a =>
          a.soft != some .migration && (a.st != .todo || a.path != .fabric)
      | none => false) = true ∧
    ([0x1FFC, 0x2000] : List Nat).all (fun va => lOk (memNext va id id) (.pref (memOf .b8)) fun y =>
      (y.x.core.l1.length + 32 ≤ 4096)) = true := by decide +kernel

theorem witness_LaneAccessFaults :
    ([(.ld (memOf .b32), 0x1FFE), (.st (memOf .b128), 0x1FF8)] : List (Instr × Nat)).all (fun p =>
      checked (memNext p.2 id id) p.1 fun _ _ as => (as.find? (·.hard.isSome)).isSome) = true ∧
    ([.ld (memOf .b32), .st (memOf .b32), .gather (memOf .b8), .atomAdd (memOf .f32)] : List Instr).all (fun i =>
      checked (withSpace (memNext 0x2000 id id)) i fun _ _ as => as.all fun a => a.hard == none && a.soft != none) = true := by decide +kernel

theorem witness_LocalAndClusterMemory :
    ([(.ldl { memOf .b32 with imm := 786428 }), (.stl { memOf .b128 with imm := 786416 }), .ldl (memOf .b8)] : List Instr).all (fun i =>
      lOk (lNext id) i fun y => match memSpec i, i with
        | _, .ldl x | _, .stl x => y.lanes.all (fun l => lmFault y.x.team (localAddr y.x.warp x.va x.imm l) x.w.bytes == none) &&
            y.x.core.lmBad == []
        | _, _ => false) = true ∧
    ([(2, 786430), (31, 786432)] : List (Nat × Nat)).all (fun p =>
      lOk (lNext fun w => w.setV 3 p.1 (BitVec.ofNat 32 p.2)) (.ldl (memOf .b32)) fun y =>
        (lmFault y.x.team (localAddr y.x.warp 3 0 p.1) 4).isSome && (List.range p.1).all fun j =>
          lmFault y.x.team (localAddr y.x.warp 3 0 j) 4 == none) = true ∧
    ([.ldc (memOf .b32), .stc (memOf .b64)] : List Instr).all (fun i => lOk (lNext fun w => (w.setV 3 1 786424).setV 3 2 786432) i fun y =>
      ((lNext id).core (clusterCore 0 786424)).gangTeam y.x.team.gang != none) = true ∧
    ([.tagl (memOf .b8), .tagset (memOf .b8), .taginv (memOf .b8)] : List Instr).all (fun i =>
      lOk (lNext id) i (fun y => y.x.team.banks == []) && lOk ((lNext id).modTeam 0 0 fun t => { t with banks := [0] }) i fun y =>
        y.x.team.banks != [] && (y.x.core.tagSet y.x.team.banks (y.lanes.map fun l => (l, 0, 0)) []).2 == none) = true ∧
    (∀ i : Nat, (amGet TagEntry.reset ([] : SMap TagEntry) i).v = true → False) := by
  refine ⟨by decide +kernel, by decide +kernel, by decide +kernel, by decide +kernel, fun i h => ?_⟩
  cases h


/-- An operation of warp 0's split, number 1, of lane 0. -/
def plainOp (i : Instr) : Op :=
  { id := 1, serial := 0, entry := 0, clauseSerial := 5, unit := 1, instr := i, flags := 1, act := 1, accs := [], rel := .none,
    aux := .none, counted := true, clause := some (plainClause 0) }

/-- A machine whose warp 0 has one operation in flight, number 1, of lane 0 and with the given accesses. -/
def withOp (i : Instr) (accs : List Acc) (aux : OpAux) : State :=
  let o : Op := { plainOp i with accs := accs, aux := aux }
  (lNext id).modWarp 0 0 fun w => { w with ops := [o], f := [(0, 1)], nextId := 2 }

/-- An access of lane 0 at VA `va`, PA 0x20000 + `va`. -/
def accAt (va : Nat) (path : Path) (cnt : Bool) (data : Nat) (st : AccSt) : Acc :=
  { lane := 0, va := va, pa := 0x20000 + va, cnt := cnt, path := path, data := data, cmp := 7, en := 0xFFFF, ret := 0, st := st }

/-- The operation in flight and its lane 0 meet the hypotheses of `Spec.LaneTurn`. -/
def turn (s : State) (p : Op → Warp → Team → MemArgs → MemSpec → Acc → Bool) : Bool :=
  meets (s.findOp 0 0 1) fun r => match memSpec r.1.instr, r.1.accs.find? (·.lane == 0) with
    | some (x, sp), some a => r.1.id == 1 && (r.1.accs.all fun b => !b.st.held && (b.st != .todo || b.path != .fabric)) &&
        r.1.released && mayPerform (s.core 0) r.2.1 r.1 a sp.order && p r.1 r.2.1 r.2.2 x sp a
    | _, _ => false

theorem witness_AccessesFollowTheirPath :
    (let s := lNext id
     !hubRange 0x21FF0 && (s.core 0).line (0x21FF0 / 64) == none && s.memBad == [] && 0x21FF0 % 16 == 0) = true ∧
    (let s := (lNext id).modCore 0 fun k => { k with l1 := [⟨0x21FF0 / 64, 0, 0, 0, 0, 0x1FF0, 0⟩] }
     meets ((s.core 0).line (0x21FF0 / 64)) fun l => l.bad == 0 && s.memBad == []) = true := by decide +kernel

theorem witness_LaneAccessesAndAtomics :
    ([.ld (memOf .b32), .gather (memOf .b16), .gatherP { memOf .b32 with vc := 20 }] : List Instr).all (fun i =>
      turn (withOp i [accAt 0x1FF0 .l1 false 0 .todo] .none) fun _ _ _ _ sp a =>
        a.st == .todo && match (withOp i [] .none).loadAt 0 a.xlat sp.n a.drop with | (_, .ok _) => true | _ => false) = true ∧
    ([.st (memOf .b128), .scatter (memOf .b8)] : List Instr).all (fun i =>
      turn (withOp i [accAt 0x1FF0 .home false 0xAB .todo] .none) fun o v m _ sp a => o.id == 1 && a.st == .todo &&
        match (withOp i [] .none).storeAt 0 v.team m.asid m.priv a.va a.xlat sp.n a.data a.en a.drop with | (_, .ok _) => true | _ => false) = true ∧
    ((Spec.atomicResults (memOf .b64)).all fun p =>
      turn (withOp p.1 [accAt 0x1FF8 .home false 3 .todo] .none) fun _ _ _ _ _ a =>
        a.st == .todo && !a.cnt && !hubRange a.pa && ((withOp p.1 [] .none).core 0).line (a.pa / 64) == none &&
        (withOp p.1 [] .none).memBad == []) = true := by decide +kernel

/-- A machine with an operation in flight and an address space that counts page 0: primary elements at VA 0x1F00, an f32 twin or an
fx64 one at VA 0x2000, count words of value `n` at VA 0x3000 (R94, R95, R104). -/
def withAdt (i : Instr) (fx eblk : Bool) (n : Nat) (st : AccSt) : State :=
  let s := withOp i [accAt 0x1F04 .home true 0x3F800000 st] .none
  let q (l : List Nat) : List Byte := l.flatMap (leBytes 8)
  { s with
    boot := { s.boot with stage := 2 }
    mem := Memory.writeN (Memory.writeN (Memory.writeN (Memory.writeN (Memory.writeN (Memory.writeN (Memory.writeN s.mem
      0x10000 (q [2 ^ 63 + 0x30000, 0x40000, 1])) 0x30000 (q [0x50001])) 0x50000 (q [0x60001])) 0x60000 (q [0x70001]))
      0x70000 (q [0x2008F, 0x8000F])) 0x40000 (q [2 ^ 63 + 0x1F00, 64, 2 * 2 ^ 61 + 0x2000,
        (if fx then 2 ^ 63 else 0) + 0x3000, (if eblk then 2 ^ 63 else 0) + 5])) 0x81000 (leBytes 4 n) }

/-- The lane's element is a primary one and its count word, read for the access, has the property. -/
def countedIs (s : State) (acc : Access) (p : Nat → Bool) : Bool :=
  match s.classAdj (homeOf 0x21F04).1 0 0x1F04 true with
  | (u, .ok (.primary e)) => (0x1F04 - e.pbase) % 2 ^ e.esz == 0 &&
      (match u.countAt (homeOf 0x21F04).1 0 true e 0x1F04 acc with
      | (_, .ok (n, _)) => p n
      | _ => false) &&
      match u.translateStack (homeOf 0x21F04).1 0 true (e.twinVa 0x1F04) .atomic with
      | (v, .ok w) => v.memBad == [] && w.pa == 0x80000 + e.tsize
      | _ => false
  | _ => false

theorem witness_AdjointOperations :
    ([0, 2 ^ 24 + 5, 2 ^ 24 - 1] : List Nat).all (fun n => let s := withAdt (.ldf (memOf .f32)) false false n .todo
      turn s (fun _ _ _ _ _ a => a.st == .todo) && (s.core 0).line (0x21F04 / 64) == none &&
      countedIs s .atomic fun m => m == n) = true ∧
    ([.ldfRc (memOf .f32), .adjq (memOf .b32)] : List Instr).all (fun i => let s := withAdt i false false 3 .todo
      turn s (fun _ _ _ _ _ a => a.st == .todo) && countedIs s .read fun m => m == 3) = true ∧
    ([(false, 0), (false, 1), (true, 1)] : List (Bool × Nat)).all (fun p => let s := withAdt (.adja (memOf .f32)) p.1 false p.2 .todo
      turn s (fun _ _ _ _ _ a => a.st == .todo) && countedIs s .atomic fun m => m == p.2) = true ∧
    ([(.adjr (memOf .f32), false, 0, .todo), (.adjr (memOf .f32), false, 1, .todo), (.adjr (memOf .f32), true, 1, .todo),
      (.adjrWait (memOf .f32), false, 1, .todo), (.adjrWait (memOf .f32), false, 0, .waiting none)] :
        List (Instr × Bool × Nat × AccSt)).all (fun p => let s := withAdt p.1 false p.2.1 p.2.2.1 p.2.2.2
      countedIs s .read (fun m => m == p.2.2.1) && turn s fun _ _ _ _ _ a => a.st == p.2.2.2) = true ∧
    (let s := withAdt (.adjr (memOf .f32)) false false 0 (.waiting (some 0))
     turn s fun _ _ _ _ _ a => a.st == .waiting (some 0)) = true := by decide +kernel

/-- Fields of an engine lane instruction. -/
def engOf (vd va vb vc : VReg) (g : GReg) (q6 : BitVec 6) (imm : Word) : EngArgs := ⟨vd, va, vb, vc, g, q6, imm, .none⟩

theorem witness_PhasesAndWriteBack :
    ([.phaseRel (engOf 0 0 0 0 0 0 0), .phaseAcq (engOf 0 0 0 0 0 0 0)] : List Instr).all (fun i =>
      lOk (lNext id) i (fun y => y.x.warp.priorDone y.x.warp.freshOp) &&
      meets ((withOp i [] (.phase [5])).findOp 0 0 1) fun r => r.1.accs == [] && r.1.aux == .phase [5]) = true ∧
    (let s := (lNext id).modCore 0 fun k => { k with l1 := [⟨0x21FF0 / 64, 5, 1, 0, 0, 0x1FF0, 0⟩] }
     meets ((s.core 0).line (0x21FF0 / 64)) fun l => l.bad == 0 && l.dirty != 0 && s.memBad == [] &&
      !s.firnDown (0x21FF0 / 64 * 64)) = true ∧
    (let s := (withOp (.phaseRel (engOf 0 0 0 0 0 0 0)) [] (.phase [0x21FF0 / 64])).modCore 0 fun k =>
      { k with l1 := [⟨0x21FF0 / 64, 5, 1, 0, 0, 0x1FF0, 0⟩] }
     (meets (s.findOp 0 0 1) fun r => r.1.accs == [] && r.1.aux == .phase [0x21FF0 / 64]) &&
      meets ((s.core 0).line (0x21FF0 / 64)) fun l => l.bad == 0 && s.memBad == []) = true := by decide +kernel

/-- A machine whose head clause has captured `v` in g6. -/
def captures (v : Nat) (f : Warp → Warp) : State :=
  (lNext f).modSplit ⟨0, 0, 0⟩ fun sp =>
    { sp with cq := sp.cq.map fun c => { c with gs := [(6, cellOf (BitVec.ofNat 32 v)), (7, cellOf 0)] } }

/-- A matrix core with the format block of chapter 14's DUPMAP example: an e4m3 block at LM 0x400 with its map at 0x500. -/
def withBlock (s : State) : State := s.modCore 0 fun k =>
  { k with lm := byteWrite (byteWrite k.lm 0x400 ([0x1310134000001000, 0x0008000000000000, 0x20, 64 * 2 ^ 48 + 0x500 * 2 ^ 28].flatMap
      (leBytes 8))) 0x500 (leBytes 2 1 ++ leBytes 2 37) }

theorem witness_MatrixDispatch :
    ([(0, true), (1, true), (0x10000, true), (2, true), (1, false)] : List (Nat × Bool)).all (fun p =>
      lOk ((captures p.1 id).modTeam 0 0 fun t => { t with matrix := p.2 }) (.gangset (engOf 0 0 0 0 6 0 0)) fun y =>
        (captured y.clause.gs 6).toNat == p.1 && y.x.team.warps.length == 1 && y.x.team.matrix == p.2) = true ∧
    (let s := withBlock (next 96 0xA04000000000000000000400 id)
     let b (n : Nat) : State := s.modCore 0 fun k => { k with mmaBusy := n }
     lOk s (.mma (engOf 0 0 0 0 0 0 0x400)) (fun y => y.x.team.matrix && blkFault y.x.team 0x400 == none &&
      (match mmaWork s.feat (s.core 0) y.x.team 0x400 with | .ok _ => true | _ => false) && (s.core 0).mmaBusy == 0 &&
      (s.headInstr ⟨0, 0, 0⟩).isSome) &&
     (let h := s.modSplit ⟨0, 0, 0⟩ fun sp => { sp with laneWait := .array }
      meets (h.headInstr ⟨0, 0, 0⟩) fun r => r.2 == .mma (engOf 0 0 0 0 0 0 0x400) && r.1.x.team.run == .running &&
        !(h.core 0).inLatch 0 && r.1.x.split.laneWait == .array &&
        lOk { h.noteIssue ⟨0, 0, 0⟩ true with cur := ⟨0, 0, 0⟩ } (.mma (engOf 0 0 0 0 0 0 0x400)) yes) &&
     lOk (b 1) (.mma (engOf 0 0 0 0 0 0 0x400)) (fun y => y.x.core.mmaBusy == 1)) = true ∧
    ([0x80000001, 0x80000003] : List Word).all (fun g =>
      lOk (withBlock (next 96 0xA04000000000000100000400 fun w => { w with gang := g })) (.mmaJ (engOf 0 0 0 0 0 1 0x400)) fun y =>
        y.x.core.latches == [] && y.x.warp.gang.getLsbD 31 && !y.x.warp.retired &&
        !y.x.core.listedRetired y.x.warp.team (BitVec.ofNat 16 g.toNat) &&
        decide (maskCount (BitVec.ofNat 16 g.toNat) = if g = 0x80000001 then 1 else 2)) = true := by decide +kernel

theorem witness_MatrixSumsAreExact :
    (let k := (withBlock (lNext id)).core 0
     let f : FmtBlk := { parseBlk 0x1310134000001000 0x0008000000000000 0x20 0 with sfa := 0x13, out := 0, apitch := 32 }
     f.ok && (match readA k plainTeam f 0 64 with | .ok _ => true | _ => false) &&
      match readB k f 0 128 with | .ok _ => true | _ => false) = true := by decide +kernel

theorem witness_MatrixUnitResults :
    (List.replicate 8192 xZero).length = 8192 ∧
    ([0, 65535 - 8191] : List Nat).all (fun acc =>
      let s := withOp (.mma (engOf 0 0 0 0 0 0 0)) [] (.mma acc true 0 [] [] none)
      meets (s.findOp 0 0 1) fun r => r.1.accs == [] && (s.core 0).amFirst r.1 && (s.core 0).badTile acc == none) = true ∧
    ([true, false] : List Bool).all (fun ow =>
      let s := (withOp (.mma (engOf 0 0 0 0 0 0 0)) [] (.mma 0 ow 0 [] [] none)).modCore 0 fun k => { k with amBad := [0] }
      meets (s.findOp 0 0 1) fun r => r.1.accs == [] && (s.core 0).amFirst r.1 && (s.core 0).badTile 0 != none) = true ∧
    lOk (lNext (laneWords 4 0 [0x3F000])) (.bld (engOf 0 3 4 0 0 0 0x1000)) (fun y => y.x.team.matrix && y.x.core.lmBad == [] &&
      y.lanes.all fun l => (y.x.warp.vv 3 l).toNat % 16 == 0 && (y.x.warp.vv 4 l).toNat % 16 == 0 &&
        decide ((y.x.warp.vv 4 l).toNat + 0x1000 ≤ 2 ^ 18)) = true ∧
    meets ((withOp (.bld (engOf 0 3 4 0 0 0 16)) [] (.bld [(0x3FFF0, [1, 2])])).findOp 0 0 1) (fun r => r.1.accs == []) = true ∧
    ([.ldacc (engOf 8 3 0 0 0 2 0), .stacc (engOf 0 3 8 0 0 2 0)] : List Instr).all (fun i =>
      lOk (lNext (laneWords 3 0 [65532])) i fun y => y.x.team.matrix && y.x.core.amBad == []) = true ∧
    lOk (lNext (laneWords 3 0 [65408])) (.zacc (engOf 0 3 0 0 0 0 0)) (fun y => y.x.team.matrix) = true ∧
    (let s := withOp (.zacc (engOf 0 3 0 0 0 0 0)) [] (.acc [(65535, [5])])
     meets (s.findOp 0 0 1) fun r => r.1.accs == [] && (lanesOf r.1.act).length == 1 && (s.core 0).amFirst r.1 &&
      (s.core 0).amBad == []) = true ∧
    (let s := withBlock (lNext id)
     lOk s (.dupmap (engOf 0 0 0 0 0 0 0x400)) fun y => y.x.team.matrix && blkFault y.x.team 0x400 == none &&
      match (s.core 0).lmRead (y.x.team.lmBase + 0x400 + 24) 8 with
      | .ok ws => let f := parseBlk 0 0 0 (leNat ws)
        f.map % 2 == 0 && f.ktot == 64 && f.map == 0x500 &&
          (match (s.core 0).lmRead (y.x.team.lmBase + f.map) 130 with | .ok _ => true | _ => false)
      | _ => false) = true ∧
    ([0, 1] : List (BitVec 6)).all (fun q => lOk (lNext id) (.mwait (engOf 0 0 0 0 0 q 0)) fun y => y.x.warp.ops == []) = true := by
  refine ⟨List.length_replicate .., ?_⟩
  decide +kernel

theorem witness_KickAndWritePointer :
    ([0, 2 ^ 22 + 3, 255 * 2 ^ 22] : List Nat).all (fun v =>
      lOk (captures v id) (.kick (engOf 0 0 0 0 6 0 0)) fun y => (captured y.clause.gs 6).toNat == v && v / 4 % 8 == 0 &&
        decide (v < 2 ^ 30) && decide (v / 4 % 2 ^ 20 * 4 + 32 * (v / 2 ^ 22 % 256) ≤ y.x.team.lmSize) && y.x.warp.ops == [] &&
        (y.x.core.chan (v % 4)).kicks == []) = true ∧
    (let k : Kick := { team := 0, gang := 0, first := 0, count := 1 }
     let s := (captures (2 ^ 22) id).modCore 0 fun q => { q with chans := [(0, { (q.chan 0) with kicks := List.replicate 8 k })] }
     lOk s (.kick (engOf 0 0 0 0 6 0 0)) fun y => (y.x.core.chan 0).kicks.length == 8) = true ∧
    ([.stc (memOf .b32), .next (engOf 4 0 0 0 6 0 0), .barrive (engOf 0 0 0 0 6 0 0x40), .barriveBytes (engOf 0 0 0 0 6 0 0x40),
      .gbar (engOf 0 0 0 0 6 0 0x40), .fbar (engOf 0 0 0 0 6 0 0x40)] : List Instr).all (fun i =>
      lOk ((captures (2 ^ 22) id).modWarp 0 0 fun w => { w with ops := [{ (plainOp i) with flags := 0 }], nextId := 2 })
        (.kick (engOf 0 0 0 0 6 0 0)) fun y => (y.x.core.chan 0).kicks.length == 0 && y.x.warp.ops.map (·.instr) == [i]) = true ∧
    lOk (lNext id) (.wptr (engOf 4 0 0 0 0 0 3)) yes = true := by decide +kernel

theorem witness_QueuesAndLaunches :
    ([0x40, 0x41] : List Nat).all (fun d =>
      ([.qpush (engOf 8 0 0 0 6 0 0), .qfence (engOf 0 4 0 0 6 0 0)] : List Instr).all fun i =>
        lOk (captures d id) i fun y => decide (capturedPair y.clause.gs 6 = d)) = true ∧
    ([.tqpop (engOf 0 4 0 0 6 0 0), .tqsteal (engOf 0 4 0 0 6 0 0), .tqdone (engOf 0 4 0 0 0 0 0)] : List Instr).all (fun i =>
      lOk (lNext (laneWords 4 0 [0x40])) i (fun y => (y.x.warp.vv 4 y.low).toNat % 64 == 0)) = true ∧
    ([.tqpop (engOf 0 4 0 0 6 0 0), .tqsteal (engOf 0 4 0 0 6 0 0)] : List Instr).all (fun i =>
      lOk (lNext (laneWords 4 0 [0x41])) i fun y => (y.x.warp.vv 4 y.low).toNat % 64 != 0) = true ∧
    ([(List.replicate 32 0x41, 0), ([0x41, 0x40], 31)] : List (List Nat × Nat)).all (fun p =>
      lOk (lNext (laneWords 4 0 p.1)) (.tqdone (engOf 0 4 0 0 0 0 0)) fun y =>
        (y.lanes.filter fun l => (y.x.warp.vv 4 l).toNat % 64 == 0).length == p.2) = true ∧
    lOk (captures 63 (laneWords 4 0 [0x20, 0x21])) (.launch (engOf 0 4 0 0 6 0 0)) (fun y =>
      y.lanes.find? (fun j => (y.x.warp.vv 4 j).toNat % 32 != 0) == some 1) = true ∧
    lOk (captures 63 (laneWords 4 0 [0x20])) (.launch (engOf 0 4 0 0 6 0 0)) (fun y => (captured y.clause.gs 6).toNat == 63) = true ∧
    ([(.qpush (engOf 8 0 0 0 6 0 0), .eng 1 [4 * 2 ^ 58], 0x1FF8), (.qpush (engOf 8 0 0 0 6 0 0), .eng 2 [4 * 2 ^ 58, 0], 0x1FF0),
      (.tqpop (engOf 0 4 0 0 6 0 0), .eng 3 [4 * 2 ^ 58, 1, 0], 0x1F00)] : List (Instr × OpAux × Nat)).all (fun p =>
        let s := (withOp p.1 [claimAcc 0 (if p.2.1 == .eng 2 [4 * 2 ^ 58, 0] then 0x1FE0 else p.2.2 - 8) 0] p.2.1)
        meets (s.findOp 0 0 1) fun r => r.1.released && (meets r.1.accs.head? fun a => !s.claimHeld 0 r.2.1 r.2.2 r.1 a p.2.2) && r.1.accs.all (·.st == .todo) && r.1.accs.map (·.lane) == lanesOf r.1.act &&
          descOk (4 * 2 ^ 58) && match s.translate 0 0 true p.2.2 .atomic with
          | (_, .ok q) => !q.cnt && !hubRange q.pa && (s.core 0).line (q.pa / 64) == none && s.memBad == []
          | _ => false) = true ∧
    ([[leBytes 32 5], [leBytes 32 5, leBytes 32 6]] : List (List (List Byte))).all (fun rs =>
     let s := withOp (.launch (engOf 0 4 0 0 6 0 0)) [{ claimAcc 0 0x40 0 with st := .waiting none }] (.launch 63 rs true 0)
     rs.all (·.length == 32) && decide (rs.length ≤ 32) && decide (rs.length ≤ 2 ^ 6) &&
      meets (s.findOp 0 0 1) fun r => r.1.accs.all (·.st == .waiting none)) = true := by decide +kernel


/-- Eight-byte words written from an LM address of core 0. -/
def withLm (a : Nat) (ws : List Nat) (s : State) : State :=
  s.modCore 0 fun k => { k with lm := byteWrite k.lm a (ws.flatMap (leBytes 8)) }

/-- Word 0 of an object: kind, PHASE, LDONE, BRK, EXPECTED, ARRIVED, MASK. -/
def barWord (kind phase ldone brk expected arrived mask : Nat) : Nat :=
  kind * 2 ^ 62 + phase * 2 ^ 61 + ldone * 2 ^ 60 + brk * 2 ^ 59 + expected * 2 ^ 48 + arrived * 2 ^ 40 + mask

/-- An arrival in flight at the object 0x40 whose words are given. -/
def arriving (i : Instr) (ws : List Nat) (bytes : Option Nat) : State :=
  withLm 0x40 ws (withOp i [] (.arrive 0x40 bytes none))

/-- The conditions of `ArrivalsPerformed` before its clauses, and a property of the object. -/
def arrives (s : State) (p : Op → Warp → Bar → Bool) : Bool :=
  meets (s.findOp 0 0 1) fun r => r.1.accs == [] && r.2.1.priorDone 1 && !s.barWaits 0 r.2.1.team 0x40 &&
    !(s.core 0).barBad (r.2.2.lmBase + 0x40) && (s.core 0).portAdmits 0 && p r.1 r.2.1 ((s.core 0).bar (r.2.2.lmBase + 0x40))

theorem witness_BarrierInstructions :
    ([0x001, 0x110, 0x210] : List Nat).all (fun v => lOk (captures v id) (.barinit (engOf 0 0 0 0 6 0 0x40)) fun y =>
      blkFault y.x.team 0x40 == none && (captured y.clause.gs 6).toNat == v && decide (v < 2 ^ 10) && v / 2 ^ 5 % 8 == 0 &&
      decide (1 ≤ v % 32) && decide (v % 32 ≤ 16) && v / 2 ^ 8 != 3 && !((captures v id).barWaits 0 y.x.warp.team 0x40) &&
      y.x.core.lmBad == [] && (y.x.core.bar 0x40).arrived == 0 && !(y.x.core.bar 0x40).ldone) = true ∧
    ([barWord 0 0 1 1 1 1 1, barWord 0 0 0 0 2 1 1, barWord 1 0 1 0 1 0 0] : List Nat).all (fun w =>
      lOk (withLm 0x40 [w, 0, 0, 0] (captures 1 id)) (.barinit (engOf 0 0 0 0 6 0 0x40)) fun y =>
        !((withLm 0x40 [w, 0, 0, 0] (captures 1 id)).barWaits 0 y.x.warp.team 0x40) && ((y.x.core.bar 0x40).arrived != 0 || (y.x.core.bar 0x40).ldone)) = true ∧
    lOk ((captures 1 id).modCore 0 fun k => { k with lmBad := [8] }) (.barinit (engOf 0 0 0 0 6 0 0x40)) (fun y =>
      (unitsOf (y.x.team.lmBase + 0x40) 8).any y.x.core.lmBad.contains) = true ∧
    ([0x400, 0x020, 0x000, 0x011, 0x301] : List Nat).all (fun v => lOk (captures v id) (.barinit (engOf 0 0 0 0 6 0 0x40)) fun y =>
      blkFault y.x.team 0x40 == none && (captured y.clause.gs 6).toNat == v) = true ∧
    ([.barrive (engOf 0 0 0 0 6 0 0x40), .barriveBytes (engOf 0 0 0 0 6 0 0x40), .gbar (engOf 0 0 0 0 6 0 0x40),
      .fbar (engOf 0 0 0 0 6 0 0x40)] : List Instr).all (fun i => ([992, 993] : List Nat).all fun v =>
        lOk (captures v id) i fun y => blkFault y.x.team 0x40 == none && (captured y.clause.gs 6).toNat == v) = true ∧
    lOk (withLm 0x40 [0, 0, 0, 2 ^ 63 + 0x1F00] (lNext id)) (.strag (engOf 0 0 0 0 6 0 0x1F00040)) (fun y =>
      blkFault y.x.team 0x40 == none && !y.x.core.barBad 0x40 && (y.x.core.bar 0x40).sv && (y.x.core.bar 0x40).kind != 3 &&
        !(y.x.core.bar 0x40).brk) = true := by decide +kernel

theorem witness_BartryReadsTheObject :
    ([barWord 0 1 0 0 16 15 0x7FFF, barWord 2 0 1 0 1 1 1, barWord 3 0 0 0 1 0 0, barWord 0 0 0 1 1 0 0] : List Nat).all (fun w =>
      lOk (withLm 0x40 [w, 0, 2 ^ 64 - 1, 0] (lNext id)) (.bartry (engOf 4 0 0 0 0 0 0x40)) fun y =>
        blkFault y.x.team 0x40 == none && !y.x.core.barBad 0x40 && (y.x.core.bar 0x40).w0 == w) = true ∧
    ((⟨barWord 0 1 0 0 16 15 0x7FFF, 0, 2 ^ 64 - 1, 0⟩ : Bar).kind = 0 ∧ (⟨barWord 3 0 0 0 1 0 0, 0, 0, 0⟩ : Bar).kind = 3 ∧
      (⟨barWord 0 0 0 1 1 0 0, 0, 0, 0⟩ : Bar).brk = true) := by decide +kernel

theorem witness_ArrivalsAndGangBarriers :
    (let e := engOf 0 0 0 0 6 0 0x40
     ([(.barrive e, barWord 0 0 0 0 2 0 0, 0, none), (.gbar e, barWord 1 0 0 0 2 0 2, 0, none),
      (.barriveBytes e, barWord 0 0 0 0 1 0 0, 0, some (2 ^ 31))] : List (Instr × Nat × Nat × Option Nat)).all fun p =>
        arrives (arriving p.1 [p.2.1, p.2.2.1, 0, 0] p.2.2.2) fun o v b =>
          let n : Int := b.pending + ((p.2.2.2.getD 0 : Nat) : Int)
          decide (v.widx < 16) && decide (b.arrived < 31) && kindOk o.instr b.kind && !b.w0.testBit v.widx && !b.ldone && !b.brk &&
            decide (-(2 ^ 47) ≤ n) && decide (n < 2 ^ 47) && !b.sv && decide (b.arrived + 1 ≠ b.expected ∨ n ≠ 0)) = true ∧
    ([(barWord 0 0 0 0 1 0 0, 0, none), (barWord 0 1 0 0 16 15 0xFFFE, 2 ^ 48 - 5, some 5)] :
        List (Nat × Nat × Option Nat)).all (fun p =>
      arrives (arriving (if p.2.2 == none then .barrive (engOf 0 0 0 0 6 0 0x40) else .barriveBytes (engOf 0 0 0 0 6 0 0x40))
          [p.1, p.2.1, 0, 0] p.2.2) fun o v b =>
        let n : Int := b.pending + ((p.2.2.getD 0 : Nat) : Int)
        decide (v.widx < 16) && kindOk o.instr b.kind && !b.w0.testBit v.widx && !b.ldone && !b.brk && !b.sv &&
          b.arrived + 1 == b.expected && n == 0 && b.kind == 0) = true ∧
    ([barWord 1 0 0 0 1 0 0, barWord 0 0 0 0 2 1 1, barWord 0 0 1 0 1 1 1, barWord 0 0 0 1 1 0 0] : List Nat).all (fun w =>
      arrives (arriving (.barrive (engOf 0 0 0 0 6 0 0x40)) [w, 0, 0, 0] none) fun o v b =>
        !kindOk o.instr b.kind || b.w0.testBit v.widx || b.ldone || b.brk) = true ∧
    (let s := withLm 0x40 [barWord 1 0 1 0 1 1 1, 0, 0, 0] (lNext id)
     meets (s.team 0 0) fun m => let b := (s.core 0).bar (m.lmBase + 0x40)
      b.kind == 1 && b.ldone && !b.brk && !b.sv && !(s.hub.gangBar m.gang 0x40).reported.contains m.teamId &&
        !(s.core 0).barHeld 0 0x40) = true ∧
    (let s := (withLm 0x40 [barWord 1 0 1 0 1 1 1, 0, 0, 0] (lNext id)).setGangBar { gang := 0, off := 0x40, reported := [0], hold := none }
     s.gangTeams 0 ≠ [] ∧ ((s.gangTeams 0).map (·.1)).Nodup ∧ (s.hub.gangBar 0 0x40).hold = none ∧
      (s.gangTeams 0).all (fun m => (s.hub.gangBar 0 0x40).reported.contains m.2.2.teamId &&
        !((s.core m.1).bar (m.2.2.lmBase + 0x40)).sv && !(s.core m.1).barBad (m.2.2.lmBase + 0x40)) = true) ∧
    ([.ready, .failed .protection] : List Hold).all (fun h =>
      let s := (arriving (.barrive (engOf 0 0 0 0 6 0 0x40)) [barWord 0 0 0 0 2 0 0, 0, 0, 2 ^ 63] none).modCore 0 fun k =>
        { k with held := [{ team := 0, off := 0x40, hold := h, op := some (0, 1), completing := false }] }
      meets (s.findOp 0 0 1) fun r => r.2.1.team == 0 && r.1.accs == [] && r.1.aux == .arrive 0x40 none none && (s.core 0).portAdmits 0) = true := by
  decide +kernel

/-- A machine whose team has claimed iterator 3 of core 0, with a counter of 5 values at LM 0x100 and the iterator as given. -/
def withIter (i : Iter) (s : State) : State :=
  ((withLm 0x100 [1 * 2 ^ 56, 0, 5 * 2 ^ 32 + 1, 0] s).modTeam 0 0 fun t => { t with iters := [3] }).modCore 0 fun k =>
    { k with iters := smPut Iter.reset k.iters 3 i }

/-- An iterator opened on the stack of `withIter`. -/
def opened : Iter := { Iter.reset with opn := true, base := 0x100 }

theorem witness_IteratorInstructions :
    ([Iter.reset, { opened with ended := true }] : List Iter).all (fun i =>
      lOk (withIter i (lNext (laneWords 4 0 [0x100]))) (.itopen (engOf 0 4 0 0 0 0 0)) fun y =>
        y.x.team.iters[0]? == some 3 && match stackCheck y.x.core y.x.team (y.x.warp.vv 4 y.low).toNat 1 true with
          | .ok _ => true
          | .error _ => false) = true ∧
    lOk (withIter { opened with carry := [(1, 2)] } (lNext id)) (.enough (engOf 0 0 0 0 0 0 0)) (fun y =>
      (y.x.core.iter 3).opn && !(y.x.core.iter 3).ended && y.x.core.pulls y.x.warp.team 0 == [] && y.x.core.lmBad == []) = true ∧
    lOk ((withIter opened (lNext id)).modCore 0 fun k => { k with lmBad := [0x108 / 8] }) (.enough (engOf 0 0 0 0 0 0 0)) (fun y =>
      (y.x.core.iter 3).opn && !(y.x.core.iter 3).ended &&
        (unitsOf (y.x.team.lmBase + 0x100) (32 * (opened.dm1 + 1))).any y.x.core.lmBad.contains) = true ∧
    (let s := withIter opened ((captures 0 id).modWarp 0 0 fun w => { w with ops := [{ (plainOp (.next (engOf 4 0 0 5 7 0 0))) with accs := [claimAcc 0 0 0], aux := .pull [(5, 0)] true false [] }], nextId := 2 })
     lOk s (.enough (engOf 0 0 0 0 0 0 0)) fun y => y.x.core.pulls y.x.warp.team 0 == [(0, 1)] && (y.x.core.iter 3).opn &&
      !(y.x.core.iter 3).ended && meets (s.findOp 0 0 1) fun r => r.1.aux == .pull [(5, 0)] true false []) = true ∧
    lOk (withIter opened (lNext (laneWords 4 0 [786112]))) (.itsave (engOf 0 4 0 0 0 0 0)) (fun y =>
      decide ((y.x.warp.vv 4 y.low).toNat + 320 ≤ y.x.team.lmSize)) = true ∧
    lOk (withLm 0x400 [2 ^ 63 + 2 ^ 44 + 0x100, 7, 0, 0, 0, 0, 0, 0, 9] (withIter Iter.reset (lNext (laneWords 4 0 [0x400]))))
        (.itload (engOf 0 4 0 0 0 0 0)) (fun y => !(y.x.core.iter 3).opn && match y.x.core.lmRead 0x400 320 with
          | .ok bs => imageOk bs && (match stackCheck y.x.core y.x.team (iterOfImage bs).base ((iterOfImage bs).dm1 + 1) true with
            | .ok sh => (iterOfImage bs).pair == (sh.getD (iterOfImage bs).dm1 (0, false)).2
            | .error _ => false)
          | .error _ => false) = true ∧
    (let s := withIter opened (lNext id)
     lOk s (.itstat (engOf 0 0 0 0 7 0 0)) fun y => y.x.core.warps.all fun p => p.2.ops.all fun o => nextArgs o.instr == none) = true := by
  decide +kernel

/-- A NEXT of lane 0 in flight with one value, and another state of its iterator. -/
def pulled (out : List (Word × Word)) (i : Iter) : State :=
  withIter i ((withOp (.next (engOf 4 0 0 5 7 0 0)) [claimAcc 0 0 0] (.pull out false false [])))

theorem witness_NextPulls :
    ([(.next (engOf 4 0 0 6 7 0 1), opened), (.next (engOf 4 0 0 6 7 0 0), { opened with opn := false }),
      (.next (engOf 4 0 0 6 7 0 0), { opened with brk := true }), (.next (engOf 5 0 0 6 7 0 0), { opened with pair := true }),
      (.nextBounded (engOf 4 0 0 6 7 0 0), { opened with carry := [(1, 0)], cw := 1 }),
      (.nextBounded (engOf 4 0 0 6 7 0 0), { opened with carry := [(1, 0)], bnd := true }),
      (.next (engOf 4 0 0 6 7 0 0), { opened with pair := true })] : List (Instr × Iter)).all (fun p =>
      lOk (withIter p.2 (lNext id)) p.1 fun y => y.x.warp.widx == 0 && y.x.warp.budget == 256 && y.x.core.iter 3 == p.2 &&
        y.x.team.iters == [3]) = true ∧
    ([([(5, 0)], opened), ([], { opened with exh := true })] : List (List (Word × Word) × Iter)).all (fun p =>
      let s := pulled p.1 p.2
      meets (s.findOp 0 0 1) fun r => r.1.aux == .pull p.1 false false [] && r.1.accs.all (·.st == .todo) &&
        r.2.2.iters[0]? == some 3 && !(s.core 0).pulling r.2.1.team 0 r.1.serial && !((s.core 0).iter 3).brk &&
        !((s.core 0).iter 3).pair && decide (((lanesOf r.1.act).length ≤ p.1.length ∧ (s.core 0).lmBad = []) ∨ ((s.core 0).iter 3).exh = true) &&
        decide (p.1.length ≤ (lanesOf r.1.act).length)) = true := by decide +kernel
/-- A machine at stage 2 with an address space 0 in which VA 0x2000 to 0x3FFF is mapped to PA 0x80000, readable and writable, and 8-byte
words at VAs there. -/
def paged (ws : List (Nat × Nat)) (s : State) : State :=
  let q (l : List Nat) : List Byte := l.flatMap (leBytes 8)
  let m := Memory.writeN (Memory.writeN (Memory.writeN (Memory.writeN (Memory.writeN s.mem 0x10000 (q [2 ^ 63 + 0x30000, 0, 0]))
    0x30000 (q [0x50001])) 0x50000 (q [0x60001])) 0x60000 (q [0x70001])) 0x70000 (q [0x2000F, 0x8000F])
  { s with
    boot := { s.boot with stage := 2 }
    mem := ws.foldl (fun m p => Memory.writeN m (p.1 - 0x2000 + 0x80000) (leBytes 8 p.2)) m }

/-- A record at LM 0x200 named by one kick of channel 0. -/
def kicked (ws : List Nat) : State :=
  (withLm 0x200 ws (lNext id)).modCore 0 fun k => k.modChan 0 fun c => { c with kicks := [⟨0, 0, 0x200, 1⟩] }

/-- A record at LM 0x200 of team 0, not begun. -/
def aCopy : CopyRec :=
  { team := 0, gang := 0, off := 0x200, words := [], pos := 0, sub := 0, status := none, noBar := false, stall := none, sent := none
    asked := 0, got := none }

/-- A record that channel 0 works on. -/
def copying (ws : List Nat) (st : Option (Option Cause)) : State :=
  (lNext id).modCore 0 fun k => k.modChan 0 fun c => { c with
    cur := some { aCopy with words := ws.map (BitVec.ofNat 64), status := st } }

theorem witness_CopyRecordSteps :
    ([[0x1F00, 0x400, 2 ^ 20 + 0x40, 0], [2 ^ 63, 0, 0, 0], [0x1F08, 0x400, 2 ^ 20 + 16, 0], [0x1F00, 786432, 2 ^ 20 + 16, 0],
      [0x1F00, 0x400, 0, 0], [5 * 2 ^ 60 + 0x1F00, 0x400, 2 ^ 20 + 16, 0]] : List (List Nat)).all (fun ws => let s := kicked ws
      (s.core 0).chan 0 == { Chan.reset with kicks := [⟨0, 0, 0x200, 1⟩] } && meets (s.team 0 0) fun m =>
        (match (s.core 0).lmRead (m.lmBase + 0x200) 32 with | .ok _ => true | _ => false)) = true ∧
    ([[0x1F00, 0x400, 2 ^ 20 + 0x40, 0], [0x1F00, 0x400, 2 ^ 20 + 0x10, 0], [3 * 2 ^ 60 + 0x400, 0x1F00, 2 ^ 20 + 0x10, 0]] :
        List (List Nat)).all (fun ws => let s := copying ws none
      meets ((s.core 0).chan 0).cur fun r => r.status == none && r.stall == none && r.sent == none && r.got == none && !r.bv && (r.op == 0 || r.op == 3) &&
        (let g := if r.op = 0 then r.src else r.dst
         decide (g + r.pos < 2 ^ 54) && !inAperture (g + r.pos) &&
         meets (s.team 0 r.team) fun m =>
          match s.translate 0 m.asid m.priv (g + r.pos) (if r.op = 0 then .read else .write) with
          | (_, .ok p) => !hubRange p.pa && !p.cnt && !s.badLine p.pa && (unitsOf p.pa 16).all (fun k => !s.unitBad k) &&
              (match (s.core 0).lmRead (m.lmBase + r.src + r.pos) 16 with | .ok _ => true | _ => r.op == 0)
          | _ => false)) = true ∧
    ([none, some .misaligned] : List (Option Cause)).all (fun st =>
      meets (((copying [0x1F00, 0x400, 2 ^ 20 + 0x40, 0] (some st)).core 0).chan 0).cur fun r => r.status == some st && !r.bv) = true := by
  decide +kernel

/-- A placed gang of the team 0 of core 0, whose record has its join object at VA 0x2000 and PRIO 1. -/
def aGang : Gang :=
  { key := 0, task := 7, gangId := 0, asid := 0, queue := 16, cluster := 0
    record := leBytes 8 (2 ^ 54) ++ leBytes 8 0 ++ leBytes 8 0x2000 ++ leBytes 8 (2 ^ 48)
    desc := [], teams := [(0, 0)], state := .running, since := 0 }

/-- A machine with that gang, another state of it, and its warp as `f` makes it. -/
def withGang (g : Gang) (f : Warp → Warp) : State := { lNext f with hub := { Hub.reset with gangs := [g] } }

/-- A warp all of whose lanes have left. -/
def allGone (w : Warp) : Warp := { w with splits := [(0, { newSplit0 with live := false })] }

theorem witness_JoinsAndRetiring :
    (let s := lNext allGone
     meets (s.warp 0 0) fun v => !v.retired && v.mayRetire && (s.core 0).latches == []) = true ∧
    (let s := paged [(0x2000, 2)] (withGang aGang fun w => { allGone w with retired := true })
     meets (s.hub.gangs.find? (·.key == 0)) fun g => s.gangDone g && (g.teams.all fun p => (s.core p.1).dirtyLines == []) &&
      match s.joinRead g.asid (recJoin g.record) with | .ok j => decide (1 < j.count) | _ => false) = true ∧
    (let s := paged [(0x2000, 2 ^ 32 - 1)] (lNext id)
     match s.joinRead 0 0x2000 with | .ok j => decide (1 < j.count) | _ => false) = true ∧
    (let d : CQueue := { CQueue.reset with v := true, log2 := 6, base := 0x100 }
     d.v = true ∧ d.asid = 0 ∧ d.room ≠ 0 ∧ Hub.reset.reservedAt 5 = false ∧ State.reset.populated (d.slot d.tail.toNat) = true) ∧
    (let s := paged [(0x2000, 0)] (lNext id)
     let t : State := { s with hub := { s.hub with regs := { s.hub.regs with fqBase := 0x10000, fqSize := 4096 } } }
     s.faultRoom = false ∧ t.faultRoom = true ∧ (⟨0, 0x2000, .ready, .none, none, none⟩ : JoinDec).noted = none) ∧
    ([(0, 0, 0), (1 + 5 * 2 ^ 32 + 2 ^ 39, 0, 0), (1, 0, 0), (1, 0x2040, 2)] : List (Nat × Nat × Nat)).all (fun p =>
      let s := paged [(0x2000, p.1), (0x2008, p.2.1), (0x2040, p.2.2)] (lNext id)
      match s.joinRead 0 0x2000 with
      | .ok j => decide (j.count ≤ 1) && !j.bad && j.notify == p.2.1 && (p.2.1 == 0 ||
          match (s.hubPut j.pa (leBytes 4 0)).joinRead 0 j.notify with | .ok n => decide (1 < n.count) | _ => false)
      | _ => false) = true := by decide +kernel

/-- A descriptor of one team of one general warp with budget 32, a partition of one page and a privileged entry at 0x1000. -/
def aDesc : List Byte :=
  leBytes 8 (2 ^ 63 + 2 ^ 43 + 4096) ++ leBytes 8 0x1000 ++ List.replicate 48 0 ++ leBytes 4 (3 + 2 ^ 8 + 4 * 2 ^ 16) ++ List.replicate 188 0

theorem witness_GangPlacement :
    ([1, 2] : List Nat).all (fun gangs =>
      let h : Head :=
        { record := leBytes 8 0x1000 ++ leBytes 8 0x5000 ++ leBytes 8 0x2000 ++ leBytes 8 (gangs * 2 ^ 48), checked := true, desc := aDesc, next := 0
          task := none, regions := [], entered := none, waitSince := none, asked := false, gone := none }
      let s := { State.reset with hub := { Hub.reset with
        queues := [(5, { CQueue.reset with v := true, log2 := 6, base := 0x100, tail := 1 })], heads := [(5, h)] } }
      s.hub.regs.captureCtl == 0 && (s.hub.heads.all fun e => e.2.checked && e.2.gone == none && e.2.regions == []) &&
        meets (s.noteWaits.nextPlace [3, 2, 1, 0]) fun r => r.1 == 5 && r.2.2.1 == 0 && r.2.2.2.length == 1 && (parseDesc r.2.1.desc).isSome) = true := by
  decide +kernel

/-- A machine with BTE queue 0 of address space 0, its descriptor at VA 0x2000 with packets at 0x2400 and completions at 0x2800, and the
packet in progress. -/
def withBte (cur : Option BtePkt) (ws : List (Nat × Nat)) : State :=
  let s := paged ([(0x2000, 4 * 2 ^ 58 + 0x2400), (0x2018, 4 * 2 ^ 58 + 0x2800)] ++ ws) State.reset
  { s with bells := [0], hub := { s.hub with bte := [(0, { desc := 0x2000, asid := 0, cur := cur })] } }

/-- A packet of these words. -/
def aPacket (ws : List Nat) : BtePkt :=
  { seq := 0, words := ws.map (BitVec.ofNat 64), pos := 0, bytes := 0, buf := [], wr := 0, result := none, stall := none, sent := none }

/-- A result is an ok one with the property. -/
def okWith {ε α : Type} (r : Except ε α) (p : α → Bool) : Bool :=
  match r with
  | .ok a => p a
  | .error _ => false

theorem witness_BlockTransfers :
    (let s := withBte none []
     okWith (s.translateHub 0 false 0x3FF8 .write) fun x => !hubRange x.pa && !x.cnt && (unitsOf x.pa 8).all fun u => !s.unitBad u) = true ∧
    ([0, 15, 16] : List Nat).all (fun n =>
      let s := withBte none [(0x2010, n), (0x2400, 2 ^ 63 + 3 * 2 ^ 48), (0x2410, 0x3000), (0x2418, 64)]
      s.bteServed 0 && okWith (s.bteWord 0 0) (fun w => w / 2 ^ 58 == 4 && w / 2 ^ 54 % 16 == 0) && okWith (s.bteWord 0 2) (· == n) &&
        !s.det 0 && !s.captures 0 && s.boot.rest == 0 && s.bells.contains 0 && ({ s with bells := [1] }.bells.contains 0) == false && okWith (s.btePacket 0 (0x2400 + n % 16 * 64) n) fun p => decide ((p.w 0 / 2 ^ 63 % 2 = 1 ↔ n / 16 % 2 = 0) ↔ n = 0)) = true ∧
    ([[2 ^ 48, 0x2100, 0x2200, 100], [3 * 2 ^ 48, 5, 0x2200, 200], [2 * 2 ^ 48, 0x2100, 0x2200, 0x2300, 2 ^ 56 + 16],
      [2 * 2 ^ 48, 0x2100, 0x2200, 0x2300, 2 ^ 57 + 16]] : List (List Nat)).all (fun ws =>
      let p := aPacket ws
      let s := withBte (some p) []
      s.bteServed 0 && (s.hub.bteq 0).cur == some p && (p.reads.all fun st => !inAperture (p.at st) &&
        okWith (s.bteRead 0 (p.at st) (p.run * st.2)) fun r => !hostPa r.1 && decide (r.2.length = p.run * st.2)) &&
      (p.writes.all fun st => !inAperture (p.at st) &&
        (match s.bteWrite 0 (p.at st) (List.replicate (p.run * st.2) 1) with | (_, .ok _) => true | _ => false)) &&
      (p.kind != 2 || decide (p.total ≤ p.pos + p.run)) && p.run != 0 && p.cut == none) = true ∧
    (let p := aPacket [4 * 2 ^ 48, 2 ^ 63, 2 ^ 63 + 3, 0]
     [0, 4].all fun r => let s := withBte (some { p with seq := 9 }) [(0x2010, r)]
      (([1, 2, 3] : List Nat).all fun i => okWith (s.fencePair 0 { p with seq := 9 } i) fun b => b == decide (i = 3 ∨ r = 4))) = true ∧
    (let d : CQueue := { CQueue.reset with v := true, log2 := 6, base := 0x100 }
     d.v = true ∧ d.asid = 0 ∧ d.room ≠ 0 ∧ (withBte none []).populated (d.slot d.tail.toNat) = true ∧ (aPacket [5 * 2 ^ 48, 5]).w 1 % 64 = 5) ∧
    ([none, some .queueInvalid] : List (Option Cause)).all (fun st =>
      let s := withBte (some { aPacket [2 ^ 48] with result := some st }) [(0x2010, 3), (0x2020, 17), (0x2028, 2)]
      !s.captures 0 && okWith (s.bteWord 0 2) (· == 3) && okWith (s.bteWord 0 3) (fun w => w / 2 ^ 58 == 4 && w / 2 ^ 54 % 16 == 0) &&
      okWith (s.bteWord 0 4) (· == 17) && okWith (s.bteWord 0 5) (fun cr => decide (17 - cr ≠ 2 ^ 4)) &&
      match s.bteWrite 0 (0x2800 + 16) (List.replicate 16 1) with
      | (u, .ok _) => (match u.bteWrite 0 0x2020 (leBytes 8 18) with
        | (v, .ok _) => (match v.bteWrite 0 0x2010 (leBytes 8 4) with | (_, .ok _) => true | _ => false)
        | _ => false)
      | _ => false) = true := by decide +kernel
/-- A machine whose hub registers are changed. -/
def withRegs (f : Regs → Regs) (s : State) : State := { s with hub := { s.hub with regs := f s.hub.regs } }

/-- A fault record the hub still has to write, of number 3. -/
def aFault : FaultRec :=
  { va := 0x2000, cause := .notPresent, source := 1, flags := 0, unit := 0, core := 0, asid := 0, lanes := 0, fseq := 3 }

theorem witness_RingsAndReplays :
    ([(0, 127), (127, 127), (2 ^ 64 - 1, 0)] : List (Nat × Nat)).all (fun p =>
      let s := withRegs (fun r => { r with
        fqBase := 0x10000, fqSize := 4096, fqWidx := BitVec.ofNat 64 p.2, fqRidx := BitVec.ofNat 64 p.1 })
        { State.reset with hub := { Hub.reset with faultQ := [aFault] } }
      s.ringOk 0x10000 4096 24 && decide (ringRoom 4096 p.2 p.1 ≠ 0)) = true ∧
    (State.reset.ringOk 0 0 24 = false ∧ ringRoom 4096 128 0 = 0) ∧
    (let s := withRegs (fun r => { r with captureBase := 0x10000, captureSize := 4096 }) { State.reset with hub := { Hub.reset with
      capture := [List.replicate 32 1] } }
     s.ringOk 0x10000 4096 26 && decide (ringRoom 4096 0 0 ≠ 0)) = true ∧
    (let s := sNext id fun p => { p with wait := .replay 3 0x2000 }
     s.hub.posted.length == 0 && s.hasFeature 39 && !{ s with feat := 0 }.hasFeature 39 && s.replayable 3 && s.opsOn 3 == [] && !s.replayable 4) = true ∧
    (let s := sNext id fun p => { p with wait := .refetch 3 0x2000 }
     s.hasFeature 39 && s.replayable 3 && s.opsOn 3 == []) = true ∧
    (let s := withOp (.ld (memOf .b32)) [accAt 0x1F00 .home false 0 (.stalled 3)] .none
     s.hasFeature 39 && s.replayable 3 && meets ((s.warp 0 0).bind (·.op 1)) fun o => o.accs.all (·.st == .stalled 3)) = true ∧
    (let r : CopyRec := { aCopy with stall := some 3 }
     let s := (lNext id).modCore 0 fun k => k.modChan 2 fun c => { c with cur := some r }
     s.hasFeature 39 && s.replayable 3 && s.opsOn 3 == [] && ((s.core 0).chan 2).cur == some r) = true ∧
    (let s := withBte (some { aPacket [] with stall := some (2 ^ 32 - 1) }) []
     s.hasFeature 39 && s.replayable (2 ^ 32 - 1) && s.opsOn (2 ^ 32 - 1) == []) = true := by decide +kernel

/-- A walk of VA `va` for core 0. -/
def walkAt (va : Nat) (started : Bool) : Walk :=
  { asid := 0, va := va, core := 0, started := started, gatherP := true, lanes := 1, slot := 0 }

/-- An invalidation in address space 0, number 1, that waits for lane 0 of operation 1 of core 0's warp 0. -/
def anInval (host : Bool) : Inval := { id := 1, asid := 0, users := [(0, 0, 1, 0)], host := host }

theorem witness_WalksAndInvalidations :
    (let s : State := { State.reset with hub := { Hub.reset with walks := [walkAt 0 true, walkAt 0x2000 false] } }
     decide (((s.hub.walksOf 0).filter (·.started)).length < 64) &&
      (s.hub.walksOf 0).find? (fun v => !v.started) == some (walkAt 0x2000 false)) = true ∧
    ([(0x2000, none), (0x4000, some .notPresent), (2 ^ 43, some .notPresent)] : List (Nat × Option Cause)).all (fun p =>
      let s := paged [] { State.reset with hub := { Hub.reset with walks := [walkAt p.1 true] } }
      ((s.hub.walksOf 0).filter (·.started))[0]? == some (walkAt p.1 true) && match (s.walk 0 0 p.1).2 with
        | .ok _ => p.2 == none
        | .error c => p.2 == some c) = true ∧
    ((State.reset.walk 0 0 0).2 matches .error .protection) = true ∧
    (let s := withRegs (fun r => { r with tlbiStart := 0x1000, tlbiLen := 2 ^ 54 }) (lNext id)
     s.hub.regs.tlbiGo == none && s.hub.regs.tlbiLen.toNat % 2 ^ 55 != 0) = true ∧
    ([true, false] : List Bool).all (fun host =>
      let s := { withOp (.ld (memOf .b32)) [accAt 0x1F00 .home false 0 .todo] .none with
        hub := { Hub.reset with invals := [anInval host], regs := { Regs.reset with tlbiGo := some 1 } } }
      let t := { sNext id (fun p => { p with wait := .tlbinv 1 }) with hub := s.hub }
      s.rangeBusy (anInval host) && !t.rangeBusy (anInval host) && meets (t.ctxOf ⟨0, 0, 0⟩) fun x =>
        x.who == ⟨0, 0, 0⟩ && Spec.waitingOn t 1 == [⟨0, 0, 0⟩]) = true ∧
    (let g := { Regs.reset with pgrelPa := 0x20000, pgrelLen := 0x2000 }
     Hub.reset.posted = [] ∧ g.pgrelBusy = false ∧ g.pgrelPa.toNat % 8192 = 0 ∧ g.pgrelLen.toNat % 8192 = 0) ∧
    (let l : L1Line := ⟨0x21FC0 / 64, 5, 1, 0, 0, 0x1FC0, 0⟩
     let s := withRegs (fun r => { r with pgrelBusy := true, pgrelRange := (0x20000, 0x2000) })
      ((lNext id).modCore 0 fun k => { k with l1 := [l] })
     s.hub.regs.pgrelBusy && (s.core 0).line l.line == some l && s.hub.regs.inRelease l.line &&
      (s.cores.all fun p => p.2.l1.all fun m => m.line != l.line || m == l) && l.dirty.getLsbD 0 && s.lostUnits l == [] &&
      !s.hub.regs.inRelease (0x22000 / 64)) = true ∧
    ([0, 5] : List Nat).all (fun n => sOk (sNext (gs [(2, 0x1000), (4, n)]) id) (.tlbinv 6 2 4) fun x =>
      decide ((x.warp.gv 6).toNat < 2 ^ 12) && decide ((x.warp.gv 5).toNat < 2 ^ 23) && (x.warp.gv 4).toNat == n) = true ∧
    sOk (sNext (gs [(6, 4096)]) id) (.tlbinv 6 2 4) (fun x => decide (2 ^ 12 ≤ (x.warp.gv 6).toNat)) = true := by decide +kernel

/-- A machine with a save pool of one slot at PA 4 MiB. -/
def withPool (s : State) : State := withRegs (fun r => { r with saveBase := 0x400000, saveSlots := 1 }) { s with boot := { s.boot with stage := 2 } }

/-- The head record of queue 48 that has waited since `t` for cluster 0. -/
def waitingHead (t : Option Nat) : Head :=
  { record := leBytes 8 (0x1000 + 3 * 2 ^ 54) ++ leBytes 16 0 ++ leBytes 8 (2 ^ 48), checked := true, desc := aDesc, next := 0, task := none
    regions := [], entered := none, waitSince := t, asked := false, gone := none }

/-- A saved gang of the team 0, from slot 0. -/
def aSaved (kind : LeaveKind) : SavedGang :=
  let t : SavedTeam :=
    { slot := 0, core := 0, key := 0, team := { plainTeam with lmSize := 4096 }, warps := [(0, newWarp 0 0 .general 32 0 0x1000)]
      latches := [], locals := [], tags := [], fabric := [] }
  { gang := { aGang with desc := aDesc }, kind := kind, teams := [t] }

theorem witness_PreemptionAndSaves :
    ([(0, 7 * 2 ^ 16), (1, 0), (2, 0)] : List (Nat × Nat)).all (fun p =>
      let s := withRegs (fun r => { r with preemptCtl := BitVec.ofNat 64 (p.1 * 2 ^ 62 + 2 ^ 60 + 100 * 2 ^ 32) }) (withGang aGang id)
      s.hub.posted.length == 0 && Spec.gang s 0 == some aGang && s.hub.regs.preemptCtl.toNat / 2 ^ 62 == p.1 && s.hub.gangs.filter (fun h => match p.1 with
        | 0 => h.task.toNat == p.2 / 2 ^ 16 % 2 ^ 32 && h.gangId == p.2 % 2 ^ 16
        | 1 => h.asid.toNat == p.2 % 2 ^ 12
        | _ => h.cluster == p.2 % 2 ^ 6) == [aGang]) = true ∧
    ([(withPool (withGang aGang id)), withGang aGang id] : List State).all (fun s =>
      s.hasFeature 32 && s.gangChoice aGang true 0 != .drain && s.slotsFor aGang.teams.length == decide (s.hub.regs.saveSlots ≠ 0)) = true ∧
    (let s := (withGang aGang id).modTeam 0 0 fun t => { t with wbytes := 5, wtotal := 5 }
     s.gangChoice aGang true 0 == .drain) = true ∧
    (let fill (s : State) : State := (List.range 16).foldl (fun s c => s.modCore c fun k => { k with teams := amPut k.teams 0 plainTeam }) s
     let s := fill { withGang aGang id with clock := 64 * 940, hub := { Hub.reset with
      gangs := [aGang], heads := [(48, waitingHead (some 0))], queues := [(48, { CQueue.reset with v := true, log2 := 6, base := 0x100, tail := 1 })] } }
     meets (s.noteWaits.hub.headOf 48) fun h => h.waitSince == some 0 && !h.asked && meets (parseDesc h.desc) fun d =>
      meets ((List.range 64).find? fun c => !(s.hub.lower 3 c).isEmpty && s.wouldFit c (s.hub.lower 3 c) d.claims) fun cl =>
        s.hub.lower 3 cl == [aGang]) = true ∧
    ([0, 1] : List Nat).all (fun d => Spec.gang (withGang { aGang with state := .draining d 1 false } id) 0 ==
      some { aGang with state := .draining d 1 false }) = true ∧
    ([.saveAsked 1 1 false false, .saveAsked 1 1 true false, .dropAsked 0] : List GangState).all (fun x =>
      let g := { aGang with state := x }
      let s := withPool (withGang g id)
      Spec.gang s 0 == some g && meets (s.team 0 0) (fun m => !m.irrev) && s.gangQuiet g && s.saveTurn g && s.freeSlots == [0]) = true ∧
    (let g := { aGang with state := .saveAsked 1 1 true false }
     let s := (withPool (withGang g id)).modTeam 0 0 fun t => { t with irrev := true }
     Spec.gang s 0 == some g && meets (s.team 0 0) (·.irrev) && s.gangQuiet g && s.saveTurn g) = true ∧
    (let s := { withPool State.reset with hub := { (withPool State.reset).hub with saving := [aSaved .save] } }
     s.hub.saving.find? (fun w => w.gang.key == 0) == some (aSaved .save) && !s.copiesOf 0 0) = true := by decide +kernel

theorem witness_RestoreAndMigration :
    ([.save, .restart] : List LeaveKind).all (fun k =>
      let s := { withPool State.reset with hub := { (withPool State.reset).hub with resume := [aSaved k] } }
      s.hub.resumeFirst 1 == some (aSaved k) && !s.codeGone (aSaved k) && s.levelTurn 1 && (parseDesc (aSaved k).gang.desc).isSome &&
        meets (s.findCluster (aSaved k).claims (s.clusterOrder 0)) fun f => f.2.length == 1) = true ∧
    (let v : SavedGang := { aSaved .save with gang := { aGang with desc := aDesc, state := .migrateAsked 0 true (some (9, 1, false)) } }
     let s := { withPool State.reset with hub := { (withPool State.reset).hub with resume := [v] } }
     s.hub.resumeFirst 1 == some v && !s.codeGone v && s.levelTurn 1 &&
        meets (s.findCluster v.claims (s.clusterOrder 0)) fun f => f.2.length == 1) = true ∧
    ([95, 96] : List Nat).all (fun t => decide ((withGang aGang id).hub.regs.thermLimit.toNat % 256 < t) == (t == 96)) = true ∧
    ([(.running, none), (.draining 9 1 false, some (9, 1, false))] : List (GangState × Option (Nat × Nat × Bool))).all (fun p =>
      let g := { aGang with state := p.1 }
      let s := { (withPool (withGang g id)).modCore 0 fun k => { k with hot := some 0 } with clock := 2000 * 940 + 1 }
      Spec.gang s 0 == some g && (s.core 0).hot == some 0 && (s.coolCluster (s.claimsOf g)).isSome && s.slotsFor 1 &&
        s.hasFeature 31 && !{ s with feat := 0 }.hasFeature 31) = true := by
  decide +kernel

theorem witness_MarkedGangsAreNotPlaced :
    ([0, 4096] : List Nat).all (fun size =>
     let s := { withPool State.reset with hub := { (withPool State.reset).hub with resume := [aSaved .save] } }
     let s := withRegs (fun r => { r with fqBase := 0x10000, fqSize := BitVec.ofNat 64 size }) { s with mem := Memory.writeN s.mem 0x400000 (leBytes 4 6) }
     s.faultRoom == decide (size = 4096) && s.hub.resumeFirst 1 == some (aSaved .save) && ((aSaved .save).teams.any fun x => (Memory.readNat s.mem (s.slotPa x.slot) 4).testBit 2)) = true := by
  decide +kernel
theorem witness_Sampling :
    ([(0, 0, true), (4096, 0, true), (4096, 128, false)] : List (Nat × Nat × Bool)).all (fun p => ([none, some 0x40] : List (Option Nat)).all fun b =>
      let s := withRegs (fun r => { r with sampleBase := 0x10000, sampleSize := BitVec.ofNat 64 p.1, sampleWidx := BitVec.ofNat 64 p.2.1 })
        ((sNext (fun w => { w with lastBar := b }) fun sp => { sp with wait := if p.2.2 then .barwait 0x60 else .run }).modCore 0 fun k => { k with
          sampleCtl := 1, quads := amPut k.quads 0 { Quad.reset with issuedScalar := if p.2.2 then some (0, 0, 0x40) else none } })
      let q := amGet Quad.reset (s.core 0).quads 0
      s.hasFeature 28 && (s.core 0).sampleCtl.getLsbD 0 && q.counter == 0 && nextOccupied (s.core 0) 0 q.pointer == some 0 &&
        meets (s.warp 0 0) (fun w => sampleSplit q 0 w == some (0, if p.2.2 then some 0x40 else none) && w.lastBar == b) &&
        (meets (s.ctxOf ⟨0, 0, 0⟩) fun x => x.split.wait == if p.2.2 then .barwait 0x60 else .run) &&
        decide (s.ringOk 0x10000 p.1 26 = true ∧ ringRoom p.1 p.2.1 0 ≠ 0) == (p == (4096, 0, true))) = true ∧
    (let s := (sNext (fun w => { w with splits := [], ops := [plainOp (.ld (memOf .b32))] }) id).modCore 0 fun k => { k with
       sampleCtl := 1, quads := amPut k.quads 0 { Quad.reset with issuedScalar := some (0, 0, 0x40) } }
     let q := amGet Quad.reset (s.core 0).quads 0
     q.counter == 0 && nextOccupied (s.core 0) 0 q.pointer == some 0 && (s.ctxOf ⟨0, 0, 0⟩).isNone && (s.team 0 0).isSome &&
      meets (s.warp 0 0) fun w => w.team == 0 && sampleSplit q 0 w == some (0, some 0x40)) = true := by decide +kernel

/-- A team 0 in a state of running, its gang placed. -/
def teamAt (r : RunState) : State := (withGang aGang id).modTeam 0 0 fun t => { t with run := r }

theorem witness_StopsAndDumps :
    ([.running, .stopped 3, .leaving, .stopping 1] : List RunState).all (fun r =>
      meets ((teamAt r).namedTeam (7 * 2 ^ 32)) fun p => p.1 == 0 && p.2.1 == 0 && (teamAt r).team 0 0 == some p.2.2 && p.2.2.run == r &&
        ((teamAt r).hub.gangs.find? (·.key == p.2.2.gang)).isSome) = true ∧
    ((1 : BitVec 64).toNat % 2 ^ 13 ≠ 0 ∧ State.reset.hub.gangs = []) ∧
    (let s := teamAt (.stopping 3)
     (s.warpsOf 0 0).all (fun w => w.2.ops == [] && w.2.splits.all fun e => !e.2.midway) &&
      !(s.core 0).copiesBy 0) = true ∧
    ([[], [{ laneTrap .misaligned 0 0 0 with held := true }]] : List (List PendTrap)).all (fun l =>
      let s := (teamAt (.stopped 3)).modWarp 0 0 fun w => { w with held := l }
      (s.heldTraps 0 0).length == l.length && meets (s.team 0 0) fun m => m.run == .stopped 3) = true ∧
    ((copying [] none).core 0).copiesBy 0 = true ∧
    ([(true, false), (false, false), (false, true)] : List (Bool × Bool)).all (fun p =>
      let s := withRegs (fun r => { r with dumpBase := 0x10000, dumpSize := 2 ^ 20, dumpDone := p.1, dumpBusy := p.2 })
        { teamAt (.stopped 3) with hub := { Hub.reset with dumps := [(0, 0)] } }
      s.hub.regs.dumpDone == p.1 && s.hub.regs.dumpBusy == p.2 && decide (0x50 ≤ s.dumpRoom) && (s.team 0 0).isSome) = true := by
  decide +kernel

/-- A machine whose notify and shared windows are enabled, and whose shared window's page 0 is the host's. -/
def windowed : State := withRegs (fun r => { r with
  notifyBase := 2 ^ 63 + 2 ^ 25, shwinBase := 2 ^ 63, ownmapBase := 2 ^ 63 + 2 ^ 20 })
  { State.reset with boot := { Boot.reset with stage := 2 }, mem := Memory.write [] (2 ^ 20) 1 }

theorem witness_HostAccesses :
    (windowed.hostAccess 4 0x1FFF 1 = some 0x1FFF ∧ windowed.hostAccess 4 0x1FFF 2 = none ∧ windowed.hostAccess 2 0 8 = some (2 ^ 25) ∧
      windowed.hostAccess 2 (2 ^ 25) 1 = none ∧ windowed.hub.posted = [] ∧ windowed.captures windowed.captureAsid = false ∧
      windowed.unitBad (0x1FF8 / 8) = false ∧ windowed.unitBad (2 ^ 22) = false ∧ (List.replicate 513 (0 : Byte)).length = 513 ∧
      windowed.hostAccess 4 0 512 = some 0 ∧ { windowed with boot := { windowed.boot with fail := 1 } }.hostAccess 2 0 8 = none) ∧
    (let w : Posted := { requester := 0, pa := 0x1FF8, data := [1, 2, 3, 4, 5, 6, 7, 8] }
     let s := { windowed with hub := { windowed.hub with posted := [w] } }
     s.captures s.captureAsid = false ∧ s.hub.posted = [w] ∧ (unitsOf w.pa w.data.length).all (fun u => !s.unitBad u) = true) ∧
    ([2 ^ 63 + 6 * 2 ^ 57 + 5 * 2 ^ 45 + 1, 20 * 2 ^ 57, 2 ^ 63 + 5 * 2 ^ 57, 21 * 2 ^ 57, 7 * 2 ^ 57 + 1, 6 * 2 ^ 57 + 2 ^ 44] : List Nat).all (fun n =>
      !(State.reset.hub.queue 63).v && (decide (6 ≤ n / 2 ^ 57 % 64 ∧ n / 2 ^ 57 % 64 ≤ 20 ∧ n / 2 ^ 41 % 16 = 0 ∧
        n % 2 ^ 41 * 2048 % (2 ^ (n / 2 ^ 57 % 64) * 32) = 0) || decide (20 < n / 2 ^ 57 % 64 ∨ n / 2 ^ 57 % 64 < 6 ∨ n / 2 ^ 41 % 16 ≠ 0 ∨
        n % 2 ^ 41 * 2048 % (2 ^ (n / 2 ^ 57 % 64) * 32) ≠ 0))) = true ∧
    (let s := { State.reset with hub := { Hub.reset with queues := [(63, { CQueue.reset with v := true })] } }
     (s.hub.queue 63).v = true) := by decide +kernel

theorem witness_StartRestAndAttestation :
    (let b := Boot.reset.store
     b.sigOk = true ∧ Boot.reset.fuseSvn ≤ b.svn ∧ b.microOk = true ∧ { b with sigOk := false }.sigOk = false ∧ b.svn < (2 : BitVec 16) ∧
      { b with microOk := false }.microOk = false) ∧
    (State.reset.boot.fail = 0 ∧ State.reset.boot.stage = 0 ∧ windowed.boot.stage = 2 ∧ { Boot.reset with stage := 1 }.fail = 0) ∧
    ((∀ k, 0 < k → k < 8 → Config.stackTrains k = true) ∨ ∃ k, 0 < k ∧ k < 8 ∧ Config.stackTrains k = false) ∧
    ([1, 2, 3, 4] : List Nat).all (fun n =>
      let tol : BitVec 64 := [0, 2, 50, 1000, 20000].getD n 0
      let s := { State.reset with boot := { Boot.reset with latTol := tol } }
      decide (s.boot.rest < n) && s.restAllow == n && s.restHolds n && s.bells.isEmpty && s.stale.isEmpty) = true ∧
    (let s := { lNext id with hub := { Hub.reset with gangs := [aGang] }, boot := { Boot.reset with rest := 1 } }
     s.boot.rest ≠ 0 ∧ s.restHolds s.boot.rest = false ∧ State.reset.restHolds 0 = true ∧
       State.reset.bells = [] ∧ State.reset.hasFeature 34 = true) ∧
    ([1, 2, 3] : List Nat).all (fun f =>
      let s := { State.reset with boot := { Boot.reset with fail := f } }
      s.hub.posted.length == 0 && decide (s.boot.fail ∈ [1, 2, 3]) && !s.boot.rcvGo && { s.boot with rcvGo := true }.rcvGo) = true ∧
    ([(0, 4096), (4096, 2 ^ 26)] : List (Nat × Nat)).all (fun p => decide (p.1 < 2 ^ 50 ∧ p.1 % 4096 = 0 ∧ p.2 % 4096 = 0 ∧
      4096 ≤ p.2 ∧ p.2 ≤ 2 ^ 26)) = true ∧
    (okWith (State.reset.homeRead (2 ^ 51) 4096) (fun bs => bs.length == 4096) = true ∧
      okWith ({ State.reset with memBad := [2 ^ 48] }.homeRead (2 ^ 51) 4096) (fun _ => true) = false) := by
  refine ⟨by decide +kernel, by decide +kernel, ?_, by decide +kernel, by decide +kernel, by decide +kernel, by decide +kernel,
    by decide +kernel⟩
  by_cases h : ∃ k, 0 < k ∧ k < 8 ∧ Config.stackTrains k = false
  · exact .inr h
  · exact .inl fun k h0 hk => by
      cases e : Config.stackTrains k with
      | true => rfl
      | false => exact absurd ⟨k, h0, hk, e⟩ h

/-- Device 5 of a fabric: peer 7 is up, port 3 leads to it, and window 2 exports VAs from 0 of address space 0, writable or not, and window 1,022 too. -/
def onFabric (w : Bool) (s : State) : State :=
  let e : BitVec 64 := BitVec.ofNat 64 (2 ^ 63 + (if w then 2 ^ 62 else 0))
  { s with fab := { s.fab with
    device := 5, inc := 1, peers := [(7, ⟨1, 9⟩)], exports := [(2, e), (1022, e)]
    routes := [(7, BitVec.ofNat 64 (2 ^ 63 + 2 ^ 61 + 3 * 2 ^ 55 + 2 ^ 40 - 1))] } }

/-- A packet of device 7 to an offset of window 2, with these enables. -/
def fromPeer (kind off be : Nat) : Packet :=
  { blankPacket kind 1 5 (2 * 2 ^ 32 + off) with src := 7, inc := 9, be := BitVec.ofNat 64 be }

/-- The conditions of `Spec.Received`. -/
def received (s : State) (p : Packet) : Bool :=
  s.fab.arrives p && !s.fab.sent.contains p && !s.fab.blocked p && !s.captureHolds p && !s.fab.early.any (fun e => e.packet == p) &&
    !s.fab.grants.any (fun g => g.1 == p) && s.hub.regs.captureCtl == 0 && decide (s.boot.rest ≤ 2)

theorem witness_FabricRequests :
    (let s := onFabric true (paged [] State.reset)
     let data := List.replicate 128 (1 : Byte)
     let atomic : Packet := { fromPeer 3 0x2038 (0xFF * 2 ^ 56) with op := 8, w := 3, data := data }
     received s (fromPeer 1 0x2000 (2 ^ 64 - 1)) && received s { fromPeer 2 0x2000 1 with data := data.take 64 } && received s atomic &&
      s.fab.exportEntry 2 == some (true, 0, 0) && packetLanes atomic (codeBytes 3) == [56] &&
      ([.read, .write, .atomic] : List Access).all fun a => okWith (s.translateHub 0 false 0x2000 a) fun x =>
        !x.cnt && (List.range 64).all fun k => !s.unitBad ((x.pa + k) / 8)) = true ∧
    (let s := onFabric false (paged [] State.reset)
     s.fab.exportEntry 2 == some (false, 0, 0) && received s (fromPeer 2 0x2000 1) && received s (fromPeer 3 0x2000 1)) = true ∧
    (let s := onFabric true State.reset
     let to3 (kind : Nat) : Packet := { fromPeer kind 0 1 with off := 3 * 2 ^ 32 }
     s.boot.rest == 0 && s.fab.exportEntry 3 == none && received s (to3 1) && received s (to3 4) &&
      received s { fromPeer 1 0 (2 ^ 64 - 1) with off := 1023 * 2 ^ 32 } && (s.portTo 7 0) == some 3) = true := by decide +kernel

/-- A request of this device to peer 7, unanswered. -/
def waitingFor (who : Requester) (kind : Nat) (retry : Option Nat) : Outstanding :=
  { tag := 4, peer := 7, who := who, sentAt := 0, line := peerLine 7 0, core := 0, retryAt := retry
    packet := { blankPacket kind 2 7 8 with src := 5, tag := 4, be := 0xF00 }, hop := 8 }

theorem witness_RemoteCountsAndRoutes :
    (let load : Packet := { fromPeer 4 0x1F00 0xF0 with op := 0, w := 7 }
     let s := onFabric true (withAdt (.ldf (memOf .f32)) false false 0 .todo)
     let full := { s with fab := { s.fab with remote := List.replicate 4096 ((homeOf 0x21F04).1, ⟨8, 0, 0, 1⟩) } }
     ([s, full] : List State).all fun s => received s load && s.hasFeature 12 && packetLanes load (codeBytes 7) == [4] &&
      okWith (s.translateHub 0 false 0x1F00 .read) fun x => x.cnt && x.pa == 0x21F00 &&
        (match s.countedLoad 0 false (0x1F00 + 4) (x.pa + 4) x.cnt 4 with | (_, .value _) => true | _ => false)) = true ∧
    (let f : Fabric := { Fabric.reset with remote := [(1, ⟨7, 9, 64, -1⟩), (1, ⟨7, 9, 128, 5⟩)] }
     f.remote.any (fun e => e.1 == 1 && e.2.peer == 7 && e.2.inc == 9 && e.2.granule == 0) = false ∧
      ((List.replicate 4096 ((1, ⟨7, 9, 64, 1⟩) : Nat × Remote)).filter (·.1 == 1)).length = 4096 ∧
      (f.remote.find? fun e => e.2.granule == 64) = some (1, ⟨7, 9, 64, -1⟩) ∧ (f.remote.find? fun e => e.2.granule == 128) = some (1, ⟨7, 9, 128, 5⟩)) ∧
    ([0, 1] : List Nat).all (fun at_ =>
      let s := onFabric true State.reset
      let s := { s with fab := { s.fab with outstanding := [waitingFor (.bte 0) 4 (some at_)] } }
      meets (s.fab.outstanding[0]?) fun o => o.retryAt == some at_ && o.packet.dst == 7 && o.packet.inter == 0x3FF &&
        s.portTo o.packet.dst o.hop == some 3 &&
        (let p : Packet := { fromPeer 6 8 0xF00 with tag := 4, status := 0xFF }
         (s.fab.outstanding.find? fun q => q.tag == p.tag && q.peer == p.src && !(q.packet.kind == 2 || q.packet.kind == 5)) == some o &&
          o.packet.kind == 4 && s.fab.arrives p && s.fab.sent == [])) = true ∧
    ([0, 4096] : List Nat).all (fun size =>
      let s := withRegs (fun r => { r with olBase := 0x10000, olSize := BitVec.ofNat 64 size }) (onFabric true State.reset)
      let s := { s with fab := { s.fab with remote := [(1, ⟨7, 9, 64, -1⟩), (1, ⟨8, 9, 64, 1⟩)] } }
      s.hasFeature 36 && (s.fab.peer 7).state == 1 && s.fab.outstanding == [] && s.fab.bars == [] &&
        (s.fab.remote.filter fun e => e.2.peer == 7) == [(1, ⟨7, 9, 64, -1⟩)] &&
        decide (s.ringOk 0x10000 size 24 = true ∧ ringRoom size 0 0 ≠ 0) == (size == 4096)) = true ∧
    (let s := onFabric true State.reset
     let p : Packet := { fromPeer 1 0 1 with src := 8, dst := 7 }
     decide (p.dst ≤ 992) && decide (p.src ≤ 992) && p.src != s.fab.device && p.dst != s.fab.device && s.portTo p.dst p.off == some 3 &&
      packetFits p && p.inter == 0x3FF && s.fab.device != 0x3FF && { p with inter := 5 }.inter == s.fab.device) = true ∧
    ([0, 2 ^ 63 + 2 ^ 3] : List Nat).all (fun e =>
      let s := onFabric true State.reset
      let s := { s with fab := { s.fab with trees := [(2 * 256 + 1, BitVec.ofNat 64 e)] } }
      let p : Packet := { fromPeer 5 0 1 with tree := 1 }
      received s p && ((amGet 0 s.fab.trees (2 % 36 * 256 + p.tree % 256)).toNat == e) &&
        packetParts p != none && (e == 0 || s.hasFeature 17 && ((List.range 36).filter (bitAt e) == [3] && !bitAt e 62 && s.portPeer 3 == some 7 &&
          (s.fab.peer 7).state == 1)) && s.fab.casts == []) = true ∧
    (let s := onFabric true State.reset
     let p : Packet := { fromPeer 5 0 1 with tree := 1, data := List.replicate 128 0 }
     received s p && packetParts p == none) = true ∧
    (bitAt (Fabric.reset.route 992) 63 = false ∧ (Fabric.reset.peer 992).state = 0 ∧ windowed.boot.stage.toNat = 2 ∧
      State.reset.boot.stage.toNat = 0) := by
  refine ⟨by decide +kernel, ⟨by decide +kernel, ?_, by decide +kernel, by decide +kernel⟩, by decide +kernel, by decide +kernel, by decide +kernel,
    by decide +kernel, by decide +kernel⟩
  rw [List.filter_replicate_of_pos (by decide), List.length_replicate]

theorem witness_FabricRepliesAndBarriers :
    ([(6, some 9, 1), (7, none, 2)] : List (Nat × Option GReg × Nat)).all (fun p =>
      let s := onFabric true (sNext id fun sp => { sp with wait := .fabric 4 p.2.1 })
      let s := { s with fab := { s.fab with outstanding := [waitingFor (.scalar 0 0 0) p.2.2 none] } }
      let r : Packet := { fromPeer p.1 0 1 with tag := 4, data := List.replicate 64 1 }
      meets (s.ctxOf ⟨0, 0, 0⟩) (fun x => x.who == ⟨0, 0, 0⟩ && x.split.wait == .fabric 4 p.2.1 && x.warp.latch == none) &&
        (s.fab.outstanding.find? fun q => q.tag == r.tag && q.peer == r.src && (r.kind == 7) == (q.packet.kind == 2 || q.packet.kind == 5)).isSome &&
        s.fab.arrives r && s.fab.sent == [] && r.status == 0 && s.fab.casts == [] && s.fab.members == [] && s.hub.regs.captureCtl == 0) = true ∧
    (State.reset.clock.toNat < 0 + State.reset.hub.regs.fabTmo.toNat * 940 ∧
      0 + State.reset.hub.regs.fabTmo.toNat * 940 ≤ { State.reset with clock := 2000 * 940 }.clock.toNat) ∧
    (let b : FabBar := { FabBar.reset with off := 0x40, n := 2, list := 0x2100, srec := 0x2200, dead := false }
     let s := onFabric true (paged [(0x2100, 7 + 5 * 2 ^ 16), (0x2200, 5 * 2 ^ 51 + 2)] State.reset)
     let s := { s with fab := { s.fab with bars := [(9, b)] } }
     let reported := { b with reports := [(0, 5)] }
     decide (∃ r ∈ reported.reports, r.1 = 0) && decide (reported.reports.length < reported.n) && b.left == [] && s.boot.rest == 0 &&
     let p (src pc : Nat) : Packet := { fromPeer 8 0 1 with src := src, barOff := 0x40, pcount := BitVec.ofNat 32 pc }
     s.fab.barOf 0 0x40 == some (9, b) && okWith (s.barList b) (fun l => rankIn 7 l 0 == some 0 && l == [7, 5] && !s.memberDown l) &&
      s.fab.arrives (p 7 0) && s.fab.sent == [] && decide (b.reports.length + 1 < b.n) && s.fab.arrives (p 7 1) &&
      (match srecArrive (hubTr b.asid true) s b.srec.toNat 0 (s.clock.toNat / 940) with | (_, .ok) => true | _ => false)) = true ∧
    (let s := onFabric true (withLm 0x40 [barWord 2 0 1 0 1 1 1, 0, 0, 0] (lNext id))
     ([9, 10] : List Nat).all fun k => let p : Packet := { fromPeer k 0 1 with barOff := 0x40 }
      s.fab.arrives p && s.fab.sent == [] && s.hub.saving.length == 0 && s.hub.resume.length == 0 &&
        (s.rootWaiters p.barAsid p.barOff).map (fun t => (t.1, t.2.1)) == [(0, 0)] && !(s.core 0).barBad 0x40) = true := by decide +kernel

/-- A Floe port that runs, with one flit to send and one in its retry buffer. -/
def aPort : Port :=
  { Port.reset with
    up := true, txSeq := 3, ackSeq := 2, sendNext := 3, cur := some (1, 1, blankPacket 2 1 7 0), retry := [(2, blankPacket 2 1 7 0)], accepted := 31 }

theorem witness_LinksAndFirn :
    (let s := { State.reset with clock := 940, fab := { Fabric.reset with ports := [(35, aPort), (34, { aPort with training := true })] } }
     let q := s.fab.port 35
     q.up = true ∧ q.training = false ∧ q.sendNext = q.txSeq ∧ (q.txSeq - q.ackSeq).toNat < 4096 ∧ q.cur.isSome = true ∧ q.accepted + 1 = 32 ∧
      (3 - q.ackSeq).toNat ≤ (q.txSeq - q.ackSeq).toNat ∧ q.lastAck + 940 ≤ s.clock.toNat ∧ (s.fab.port 34).training = true ∧
      (s.fab.port 34).lanes ≠ 0 ∧ { q with lanes := 0 }.lanes = 0 ∧ (s.fab.port 33).up = false ∧ s.boot.stage ≠ 2 ∧ windowed.boot.stage = 2) ∧
    (Config.portTrains 35 = true ∨ Config.portTrains 35 = false) ∧
    (let s := withRegs (fun r => { r with firnSize := 2 ^ 30, firnMap := 0x102 }) State.reset
     let s := { s with fab := { s.fab with cxl := [(1, { CxlPort.reset with up := true, trained := true })] } }
     let t := { s with stale := [(firnBase / 64, 7)] }
     s.hub.regs.firnErr.length = 8 ∧ s.behind 1 firnBase = true ∧ s.firnDown firnBase = false ∧ s.stale = [] ∧ (t.stale.find? (fun x => x.1 == firnBase / 64)).isSome = true) ∧
    (({ CxlPort.reset with up := true, trained := true } : CxlPort).up = true ∧ ({ CxlPort.reset with trained := true } : CxlPort).up = false) := by
  refine ⟨by decide +kernel, ?_, by decide +kernel, by decide +kernel⟩
  cases Config.portTrains 35 <;> simp

/-- Each form at the ends of its operands' ranges has a word and is well-formed. -/
theorem witness_ScalarEncodingRoundTrip :
    ([.add 63 0 63, .addi 1 63 0x1FFF, .ldg 4 62 0x3FFC, .trap 0xFFFFF, .issue 15 0x3FFFFF, .loop 63 0x2000,
      .barwait 0x7FFF true, .wrsr 63 0x18] : List Instr).all (fun i => (encodeScalar i).isSome && i.wellFormed) = true := by decide +kernel

theorem witness_LaneEncodingRoundTrip :
    ([.iadd ⟨255, 255, .lane 255, 0, 0, 0, .ifNot 255⟩, .iadd ⟨0, 0, .imm, 0, 0, 0xFFFFFFFF, .none⟩, .ld { memOf .b128 with vb := 0, vc := 0 },
      .mmaJ (engOf 0 0 0 0 0 1 0xFFFF)] : List Instr).all (fun i => (encodeLane i).isSome && i.wellFormed) = true := by decide +kernel

theorem witness_StepKeepsInvariant :
    let s : State := { State.reset with agenda := [.cycle] }
    (Memory.wf s.mem = true ∧ s.feat = State.reset.feat ∧ s.boot.stage.toNat ≤ 2) ∧ ∃ t, step s = .next t :=
  ⟨⟨by decide, rfl, by decide⟩, _, rfl⟩

/-- The state from which a cycle's issue chooses. -/
def heldAt (s : State) : State :=
  let start : State := { s with cores := s.cores.map fun e => (e.1, e.2.atStart (s.hasFeature 28)) }
  (start.cores.flatMap fun e => coreSplits start e.1).foldl State.noteHold start

theorem witness_StepRunsTheDecodedInstruction :
    ([true, false] : List Bool).all (fun late => let s := next 32 0xA8000000 id
     let s : State := { s with agenda := if late then [.issued ⟨0, 0, 0⟩] else s.agenda }
     let s0 : State := { s with agenda := [] }
     let s1 := { (if late then s0 else s0.noteIssue ⟨0, 0, 0⟩ false) with cur := ⟨0, 0, 0⟩ }
     s.agenda == [if late then .issued ⟨0, 0, 0⟩ else .scalar ⟨0, 0, 0⟩] && s.allSplits.all (fun v => !s.mustWake v) && meets s1.ctx fun x => x.split.pend == [] &&
      x.split.wait == .run && !inAperture x.split.spc.toNat && s.hasFeature 0 &&
        match s1.translate 0 x.team.asid x.team.priv x.split.spc.toNat .fetch with
        | (u, .ok p) => okWith (u.homeRead p.pa 4) fun bs => okWith (decodeScalar (BitVec.ofNat 32 (leNat bs))) (· == .halt)
        | _ => false) = true ∧
    (let s := next 96 0xA04000000000000000000400 id
     let s0 := { s with agenda := [] }
     let s1 := { s0.noteIssue ⟨0, 0, 0⟩ true with cur := ⟨0, 0, 0⟩ }
     s.agenda == [.lane ⟨0, 0, 0⟩] && s.allSplits.all (fun v => !s.mustWake v) && laneFree s0 ⟨0, 0, 0⟩ && meets s1.ctx fun x =>
      meets (x.split.cq.head?.bind fun k => k.words[k.next]?) fun b => okWith (decodeLane b) fun i =>
        i == .mma (engOf 0 0 0 0 0 0 0x400)) = true ∧
    isEvent .gangPlace = true ∧
    ([(next 32 0xA8000000 id, false), (next 96 0xA04000000000000000000400 id, true)] : List (State × Bool)).all (fun p =>
      (sideOf (heldAt p.1) 0 (0, p.2)).pick == some ⟨0, 0, 0⟩ && p.1.cores.any (·.1 == 0)) = true := by decide +kernel

end Sys2Proof.Tests
end

/-! ### Traps (R171, R272, R273, R303): the rules of the operations that raise and enter one -/

namespace Sys2Proof.Machine

open Sys2Proof.Laws

/-! #### Guards -/

@[simp] theorem teamRuns_iff (m : Team) : teamRuns m = true ↔ m.run = .running := by simp [teamRuns]

theorem latchBusy_eq_false_iff (w : Warp) (e : Nat) : w.latchBusy e = false ↔ w.latch = none ∨ w.latch = some e := by
  unfold Warp.latchBusy
  cases w.latch <;> simp

theorem latchBusy_of_other {w : Warp} {e d : Nat} (h : w.latch = some e) (hne : e ≠ d) : w.latchBusy d = true := by
  simp [Warp.latchBusy, h, hne]

theorem bkptStops_eq_false_iff (s : State) (m : Team) : bkptStops s m = false ↔
    s.hub.regs.dbgCtl.toNat % 4096 ≠ m.asid.toNat ∨ s.hub.regs.dbgCtl.getLsbD 12 = false := by
  unfold bkptStops
  cases s.hub.regs.dbgCtl.getLsbD 12 <;> simp

theorem issuing_of_ctxOf {s : State} {who : Who} {c : Ctx} (h : s.ctxOf who = some c) :
    s.issuing who.core c.warp.team = teamRuns c.team := by
  obtain ⟨-, -, -, ht, -⟩ := ctxOf_some h
  simp [State.issuing, ht]

/-! #### A team that begins to stop -/

theorem beginStop_running {m : Team} (h : m.run = .running) (src cause : Nat) (clock : BitVec 64) (wptr : List Word) :
    m.beginStop src cause clock wptr = { m with
      run := .stopping src, stop := { cause := cause, clock := clock, wptr := wptr, after := [], recs := [] } } := by
  unfold Team.beginStop
  rw [h]
  rfl

theorem Local.clock {s t : State} {x : Ctx} {k : Core} {w : Warp} {m : Team} (h : Local s t x k w m) :
    t.clock = s.clock := by rw [h.rest]

/-- The copy channels' write pointers are the core's own. -/
theorem Local.wptrs {s t : State} {x : Ctx} {k : Core} {w : Warp} {m : Team} (h : Local s t x k w m) :
    (t.core x.who.core).wptrs = k.wptrs := by rw [h.core]; rfl

/-- Everything `stopTeam` does. -/
theorem Local.stopTeam {s t : State} {x : Ctx} {k : Core} {w : Warp} {m : Team} (h : Local s t x k w m)
    (src cause : Nat) :
    Local s (t.stopTeam x.who.core x.warp.team src cause) x k w (m.beginStop src cause s.clock k.wptrs) := by
  rw [← h.clock, ← h.wptrs]
  exact h.modTeam _

/-! #### What entering a trap makes of the warp and its split -/

/-- The warp as its split `e`, so far `sp`, takes a trap: the latch and the trap registers, and where the split leaves a
JOIN, LIVE of its origin entry (R272; log 13). -/
def Warp.latchTrap (w : Warp) (e : Nat) (sp : Split) (p : PendTrap) : Warp :=
  { (if sp.jw then w.unarrive e sp else w).setTrap p with latch := some e }

/-- The split as it has taken a trap: at TRAP_BASE, or where that is zero in its place (R272). -/
def Split.trapped (sp : Split) (base : VAddr) : Split :=
  { sp with spc := if base = 0 then sp.spc else base, wait := .run, jw := false, atEnd := false }

/-- The team as one of its splits has taken a trap: with TRAP_BASE zero it begins to stop (R272, R303). -/
def Team.trapped (m : Team) (cause : Nat) (clock : BitVec 64) (wptr : List Word) : Team :=
  if m.trapBase = 0 then m.beginStop 1 cause clock wptr else m

theorem Split.trapped_of_ne {base : VAddr} (h : base ≠ 0) (sp : Split) :
    sp.trapped base = { sp with spc := base, wait := .run, jw := false, atEnd := false } := by
  rw [Split.trapped, if_neg h]

theorem Split.trapped_of_zero {base : VAddr} (h : base = 0) (sp : Split) :
    sp.trapped base = { sp with wait := .run, jw := false, atEnd := false } := by
  rw [Split.trapped, if_pos h]

theorem Team.trapped_of_ne {m : Team} (h : m.trapBase ≠ 0) (cause : Nat) (clock : BitVec 64) (wptr : List Word) :
    m.trapped cause clock wptr = m := if_neg h

theorem Team.trapped_of_zero {m : Team} (h : m.trapBase = 0) (hrun : m.run = .running) (cause : Nat)
    (clock : BitVec 64) (wptr : List Word) :
    m.trapped cause clock wptr = { m with
      run := .stopping 1, stop := { cause := cause, clock := clock, wptr := wptr, after := [], recs := [] } } := by
  rw [Team.trapped, if_pos h, beginStop_running hrun]

theorem modSplit_rest (w : Warp) (e : Nat) (f : Split → Split) :
    w.modSplit e f = { w with splits := (w.modSplit e f).splits } := by
  unfold Warp.modSplit
  split <;> rfl

theorem unarrive_rest (w : Warp) (e : Nat) (sp : Split) :
    w.unarrive e sp = { w with splits := (w.unarrive e sp).splits } := by
  unfold Warp.unarrive
  split
  · exact modSplit_rest _ _ _
  · rfl

theorem latchTrap_rest (w : Warp) (e : Nat) (sp : Split) (p : PendTrap) :
    w.latchTrap e sp p = { w with
      trapCause := trapCauseWord p, trapPc := p.pc, trapAddr := p.addr, latch := some e,
      splits := (w.latchTrap e sp p).splits } := by
  unfold Warp.latchTrap Warp.setTrap
  split
  · rw [unarrive_rest]
  · rfl

theorem splits_unarrive (w : Warp) (e : Nat) (sp : Split) (n : Nat) :
    amFind (w.unarrive e sp).splits n = (amFind w.splits n).map fun q =>
      if sp.orgFam = sp.fam ∧ n = sp.origin.toNat ∧ n ≠ e then { q with liveCount := q.liveCount + 1 } else q := by
  unfold Warp.unarrive Split.counted
  split
  next h =>
    simp only [Bool.and_eq_true, beq_iff_eq, bne_iff_ne] at h
    rw [splits_modSplit]
    split
    next hn => subst hn; simp [h]
    next hn => simp [hn]
  next h =>
    simp only [Bool.and_eq_true, beq_iff_eq, bne_iff_ne] at h
    have hno : ¬ (sp.orgFam = sp.fam ∧ n = sp.origin.toNat ∧ n ≠ e) := fun ⟨hf, ho, he⟩ => h ⟨hf, ho ▸ he⟩
    simp [hno]

/-- LIVE of the origin entry rises where a counted split leaves a JOIN; no other entry changes. -/
theorem splits_latchTrap (w : Warp) (e : Nat) (sp : Split) (p : PendTrap) (n : Nat) :
    amFind (w.latchTrap e sp p).splits n = (amFind w.splits n).map fun q =>
      if sp.jw = true ∧ sp.orgFam = sp.fam ∧ n = sp.origin.toNat ∧ n ≠ e then
        { q with liveCount := q.liveCount + 1 } else q := by
  unfold Warp.latchTrap Warp.setTrap
  split
  next hj => simp only [splits_unarrive, hj, true_and]
  next hj => simp [hj]

/-- The split that takes the trap is itself changed as `Split.trapped` says alone. -/
theorem splits_latchTrap_trapped {w : Warp} {e : Nat} {sp : Split} (hsp : amFind w.splits e = some sp) (p : PendTrap)
    (base : VAddr) :
    amFind ((w.latchTrap e sp p).modSplit e fun q => q.trapped base).splits e = some (sp.trapped base) := by
  simp [splits_modSplit, splits_latchTrap, hsp]

/-! #### Entering a trap -/

/-- The context of the split that a `Local` speaks of. -/
theorem Local.ctxOf {s t : State} {x : Ctx} {k : Core} {w : Warp} {m : Team} {sp : Split} (h : Local s t x k w m)
    (hteam : w.team = x.warp.team) (hsp : amFind w.splits x.who.entry = some sp) :
    t.ctxOf x.who = some ⟨x.who, t.core x.who.core, w, m, sp⟩ := by
  simp only [State.ctxOf, h.warp, hteam, h.team, hsp]

/-- A trap that names no absent feature: latch and registers, then the team, then the split. -/
theorem enterTrap_eq {s : State} {who : Who} {c : Ctx} {p : PendTrap} (hc : s.ctxOf who = some c)
    (hf : p.feature = none) :
    s.enterTrap who p =
      let u := s.modWarp who.core who.slot fun w => w.latchTrap who.entry c.split p
      (if c.team.trapBase = 0 then u.stopTeam who.core c.warp.team 1 p.cause.code else u).modSplit who
        fun sp => sp.trapped c.team.trapBase := by
  unfold State.enterTrap
  simp only [hc, hf]
  split
  next hb => simp only [Split.trapped_of_zero hb]; rfl
  next hb => simp only [Split.trapped_of_ne hb]; rfl

/-- Everything `enterTrap` does for a trap that names no absent feature. -/
theorem Local.enterTrap {s t : State} {x : Ctx} {k : Core} {w : Warp} {m : Team} {sp : Split} {p : PendTrap}
    (h : Local s t x k w m) (hteam : w.team = x.warp.team) (hsp : amFind w.splits x.who.entry = some sp)
    (hf : p.feature = none) :
    Local s (t.enterTrap x.who p) x k
      ((w.latchTrap x.who.entry sp p).modSplit x.who.entry fun q => q.trapped m.trapBase)
      (m.trapped p.cause.code s.clock k.wptrs) := by
  have hlatch := h.modWarp fun v => v.latchTrap x.who.entry sp p
  rw [enterTrap_eq (h.ctxOf hteam hsp) hf]
  unfold Team.trapped
  simp only [hteam]
  split
  · exact (hlatch.stopTeam _ _).modSplit _
  · exact hlatch.modSplit _

/-! #### Raising a trap: it is held, it waits, or it enters -/

theorem raiseTrap_held {s : State} {who : Who} {c : Ctx} (hc : s.ctxOf who = some c) (hrun : c.team.run ≠ .running)
    (p : PendTrap) : s.raiseTrap who p =
      s.modSplit who fun sp => { sp with wait := .run, pend := sp.pend ++ [{ p with held := true }] } := by
  obtain ⟨-, -, hw, -, -⟩ := ctxOf_some hc
  simp [State.raiseTrap, hw, issuing_of_ctxOf hc, hrun]

theorem raiseTrap_waits {s : State} {who : Who} {c : Ctx} (hc : s.ctxOf who = some c) (hrun : c.team.run = .running)
    (hbusy : c.warp.latchBusy who.entry = true) (p : PendTrap) : s.raiseTrap who p =
      s.modSplit who fun sp => { sp with wait := .trapLatch, pend := sp.pend ++ [{ p with held := false }] } := by
  obtain ⟨-, -, hw, -, -⟩ := ctxOf_some hc
  simp [State.raiseTrap, hw, issuing_of_ctxOf hc, hrun, hbusy]

theorem raiseTrap_enters {s : State} {who : Who} {c : Ctx} (hc : s.ctxOf who = some c) (hrun : c.team.run = .running)
    (hfree : c.warp.latchBusy who.entry = false) (p : PendTrap) : s.raiseTrap who p = s.enterTrap who p := by
  obtain ⟨-, -, hw, -, -⟩ := ctxOf_some hc
  simp [State.raiseTrap, hw, issuing_of_ctxOf hc, hrun, hfree]

/-! #### Entering a trap in the terms of `Spec.TrapTaken` -/

/-- `w` is the context's warp, its split at `pc` with the traps `ps` recorded, whatever it waited for: what stands when
the split takes a trap. -/
structure TrapsAt (x : Ctx) (w : Warp) (pc : VAddr) (ps : List PendTrap) : Prop where
  rest : w = { x.warp with splits := w.splits }
  self : ∃ wt, amFind w.splits x.who.entry = some { x.split with spc := pc, wait := wt, pend := ps }
  others : ∀ n, n ≠ x.who.entry → amFind w.splits n = amFind x.warp.splits n

/-- The warp of a context itself. -/
theorem TrapsAt.of_ctxOf {s : State} {x : Ctx} (h : s.ctxOf x.who = some x) :
    TrapsAt x x.warp x.split.spc x.split.pend := by
  obtain ⟨-, -, -, -, hsp⟩ := ctxOf_some h
  exact { rest := rfl, self := ⟨x.split.wait, hsp⟩, others := fun _ _ => rfl }

/-- The warp of a context after a change of its split's SPC, wait and recorded traps. -/
theorem TrapsAt.modSplit {s : State} {x : Ctx} {f : Split → Split} {pc : VAddr} {wt : Wait} {ps : List PendTrap}
    (h : s.ctxOf x.who = some x) (hf : f x.split = { x.split with spc := pc, wait := wt, pend := ps }) :
    TrapsAt x (x.warp.modSplit x.who.entry f) pc ps := by
  obtain ⟨-, -, -, -, hsp⟩ := ctxOf_some h
  exact
    { rest := modSplit_rest _ _ _
      self := ⟨wt, by simp [splits_modSplit, hsp, hf]⟩
      others := fun n hn => by simp [splits_modSplit, hn] }

theorem TrapsAt.team {x : Ctx} {w : Warp} {pc : VAddr} {ps : List PendTrap} (h : TrapsAt x w pc ps) :
    w.team = x.warp.team := by rw [h.rest]

theorem TrapsAt.latch {x : Ctx} {w : Warp} {pc : VAddr} {ps : List PendTrap} (h : TrapsAt x w pc ps) :
    w.latch = x.warp.latch := by rw [h.rest]

/-- Entering a trap that names no absent feature takes it, whatever changed of the team before but its run and
TRAP_BASE. -/
theorem trapTaken_enterTrap {s t : State} {x : Ctx} {w : Warp} {m : Team} {pc : VAddr} {ps : List PendTrap}
    {p : PendTrap} (h : Local s t x (s.core x.who.core) w m) (hw : TrapsAt x w pc ps)
    (hbase : m.trapBase = x.team.trapBase) (hrun : m.run = x.team.run) (hf : p.feature = none) (hl : p.lane < 32) :
    Spec.TrapTaken s (t.enterTrap x.who p) x { x.split with spc := pc, pend := ps } m p.laneSide p.lane p.cause.code
      p.pc p.addr := by
  obtain ⟨wt, hsp⟩ := hw.self
  have hself := splits_latchTrap_trapped hsp p m.trapBase
  refine ⟨_, _, h.enterTrap hw.team hsp hf, ?_, ?_, ?_, ?_⟩
  · rw [modSplit_rest, latchTrap_rest, hw.rest]
    simp [trapCauseWord, Nat.mod_eq_of_lt hl]
  · intro n hn
    simp [splits_modSplit, hn, splits_latchTrap, hw.others n hn]
  · intro hb
    rw [← hbase] at hb ⊢
    rw [hself, Split.trapped_of_ne hb, Team.trapped_of_ne hb]
    exact ⟨rfl, rfl⟩
  · intro hb
    rw [← hbase] at hb
    rw [hself, Split.trapped_of_zero hb]
    exact ⟨rfl, fun hr => Team.trapped_of_zero hb (hrun.trans hr) _ _ _⟩

/-- A trap raised with its team running and the latch free or its split's own enters. -/
theorem trapTaken_raiseTrap {s t : State} {x : Ctx} {w : Warp} {m : Team} {pc : VAddr} {ps : List PendTrap}
    {p : PendTrap} (h : Local s t x (s.core x.who.core) w m) (hw : TrapsAt x w pc ps)
    (hbase : m.trapBase = x.team.trapBase) (hrun : m.run = x.team.run) (hf : p.feature = none) (hl : p.lane < 32)
    (hrunning : x.team.run = .running) (hlatch : x.warp.latch = none ∨ x.warp.latch = some x.who.entry) :
    Spec.TrapTaken s (t.raiseTrap x.who p) x { x.split with spc := pc, pend := ps } m p.laneSide p.lane p.cause.code
      p.pc p.addr := by
  obtain ⟨wt, hsp⟩ := hw.self
  have hfree : w.latchBusy x.who.entry = false := (latchBusy_eq_false_iff _ _).2 (hw.latch ▸ hlatch)
  rw [raiseTrap_enters (h.ctxOf hw.team hsp) (hrun.trans hrunning) hfree]
  exact trapTaken_enterTrap h hw hbase hrun hf hl

/-! #### The instructions and the event -/

/-- A ready split's context is its own. -/
theorem ScalarReady.ctxOf {s : State} {x : Ctx} {i : Instr} (h : ScalarReady s x i) : s.ctxOf x.who = some x := by
  obtain ⟨hwho, -⟩ := ctx_some h.ctx
  rw [hwho]
  exact h.ctx

/-- An instruction that completes and traps past itself (R273). -/
theorem trapTaken_trapAfter {s : State} {x : Ctx} (h : s.ctxOf x.who = some x) (hrunning : x.team.run = .running)
    (hlatch : x.warp.latch = none ∨ x.warp.latch = some x.who.entry) (c : Cause) :
    Spec.TrapTaken s (s.trapAfter x c) x { x.split with spc := x.split.spc + 4 } x.team.counted false 0 c.code
      (x.split.spc + 4) 0 :=
  trapTaken_raiseTrap (p := scalarTrap c (x.split.spc + 4) 0) ((Local.refl h).goto _) (TrapsAt.modSplit h rfl) rfl rfl
    rfl (show 0 < 32 by decide) hrunning hlatch

theorem execTrapEntry_enters {s : State} {x : Ctx} {p : PendTrap} {ps : List PendTrap} (h : s.ctxOf x.who = some x)
    (hp : x.split.pend = p :: ps) (hlive : x.split.live = true) (hrun : x.team.run = .running)
    (hfree : x.warp.latchBusy x.who.entry = false) (hmid : x.split.midway = false) :
    exec (.trapEntry x.who.core x.who.slot x.who.entry) s =
      .next ((s.modSplit x.who fun sp => { sp with pend := ps }).enterTrap x.who p) := by
  change execTrapEntry _ _ _ s = _
  simp [execTrapEntry, h, hp, hlive, hrun, hfree, hmid]

theorem execTrapEntry_midway {s : State} {x : Ctx} {p : PendTrap} {ps : List PendTrap} (h : s.ctxOf x.who = some x)
    (hp : x.split.pend = p :: ps) (hmid : x.split.midway = true) :
    exec (.trapEntry x.who.core x.who.slot x.who.entry) s = .next s := by
  change execTrapEntry _ _ _ s = _
  simp [execTrapEntry, h, hp, hmid]

/-! #### The parts of the statement on taking a trap -/

theorem scalarFaultEntry : Spec.ScalarFaultEntry := by
  intro s x c addr h
  refine ⟨fun hrun hlatch => ?_, fun e hrun hl hne => ?_, fun hrun => ?_⟩
  · exact trapTaken_raiseTrap (p := scalarTrap c x.split.spc addr) (Local.refl h) (TrapsAt.of_ctxOf h) rfl rfl rfl
      (show 0 < 32 by decide) hrun hlatch
  · exact raiseTrap_waits h hrun (latchBusy_of_other hl hne) _
  · exact raiseTrap_held h hrun _

theorem trapAndBreakpointEntry : Spec.TrapAndBreakpointEntry := by
  intro s x k hrun hlatch
  refine ⟨fun hr => ⟨_, runScalar_ready hr _, ?_⟩, fun hr hdbg => ⟨_, runScalar_ready hr _, ?_⟩⟩
  · exact trapTaken_trapAfter hr.ctxOf hrun hlatch .userTrap
  · rw [(bkptStops_eq_false_iff s x.team).2 hdbg]
    exact trapTaken_trapAfter hr.ctxOf hrun hlatch .breakpoint

theorem recordedTrapEntry : Spec.RecordedTrapEntry := by
  intro s x p ps h hp hf hl hlive hrun hlatch
  refine ⟨fun hmid => ⟨_, execTrapEntry_enters h hp hlive hrun ((latchBusy_eq_false_iff _ _).2 hlatch) hmid, ?_⟩,
    execTrapEntry_midway h hp⟩
  exact trapTaken_enterTrap ((Local.refl h).modSplit _) (TrapsAt.modSplit h rfl) rfl rfl hf hl

theorem mem_allCauses (c : Cause) : c ∈ allCauses := by cases c <;> decide

theorem causeCodes : Spec.CauseCodes := by
  have hfound : ∀ c ∈ allCauses, causeOf c.code = some c := by decide
  exact ⟨rfl, fun c => ⟨mem_allCauses c, hfound c (mem_allCauses c)⟩⟩

/-- Settles O12: each way to raise a trap reaches `enterTrap` from a warp that differs from the context's in the split
alone, and `trapTaken_enterTrap` says what that leaves. -/
theorem trapEntry : Obligations.TrapEntry :=
  ⟨scalarFaultEntry, trapAndBreakpointEntry, recordedTrapEntry, causeCodes⟩

end Sys2Proof.Machine

/-! ### Translation and fetch (R96 to R99, R155): only what translation keeps for itself changes -/

namespace Sys2Proof.Machine

open Sys2Proof.Laws

/-! #### What `Spec.TranslationOnly` leaves alone -/

theorem translationOnly_refl (s : State) : Spec.TranslationOnly s s := ⟨rfl, fun _ => rfl⟩

theorem translationOnly_trans {s t u : State} (h : Spec.TranslationOnly s t) (g : Spec.TranslationOnly t u) :
    Spec.TranslationOnly s u where
  rest := by rw [g.rest, h.rest]
  cores c := by rw [g.cores c, h.cores c]

theorem translationOnly_feat {s t : State} (h : Spec.TranslationOnly s t) : t.feat = s.feat := by rw [h.rest]

theorem translationOnly_hasFeature {s t : State} (h : Spec.TranslationOnly s t) (i : Nat) :
    t.hasFeature i = s.hasFeature i := by rw [State.hasFeature, translationOnly_feat h]; rfl

theorem translationOnly_warp {s t : State} (h : Spec.TranslationOnly s t) (c n : Nat) : t.warp c n = s.warp c n := by
  rw [State.warp, h.cores c]; rfl

theorem translationOnly_team {s t : State} (h : Spec.TranslationOnly s t) (c n : Nat) : t.team c n = s.team c n := by
  rw [State.team, h.cores c]; rfl

/-! #### The TLB levels and the walk -/

theorem translationOnly_modCore (s : State) (c : Nat) {f : Core → Core} (hf : ∀ k, f k = { k with utlb := (f k).utlb }) :
    Spec.TranslationOnly s (s.modCore c f) := by
  refine ⟨rfl, fun d => ?_⟩
  rw [core_modCore]
  split
  next h => rw [h]; exact hf _
  next => rfl

theorem translationOnly_fillMicro (s : State) (c : Nat) (e : TlbEntry) : Spec.TranslationOnly s (s.fillMicro c e) := by
  unfold State.fillMicro
  split
  · exact translationOnly_refl s
  · exact translationOnly_trans (translationOnly_modCore s c fun _ => rfl) ⟨rfl, fun _ => rfl⟩

theorem translationOnly_fillCluster (s : State) (c : Nat) (e : TlbEntry) :
    Spec.TranslationOnly s (s.fillCluster c e) := by
  unfold State.fillCluster
  split
  · exact translationOnly_refl s
  · exact ⟨rfl, fun _ => rfl⟩

theorem translationOnly_fillStack (s : State) (st : Nat) (e : TlbEntry) :
    Spec.TranslationOnly s (s.fillStack st e) := by
  unfold State.fillStack
  split
  · exact translationOnly_refl s
  · exact ⟨rfl, fun _ => rfl⟩

theorem translationOnly_tlbLookup (s : State) (c : Nat) (asid : Asid) (va : Nat) :
    Spec.TranslationOnly s (s.tlbLookup c asid va).1 := by
  unfold State.tlbLookup
  split
  · exact translationOnly_refl s
  · split
    · exact translationOnly_fillMicro _ _ _
    · split
      · exact translationOnly_trans (translationOnly_fillCluster _ _ _) (translationOnly_fillMicro _ _ _)
      · exact translationOnly_refl s

theorem translationOnly_install (s : State) (c : Nat) (e : TlbEntry) : Spec.TranslationOnly s (s.install c e) :=
  translationOnly_trans (translationOnly_trans (translationOnly_fillStack _ _ _) (translationOnly_fillCluster _ _ _))
    (translationOnly_fillMicro _ _ _)

theorem translationOnly_asEntry (s : State) (st : Nat) (asid : Asid) :
    Spec.TranslationOnly s (s.asEntry st asid).1 := by
  unfold State.asEntry
  split
  · exact translationOnly_refl s
  · dsimp only
    split
    · exact translationOnly_refl s
    · split
      · exact translationOnly_refl s
      · exact ⟨rfl, fun _ => rfl⟩

theorem translationOnly_walk (s : State) (st : Nat) (asid : Asid) (va : Nat) :
    Spec.TranslationOnly s (s.walk st asid va).1 := by
  have h := translationOnly_asEntry s st asid
  unfold State.walk
  split
  · exact translationOnly_refl s
  · split
    next he => rw [he] at h; exact h
    next he =>
      rw [he] at h
      split <;> exact h

theorem translationOnly_translate (s : State) (c : Nat) (asid : Asid) (priv : Bool) (va : Nat) (acc : Access) :
    Spec.TranslationOnly s (s.translate c asid priv va acc).1 := by
  have h := translationOnly_tlbLookup s c asid va
  unfold State.translate
  split
  next hl => rw [hl] at h; exact h
  next u hl =>
    rw [hl] at h
    have hw := translationOnly_trans h (translationOnly_walk u (stackOf c) asid va)
    split
    next hk => rw [hk] at hw; exact hw
    next hk => rw [hk] at hw; exact translationOnly_trans hw (translationOnly_install _ _ _)

theorem translationOnly_of_translate {s u : State} {c va : Nat} {asid : Asid} {priv : Bool} {acc : Access}
    {r : Except Cause Xlat} (h : s.translate c asid priv va acc = (u, r)) : Spec.TranslationOnly s u := by
  have := translationOnly_translate s c asid priv va acc
  rwa [h] at this

/-! #### Fetching text -/

/-- A scalar word that is fetched is the four bytes at home of its translated address. -/
theorem fetchScalar_ok {s u : State} {c : Nat} {m : Team} {pc : VAddr} {p : Xlat} {bs : List Byte}
    (ha : inAperture pc.toNat = false) (ht : s.translate c m.asid m.priv pc.toNat .fetch = (u, .ok p))
    (hr : u.homeRead p.pa 4 = .ok bs) : s.fetchScalar c m pc = (u, .ok (BitVec.ofNat 32 (leNat bs))) := by
  unfold State.fetchScalar
  simp only [ha, ht, hr, Bool.false_eq_true, if_false]

theorem translationOnly_of_fetchWord {s u : State} {c a n : Nat} {m : Team} (h : s.fetchWord c m a = (u, .ok n)) :
    Spec.TranslationOnly s u := by
  unfold State.fetchWord at h
  split at h
  · cases h
  · split at h
    · cases h
    next ht =>
      split at h
      · cases h
      · cases h; exact translationOnly_of_translate ht

theorem translationOnly_of_fetchLane {s u : State} {c va : Nat} {m : Team} {w : BitVec 96}
    (h : s.fetchLane c m va = (u, .ok w)) : Spec.TranslationOnly s u := by
  unfold State.fetchLane at h
  split at h
  · cases h
  next h1 =>
    split at h
    · cases h
    next h2 =>
      split at h
      · cases h
      next h3 =>
        cases h
        exact translationOnly_trans (translationOnly_of_fetchWord h1)
          (translationOnly_trans (translationOnly_of_fetchWord h2) (translationOnly_of_fetchWord h3))

theorem translationOnly_of_fetchUnits {c : Nat} {m : Team} {n : Nat} :
    ∀ {s u : State} {unit : Nat} {ws : List (BitVec 96)}, s.fetchUnits c m unit n = (u, .ok ws) →
      Spec.TranslationOnly s u := by
  induction n with
  | zero => intro s u unit ws h; cases h; exact translationOnly_refl s
  | succ n ih =>
    intro s u unit ws h
    unfold State.fetchUnits at h
    split at h
    · cases h
    next h1 =>
      split at h
      · cases h
      next h2 => cases h; exact translationOnly_trans (translationOnly_of_fetchLane h1) (ih h2)

/-- What ISSUE reads without a fault, it reads as text of the team (R164). -/
theorem translationOnly_of_issueRead {s u : State} {x : Ctx} {len unit : Nat} {r : BitVec 96 × List (BitVec 96)}
    (h : issueRead s x len unit = (u, .ok r)) : Spec.TranslationOnly s u := by
  unfold issueRead at h
  split at h
  · cases h
  next hf =>
    dsimp only at h
    split at h
    · cases h
    · split at h
      · cases h; exact translationOnly_of_fetchUnits hf
      · cases h

end Sys2Proof.Machine

/-! ### A step and what it issues (R7, R26, R155, R172) -/

namespace Sys2Proof.Machine

open Sys2Proof.Laws

/-! #### A chosen split's instruction -/

/-- The instruction at SPC is the one its bytes decode to, where its feature and privilege checks pass (R170). -/
theorem fetchDecode_ok {s u : State} {x : Ctx} {p : Xlat} {bs : List Byte} {i : Instr}
    (ha : inAperture x.split.spc.toNat = false)
    (ht : s.translate x.who.core x.team.asid x.team.priv x.split.spc.toNat .fetch = (u, .ok p))
    (hr : u.homeRead p.pa 4 = .ok bs) (hd : decodeScalar (BitVec.ofNat 32 (leNat bs)) = .ok i)
    (hf : s.hasFeature 0 = true) (hp : (∃ d a b, i = .tlbinv d a b) → x.team.priv = true) :
    fetchDecode s x = (u, .ok i) := by
  have hu : u.hasFeature 0 = true := (translationOnly_hasFeature (translationOnly_of_translate ht) 0).trans hf
  unfold fetchDecode
  simp only [fetchScalar_ok ha ht hr, hd, hu, Bool.not_true, Bool.false_eq_true, if_false]
  split
  next d a b => rw [if_pos (hp ⟨d, a, b, rfl⟩)]
  next => rfl

/-- With no trap to take and no ended replay, the scalar side goes on to the instruction at SPC. -/
theorem scalarFetch_ok {s u : State} {x : Ctx} {i : Instr} (hpend : x.split.pend = [])
    (hwait : ∀ e a, x.split.wait ≠ .replayFailed e a) (hfd : fetchDecode s x = (u, .ok i)) :
    scalarFetch s x = (u, some i) := by
  unfold scalarFetch
  simp only [hpend, hfd]

theorem stepScalar_of_fetch {s u : State} {w : Who} {x : Ctx} {i : Instr}
    (hx : ({ s.noteIssue w false with cur := w } : State).ctx = some x)
    (hf : scalarFetch { s.noteIssue w false with cur := w } x = (u, some i)) : stepScalar s w = exec i u := by
  unfold stepScalar
  simp only [hx, hf]

theorem stepIssued_of_fetch {s u : State} {w : Who} {x : Ctx} {i : Instr}
    (hx : ({ s with cur := w } : State).ctx = some x)
    (hf : fetchDecode { s with cur := w } x = (u, .ok i)) : stepIssued s w = exec i u := by
  unfold stepIssued
  simp only [hx, hf]

/-- The head clause has started (R7). -/
def Split.startHead (sp : Split) : Split :=
  match sp.cq with
  | [] => sp
  | h :: t => { sp with cq := { h with started := true } :: t }

/-- The lane side goes on to the next word of the head clause, which has started (R7). -/
theorem laneFetch_ok {s : State} {x : Ctx} {k : Clause} {ks : List Clause} {b : BitVec 96} {i : Instr}
    (hq : x.split.cq = k :: ks) (hb : k.words[k.next]? = some b) (hd : decodeLane b = .ok i) :
    laneFetch s x = (s.modSplit x.who Split.startHead, some i) := by
  unfold laneFetch Split.headWord
  simp only [hq, hb, Option.map_some, hd]
  rfl

theorem stepLane_of_fetch {s u : State} {w : Who} {x : Ctx} {i : Instr} (hfree : laneFree s w = true)
    (hx : ({ s.noteIssue w true with cur := w } : State).ctx = some x)
    (hf : laneFetch { s.noteIssue w true with cur := w } x = (u, some i)) : stepLane s w = exec i u := by
  unfold stepLane
  simp only [hfree, if_true, hx, hf]

theorem stepAction_event {i : Instr} (h : isEvent i = true) (s : State) : stepAction (.event i) s = exec i s := by
  simp only [stepAction, h, if_true]

/-! #### The order of one cycle's issues -/

theorem mem_insertKey {α : Type} (k : α → Nat × Nat) (x y : α) (xs : List α) :
    y ∈ insertKey k x xs ↔ y = x ∨ y ∈ xs := by
  induction xs with
  | nil => simp [insertKey]
  | cons z zs ih =>
    unfold insertKey
    split
    · simp
    · simp only [List.mem_cons, ih]
      tauto

/-- Sorting by a key keeps every element. -/
@[simp] theorem mem_sortKey {α : Type} (k : α → Nat × Nat) (y : α) (xs : List α) : y ∈ sortKey k xs ↔ y ∈ xs := by
  induction xs with
  | nil => rfl
  | cons x xs ih =>
    change y ∈ insertKey k x (sortKey k xs) ↔ _
    rw [mem_insertKey, ih, List.mem_cons]

/-- The lane order of a cycle holds every lane pick. -/
theorem mem_laneOrder {s : State} {picks : List Who} {w : Who} (h : w ∈ picks) : w ∈ laneOrder s picks := by
  unfold laneOrder
  extract_lets is tagl dup mma ps rest before after
  have hps : w ∈ ps := (mem_sortKey _ _ _).2 h
  simp only [List.mem_append, List.mem_filter]
  by_cases ht : tagl w = true
  · exact .inl (.inl (.inl ⟨hps, ht⟩))
  have hrest : w ∈ before ++ after := by
    rw [List.takeWhile_append_dropWhile]
    exact List.mem_filter.2 ⟨hps, by simp [ht]⟩
  rcases List.mem_append.1 hrest with hb | ha
  · exact .inl (.inl (.inr hb))
  · by_cases hd : dup w = true
    · exact .inl (.inr ⟨ha, hd⟩)
    · exact .inr ⟨ha, by simp [hd]⟩

theorem writeRank_cases (i : Option Instr) : writeRank i = 0 ∨ writeRank i = 1 ∨ writeRank i = 2 := by
  unfold writeRank
  split
  · exact .inr (.inl rfl)
  · split
    · exact .inr (.inr rfl)
    · exact .inr (.inl rfl)
  · exact .inr (.inr rfl)
  · exact .inl rfl

theorem laneAction_cases (s : State) (w : Who) :
    laneAction s w = .lane w ∨ laneAction s w = .event (.mmaDispatch w.core w.slot w.entry) := by
  unfold laneAction
  split
  · split
    · exact .inr rfl
    · exact .inl rfl
  · exact .inl rfl

/-- A scalar pick of a core issues with the others, or, of rank 2, takes effect after the lane instructions (R26). -/
theorem scalar_mem_coreIssue {s : State} {sides : List Side} {d : Side} {w : Who} (hd : d ∈ sides)
    (hl : d.lane = false) (hp : d.pick = some w) :
    Action.scalar w ∈ (coreIssue s sides).1 ∨
      (writeRank (pickedScalar s w) = 2 ∧ Action.issued w ∈ (coreIssue s sides).1) := by
  have hw : w ∈ (sides.filter fun d => !d.lane).filterMap (·.pick) :=
    List.mem_filterMap.2 ⟨d, List.mem_filter.2 ⟨hd, by simp [hl]⟩, hp⟩
  unfold coreIssue
  simp only [List.mem_append, List.mem_map, List.mem_filter, mem_sortKey, beq_iff_eq]
  rcases writeRank_cases (pickedScalar s w) with hr | hr | hr
  · exact .inl (.inl (.inl ⟨w, .inl ⟨hw, hr⟩, rfl⟩))
  · exact .inl (.inl (.inl ⟨w, .inr ⟨hw, hr⟩, rfl⟩))
  · exact .inr ⟨hr, .inr ⟨w, ⟨hw, hr⟩, rfl⟩⟩

/-- A lane pick of a core issues with the others, or, of the barrier port's, at the end of the cycle (R253, R255). -/
theorem lane_mem_coreIssue {s : State} {sides : List Side} {d : Side} {w : Who} (hd : d ∈ sides)
    (hl : d.lane = true) (hp : d.pick = some w) :
    laneAction s w ∈ (coreIssue s sides).1 ∨ Action.lane w ∈ (coreIssue s sides).2 := by
  have hw : w ∈ (sides.filter (·.lane)).filterMap (·.pick) :=
    List.mem_filterMap.2 ⟨d, List.mem_filter.2 ⟨hd, hl⟩, hp⟩
  unfold coreIssue
  by_cases hlate : portLate s w = true
  · exact .inr (List.mem_map.2 ⟨w, List.mem_filter.2 ⟨(mem_sortKey _ _ _).2 hw, hlate⟩, rfl⟩)
  · have hearly : w ∈ (sortKey (fun w : Who => (w.slot, w.entry)) ((sides.filter (·.lane)).filterMap (·.pick))).filter
        fun w => !portLate s w := List.mem_filter.2 ⟨(mem_sortKey _ _ _).2 hw, by simp [hlate]⟩
    exact .inl (List.mem_append_left _ (List.mem_append_right _ (List.mem_map.2 ⟨w, mem_laneOrder hearly, rfl⟩)))

/-! #### A cycle's issue -/

/-- The state in which the sides of a cycle choose: quadrants at the cycle's start, and noted what holds each split. -/
def State.choosing (s : State) : State :=
  let start : State := { s with cores := s.cores.map fun e => (e.1, e.2.atStart (s.hasFeature 28)) }
  (start.cores.flatMap fun e => coreSplits start e.1).foldl State.noteHold start

/-- What each listed core issues is on the agenda, and what ends the cycle is in `late`. -/
theorem coreIssue_subset_issue {s : State} {c : Nat} {k : Core} (hc : (c, k) ∈ s.cores) :
    (coreIssue s.choosing (coreSides s.choosing c)).1 ⊆ s.issue.agenda ∧
      (coreIssue s.choosing (coreSides s.choosing c)).2 ⊆ s.issue.late := by
  have hcs : coreIssue s.choosing (coreSides s.choosing c) ∈
      ((s.cores.map (·.1)).map (coreSides s.choosing)).map (coreIssue s.choosing) :=
    List.mem_map_of_mem (List.mem_map_of_mem (List.mem_map.2 ⟨_, hc, rfl⟩))
  have hcores : (s.cores.map fun e => (e.1, e.2.atStart (s.hasFeature 28))).map (·.1) = s.cores.map (·.1) := by
    rw [List.map_map]
    rfl
  have hheld : (((s.cores.map (·.1)).flatMap (coreSplits
      { s with cores := s.cores.map fun e => (e.1, e.2.atStart (s.hasFeature 28)) })).foldl State.noteHold
      { s with cores := s.cores.map fun e => (e.1, e.2.atStart (s.hasFeature 28)) }) = s.choosing := by
    rw [← hcores, List.flatMap_map]
    rfl
  unfold State.issue
  simp only [hcores, hheld]
  exact ⟨fun a ha => List.mem_append_left _ (List.mem_append_left _ (List.mem_flatMap.2 ⟨_, hcs, ha⟩)),
    fun a ha => List.mem_flatMap.2 ⟨_, hcs, ha⟩⟩

theorem sideOf_mem_coreSides (s : State) (c : Nat) {q : Nat} (hq : q < 4) (lane : Bool) :
    sideOf s c (q, lane) ∈ coreSides s c := by
  have hr := List.mem_range.2 hq
  unfold coreSides
  cases lane
  · exact List.mem_append_left _ (List.mem_map.2 ⟨q, hr, rfl⟩)
  · exact List.mem_append_right _ (List.mem_map.2 ⟨q, hr, rfl⟩)

/-- Settles O59: the first action of the agenda is taken, a fetch that meets no fault leads to `exec`, and a cycle's issue
puts what `coreIssue` orders on the agenda or at the cycle's end. -/
theorem stepRunsTheDecodedInstruction : Obligations.StepRunsTheDecodedInstruction := by
  refine ⟨fun s u late rest w x p bs i hwake hag hx hpend hin ht hr hd hf hp => ?_,
    fun s rest w x k ks b i hwake hag hfree hx hq hb hd => ?_,
    fun s i rest hwake hag hev => (step_agenda hwake hag).trans (stepAction_event hev _),
    fun s c q w k hc hq => ?_⟩
  · rw [step_agenda hwake hag]
    obtain rfl : x.who = w := (ctx_some hx).1
    cases late with
    | true => exact stepIssued_of_fetch hx (fetchDecode_ok hin ht hr hd hf hp)
    | false =>
      have hs : s.hasFeature 0 = ({ { s with agenda := rest }.noteIssue x.who false with cur := x.who } : State).hasFeature 0 :=
        congrArg (·.getLsbD 0) (noteIssue_feat { s with agenda := rest } x.who false).symm
      obtain ⟨hp0, hwait⟩ := hpend rfl
      exact stepScalar_of_fetch hx (scalarFetch_ok hp0 hwait (fetchDecode_ok hin ht hr hd (hs.symm.trans hf) hp))
  · rw [step_agenda hwake hag]
    obtain rfl : x.who = w := (ctx_some hx).1
    exact stepLane_of_fetch hfree hx (laneFetch_ok hq hb hd)
  · obtain ⟨hag, hlate⟩ := coreIssue_subset_issue hc
    refine ⟨fun hp => ?_, fun hp => ?_⟩
    · exact (scalar_mem_coreIssue (sideOf_mem_coreSides _ c hq false) rfl hp).imp (hag ·) fun h => ⟨h.1, hag h.2⟩
    · rcases lane_mem_coreIssue (sideOf_mem_coreSides _ c hq true) rfl hp with h | h
      · rcases laneAction_cases s.choosing w with ha | ha
        · exact .inl (hag (ha ▸ h))
        · exact .inr (.inr (hag (ha ▸ h)))
      · exact .inr (.inl (hlate h))

end Sys2Proof.Machine

/-! ### Clauses issue and start (R7, R22, R26, R27, R163, R164, R171, R188) -/

namespace Sys2Proof.Machine

open Sys2Proof.Laws

/-! #### What ISSUE captures and appends -/

/-- A captured g register is found as it was at ISSUE. -/
theorem capturedCell_captureCells (w : Warp) (rs : List Nat) (g : GReg) (hg : g.toNat ∈ rs) :
    capturedCell (captureCells w rs) g = w.g_ g := by
  have hfold : ∀ (rs : List Nat) (m : SMap RWord),
      amGet cellZero (rs.foldl (fun m r => smPut cellZero m r (w.g_ (BitVec.ofNat 6 r))) m) g.toNat =
        if g.toNat ∈ rs then w.g_ g else amGet cellZero m g.toNat := by
    intro rs
    induction rs with
    | nil => intro m; simp
    | cons r rs ih =>
      intro m
      simp only [List.foldl_cons, ih, amGet_smPut, List.mem_cons]
      by_cases hr : g.toNat = r
      · simp [← hr]
      · simp [hr]
  unfold capturedCell
  split
  next h => rw [h]; rfl
  next => rw [captureCells, hfold, if_pos hg]

theorem badG_eq_none {w : Warp} {rs : List GReg} (h : ∀ r ∈ rs, cellGood (w.g_ r) = true) : badG w rs = none := by
  rw [badG, List.find?_eq_none.2 fun r hr => by simp [h r hr]]
  rfl

/-- The clause that ISSUE appends: words and header as read, EXEC and the capture set as they are (R164, R188). -/
def Ctx.issued (x : Ctx) (n : BitVec 4) (o : BitVec 22) (h : BitVec 96) (ws : List (BitVec 96)) (serial : Nat) : Clause :=
  { unit := o.toNat, len := n.toNat, header := h, words := ws, next := 0, owed := none, exec := x.split.exec
    gs := captureCells x.warp (captureSet ws), started := false, serial := serial }

/-- The split with a clause more in its queue. -/
def Split.enqueue (sp : Split) (c : Clause) : Split := { sp with cq := sp.cq ++ [c] }

/-- A clause joins the queue of a split entry, and the warp's next clause or operation takes another number. -/
def Warp.appendClause (w : Warp) (e : Nat) (c : Clause) : Warp :=
  let v := w.modSplit e fun sp => sp.enqueue c
  { v with nextId := v.nextId + 1 }

theorem appendClause_rest (w : Warp) (e : Nat) (c : Clause) :
    w.appendClause e c = { w with splits := (w.appendClause e c).splits, nextId := w.nextId + 1 } := by
  unfold Warp.appendClause
  rw [modSplit_rest]

theorem splits_appendClause (w : Warp) (e : Nat) (c : Clause) (n : Nat) :
    amFind (w.appendClause e c).splits n =
      if n = e then (amFind w.splits e).map (·.enqueue c) else amFind w.splits n := splits_modSplit _ _ _ _

/-- ISSUE of a clause that is read without a fault and captures good registers without pending writes: the split goes
on, with the clause in its queue. -/
theorem execIssue_appends {s u : State} {x : Ctx} {n : BitVec 4} {o : BitVec 22} {h : BitVec 96} {ws : List (BitVec 96)}
    (hr : ScalarReady s x (.issue n o)) (hread : issueRead s x n.toNat o.toNat = (u, .ok (h, ws)))
    (hfree : ∀ g ∈ captureSet ws, x.warp.gPending (BitVec.ofNat 6 g) = false)
    (hgood : ∀ g ∈ captureSet ws, cellGood (x.warp.g_ (BitVec.ofNat 6 g)) = true) :
    exec (.issue n o) s = .next ((u.advance x).modWarp x.who.core x.who.slot fun w =>
      w.appendClause x.who.entry (x.issued n o h ws w.nextId)) := by
  have hany : ((captureSet ws).any fun g => x.warp.gPending (BitVec.ofNat 6 g)) = false :=
    List.any_eq_false.2 fun g hg => by simp [hfree g hg]
  have hbad : badG x.warp ((captureSet ws).map (BitVec.ofNat 6)) = none := badG_eq_none fun r hr => by
    obtain ⟨g, hg, rfl⟩ := List.mem_map.1 hr
    exact hgood g hg
  change execIssue n o s = _
  rw [execIssue, runScalar_ready hr]
  simp only [hread, hany, hbad, ite_self, Bool.false_eq_true, if_false]
  rfl

/-- A context's warp and team stand in a state that differs from its own in translation state alone. -/
theorem Local.of_translationOnly {s u : State} {x : Ctx} (hx : s.ctxOf x.who = some x) (hu : Spec.TranslationOnly s u) :
    Local u u x (u.core x.who.core) x.warp x.team := by
  obtain ⟨-, -, hw, ht, -⟩ := ctxOf_some hx
  exact
    { rest := rfl, others := fun _ _ => rfl, core := rfl, warps := fun _ _ => rfl, teams := fun _ _ => rfl
      warp := (translationOnly_warp hu _ _).trans hw, team := (translationOnly_team hu _ _).trans ht }

theorem issueAppendsClause : Spec.IssueAppendsClause := by
  intro s u x n o h ws hr hread hcap
  have hu := translationOnly_of_issueRead hread
  obtain ⟨-, -, -, -, hsp⟩ := ctxOf_some hr.ctxOf
  have hid : (x.warp.modSplit x.who.entry fun sp => sp.goOn (x.split.spc + 4)).nextId = x.warp.nextId := by
    rw [modSplit_rest]
  have hl := ((Local.of_translationOnly hr.ctxOf hu).goto (x.split.spc + 4)).modWarp
    fun w => w.appendClause x.who.entry (x.issued n o h ws w.nextId)
  rw [hid] at hl
  refine ⟨_, _, x.issued n o h ws x.warp.nextId,
    execIssue_appends hr hread (fun g hg => (hcap g hg).1) (fun g hg => (hcap g hg).2), hu, hl, ?_, ?_, fun m hm => ?_,
    rfl, rfl, rfl, rfl, rfl, rfl, rfl, rfl, fun g hg => capturedCell_captureCells _ _ _ hg⟩
  · rw [appendClause_rest, hid, modSplit_rest]
  · rw [splits_appendClause, if_pos rfl, splits_modSplit, if_pos rfl, hsp]
    rfl
  · rw [splits_appendClause, if_neg hm, splits_modSplit, if_neg hm]

/-! #### A clause starts -/

theorem flagsClear_iff (w : Warp) (m : BitVec 12) :
    w.flagsClear m = true ↔ ∀ n, n < 12 → m.getLsbD n = true → w.flag n = 0 := by
  unfold Warp.flagsClear
  simp only [List.all_eq_true, List.mem_range, Bool.or_eq_true, Bool.not_eq_true', beq_iff_eq]
  refine forall_congr' fun n => forall_congr' fun _ => ?_
  cases m.getLsbD n <;> simp

theorem hdrWait_getLsbD (h : BitVec 96) {n : Nat} (hn : n < 12) : (hdrWait h).getLsbD n = h.getLsbD n := by
  unfold hdrWait bits
  rw [BitVec.getLsbD_ofNat, pow_zero, Nat.div_one, Nat.testBit_mod_two_pow, BitVec.getLsbD]
  simp [hn]

theorem clauseMayStart_iff (w : Warp) (c : Clause) :
    clauseMayStart w c = true ↔ ∀ n, n < 12 → c.header.getLsbD n = true → w.flag n = 0 := by
  rw [clauseMayStart, flagsClear_iff]
  refine forall_congr' fun n => forall_congr' fun hn => ?_
  rw [hdrWait_getLsbD _ hn]

theorem clauseHeld_iff (w : Warp) (e : Nat) : w.clauseHeld e = true ↔
    ∃ o ∈ w.ops, o.entry = e ∧ ∃ a ∈ o.accs, a.st.held = true ∨ a.st.bad = true := by
  simp [Warp.clauseHeld]

theorem execClauseStart_of_cons {s : State} {x : Ctx} {c : Clause} {cs : List Clause} (hx : s.ctxOf x.who = some x)
    (hq : x.split.cq = c :: cs) : exec (.clauseStart x.who.core x.who.slot x.who.entry) s = .next
      (if (teamRuns x.team && clauseMayStart x.warp c && !x.warp.clauseHeld x.who.entry) = true then
        s.modSplit x.who fun sp => { sp with cq := { c with started := true } :: cs } else s) := by
  change execClauseStart _ _ _ s = _
  unfold execClauseStart
  simp only [hx, hq]

/-! #### A side's choice -/

/-- What a side chooses is one of its candidates. -/
theorem chooseOf_mem {last : Nat} {c : Who × Role × Nat} :
    ∀ {cs : List (Who × Role × Nat)}, chooseOf last cs = some c → c ∈ cs := by
  intro cs
  induction cs with
  | nil => intro h; cases h
  | cons d ds ih =>
    intro h
    unfold chooseOf at h
    split at h
    · cases h; exact List.mem_cons_self
    next hc =>
      split at h
      · cases h; exact List.mem_cons_of_mem _ (ih hc)
      · cases h; exact List.mem_cons_self

/-- A candidate whose key is below every other candidate's is chosen (R26). -/
theorem chooseOf_least {last : Nat} {c : Who × Role × Nat} :
    ∀ {cs : List (Who × Role × Nat)}, c ∈ cs →
      (∀ d ∈ cs, d ≠ c → keyLt (choiceKey last c) (choiceKey last d) = true ∧
        keyLt (choiceKey last d) (choiceKey last c) = false) → chooseOf last cs = some c := by
  intro cs
  induction cs with
  | nil => intro h; cases h
  | cons d ds ih =>
    intro hmem hleast
    have htail := fun e he => hleast e (List.mem_cons_of_mem _ he)
    unfold chooseOf
    by_cases hd : d = c
    · subst hd
      split
      · rfl
      next e he =>
        by_cases hed : e = d
        · simp [hed]
        · simp [(htail e (chooseOf_mem he) hed).2]
    · rw [ih ((List.mem_cons.1 hmem).resolve_left (Ne.symm hd)) htail]
      simp [(hleast d List.mem_cons_self hd).1]

theorem keyLt_of_lt {a b : Nat × Nat × Nat × Nat} (h : a.1 < b.1 ∨ a.1 = b.1 ∧ a.2.1 < b.2.1) :
    keyLt a b = true ∧ keyLt b a = false := by
  simp only [keyLt, Bool.or_eq_true, Bool.and_eq_true, Bool.or_eq_false_iff, Bool.and_eq_false_iff, decide_eq_true_eq,
    decide_eq_false_iff_not, beq_iff_eq, beq_eq_false_iff_ne]
  omega

/-- Of two candidates the one that has waited longer, and at least 256 cycles, goes first (R27). -/
theorem keyLt_of_longer {last : Nat} {c d : Who × Role × Nat} (hc : 256 ≤ c.2.2) (hmax : c.2.2 < 2 ^ 32)
    (hd : d.2.2 < c.2.2) : keyLt (choiceKey last c) (choiceKey last d) = true ∧
      keyLt (choiceKey last d) (choiceKey last c) = false := by
  refine keyLt_of_lt ?_
  unfold choiceKey
  rw [if_pos hc]
  split
  · exact .inr ⟨rfl, by dsimp only; omega⟩
  · exact .inl Nat.zero_lt_one

theorem clauseStartAndAging : Spec.ClauseStartAndAging := by
  refine ⟨fun s x c cs hx hq => ?_, fun s w r age lane hmem hage hmax holdest => ?_⟩
  · rw [execClauseStart_of_cons hx hq]
    refine ⟨fun hrun hclear hheld => ?_, fun hstop => ?_⟩
    · obtain ⟨-, -, hw, -, hsp⟩ := ctxOf_some hx
      have hstart : (teamRuns x.team && clauseMayStart x.warp c && !x.warp.clauseHeld x.who.entry) = true := by
        simp [hrun, (clauseMayStart_iff _ _).2 hclear, mt (clauseHeld_iff _ _).1 hheld]
      have hl := (Local.refl hx).modSplit fun sp => { sp with cq := { c with started := true } :: cs }
      rw [if_pos hstart]
      exact ⟨_, _, rfl, hl.warp, by simp [splits_modSplit, hsp], modSplit_rest _ _ _, modSplit_mem _ _ _⟩
    · rw [if_neg fun h => ?_]
      simp only [Bool.and_eq_true, Bool.not_eq_true'] at h
      obtain ⟨⟨hrun, hmay⟩, hfree⟩ := h
      rcases hstop with hc | hh | hr
      · exact hc ((clauseMayStart_iff _ _).1 hmay)
      · exact absurd ((clauseHeld_iff _ _).2 hh) (by simp [hfree])
      · exact absurd hrun (by simp [hr])
  · have hchosen : ∀ last, chooseOf last (candidates s w.core (w.slot / 12) lane) = some (w, r, age) := fun last =>
      chooseOf_least hmem fun d hd hne => keyLt_of_longer hage hmax (holdest d hd hne)
    have hpick : (sideOf s w.core (w.slot / 12, lane)).pick = some w := by
      unfold sideOf
      simp only [hchosen, Option.map_some]
    refine ⟨hpick, ?_⟩
    have hany : ((sideOf s w.core (w.slot / 12, lane)).cands.any fun c => c.1 == w && 256 ≤ c.2.2) = true :=
      List.any_eq_true.2 ⟨_, hmem, by simp [hage]⟩
    change execWaitCountAged _ _ _ _ _ = _
    unfold execWaitCountAged
    exact congrArg Host.Outcome.next (if_pos ⟨hpick, hany⟩)

/-- Settles O10: ISSUE reads text and appends one clause to its own split, a head clause starts exactly where its flags are
clear and nothing holds it, and the oldest aged candidate has the least choice key of its side. -/
theorem clausesIssueAndStart : Obligations.ClausesIssueAndStart := ⟨issueAppendsClause, clauseStartAndAging⟩

end Sys2Proof.Machine

/-! ### The placer (R6, R13 to R17): where a gang goes and what it starts with -/

namespace Sys2Proof.Machine

open Sys2Proof.Laws

/-! #### Head records that are checked and in the dependence unit -/

theorem popGone_of_none {s : State} (h : ∀ e ∈ s.hub.heads, e.2.gone = none) : s.popGone = s := by
  unfold State.popGone
  rw [List.filter_eq_nil_iff.2 fun e he => by simp [h e he]]
  rfl

theorem checkHeads_of_checked {s : State} (h : ∀ e ∈ s.hub.heads, e.2.checked = true) (n : Nat) : s.checkHeads n = s := by
  cases n with
  | zero => rfl
  | succ n =>
    have hnone : (s.hub.heads.find? fun e => !e.2.checked && (s.hub.queue e.1).v) = none :=
      List.find?_eq_none.2 fun e he => by simp [h e he]
    unfold State.checkHeads
    rw [hnone]

theorem enterUnit_of_entered {s : State} {hs : List (Nat × Head)}
    (h : ∀ e ∈ hs, e.2.regions = [] ∨ e.2.entered.isSome = true) : s.enterUnit hs = s := by
  induction hs with
  | nil => rfl
  | cons e hs ih =>
    have he : (!(s.hub.queue e.1).v || !e.2.checked || e.2.regions.isEmpty || e.2.entered.isSome) = true := by
      rcases h e List.mem_cons_self with hr | hr <;> simp [hr]
    unfold State.enterUnit
    rw [if_pos he]
    exact ih fun e he => h e (List.mem_cons_of_mem _ he)

/-- With every head record ready, GANG_PLACE places the gang the placer's order gives (R13). -/
theorem execGangPlace_of_ready {s : State} {q cl : Nat} {h : Head} {fits : List (Nat × Fit)} {d : Desc}
    (hready : ∀ e ∈ s.hub.heads, e.2.checked = true ∧ e.2.gone = none ∧ (e.2.regions = [] ∨ e.2.entered.isSome = true))
    (hnext : s.noteWaits.nextPlace [3, 2, 1, 0] = some (q, h, cl, fits)) (hd : parseDesc h.desc = some d) :
    exec .gangPlace s = .next (s.noteWaits.placeHead q h d cl fits) := by
  change execGangPlace s = _
  unfold execGangPlace
  rw [popGone_of_none fun e he => (hready e he).2.1, checkHeads_of_checked fun e he => (hready e he).1]
  simp only [enterUnit_of_entered fun e he => (hready e he).2.2, hnext, hd]

/-! #### Where a gang goes (R15, R16) -/

theorem firstEligible_fits {s : State} {q cl : Nat} {h : Head} {fits : List (Nat × Fit)} :
    ∀ {qs : List Nat}, s.firstEligible qs = some (q, h, cl, fits) → s.headFit q h = some (cl, fits) := by
  intro qs
  induction qs with
  | nil => intro hq; cases hq
  | cons p qs ih =>
    intro hq
    unfold State.firstEligible at hq
    split at hq
    · exact ih hq
    · split at hq
      next hf =>
        cases hq
        split at hf
        · exact hf
        · cases hf
      next => exact ih hq

theorem nextPlace_fits {s : State} {q cl : Nat} {h : Head} {fits : List (Nat × Fit)} :
    ∀ {ls : List Nat}, s.nextPlace ls = some (q, h, cl, fits) → s.headFit q h = some (cl, fits) := by
  intro ls
  induction ls with
  | nil => intro hl; cases hl
  | cons l ls ih =>
    intro hl
    unfold State.nextPlace at hl
    split at hl
    · cases hl
    · split at hl
      next hf => cases hl; exact firstEligible_fits hf
      next => exact ih hl

theorem findCluster_fits {s : State} {fs : List (Core → Option Fit)} {cl : Nat} {fits : List (Nat × Fit)} :
    ∀ {cs : List Nat}, s.findCluster fs cs = some (cl, fits) → s.fitCluster cl fs = some fits := by
  intro cs
  induction cs with
  | nil => intro h; cases h
  | cons c cs ih =>
    intro h
    unfold State.findCluster at h
    split at h
    next hf => cases h; exact hf
    next => exact ih h

/-- The gang that the placer places fits its cluster. -/
theorem fitCluster_of_headFit {s : State} {q cl : Nat} {h : Head} {fits : List (Nat × Fit)} {d : Desc}
    (hd : parseDesc h.desc = some d) (hf : s.headFit q h = some (cl, fits)) : s.fitCluster cl d.claims = some fits := by
  unfold State.headFit at hf
  dsimp only at hf
  split at hf
  · cases hf
  unfold State.headCluster at hf
  dsimp only at hf
  split at hf
  · rw [hd] at hf
    exact findCluster_fits hf
  · cases hf

/-- The teams of a gang take cores in the order in which they are listed. -/
theorem fitTeams_cores {ks : List (Nat × Core)} : ∀ {fs : List (Core → Option Fit)} {fits : List (Nat × Fit)},
    fitTeams fs ks = some fits → (fits.map (·.1)).Sublist (ks.map (·.1)) := by
  induction ks with
  | nil =>
    intro fs fits h
    cases fs with
    | nil => cases h; exact List.nil_sublist _
    | cons f fs => cases h
  | cons k ks ih =>
    intro fs fits h
    cases fs with
    | nil => cases h; exact List.nil_sublist _
    | cons f fs =>
      unfold fitTeams at h
      split at h
      · obtain ⟨r, hr, rfl⟩ := Option.map_eq_some_iff.1 h
        exact (ih hr).cons_cons _
      · exact (ih h).cons _

/-- What a team takes is what its claims allow on some core. -/
theorem fitTeams_fit {ks : List (Nat × Core)} : ∀ {fs : List (Core → Option Fit)} {fits : List (Nat × Fit)},
    fitTeams fs ks = some fits → ∀ p ∈ fits, ∃ f ∈ fs, ∃ k, f k = some p.2 := by
  induction ks with
  | nil =>
    intro fs fits h p hp
    cases fs with
    | nil => cases h; cases hp
    | cons f fs => cases h
  | cons k ks ih =>
    intro fs fits h p hp
    cases fs with
    | nil => cases h; cases hp
    | cons f fs =>
      unfold fitTeams at h
      split at h
      next x hx =>
        obtain ⟨r, hr, rfl⟩ := Option.map_eq_some_iff.1 h
        rcases List.mem_cons.1 hp with rfl | hp
        · exact ⟨f, List.mem_cons_self, k.2, hx⟩
        · obtain ⟨g, hg, hk⟩ := ih hr p hp
          exact ⟨g, List.mem_cons_of_mem _ hg, hk⟩
      next => exact ih h p hp

theorem coresOf_nodup (cl : Nat) : (coresOf cl).Nodup :=
  List.nodup_range.map fun _ _ h => Nat.add_left_cancel h

/-- No two teams of a gang are on one core (R16). -/
theorem fitCluster_nodup {s : State} {cl : Nat} {fs : List (Core → Option Fit)} {fits : List (Nat × Fit)}
    (h : s.fitCluster cl fs = some fits) : (fits.map (·.1)).Nodup := by
  unfold State.fitCluster at h
  split at h
  · have hs := fitTeams_cores h
    rw [List.map_map, show ((·.1) ∘ fun c => (c, s.core c) : Nat → Nat) = id from rfl, List.map_id] at hs
    exact hs.nodup (coresOf_nodup cl)
  · cases h

/-- Every warp of a team has a slot of its own, and none that was in use (R15). -/
theorem placeWarps_nodup {bs : List Nat} : ∀ {used : List (Nat × Nat)} {sl : List Nat}, placeWarps bs used = some sl →
    sl.Nodup ∧ ∀ x ∈ sl, ∀ u ∈ used, u.1 ≠ x := by
  induction bs with
  | nil => intro used sl h; cases h; exact ⟨List.nodup_nil, fun x hx => by cases hx⟩
  | cons b bs ih =>
    intro used sl h
    unfold placeWarps at h
    dsimp only at h
    split at h
    · cases h
    next n hn =>
      split at h
      · obtain ⟨r, hr, rfl⟩ := Option.map_eq_some_iff.1 h
        obtain ⟨hnd, hfree⟩ := ih hr
        have hnew : ∀ u ∈ used, u.1 ≠ n := by
          have := List.find?_some hn
          simpa using this
        refine ⟨List.nodup_cons.2 ⟨fun hm => ?_, hnd⟩, fun x hx u hu => ?_⟩
        · exact hfree n hm (n, b) (by simp) rfl
        · rcases List.mem_cons.1 hx with rfl | hx
          · exact hnew u hu
          · exact hfree x hx u (List.mem_append_left _ hu)
      · cases h

theorem fit_slots_nodup {k : Core} {budgets : List Nat} {part banks iters : Nat} {matrix : Bool} {f : Fit}
    (h : k.fit budgets part banks iters matrix = some f) : f.slots.Nodup := by
  unfold Core.fit at h
  split at h
  · cases h
  · split at h
    next hw _ _ _ => cases h; exact (placeWarps_nodup hw).1
    next => cases h

theorem fitCluster_slots_nodup {s : State} {cl : Nat} {d : Desc} {fits : List (Nat × Fit)}
    (h : s.fitCluster cl d.claims = some fits) : ∀ p ∈ fits, p.2.slots.Nodup := by
  intro p hp
  unfold State.fitCluster at h
  split at h
  · obtain ⟨f, hf, k, hk⟩ := fitTeams_fit h p hp
    rw [List.eq_of_mem_replicate hf] at hk
    exact fit_slots_nodup hk
  · cases h

/-! #### What a warp starts with (R6, R52) -/

theorem gv_setG (w : Warp) (r q : GReg) (x : Word) :
    (w.setG r x).gv q = if q = r ∧ r ≠ 0 then x else w.gv q := by
  by_cases hr : r = 0
  · rw [show w.setG r x = w from if_pos hr, if_neg fun h => h.2 hr]
  · have hg : (w.setG r x).g = smPut cellZero w.g r.toNat (cellOf x) := by
      unfold Warp.setG Warp.setGCell
      rw [if_neg hr]
    unfold Warp.gv Warp.g_
    rw [hg, amGet_smPut]
    by_cases hq : q = r
    · rw [hq, if_neg hr, if_pos rfl, if_pos ⟨rfl, hr⟩]
      rfl
    · have hn : q.toNat ≠ r.toNat := fun h => hq (BitVec.eq_of_toNat_eq h)
      rw [if_neg hn, if_neg (show ¬(q = r ∧ r ≠ 0) from fun h => hq h.1)]

/-- A warp at its start holds its index in g1 and the frame in g2:g3, and nothing else in its registers. -/
theorem newWarp_gv (team widx : Nat) (role : Role) (budget : Nat) (frame pc : VAddr) (r : GReg) :
    (newWarp team widx role budget frame pc).gv r =
      if r = 3 then BitVec.ofNat 32 (frame.toNat / 2 ^ 32) else if r = 2 then BitVec.ofNat 32 frame.toNat
      else if r = 1 then BitVec.ofNat 32 widx else 0 := by
  unfold newWarp
  simp only [gv_setG]
  have hempty : ∀ w : Warp, w.g = [] → w.gv r = 0 := fun w hw => by
    unfold Warp.gv Warp.g_
    rw [hw]
    split <;> rfl
  rw [hempty _ rfl]
  simp

theorem newWarp_rest (team widx : Nat) (role : Role) (budget : Nat) (frame pc : VAddr) :
    let w := newWarp team widx role budget frame pc
    w.role = role ∧ w.budget = budget ∧ w.widx = widx ∧ w.splits = [(0, newSplit pc)] ∧ w.v = [] := by
  exact ⟨rfl, rfl, rfl, rfl, rfl⟩

/-! #### Residents of equal cores -/

theorem team_of_core {s t : State} {c : Nat} (h : s.core c = t.core c) (k : Nat) : s.team c k = t.team c k :=
  congrArg (fun e : Core => amFind e.teams k) h

theorem warp_of_core {s t : State} {c : Nat} (h : s.core c = t.core c) (n : Nat) : s.warp c n = t.warp c n :=
  congrArg (fun e : Core => amFind e.warps n) h

/-! #### A team starts on a core (R6, R16) -/

theorem startTeam_core_ne (s : State) (d : Desc) (g : Gang) (rs : List Region) (i c : Nat) (f : Fit) {b : Nat}
    (h : b ≠ c) : (s.startTeam d g rs i c f).core b = s.core b := by
  unfold State.startTeam State.phaseAcq
  simp only [core_modCore, if_neg h]

theorem startTeam_team (s : State) (d : Desc) (g : Gang) (rs : List Region) (i c : Nat) (f : Fit) :
    (s.startTeam d g rs i c f).team c (teamKey g.key i) = some (newTeam d f g i rs) := by
  unfold State.startTeam State.team
  simp only [core_modCore_self, amFind_amPut_self]

/-- Of a table filled from a list with no key twice, each listed key has its value. -/
theorem amFind_foldl_amPut {α : Type} {ps : List (Nat × α)} (hnd : (ps.map (·.1)).Nodup) {p : Nat × α} (hp : p ∈ ps) :
    ∀ m : SMap α, amFind (ps.foldl (fun m p => amPut m p.1 p.2) m) p.1 = some p.2 := by
  have hkeep : ∀ (qs : List (Nat × α)) (m : SMap α) (k : Nat), k ∉ qs.map (·.1) →
      amFind (qs.foldl (fun m p => amPut m p.1 p.2) m) k = amFind m k := by
    intro qs
    induction qs with
    | nil => intro m k _; rfl
    | cons q qs ih =>
      intro m k hk
      simp only [List.map_cons, List.mem_cons, not_or] at hk
      rw [List.foldl_cons, ih _ _ hk.2, amFind_amPut_ne _ _ hk.1]
  induction ps with
  | nil => cases hp
  | cons q qs ih =>
    intro m
    rw [List.map_cons, List.nodup_cons] at hnd
    rcases List.mem_cons.1 hp with rfl | hp
    · rw [List.foldl_cons, hkeep _ _ _ hnd.1, amFind_amPut_self]
    · exact ih hnd.2 hp _

theorem map_fst_zip_sublist {α β : Type} (l : List α) (m : List β) : ((l.zip m).map (·.1)).Sublist l := by
  induction l generalizing m with
  | nil => exact List.nil_sublist _
  | cons a l ih =>
    cases m with
    | nil => exact List.nil_sublist _
    | cons b m => exact (ih m).cons_cons _

theorem startTeam_warp (s : State) (d : Desc) (g : Gang) (rs : List Region) (i c : Nat) (f : Fit)
    (hnd : f.slots.Nodup) {w n : Nat} {r : Role × Nat} (hn : f.slots[w]? = some n) (hr : d.warpRoles[w]? = some r) :
    (s.startTeam d g rs i c f).warp c n =
      some (newWarp (teamKey g.key i) w r.1 r.2 (BitVec.ofNat 54 (recFrame g.record)) (BitVec.ofNat 54 d.entry)) := by
  unfold State.startTeam State.warp
  simp only [core_modCore_self]
  refine amFind_foldl_amPut (p := (n, _)) ?_ ?_ _
  · rw [List.map_map]
    have hfst := map_fst_zip_sublist f.slots d.warpRoles
    rw [← List.zipIdx_map_fst 0 (f.slots.zip d.warpRoles), List.map_map] at hfst
    exact hfst.nodup hnd
  · exact List.mem_map.2 ⟨((n, r), w), by
      rw [List.mem_zipIdx_iff_getElem?, List.getElem?_zip_eq_some]
      exact ⟨hn, hr⟩, rfl⟩

/-- The teams of a gang start one after another. -/
def State.startTeams (s : State) (d : Desc) (g : Gang) (rs : List Region) (ps : List ((Nat × Fit) × Nat)) : State :=
  ps.foldl (fun s p => s.startTeam d g rs p.2 p.1.1 p.1.2) s

theorem startTeams_frame (d : Desc) (g : Gang) (rs : List Region) (ps : List ((Nat × Fit) × Nat)) (s : State) :
    (s.startTeams d g rs ps).hub = s.hub ∧ (s.startTeams d g rs ps).mem = s.mem ∧
      ∀ c, c ∉ ps.map (·.1.1) → (s.startTeams d g rs ps).core c = s.core c := by
  induction ps generalizing s with
  | nil => exact ⟨rfl, rfl, fun _ _ => rfl⟩
  | cons p ps ih =>
    obtain ⟨hhub, hmem, hcore⟩ := ih (s.startTeam d g rs p.2 p.1.1 p.1.2)
    refine ⟨hhub, hmem, fun c hc => ?_⟩
    simp only [List.map_cons, List.mem_cons, not_or] at hc
    exact (hcore c hc.2).trans (startTeam_core_ne _ _ _ _ _ _ _ hc.1)

/-- Where no two teams share a core, each core is left as its own team's start leaves it. -/
theorem startTeams_core {d : Desc} {g : Gang} {rs : List Region} {ps : List ((Nat × Fit) × Nat)}
    (hnd : (ps.map (·.1.1)).Nodup) {i c : Nat} {f : Fit} (hp : ((c, f), i) ∈ ps) (s : State) :
    ∃ u : State, (s.startTeams d g rs ps).core c = (u.startTeam d g rs i c f).core c := by
  induction ps generalizing s with
  | nil => cases hp
  | cons p ps ih =>
    rw [List.map_cons, List.nodup_cons] at hnd
    rcases List.mem_cons.1 hp with rfl | hp
    · exact ⟨s, (startTeams_frame d g rs ps _).2.2 _ hnd.1⟩
    · exact ih hnd.2 hp _

/-! #### The head record goes on to its next gang, or leaves its queue (R13) -/

theorem noteHead_frame (s : State) (q : Nat) : (s.noteHead q).cores = s.cores ∧ (s.noteHead q).mem = s.mem ∧
    (s.noteHead q).hub.gangs = s.hub.gangs ∧ (s.noteHead q).hub.queues = s.hub.queues := by
  unfold State.noteHead
  dsimp only
  split <;> exact ⟨rfl, rfl, rfl, rfl⟩

theorem popHead_frame (s : State) (q : Nat) : (s.popHead q).cores = s.cores ∧ (s.popHead q).mem = s.mem ∧
    (s.popHead q).hub.gangs = s.hub.gangs ∧ ((s.popHead q).hub.queue q).head = (s.hub.queue q).head + 1 := by
  unfold State.popHead
  dsimp only
  obtain ⟨hc, hm, hg, hq⟩ := noteHead_frame
    ((s.setQueue q { s.hub.queue q with head := (s.hub.queue q).head + 1 }).modHub fun h =>
      { h with heads := h.heads.filter (·.1 != q) }) q
  refine ⟨hc, hm, hg, ?_⟩
  rw [Hub.queue, hq]
  exact congrArg CQueue.head (amGet_amPut_self _ _ _ _)

/-- What the hub notes as the next gang of a head record starts: the task with its first gang, and where the placer was
last (R13, R16). -/
def State.notePlaced (s : State) (q : Nat) (h : Head) (cl : Nat) : State :=
  (if h.task.isSome then s
    else s.modHub fun x => { x with
      nextTask := x.nextTask + 1
      tasks := x.tasks ++ [{ id := h.task.getD s.hub.nextTask, asid := (s.hub.queue q).asid, queue := q
                             record := h.record, regions := h.regions }] }).modHub fun x =>
    { x with nextKey := x.nextKey + 1, lastQueue := amPut x.lastQueue (q / 16) q, lastCluster := cl }

/-- The next gang of a head record, as it is placed. -/
def State.nextGang (s : State) (q : Nat) (h : Head) (cl : Nat) : Gang :=
  { key := s.hub.nextKey, task := h.task.getD s.hub.nextTask, gangId := h.next, asid := (s.hub.queue q).asid, queue := q
    cluster := cl, record := h.record, desc := h.desc, teams := [], state := .running, since := s.clock.toNat }

/-- The queue goes on past a gang that has been placed. -/
def State.pastGang (s : State) (q : Nat) (h : Head) (task : Word) : State :=
  if h.next + 1 = recGangs h.record then s.popHead q
  else s.modHead q fun h => { h with next := h.next + 1, task := some task, waitSince := none, asked := h.asked }

theorem captures_of_ctl_zero {s : State} (h : s.hub.regs.captureCtl = 0) (asid : Nat) : s.captures asid = false := by
  unfold State.captures
  rw [h]
  simp [bitAt]

/-- Placing a gang while nothing is captured. -/
theorem placeHead_eq {s : State} (hctl : s.hub.regs.captureCtl = 0) (q : Nat) (h : Head) (d : Desc) (cl : Nat)
    (fits : List (Nat × Fit)) : s.placeHead q h d cl fits =
      (((s.notePlaced q h cl).startGang d (s.nextGang q h cl) h.regions fits).pastGang q h
        (h.task.getD s.hub.nextTask)) := by
  unfold State.placeHead State.captureWaits State.captureWaitsAll State.capture
  simp only [captures_of_ctl_zero hctl, Bool.false_and, Bool.false_eq_true, if_false]
  unfold State.notePlaced State.nextGang State.pastGang
  cases h.task.isSome <;> rfl

/-- A gang's teams have started and the hub lists it; its cores are as its teams' start leaves them. -/
theorem startGang_frame (s : State) (d : Desc) (g : Gang) (rs : List Region) (fits : List (Nat × Fit)) :
    let t := s.startGang d g rs fits
    t.mem = s.mem ∧ t.cores = (s.startTeams d g rs fits.zipIdx).cores ∧
      t.hub = { s.hub with gangs := s.hub.gangs ++ [{ g with teams := fits.zipIdx.map fun p => (p.1.1, teamKey g.key p.2) }] } := by
  obtain ⟨hhub, hmem, -⟩ := startTeams_frame d g rs fits.zipIdx s
  refine ⟨hmem, rfl, ?_⟩
  rw [← hhub]
  rfl

theorem pastGang_frame (s : State) (q : Nat) (h : Head) (task : Word) :
    let t := s.pastGang q h task
    t.cores = s.cores ∧ t.mem = s.mem ∧ t.hub.gangs = s.hub.gangs ∧
      (t.hub.queue q).head = (s.hub.queue q).head + (if h.next + 1 = recGangs h.record then 1 else 0) := by
  unfold State.pastGang
  split
  next hlast => exact popHead_frame s q
  next hlast => exact ⟨rfl, rfl, rfl, (BitVec.add_zero _).symm⟩

theorem notePlaced_frame (s : State) (q : Nat) (h : Head) (cl : Nat) :
    let t := s.notePlaced q h cl
    t.mem = s.mem ∧ t.hub.gangs = s.hub.gangs ∧ t.hub.queues = s.hub.queues := by
  unfold State.notePlaced
  split <;> exact ⟨rfl, rfl, rfl⟩

/-- The gang, once placed, with its teams' cores and keys. -/
def Gang.withTeams (g : Gang) (fits : List (Nat × Fit)) : Gang :=
  { g with teams := fits.zipIdx.map fun p => (p.1.1, teamKey g.key p.2) }

/-- What placing the next gang of a head record leaves while nothing is captured (R13, R16). -/
theorem placeHead_frame {s : State} (hctl : s.hub.regs.captureCtl = 0) (q : Nat) (h : Head) (d : Desc) (cl : Nat)
    (fits : List (Nat × Fit)) :
    let t := s.placeHead q h d cl fits
    (s.nextGang q h cl).withTeams fits ∈ t.hub.gangs ∧ t.mem = s.mem ∧
      t.cores = ((s.notePlaced q h cl).startTeams d (s.nextGang q h cl) h.regions fits.zipIdx).cores ∧
      (t.hub.queue q).head = (s.hub.queue q).head + (if h.next + 1 = recGangs h.record then 1 else 0) := by
  obtain ⟨hnmem, -, hnqueues⟩ := notePlaced_frame s q h cl
  obtain ⟨hsmem, hscores, hshub⟩ := startGang_frame (s.notePlaced q h cl) d (s.nextGang q h cl) h.regions fits
  obtain ⟨hpcores, hpmem, hpgangs, hphead⟩ := pastGang_frame
    ((s.notePlaced q h cl).startGang d (s.nextGang q h cl) h.regions fits) q h (h.task.getD s.hub.nextTask)
  dsimp only
  rw [placeHead_eq hctl]
  refine ⟨?_, hpmem.trans (hsmem.trans hnmem), hpcores.trans hscores, hphead.trans (congrArg (· + _) ?_)⟩
  · rw [hpgangs, hshub]
    exact List.mem_append_right _ List.mem_cons_self
  · rw [hshub, Hub.queue, hnqueues]
    rfl

/-- Settles O39: the placer's order gives a gang that fits its cluster, no two of its teams share a core and no two warps of
a team a slot, and so every team and warp is left as it starts. -/
theorem gangPlacement : Obligations.GangPlacement := by
  intro s q h cl fits d hready hctl hnext hd asid frame
  have hfit := fitCluster_of_headFit hd (nextPlace_fits hnext)
  obtain ⟨hgang, hmem, hcores, hhead⟩ := placeHead_frame (s := s.noteWaits) hctl q h d cl fits
  refine ⟨_, (s.noteWaits.nextGang q h cl).withTeams fits, execGangPlace_of_ready hready hnext hd, hgang, rfl, rfl, rfl,
    rfl, rfl, rfl, rfl, hmem, rfl, fun i c f hi => ?_, hhead⟩
  have hzip : (fits.zipIdx.map (·.1.1)).Nodup := by
    have hnd := fitCluster_nodup hfit
    rwa [← List.zipIdx_map_fst 0 fits, List.map_map] at hnd
  obtain ⟨u, hu⟩ := startTeams_core (d := d) (g := s.noteWaits.nextGang q h cl) (rs := h.regions) hzip
    (List.mk_mem_zipIdx_iff_getElem?.2 hi) (s.noteWaits.notePlaced q h cl)
  have hcore := (congrArg (amGet Core.reset · c) hcores).trans hu
  refine ⟨⟨_, (team_of_core hcore _).trans (startTeam_team u d _ h.regions i c f), rfl, rfl, rfl, rfl, rfl,
    rfl, rfl, rfl, rfl, rfl, rfl, rfl, rfl⟩, fun w n r hn hr => ?_⟩
  have hslots := fitCluster_slots_nodup hfit _ (List.mem_of_getElem? hi)
  have hwarp := startTeam_warp u d (s.noteWaits.nextGang q h cl) h.regions i c f hslots hn hr
  obtain ⟨hrole, hbudget, hwidx, hsplits, hv⟩ := newWarp_rest (teamKey (s.noteWaits.nextGang q h cl).key i) w r.1 r.2
    frame (BitVec.ofNat 54 d.entry)
  refine ⟨_, (warp_of_core hcore n).trans hwarp, hrole, hbudget, hwidx, hsplits, newWarp_gv .., newWarp_gv ..,
    newWarp_gv .., fun g h1 h2 h3 => ?_, fun g l => ?_⟩
  · rw [newWarp_gv, if_neg h3, if_neg h2, if_neg h1]
  · exact congrArg (fun v => (amGet cellZero v (g * 32 + l)).val) hv

end Sys2Proof.Machine

/-! ### Memory accesses (R79 to R90, R141 to R144, R192): what one leaves of the residents -/

namespace Sys2Proof.Machine

open Sys2Proof.Laws

/-- From `s` to `t` the resident warps differ at most in their splits, which may have noted the end of a QWAIT (R192), and
the teams in what they count. -/
structure ResidentsStay (s t : State) : Prop where
  warp : ∀ c n v, s.warp c n = some v → ∃ l, t.warp c n = some { v with splits := l }
  team : ∀ c k m, s.team c k = some m → ∃ m', t.team c k = some m'

/-- One entry is read, and the scan ends at it or goes on (R104). -/
theorem adtScan_succ (s : State) (st : Nat) (asid : Asid) (base va n i : Nat) :
    (∀ u c, s.adtWords st asid base i = (u, .error c) → s.adtScan st asid base va (n + 1) i = (u, .error c)) ∧
    ∀ u ws, s.adtWords st asid base i = (u, .ok ws) → s.adtScan st asid base va (n + 1) i =
      if u.classWords ws va = .none then u.adtScan st asid base va n (i + 1) else (u, .ok (u.classWords ws va)) := by
  have h : s.adtScan st asid base va (n + 1) i = match s.adtWords st asid base i with
      | (s, .error c) => (s, .error c)
      | (s, .ok ws) =>
        match s.classWords ws va with
        | .none => s.adtScan st asid base va n (i + 1)
        | c => (s, .ok c) := rfl
  refine ⟨fun u c hw => ?_, fun u ws hw => ?_⟩
  · rw [h, hw]
  · rw [h, hw]
    dsimp only
    cases u.classWords ws va <;> rfl

namespace ResidentsStay

theorem refl (s : State) : ResidentsStay s s := ⟨fun _ _ v h => ⟨v.splits, h⟩, fun _ _ m h => ⟨m, h⟩⟩

theorem trans {s t u : State} (h : ResidentsStay s t) (g : ResidentsStay t u) : ResidentsStay s u where
  warp c n v hv := by
    obtain ⟨l, hl⟩ := h.warp c n v hv
    exact g.warp c n { v with splits := l } hl
  team c k m hm := by
    obtain ⟨m', hm'⟩ := h.team c k m hm
    exact g.team c k m' hm'

theorem of_cores {s t : State} (h : t.cores = s.cores) : ResidentsStay s t where
  warp c n v hv := ⟨v.splits, by rw [State.warp, State.core, h]; exact hv⟩
  team c k m hm := ⟨m, by rw [State.team, State.core, h]; exact hm⟩

theorem of_translationOnly {s t : State} (h : Spec.TranslationOnly s t) : ResidentsStay s t where
  warp c n v hv := ⟨v.splits, (translationOnly_warp h c n).trans hv⟩
  team c k m hm := ⟨m, (translationOnly_team h c k).trans hm⟩

theorem modCore (s : State) (c : Nat) {f : Core → Core} (hw : ∀ k, (f k).warps = k.warps)
    (ht : ∀ k, (f k).teams = k.teams) : ResidentsStay s (s.modCore c f) where
  warp d n v hv := by
    refine ⟨v.splits, ?_⟩
    rw [State.warp, core_modCore]
    split
    next hd => rw [hw, ← hd]; exact hv
    next => exact hv
  team d k m hm := by
    refine ⟨m, ?_⟩
    rw [State.team, core_modCore]
    split
    next hd => rw [ht, ← hd]; exact hm
    next => exact hm

theorem modSplit (s : State) (w : Who) (f : Split → Split) : ResidentsStay s (s.modSplit w f) where
  warp c n v hv := by
    rw [State.modSplit, warp_modWarp]
    split
    next h =>
      obtain ⟨rfl, rfl⟩ := h
      exact ⟨_, by rw [hv, Option.map_some, modSplit_rest]⟩
    next => exact ⟨v.splits, hv⟩
  team c k m hm := ⟨m, (team_modWarp _ _ _ _ _ _).trans hm⟩

theorem modTeam (s : State) (c k : Nat) (f : Team → Team) : ResidentsStay s (s.modTeam c k f) where
  warp d n v hv := ⟨v.splits, (warp_modTeam _ _ _ _ _ _).trans hv⟩
  team d j m hm := by
    rw [team_modTeam]
    split
    next h =>
      obtain ⟨rfl, rfl⟩ := h
      exact ⟨f m, by rw [hm, Option.map_some]⟩
    next => exact ⟨m, hm⟩

theorem foldl {α : Type} {f : State → α → State} (hf : ∀ s x, ResidentsStay s (f s x)) (xs : List α) (s : State) :
    ResidentsStay s (xs.foldl f s) := by
  induction xs generalizing s with
  | nil => exact refl s
  | cons x xs ih => exact (hf s x).trans (ih _)

/-! #### What a write of memory tells others -/

theorem unheard (s : State) (pa : Nat) : ResidentsStay s (s.unheard pa) := by
  unfold State.unheard
  split
  · exact of_cores rfl
  · exact refl s

theorem addFault (s : State) (r : FaultRec) : ResidentsStay s (s.addFault r).1 := of_cores rfl

theorem noteStale (s : State) (pa : Nat) : ResidentsStay s (s.noteStale pa) := by
  unfold State.noteStale
  split
  · exact of_cores rfl
  · exact refl s

theorem bell (s : State) (q : Nat) : ResidentsStay s (s.bell q) := by
  unfold State.bell
  split
  · exact refl s
  · exact of_cores rfl

theorem noteBell (s : State) (pa n : Nat) : ResidentsStay s (s.noteBell pa n) := foldl (fun s _ => bell s _) _ s

theorem noteWatch (s : State) (pa n : Nat) : ResidentsStay s (s.noteWatch pa n) := foldl (fun s _ => modSplit s _ _) _ s

theorem noteClaim (s : State) (pa old new : Nat) : ResidentsStay s (s.noteClaim pa old new) := by
  unfold State.noteClaim
  split
  · exact of_cores rfl
  · exact refl s

theorem countWrite (s : State) (c k va n en : Nat) : ResidentsStay s (s.countWrite c k va n en) := by
  unfold State.countWrite
  split
  · exact refl s
  · split
    · exact refl s
    · exact modTeam _ _ _ _

theorem irrevocable (s : State) (c k : Nat) : ResidentsStay s (s.irrevocable c k) := modTeam _ _ _ _

theorem regStore (s : State) (pa n data en : Nat) : ResidentsStay s (s.regStore pa n data en) := by
  unfold State.regStore
  split
  · exact of_cores rfl
  · exact refl s

/-! #### Writes at home -/

theorem homeWrite {s t : State} {pa : Nat} {bs : List Byte} (h : s.homeWrite pa bs = .ok t) : ResidentsStay s t := by
  unfold State.homeWrite at h
  dsimp only at h
  split at h
  · cases h
  · cases h
    refine trans (trans ?_ (noteBell _ _ _)) (noteWatch _ _ _)
    exact (foldl noteStale _ s).trans (of_cores rfl)

theorem homeWriteEn {s t : State} {pa n data en : Nat} (h : s.homeWriteEn pa n data en = .ok t) : ResidentsStay s t := by
  unfold State.homeWriteEn at h
  dsimp only at h
  split at h
  · cases h
  · cases h
    refine trans (trans ?_ (foldl (fun s _ => noteBell s _ _) _ _)) (noteWatch _ _ _)
    exact (foldl noteStale _ s).trans (of_cores rfl)

/-! #### The L1 -/

theorem setLine (s : State) (c : Nat) (x : L1Line) : ResidentsStay s (s.modCore c (·.setLine x)) :=
  modCore s c (fun _ => rfl) fun _ => rfl

theorem loseLine (s : State) (c line : Nat) : ResidentsStay s (s.modCore c (·.dropLine line)) :=
  modCore s c (fun _ => rfl) fun _ => rfl

theorem writeBack (s : State) (x : L1Line) : ResidentsStay s (s.writeBack x).1 := by
  unfold State.writeBack
  dsimp only
  split
  · exact (unheard _ _).trans (of_cores rfl)
  · refine trans ?_ (noteWatch _ _ _)
    exact ((noteStale _ _).trans (unheard _ _)).trans (of_cores rfl)

theorem writeBackReport (s : State) (c : Nat) (x : L1Line) : ResidentsStay s (s.writeBackReport c x) := by
  have h := writeBack s x
  unfold State.writeBackReport
  split
  next hw => rw [hw] at h; exact h.trans (addFault _ _)
  next hw => rw [hw] at h; exact h

theorem evict (s : State) (c line : Nat) : ResidentsStay s (s.evict c line) := by
  unfold State.evict
  split
  · exact refl s
  · refine trans ?_ (loseLine _ _ _)
    split
    · exact refl s
    · exact writeBackReport _ _ _

theorem dropLine (s : State) (c pa : Nat) (done : Bool) : ResidentsStay s (s.dropLine c pa done) := by
  unfold State.dropLine
  split
  · exact refl s
  · exact evict _ _ _

theorem fetchLine (s : State) (c line : Nat) : ResidentsStay s (s.fetchLine c line).1 := by
  unfold State.fetchLine
  split
  · exact refl s
  · refine trans (trans ?_ (unheard _ _)) (setLine _ _ _)
    split
    · exact refl s
    · split
      · exact (evict _ _ _).trans (of_cores rfl)
      · exact refl s

theorem l1Read (s : State) (c pa n : Nat) : ResidentsStay s (s.l1Read c pa n).1 := by
  unfold State.l1Read
  dsimp only
  split <;> exact fetchLine _ _ _

theorem l1Write (s : State) (c pa n data en : Nat) (asid : Asid) (va team : Nat) :
    ResidentsStay s (s.l1Write c pa n data en asid va team).1 := by
  unfold State.l1Write
  dsimp only
  split
  · exact fetchLine _ _ _
  · split
    · exact fetchLine _ _ _
    · exact (fetchLine _ _ _).trans (setLine _ _ _)

/-! #### The adjoint unit's test of a store -/

theorem adtWords (s : State) (st : Nat) (asid : Asid) (base i : Nat) : ResidentsStay s (s.adtWords st asid base i).1 := by
  unfold State.adtWords
  split
  · exact refl s
  · dsimp only
    split
    · exact refl s
    · split
      · exact unheard _ _
      · split
        · exact refl s
        · exact of_cores rfl

theorem adtScan (st : Nat) (asid : Asid) (base va n : Nat) :
    ∀ (s : State) (i : Nat), ResidentsStay s (s.adtScan st asid base va n i).1 := by
  induction n with
  | zero => intro s i; exact refl s
  | succ n ih =>
    intro s i
    have h := adtWords s st asid base i
    obtain ⟨herr, hok⟩ := adtScan_succ s st asid base va n i
    rcases hw : s.adtWords st asid base i with ⟨u, c | ws⟩
    · rw [herr u c hw]
      rwa [hw] at h
    · rw [hw] at h
      rw [hok u ws hw]
      split
      · exact h.trans (ih _ _)
      · exact h

theorem classify (s : State) (st : Nat) (asid : Asid) (va : Nat) (cnt : Bool) :
    ResidentsStay s (s.classify st asid va cnt).1 := by
  have h := of_translationOnly (translationOnly_asEntry s st asid)
  unfold State.classify
  split
  · split
    next he => rw [he] at h; exact h
    next he => rw [he] at h; exact h.trans (adtScan _ _ _ _ _ _ _)
  · exact refl s

theorem classStore (st : Nat) (asid : Asid) (as : List Nat) : ∀ (s : State) (p : Option (AdtEnt × Nat)),
    ResidentsStay s (s.classStore st asid p as).1 := by
  induction as with
  | nil => intro s p; exact refl s
  | cons a as ih =>
    intro s p
    have h := classify s st asid a true
    unfold State.classStore
    split
    next hc => rw [hc] at h; exact h
    next hc => rw [hc] at h; exact h.trans (ih _ _)
    next hc => rw [hc] at h; exact h
    next hc => rw [hc] at h; exact h
    next hc => rw [hc] at h; exact h.trans (ih _ _)

theorem translateStack (s : State) (st : Nat) (asid : Asid) (priv : Bool) (va : Nat) (acc : Access) :
    ResidentsStay s (s.translateStack st asid priv va acc).1 := by
  have h := translationOnly_walk s st asid va
  unfold State.translateStack
  split
  · exact refl s
  · split
    next hw => rw [hw] at h; exact of_translationOnly h
    next hw => rw [hw] at h; exact of_translationOnly (translationOnly_trans h (translationOnly_fillStack _ _ _))

theorem countAt (s : State) (st : Nat) (asid : Asid) (priv : Bool) (e : AdtEnt) (va : Nat) (acc : Access) :
    ResidentsStay s (s.countAt st asid priv e va acc).1 := by
  have h := translateStack s st asid priv (e.countVa va) acc
  unfold State.countAt
  split
  next ht => rw [ht] at h; exact h
  next ht =>
    rw [ht] at h
    split
    · exact h.trans (unheard _ _)
    · exact h

theorem gateStore (s : State) (asid : Asid) (priv : Bool) (va : Nat) (x : Xlat) (n en : Nat) (test : Bool) :
    ResidentsStay s (s.gateStore asid priv va x n en test).1 := by
  have h := classStore (homeOf x.pa).1 asid (storeWords va n en) s none
  unfold State.gateStore
  dsimp only
  split
  · exact refl s
  · split
    next hc => rw [hc] at h; exact h
    next hc => rw [hc] at h; exact h
    next u e a hc =>
      rw [hc] at h
      have hn := countAt u (homeOf x.pa).1 asid priv e a .read
      split
      · split
        next hk => rw [hk] at hn; exact h.trans hn
        next hk =>
          rw [hk] at hn
          split <;> exact h.trans hn
      · exact h

/-! #### One access along its path -/

theorem loadAt (s : State) (c : Nat) (x : Xlat) (n : Nat) (drop : Bool) : ResidentsStay s (s.loadAt c x n drop).1 := by
  have h := l1Read s c x.pa n
  unfold State.loadAt
  split
  · exact refl s
  · split
    · split
      next hr => rw [hr] at h; exact h
      next hr => rw [hr] at h; exact h
    · dsimp only
      split
      · exact dropLine _ _ _ _
      · exact (dropLine _ _ _ _).trans (unheard _ _)

theorem storeAt (s : State) (c k : Nat) (asid : Asid) (priv : Bool) (va : Nat) (x : Xlat) (n data en : Nat)
    (drop : Bool) : ResidentsStay s (s.storeAt c k asid priv va x n data en drop).1 := by
  have hl := l1Write s c x.pa n data en asid va k
  have hd := dropLine s c x.pa drop
  have hg := gateStore (s.dropLine c x.pa drop) asid priv va x n en true
  unfold State.storeAt
  split
  · exact regStore _ _ _ _ _
  · split
    · split
      next hw => rw [hw] at hl; exact hl.trans (countWrite _ _ _ _ _ _)
      next hw => rw [hw] at hl; exact hl
    · dsimp only
      split
      next hw => rw [hw] at hg; exact hd.trans hg
      next hw =>
        rw [hw] at hg
        split
        · exact (hd.trans hg).trans (unheard _ _)
        next hh => exact ((hd.trans hg).trans (homeWriteEn hh)).trans (countWrite _ _ _ _ _ _)

end ResidentsStay

end Sys2Proof.Machine

/-! ### Lanes of an operation in flight (R7, R58, R144, R210 to R219): one lane performed, and what it leaves -/

namespace Sys2Proof.Machine

open Sys2Proof.Laws

/-! #### An operation that stands -/

/-- Operation `o` is in flight in its warp, whose lane registers and flags are those of `v`. -/
def OpStands (s : State) (c w : Nat) (o : Op) (v : Warp) : Prop :=
  ∃ v' m, s.findOp c w o.id = some (o, v', m) ∧ v'.v = v.v ∧ v'.f = v.f ∧ v'.team = v.team

theorem findOp_eq_some {s : State} {c w id : Nat} {o : Op} {v : Warp} {m : Team} :
    s.findOp c w id = some (o, v, m) ↔ s.warp c w = some v ∧ v.op id = some o ∧ s.team c v.team = some m := by
  unfold State.findOp
  refine ⟨fun h => ?_, fun ⟨hw, ho, hm⟩ => by simp only [hw, ho, hm]⟩
  split at h
  · cases h
  next hw =>
    split at h
    next ho hm => cases h; exact ⟨hw, ho, hm⟩
    next => cases h

theorem OpStands.of_findOp {s : State} {c w : Nat} {o : Op} {v : Warp} {m : Team}
    (h : s.findOp c w o.id = some (o, v, m)) : OpStands s c w o v := ⟨v, m, h, rfl, rfl, rfl⟩

/-- What leaves the residents leaves the operation. -/
theorem OpStands.stay {s t : State} {c w : Nat} {o : Op} {v : Warp} (h : OpStands s c w o v) (hs : ResidentsStay s t) :
    OpStands t c w o v := by
  obtain ⟨v', m, hf, hv, hfl, ht⟩ := h
  obtain ⟨hw, ho, hm⟩ := findOp_eq_some.1 hf
  obtain ⟨l, hl⟩ := hs.warp c w v' hw
  obtain ⟨m', hm'⟩ := hs.team c v'.team m hm
  exact ⟨{ v' with splits := l }, m', findOp_eq_some.2 ⟨hl, ho, hm'⟩, hv, hfl, ht⟩

/-- A change of the warp that keeps its operations and its team. -/
theorem OpStands.modWarp {s : State} {c w : Nat} {o : Op} {v v1 : Warp} (h : OpStands s c w o v) {f : Warp → Warp}
    (hops : ∀ x, (f x).ops = x.ops) (hteam : ∀ x, (f x).team = x.team)
    (hv : ∀ x : Warp, x.v = v.v → (f x).v = v1.v) (hf : ∀ x : Warp, x.f = v.f → (f x).f = v1.f)
    (ht : v1.team = v.team) : OpStands (s.modWarp c w f) c w o v1 := by
  obtain ⟨v', m, hfo, hv', hf', ht'⟩ := h
  obtain ⟨hw, ho, hm⟩ := findOp_eq_some.1 hfo
  refine ⟨f v', m, findOp_eq_some.2 ⟨?_, ?_, ?_⟩, hv _ hv', hf _ hf', (hteam v').trans (ht'.trans ht.symm)⟩
  · rw [warp_modWarp, if_pos ⟨rfl, rfl⟩, hw, Option.map_some]
  · rw [Warp.op, hops]; exact ho
  · rw [team_modWarp, hteam]; exact hm

/-! #### Copies that earlier accesses at home drop (R144) -/

/-- An earlier operation's accesses to a line note that the copy of the line has been dropped. -/
def Op.noteDropped (p : Op) (serial line : Nat) : Op :=
  if p.serial < serial then
    { p with accs := p.accs.map fun (b : Acc) => if b.path == .home && b.pa / 64 == line then { b with drop := true } else b }
  else p

theorem noteDropped_id (p : Op) (serial line : Nat) : (p.noteDropped serial line).id = p.id := by
  unfold Op.noteDropped
  split <;> rfl

theorem amFind_map {α β : Type} (f : α → β) (m : SMap α) (k : Nat) :
    amFind (m.map fun e => (e.1, f e.2)) k = (amFind m k).map f := by
  induction m with
  | nil => rfl
  | cons p m ih =>
    simp only [List.map_cons, amFind, ih]
    split <;> rfl

/-- Dropping the copies of earlier accesses leaves the operation itself and its warp's registers. -/
theorem OpStands.dropEarlier {s : State} {c w : Nat} {o : Op} {v : Warp} (h : OpStands s c w o v) (line : Nat) :
    OpStands (s.dropEarlier c o line) c w o v := by
  unfold State.dropEarlier
  dsimp only
  split
  · exact h
  · obtain ⟨v', m, hfo, hv, hf, ht⟩ := h.stay (ResidentsStay.evict s c line)
    obtain ⟨hw, ho, hm⟩ := findOp_eq_some.1 hfo
    refine ⟨{ v' with ops := v'.ops.map fun p : Op => p.noteDropped o.serial line }, m,
      findOp_eq_some.2 ⟨?_, ?_, ?_⟩, hv, hf, ht⟩
    · rw [State.warp, core_modCore_self]
      refine (amFind_map (fun x : Warp => { x with ops := x.ops.map fun p : Op => p.noteDropped o.serial line }) _ w).trans ?_
      rw [State.warp] at hw
      rw [hw, Option.map_some]
    · have hid : ((fun p : Op => p.id == o.id) ∘ fun p : Op => p.noteDropped o.serial line) = fun p : Op => p.id == o.id :=
        funext fun p => congrArg (· == o.id) (noteDropped_id p o.serial line)
      unfold Warp.op at ho ⊢
      rw [List.find?_map, hid, ho]
      exact congrArg some (if_neg (Nat.lt_irrefl _))
    · rw [State.team, core_modCore_self]
      exact hm

/-! #### Writing lane registers -/

theorem setVs_rest (w : Warp) (r l : Nat) (xs : List Word) : w.setVs r l xs = { w with v := (w.setVs r l xs).v } := by
  induction xs generalizing w r with
  | nil => rfl
  | cons x xs ih => rw [Warp.setVs, ih]; rfl

theorem setVs_v_congr {w u : Warp} (h : w.v = u.v) (r l : Nat) (xs : List Word) :
    (w.setVs r l xs).v = (u.setVs r l xs).v := by
  induction xs generalizing w u r with
  | nil => exact h
  | cons x xs ih => exact ih (by rw [setV_rest, setV_rest u]; exact congrArg (fun v => smPut cellZero v _ _) h) _

theorem OpStands.writeV {s : State} {c w : Nat} {o : Op} {v : Warp} (h : OpStands s c w o v) (r : VReg) (l : Nat)
    (xs : List Word) : OpStands (s.writeV c w r l xs) c w o (v.setVs r.toNat l xs) :=
  h.modWarp (fun x => by rw [setVs_rest]) (fun x => by rw [setVs_rest]) (fun x hx => setVs_v_congr hx _ _ _)
    (fun x hx => by rw [setVs_rest, setVs_rest v]; exact hx) (by rw [setVs_rest])

/-! #### An operation that goes on (R7, R213) -/

/-- No lane of a list waits for a replay, and none is to be sent to a peer: what `Spec.LaneTurn` says of an operation's. -/
def LocalAccs (as : List Acc) : Prop := ∀ b ∈ as, b.st.held = false ∧ (b.st = .todo → b.path ≠ .fabric)

theorem LocalAccs.no_held {as : List Acc} (h : LocalAccs as) : (as.any fun b => b.st.held) = false :=
  List.any_eq_false.2 fun b hb => by simp [(h b hb).1]

theorem LocalAccs.not_blocked {o : Op} (h : LocalAccs o.accs) (sp : MemSpec) : o.blocked sp = false := by
  simp [Op.blocked, h.no_held]

theorem LocalAccs.not_sendable (w : Warp) (o : Op) (n : Nat) {as : List Acc} (h : LocalAccs as) (held : List Acc) :
    sendable w o n held as = [] := by
  induction as with
  | nil => rfl
  | cons a as ih =>
    have hno : (a.path == .fabric && a.st == .todo) = false := by
      have := (h a List.mem_cons_self).2
      cases hst : a.st == .todo with
      | false => simp
      | true => simp [this (by simpa using hst)]
    rw [sendable, hno]
    exact ih fun b hb => h b (List.mem_cons_of_mem _ hb)

theorem retryOp_of_local {o : Op} (h : LocalAccs o.accs) (s : State) (c w : Nat) (m : Team) (sp : MemSpec) :
    s.retryOp c w m sp o = (s, o) := by
  have hnone : (o.accs.filter fun a => a.st == .retry) = [] := List.filter_eq_nil_iff.2 fun b hb hr => by
    have := (h b hb).1
    rw [eq_of_beq hr] at this
    cases this
  unfold State.retryOp
  simp [hnone]

theorem releaseStep_of_released {o : Op} (h : o.released = true) (s : State) (c : Nat) (w : Warp) :
    s.releaseStep c w o = (s, o) := by
  unfold Op.released at h
  unfold State.releaseStep
  split at h
  next hr => rw [hr]
  next hr => rw [hr]
  next => cases h

theorem putAccs_nil (as : List Acc) : putAccs [] as = as := by
  simp [putAccs]

theorem sendLanes_of_local {o : Op} (h : LocalAccs o.accs) (s : State) (c w : Nat) : s.sendLanes c w o = (s, o) := by
  unfold State.sendLanes
  split
  · rfl
  · rfl
  next x sp v _ _ =>
    split
    · rfl
    · rw [h.not_sendable]
      simp [packLanes, State.sendGroups, putAccs_nil]

theorem settle_of_local {o : Op} (h : LocalAccs o.accs) (s : State) (c w : Nat) : s.settle c w o = s.updateOp c w o := by
  unfold State.settle
  rw [sendLanes_of_local h]

/-- An operation that stands is kept as it is. -/
theorem OpStands.setOp_self {s : State} {c w : Nat} {o : Op} {v : Warp} (h : OpStands s c w o v) : s.setOp c w o = s := by
  obtain ⟨v', m, hfo, -⟩ := h
  obtain ⟨hw, ho, -⟩ := findOp_eq_some.1 hfo
  unfold State.setOp
  simp only [hw, ho, if_true]

theorem op_setOp {v : Warp} {o p : Op} (h : v.op o.id = some p) : (v.setOp o).op o.id = some o := by
  have hid : ((fun q : Op => q.id == o.id) ∘ fun q : Op => if q.id = o.id then o else q) = fun q : Op => q.id == o.id :=
    funext fun q => by
      simp only [Function.comp]
      split
      next hq => simp [hq]
      next => rfl
  have hp : p.id = o.id := eq_of_beq (List.find?_some (p := fun q : Op => q.id == o.id) h)
  unfold Warp.op Warp.setOp at *
  rw [List.find?_map, hid, h, Option.map_some, if_pos hp]

/-- The operation with changed lanes, none of which waits for a replay, stands where the operation did. -/
theorem OpStands.setOp {s : State} {c w : Nat} {o : Op} {v : Warp} (h : OpStands s c w o v) {as : List Acc}
    (has : LocalAccs as) : OpStands (s.setOp c w { o with accs := as }) c w { o with accs := as } v ∧
      (s.setOp c w { o with accs := as }).mem = s.mem := by
  obtain ⟨v', m, hfo, hv, hf, ht⟩ := h
  obtain ⟨hw, ho, hm⟩ := findOp_eq_some.1 hfo
  unfold State.setOp
  simp only [hw, has.no_held, Bool.and_false, Bool.false_eq_true, if_false]
  split
  next hsame => exact ⟨⟨v', m, findOp_eq_some.2 ⟨hw, hsame, hm⟩, hv, hf, ht⟩, rfl⟩
  next =>
    refine ⟨⟨v'.setOp { o with accs := as }, m, findOp_eq_some.2 ⟨?_, op_setOp ho, ?_⟩, hv, hf, ht⟩, rfl⟩
    · rw [warp_setWarp, if_pos ⟨rfl, rfl⟩]
    · rw [team_setWarp]; exact hm

/-! #### An operation that ends (R7, R58, R171, R280) -/

/-- Lane registers, flags and operations' numbers of a warp stay, and memory does. -/
structure WarpRegsStay (s t : State) (c w : Nat) : Prop where
  mem : t.mem = s.mem
  warp : ∀ v, s.warp c w = some v → ∃ v', t.warp c w = some v' ∧ v'.v = v.v ∧ v'.f = v.f

namespace WarpRegsStay

theorem refl (s : State) (c w : Nat) : WarpRegsStay s s c w := ⟨rfl, fun v h => ⟨v, h, rfl, rfl⟩⟩

theorem trans {s t u : State} {c w : Nat} (h : WarpRegsStay s t c w) (g : WarpRegsStay t u c w) :
    WarpRegsStay s u c w where
  mem := g.mem.trans h.mem
  warp v hv := by
    obtain ⟨v1, h1, hv1, hf1⟩ := h.warp v hv
    obtain ⟨v2, h2, hv2, hf2⟩ := g.warp v1 h1
    exact ⟨v2, h2, hv2.trans hv1, hf2.trans hf1⟩

theorem of_stay {s t : State} (h : ResidentsStay s t) (hm : t.mem = s.mem) (c w : Nat) : WarpRegsStay s t c w where
  mem := hm
  warp v hv := by
    obtain ⟨l, hl⟩ := h.warp c w v hv
    exact ⟨_, hl, rfl, rfl⟩

theorem modWarp (s : State) (c w : Nat) {f : Warp → Warp} (hv : ∀ v, (f v).v = v.v) (hf : ∀ v, (f v).f = v.f) :
    WarpRegsStay s (s.modWarp c w f) c w where
  mem := modWarp_mem _ _ _ _
  warp v h := ⟨f v, by rw [warp_modWarp, if_pos ⟨rfl, rfl⟩, h, Option.map_some], hv v, hf v⟩

theorem setWarp {s : State} {c w : Nat} {v u : Warp} (h : s.warp c w = some v) (hv : u.v = v.v) (hf : u.f = v.f) :
    WarpRegsStay s (s.setWarp c w u) c w where
  mem := rfl
  warp x hx := by
    cases h.symm.trans hx
    exact ⟨u, by rw [warp_setWarp, if_pos ⟨rfl, rfl⟩], hv, hf⟩

theorem modTeam (s : State) (c k w : Nat) (f : Team → Team) : WarpRegsStay s (s.modTeam c k f) c w :=
  of_stay (ResidentsStay.modTeam _ _ _ _) (modTeam_mem _ _ _ _) c w

theorem modSplit (s : State) (x : Who) (f : Split → Split) (c w : Nat) : WarpRegsStay s (s.modSplit x f) c w :=
  of_stay (ResidentsStay.modSplit _ _ _) (modSplit_mem _ _ _) c w

theorem leaveLatches (s : State) (x : Who) (c w : Nat) : WarpRegsStay s (s.leaveLatches x) c w := by
  unfold State.leaveLatches
  split
  · exact refl s c w
  · refine of_stay (ResidentsStay.modCore _ _ ?_ ?_) rfl c w <;> exact fun _ => rfl

theorem sweep (s : State) (c w e : Nat) : WarpRegsStay s (s.modWarp c w fun v => v.sweep e) c w := by
  refine modWarp s c w ?_ ?_ <;>
  · intro v
    unfold Warp.sweep
    split
    · split <;> rfl
    · rfl

/-- Recording a fault of a lane changes no lane register and no flag (R171). -/
theorem recordLaneFault (s : State) (c w e : Nat) (t : PendTrap) : WarpRegsStay s (s.recordLaneFault ⟨c, w, e⟩ t) c w := by
  unfold State.recordLaneFault
  split
  · exact refl s c w
  next v hv =>
    dsimp only
    split
    · refine trans (setWarp hv ?_ ?_) (modTeam _ _ _ _ _) <;> split <;> rfl
    · split
      · exact (leaveLatches _ _ _ _).trans (modSplit _ _ _ _ _)
      · refine trans (trans (setWarp hv ?_ ?_) (sweep _ _ _ _)) (modTeam _ _ _ _ _) <;>
        · rw [modSplit_rest]
          split <;> rfl

theorem phaseAcq (s : State) (c w : Nat) : WarpRegsStay s (s.phaseAcq c) c w := by
  refine of_stay (ResidentsStay.modCore _ _ ?_ ?_) rfl c w <;> exact fun _ => rfl

end WarpRegsStay

theorem lower_rest (w : Warp) (m : BitVec 12) : w.lower m = { w with f := (w.lower m).f } := by
  have hfold : ∀ (ls : List Nat) (v : Warp),
      let u := ls.foldl (fun w i => if m.getLsbD i then { w with f := smPut 0 w.f i (w.flag i - 1) } else w) v
      u = { v with f := u.f } := by
    intro ls
    induction ls with
    | nil => intro v; rfl
    | cons i ls ih =>
      intro v
      dsimp only at ih ⊢
      rw [List.foldl_cons, ih]
      split <;> rfl
  exact hfold _ w

/-- Each flag of the mask falls by 1 (R58). -/
theorem flag_lower (w : Warp) (m : BitVec 12) {n : Nat} (hn : n < 12) :
    (w.lower m).flag n = if m.getLsbD n = true then w.flag n - 1 else w.flag n := by
  have hfold : ∀ (ls : List Nat) (v : Warp), ls.Nodup →
      (ls.foldl (fun w i => if m.getLsbD i then { w with f := smPut 0 w.f i (w.flag i - 1) } else w) v).flag n =
        if n ∈ ls ∧ m.getLsbD n = true then v.flag n - 1 else v.flag n := by
    intro ls
    induction ls with
    | nil => intro v _; simp
    | cons i ls ih =>
      intro v hnd
      obtain ⟨hi, hls⟩ := List.nodup_cons.1 hnd
      rw [List.foldl_cons, ih _ hls]
      by_cases hni : n = i
      · subst hni
        cases hm : m.getLsbD n <;> simp [hi, Warp.flag]
      · have hv : Warp.flag (if m.getLsbD i = true then { v with f := smPut 0 v.f i (v.flag i - 1) } else v) n = v.flag n := by
          split
          · exact amGet_smPut_ne _ _ _ hni
          · rfl
        rw [hv]
        simp [hni]
  refine (hfold _ w List.nodup_range).trans ?_
  simp [hn]

/-- An operation whose lanes are all over is gone and its flags have fallen by 1; memory and lane registers stay (R7,
R58). -/
theorem finishOp_ends {s : State} {c w : Nat} {o : Op} {v : Warp} (h : OpStands s c w o v) :
    ∃ v', (s.finishOp c w o).warp c w = some v' ∧ v'.v = v.v ∧ (s.finishOp c w o).mem = s.mem ∧ v'.op o.id = none ∧
      ∀ n, n < 12 → v'.flag n = if o.flags.getLsbD n = true then v.flag n - 1 else v.flag n := by
  obtain ⟨v0, m, hfo, hv0, hf0, -⟩ := h
  obtain ⟨hw, -, -⟩ := findOp_eq_some.1 hfo
  have hend : ∀ u, WarpRegsStay s u c w → ∃ v', (u.modWarp c w fun x => x.endOp o).warp c w = some v' ∧ v'.v = v.v ∧
      (u.modWarp c w fun x => x.endOp o).mem = s.mem ∧ v'.op o.id = none ∧
      ∀ n, n < 12 → v'.flag n = if o.flags.getLsbD n = true then v.flag n - 1 else v.flag n := by
    intro u hu
    obtain ⟨v1, hw1, hv1, hf1⟩ := hu.warp v0 hw
    refine ⟨v1.endOp o, ?_, ?_, ?_, ?_, fun n hn => ?_⟩
    · rw [warp_modWarp, if_pos ⟨rfl, rfl⟩, hw1, Option.map_some]
    · unfold Warp.endOp
      rw [lower_rest]
      exact hv1.trans hv0
    · rw [modWarp_mem, hu.mem]
    · refine List.find?_eq_none.2 fun p hp => ?_
      have := (List.mem_filter.1 hp).2
      simpa using this
    · have hflag : v1.flag n = v.flag n := by rw [Warp.flag, Warp.flag, hf1, hf0]
      rw [← hflag]
      exact flag_lower v1 o.flags hn
  unfold State.finishOp
  simp only [hfo]
  refine hend _ ?_
  split
  · split
    · refine WarpRegsStay.trans ?_ (WarpRegsStay.phaseAcq _ _ _)
      split
      · exact WarpRegsStay.refl _ _ _
      · exact WarpRegsStay.modTeam _ _ _ _ _
    · split
      · exact WarpRegsStay.refl _ _ _
      · exact WarpRegsStay.modTeam _ _ _ _ _
  · exact WarpRegsStay.recordLaneFault _ _ _ _ _

/-! #### One lane is performed -/

theorem lanesOf_maskOf_single {l : Nat} (h : l < 32) : lanesOf (maskOf [l]) = [l] := by
  have : ∀ l < 32, lanesOf (maskOf [l]) = [l] := by decide
  exact this l h

theorem mem_putAccs_single {a b : Acc} {as : List Acc} (h : b ∈ putAccs [a] as) :
    b = a ∨ (b ∈ as ∧ b.lane ≠ a.lane) := by
  obtain ⟨x, hx, rfl⟩ := List.mem_map.1 h
  by_cases hl : a.lane = x.lane
  · simp [hl]
  · simp [hl, hx, Ne.symm hl]

theorem mem_putAccs_of_ne {a b : Acc} {as : List Acc} (hb : b ∈ as) (hl : b.lane ≠ a.lane) : b ∈ putAccs [a] as :=
  List.mem_map.2 ⟨b, hb, by simp [Ne.symm hl]⟩

/-- A lane that is done waits for nothing. -/
theorem LocalAccs.put_done {as : List Acc} (h : LocalAccs as) (b : Acc) : LocalAccs (putAccs [{ b with st := .done }] as) := by
  intro a ha
  rcases mem_putAccs_single ha with rfl | ⟨hmem, -⟩
  · exact ⟨rfl, fun h => by cases h⟩
  · exact h a hmem

theorem LocalAccs.isOver_iff {o : Op} (h : LocalAccs o.accs) :
    o.isOver = true ↔ ∀ a ∈ o.accs, a.st.isOver = true := by
  unfold Op.isOver
  rw [List.all_eq_true]
  refine forall_congr' fun a => forall_congr' fun ha => ?_
  rw [(h a ha).1, Bool.false_and, Bool.or_false]

/-- Where an operation stands with one more lane done, going on ends it exactly where its other lanes are over. -/
theorem updateOp_laneDone {s : State} {c w : Nat} {o : Op} {v : Warp} {b : Acc} (has : LocalAccs o.accs)
    (h : OpStands s c w { o with accs := putAccs [{ b with st := .done }] o.accs } v) :
    let t := s.updateOp c w { o with accs := putAccs [{ b with st := .done }] o.accs }
    ∃ v', t.warp c w = some v' ∧ v'.v = v.v ∧ t.mem = s.mem ∧ Spec.LaneDone t c w o v b := by
  have hiff := LocalAccs.isOver_iff (o := { o with accs := putAccs [{ b with st := .done }] o.accs }) (has.put_done b)
  unfold State.updateOp
  rw [h.setOp_self]
  split
  next hover =>
    obtain ⟨v', hw, hv, hmem, hop, hflag⟩ := finishOp_ends h
    refine ⟨v', hw, hv, hmem, v', hw, fun ⟨a, ha, hl, hst⟩ => ?_, fun _ => ⟨hop, hflag⟩⟩
    have := hiff.1 hover a (mem_putAccs_of_ne ha hl)
    rw [hst] at this
    cases this
  next hover =>
    obtain ⟨v', m, hfo, hv, hf, -⟩ := h
    obtain ⟨hw, hop, -⟩ := findOp_eq_some.1 hfo
    refine ⟨v', hw, hv, rfl, v', hw, fun _ => ⟨hop, hf⟩, fun hall => absurd (hiff.2 fun a ha => ?_) hover⟩
    rcases mem_putAccs_single ha with rfl | ⟨hmem, hl⟩
    · rfl
    · exact hall a hmem hl

/-- The state in which a lane is performed: for an L1-path lane after the copies that earlier accesses at home drop (R144). -/
def State.laneStart (s : State) (c : Nat) (o : Op) (a : Acc) : State :=
  if a.path = .l1 then s.dropEarlier c o (a.pa / 64) else s

theorem OpStands.laneStart {s : State} {c w : Nat} {o : Op} {v : Warp} (h : OpStands s c w o v) (a : Acc) :
    OpStands (s.laneStart c o a) c w o v := by
  unfold State.laneStart
  split
  · exact h.dropEarlier _
  · exact h

/-- A lane whose turn has come is performed as `f` says, and the operation keeps it. -/
theorem performLanes_lane {s u : State} {c w : Nat} {o : Op} {v v1 : Warp} {m : Team} {x : MemArgs} {sp : MemSpec}
    {a b : Acc} (ht : Spec.LaneTurn s c w o v m x sp a) {f : State → Team → Op → Acc → State × Acc}
    (hf : f (s.laneStart c o a) m o a = (u, b)) (hu : OpStands u c w o v1) :
    s.performLanes c w o.id sp.order f [a.lane] = u.setOp c w { o with accs := putAccs [b] o.accs } := by
  have hlocal : a.path ≠ .fabric := (ht.idle a (List.mem_of_find?_eq_some ht.lane)).2 ht.todo
  have hgo : (a.st == .todo && a.path != .fabric && mayPerform (s.core c) v o a sp.order) = true := by
    simp [ht.todo, hlocal, ht.turn]
  have hstart : (if (a.path == .l1) = true then s.dropEarlier c o (a.pa / 64) else s) = s.laneStart c o a := by
    simp only [State.laneStart, beq_iff_eq]
  obtain ⟨v', m', hfo, -⟩ := hu
  unfold State.performLanes
  simp only [ht.op, ht.lane, hgo, if_true, hstart, hf, hfo]
  rfl

/-- An event performs the one lane it names when its turn has come: what `f` leaves, the operation keeps the lane as done and
goes on or ends. -/
theorem memEvent_lane {s u : State} {c w : Nat} {o : Op} {v v1 : Warp} {m : Team} {x : MemArgs} {sp : MemSpec} {a b : Acc}
    (ht : Spec.LaneTurn s c w o v m x sp a) {mine : Instr → Bool} (hmine : mine o.instr = true)
    {f : MemSpec → MemArgs → State → Team → Op → Acc → State × Acc}
    (hf : f sp x (s.laneStart c o a) m o a = (u, { b with st := .done })) (hu : OpStands u c w o v1) :
    let t := s.memEvent c w o.id (maskOf [a.lane]) mine f
    ∃ v', t.warp c w = some v' ∧ v'.v = v1.v ∧ t.mem = u.mem ∧ Spec.LaneDone t c w o v1 b := by
  have has : LocalAccs o.accs := ht.idle
  have hstands := OpStands.of_findOp ht.op
  have hnotOver : o.isOver = false := by
    refine Bool.eq_false_iff.2 fun h => ?_
    have := has.isOver_iff.1 h a (List.mem_of_find?_eq_some ht.lane)
    rw [ht.todo] at this
    cases this
  have hsettle : s.settle c w o = s := by
    rw [settle_of_local has, State.updateOp, hnotOver]
    exact hstands.setOp_self
  obtain ⟨hkept, hmem⟩ := hu.setOp (has.put_done b)
  obtain ⟨v', m', hfo, -⟩ := id hkept
  have hsettle' := settle_of_local (o := { o with accs := putAccs [{ b with st := .done }] o.accs }) (has.put_done b)
  have hevent : s.memEvent c w o.id (maskOf [a.lane]) mine f =
      (u.setOp c w { o with accs := putAccs [{ b with st := .done }] o.accs }).updateOp c w
        { o with accs := putAccs [{ b with st := .done }] o.accs } := by
    unfold State.memEvent
    simp only [ht.op, ht.spec, hmine, retryOp_of_local has, releaseStep_of_released ht.free, hsettle, has.not_blocked,
      ht.free, lanesOf_maskOf_single ht.low, performLanes_lane ht hf hu, Bool.not_true, Bool.or_self, Bool.false_eq_true,
      if_false, show (u.setOp c w _).findOp c w o.id = _ from hfo, hsettle']
  dsimp only
  rw [hevent, ← hmem]
  exact updateOp_laneDone has hkept

end Sys2Proof.Machine

/-! ### Lanes complete their loads, stores and atomics (R7, R144, R210, R214, R215, R217, R219) -/

namespace Sys2Proof.Machine

open Sys2Proof.Laws

theorem v_of_v {v u : Warp} (h : v.v = u.v) (r l : Nat) : v.v_ r l = u.v_ r l :=
  congrArg (fun t => amGet cellZero t (r * 32 + l)) h

/-- What `Spec.LaneDone` says depends on the flags alone of the warp it starts from. -/
theorem laneDone_congr {t : State} {c w : Nat} {o : Op} {v u : Warp} {a : Acc} (h : v.f = u.f)
    (hd : Spec.LaneDone t c w o v a) : Spec.LaneDone t c w o u a := by
  obtain ⟨v', hw, hon, hend⟩ := hd
  refine ⟨v', hw, fun hb => (hon hb).imp_right (·.trans h), fun hb => (hend hb).imp_right fun hf n hn => ?_⟩
  rw [hf n hn, Warp.flag, Warp.flag, h]

/-! #### Data lands (R210, R217) -/

/-- The warp as a lane's data has landed: its words in vd, and for GATHER.P a 1 in vc. -/
def Warp.landed (v : Warp) (i : Instr) (x : MemArgs) (l ret : Nat) : Warp :=
  let v1 := v.setVs x.vd.toNat l (resultWords i x ret)
  match i with
  | .gatherP _ => v1.setVs x.vc.toNat l [1]
  | _ => v1

theorem landed_of_ne {i : Instr} (h : ∀ y, i = .gatherP y → False) (v : Warp) (x : MemArgs) (l ret : Nat) :
    v.landed i x l ret = v.setVs x.vd.toNat l (resultWords i x ret) := by
  unfold Warp.landed
  split
  next y => exact (h y rfl).elim
  next => rfl

theorem landed_f (v : Warp) (i : Instr) (x : MemArgs) (l ret : Nat) : (v.landed i x l ret).f = v.f := by
  unfold Warp.landed
  dsimp only
  split
  · rw [setVs_rest, setVs_rest v]
  · rw [setVs_rest]

theorem land_mem (s : State) (c w : Nat) (i : Instr) (x : MemArgs) (a : Acc) (ret : Nat) :
    (s.land c w i x a ret).1.mem = s.mem := by
  unfold State.land State.writeV
  dsimp only
  split <;> simp only [modWarp_mem]

theorem OpStands.land {s : State} {c w : Nat} {o : Op} {v : Warp} (h : OpStands s c w o v) (i : Instr) (x : MemArgs)
    (a : Acc) (ret : Nat) : OpStands (s.land c w i x a ret).1 c w o (v.landed i x a.lane ret) := by
  unfold State.land
  dsimp only
  split
  next => exact (h.writeV _ _ _).writeV _ _ _
  next hne =>
    rw [landed_of_ne hne]
    exact h.writeV _ _ _

/-- A lane that lands what it received: the event leaves its registers written, memory as it was when it landed, and the lane
done. -/
theorem memEvent_lands {s u : State} {c w ret : Nat} {o : Op} {v : Warp} {m : Team} {x : MemArgs} {sp : MemSpec} {a : Acc}
    (ht : Spec.LaneTurn s c w o v m x sp a) {mine : Instr → Bool} (hmine : mine o.instr = true)
    {f : MemSpec → MemArgs → State → Team → Op → Acc → State × Acc}
    (hf : f sp x (s.laneStart c o a) m o a = u.land c w o.instr x a ret) (hu : OpStands u c w o v) :
    let t := s.memEvent c w o.id (maskOf [a.lane]) mine f
    ∃ v', t.warp c w = some v' ∧ t.mem = u.mem ∧ (∀ r l, v'.v_ r l = (v.landed o.instr x a.lane ret).v_ r l) ∧
      Spec.LaneDone t c w o v { a with ret := ret } := by
  obtain ⟨v', hw, hv, hmem, hdone⟩ := memEvent_lane (b := { a with ret := ret }) ht hmine hf
    (hu.land o.instr x a ret)
  exact ⟨v', hw, hmem.trans (land_mem ..), v_of_v hv, laneDone_congr (landed_f ..) hdone⟩

/-! #### Loads and stores -/

/-- LD, GATHER and GATHER.P load along their path, and the data lands. -/
theorem loadLane_lands {d u : State} {c w val : Nat} {o : Op} {m : Team} {x : MemArgs} {sp : MemSpec} {a : Acc}
    (hi : o.instr = .ld x ∨ o.instr = .gather x ∨ o.instr = .gatherP x)
    (h : d.loadAt c a.xlat sp.n a.drop = (u, .ok val)) :
    d.loadLane c w sp x m o a = u.land c w o.instr x a val := by
  unfold State.loadLane
  rcases hi with hi | hi | hi <;> simp only [hi, h]

theorem loadDataLands_event {s : State} {c w : Nat} {o : Op} {v : Warp} {m : Team} {x : MemArgs} {l : Lanes}
    (hop : s.findOp c w o.id = some (o, v, m))
    (hi : o.instr = .ld x ∨ o.instr = .gather x ∨ o.instr = .gatherP x) :
    exec (.loadDataLands c w o.id l) s = .next (s.loadEvent c w o.id l) := by
  change execLoadDataLands _ _ _ _ s = _
  unfold execLoadDataLands
  rcases hi with hi | hi | hi <;> simp only [hop, hi]

/-- A load of a lane whose turn has come lands what its path answers. -/
theorem loadDataLands_lane {s u : State} {c w val : Nat} {o : Op} {v : Warp} {m : Team} {x : MemArgs} {sp : MemSpec}
    {a : Acc} (ht : Spec.LaneTurn s c w o v m x sp a)
    (hi : o.instr = .ld x ∨ o.instr = .gather x ∨ o.instr = .gatherP x) (hplain : isPlainLoad o.instr = true)
    (h : (s.laneStart c o a).loadAt c a.xlat sp.n a.drop = (u, .ok val)) :
    ∃ t v', exec (.loadDataLands c w o.id (maskOf [a.lane])) s = .next t ∧ t.warp c w = some v' ∧ t.mem = u.mem ∧
      (∀ r l, v'.v_ r l = (v.landed o.instr x a.lane val).v_ r l) ∧ Spec.LaneDone t c w o v { a with ret := val } := by
  have hstays : OpStands u c w o v := by
    have := ((OpStands.of_findOp ht.op).laneStart a).stay (ResidentsStay.loadAt (s.laneStart c o a) c a.xlat sp.n a.drop)
    rwa [h] at this
  obtain ⟨v', hlands⟩ := memEvent_lands (f := fun sp x s t o a => s.loadLane c w sp x t o a) ht hplain
    (loadLane_lands hi h) hstays
  exact ⟨_, v', loadDataLands_event ht.op hi, hlands⟩

/-- A store of a lane whose turn has come is performed along its path and writes no register. -/
theorem storePerformed_lane {s u : State} {c w : Nat} {o : Op} {v : Warp} {m : Team} {x : MemArgs} {sp : MemSpec} {a : Acc}
    (ht : Spec.LaneTurn s c w o v m x sp a) (hi : o.instr = .st x ∨ o.instr = .scatter x)
    (h : (s.laneStart c o a).storeAt c v.team m.asid m.priv a.va a.xlat sp.n a.data a.en a.drop = (u, .ok ())) :
    ∃ t v', exec (.storePerformed c w o.id (maskOf [a.lane])) s = .next t ∧ t.warp c w = some v' ∧ v'.v = v.v ∧
      t.mem = u.mem ∧ Spec.LaneDone t c w o v a := by
  have hstart := (OpStands.of_findOp ht.op).laneStart a
  have hstays : OpStands u c w o v := by
    have := hstart.stay (ResidentsStay.storeAt (s.laneStart c o a) c v.team m.asid m.priv a.va a.xlat sp.n a.data a.en a.drop)
    rwa [h] at this
  obtain ⟨v0, m0, hfo, -, -, hteam⟩ := hstart
  have hlane : (s.laneStart c o a).storeLane c w sp m a = (u, { a with st := .done }) := by
    unfold State.storeLane
    simp only [(findOp_eq_some.1 hfo).1, hteam, h]
  change ∃ t v', execStorePerformed _ _ _ _ s = _ ∧ _
  obtain ⟨v', hdone⟩ := memEvent_lane (mine := fun i => match i with | .st _ | .scatter _ => true | _ => false)
    (f := fun sp _ s t _ a => s.storeLane c w sp t a) ht (by rcases hi with hi | hi <;> rw [hi]) hlane hstays
  exact ⟨_, v', rfl, hdone⟩

theorem laneAccessesPerformed : Spec.LaneAccessesPerformed := by
  intro s c w o v m x sp a ht d
  refine ⟨fun u val h => ⟨fun hi => ?_, fun hi himm => ?_⟩, fun u h hi => storePerformed_lane ht hi h⟩
  · rcases hi with hi | hi
    · obtain ⟨t, v', hx, hw, hm, hv, hd⟩ := loadDataLands_lane ht (.inl hi) (by rw [hi]; rfl) h
      exact ⟨t, v', hx, hw, hm, fun r l => (hv r l).trans (by rw [hi]; rfl), hd⟩
    · obtain ⟨t, v', hx, hw, hm, hv, hd⟩ := loadDataLands_lane ht (.inr (.inl hi)) (by rw [hi]; rfl) h
      exact ⟨t, v', hx, hw, hm, fun r l => (hv r l).trans (by rw [hi]; rfl), hd⟩
  · obtain ⟨t, v', hx, hw, hm, hv, hd⟩ := loadDataLands_lane ht (.inr (.inr hi)) (by rw [hi]; exact bne_iff_ne.2 himm) h
    exact ⟨t, v', hx, hw, hm, fun r l => (hv r l).trans (by rw [hi]; rfl), hd⟩

/-! #### Atomics (R219) -/

@[simp] theorem leBytes_length (n x : Nat) : (leBytes n x).length = n := by
  induction n generalizing x with
  | zero => rfl
  | succ n ih => simp [leBytes, ih]

theorem foldl_mem {α : Type} {f : State → α → State} (hf : ∀ s x, (f s x).mem = s.mem) (xs : List α) (s : State) :
    (xs.foldl f s).mem = s.mem := by
  induction xs generalizing s with
  | nil => rfl
  | cons x xs ih => exact (ih _).trans (hf s x)

theorem noteStale_mem (s : State) (pa : Nat) : (s.noteStale pa).mem = s.mem := by
  unfold State.noteStale
  split <;> rfl

theorem noteBell_mem (s : State) (pa n : Nat) : (s.noteBell pa n).mem = s.mem :=
  foldl_mem (fun s b => by unfold State.bell; split <;> rfl) _ s

theorem noteWatch_mem (s : State) (pa n : Nat) : (s.noteWatch pa n).mem = s.mem :=
  foldl_mem (fun s _ => modSplit_mem s _ _) _ s

theorem noteClaim_mem (s : State) (pa old new : Nat) : (s.noteClaim pa old new).mem = s.mem := by
  unfold State.noteClaim
  split <;> rfl

theorem countWrite_mem (s : State) (c k va n en : Nat) : (s.countWrite c k va n en).mem = s.mem := by
  unfold State.countWrite
  split
  · rfl
  · split
    · rfl
    · exact modTeam_mem _ _ _ _

theorem homeRead_good {s : State} {pa n : Nat} (h : ∀ u ∈ unitsOf pa n, s.unitBad u = false) :
    s.homeRead pa n = .ok (Memory.readN s.mem pa n) := by
  unfold State.homeRead
  rw [List.any_eq_false.2 fun u hu => by simp [h u hu]]
  rfl

/-- A write at home of units that can be read writes its bytes and no other (R83, R144). -/
theorem homeWrite_good {s : State} {pa : Nat} {bs : List Byte} (h : ∀ u ∈ unitsOf pa bs.length, s.unitBad u = false) :
    ∃ t, s.homeWrite pa bs = .ok t ∧ t.mem = Memory.writeN s.mem pa bs ∧ ResidentsStay s t := by
  have hok : ((unitsOf pa bs.length).any fun u =>
      s.firnDown (u * 8) || (s.memBad.contains u && !unitWhole pa bs.length u)) = false :=
    List.any_eq_false.2 fun u hu => by
      have := h u hu
      simp only [State.unitBad, Bool.or_eq_false_iff] at this
      rw [this.2, this.1, Bool.false_and, Bool.or_false]
      exact Bool.false_ne_true
  have hex : ∃ t, s.homeWrite pa bs = .ok t ∧ t.mem = Memory.writeN s.mem pa bs := by
    unfold State.homeWrite
    dsimp only
    rw [hok]
    refine ⟨_, rfl, ?_⟩
    rw [noteWatch_mem, noteBell_mem, foldl_mem noteStale_mem]
  obtain ⟨t, ht, hm⟩ := hex
  exact ⟨t, ht, hm, ResidentsStay.homeWrite ht⟩

theorem atomValue_add {fn : Nat} (h : fn % 8 = 0) (w m b c : Nat) :
    atomValue fn w m b c = if w = 7 then fAdd .f32 m b else (m + b) % 256 ^ codeBytes w := by
  unfold atomValue
  simp only [h]

theorem atomValue_min {fn : Nat} (h : fn % 8 = 1) (w m b c : Nat) :
    atomValue fn w m b c = if w = 7 then fMin m b else pickInt (signedCode w) (codeBytes w) m b true := by
  unfold atomValue
  simp only [h]

theorem atomValue_max {fn : Nat} (h : fn % 8 = 2) (w m b c : Nat) :
    atomValue fn w m b c = if w = 7 then fMax m b else pickInt (signedCode w) (codeBytes w) m b false := by
  unfold atomValue
  simp only [h]

/-- What the W code of an atomic's type says of it (R161, R219). -/
theorem accCode_atomic {w : AccType} (h : w ∈ [AccType.b32, .n32, .s32, .f32, .b64, .n64, .s64]) :
    codeBytes (accCode w) = w.bytes ∧ (accCode w = 7 ↔ (w == .f32) = true) ∧
      signedCode (accCode w) = (w == .s32 || w == .s64) := by
  revert w
  decide

theorem isAtomic_kind {i : Instr} (h : isAtomic i = true) :
    isClaim i = false ∧ (∀ y, i = .gatherP y → False) ∧ ∀ y sp, memSpec i = some (y, sp) → sp.op = atomFn i := by
  unfold isAtomic at h
  split at h
  case h_15 => cases h
  all_goals exact ⟨rfl, nofun, fun y sp hs => (Prod.mk.inj (Option.some.inj hs)).2 ▸ rfl⟩

/-- A row of the table of atomics: the unit at home computes its new value. -/
theorem atomicResults_row {i : Instr} {x : MemArgs} {g : Nat → Nat → Nat → Nat} (hg : (i, g) ∈ Spec.atomicResults x)
    (hw : x.w ∈ [AccType.b32, .n32, .s32, .f32, .b64, .n64, .s64]) :
    isAtomic i = true ∧ ∀ m b c, atomValue (atomFn i) (accCode x.w) m b c = g m b c := by
  obtain ⟨hbytes, hf32, hsigned⟩ := accCode_atomic hw
  have hadd := fun fn (h : fn % 8 = 0) m b c =>
    (atomValue_add h (accCode x.w) m b c).trans (if_congr hf32 rfl (by rw [hbytes]))
  have hmin := fun fn (h : fn % 8 = 1) m b c =>
    (atomValue_min h (accCode x.w) m b c).trans (if_congr hf32 rfl (by rw [hbytes, hsigned]))
  have hmax := fun fn (h : fn % 8 = 2) m b c =>
    (atomValue_max h (accCode x.w) m b c).trans (if_congr hf32 rfl (by rw [hbytes, hsigned]))
  simp only [Spec.atomicResults, List.mem_cons, List.not_mem_nil, or_false, Prod.mk.injEq] at hg
  rcases hg with ⟨rfl, rfl⟩ | ⟨rfl, rfl⟩ | ⟨rfl, rfl⟩ | ⟨rfl, rfl⟩ | ⟨rfl, rfl⟩ | ⟨rfl, rfl⟩ | ⟨rfl, rfl⟩ | ⟨rfl, rfl⟩ |
    ⟨rfl, rfl⟩ | ⟨rfl, rfl⟩ | ⟨rfl, rfl⟩ | ⟨rfl, rfl⟩ | ⟨rfl, rfl⟩ | ⟨rfl, rfl⟩
  · exact ⟨rfl, hadd 0x08 rfl⟩
  · exact ⟨rfl, hadd 0x10 rfl⟩
  · exact ⟨rfl, hmin 0x09 rfl⟩
  · exact ⟨rfl, hmin 0x11 rfl⟩
  · exact ⟨rfl, hmax 0x0A rfl⟩
  · exact ⟨rfl, hmax 0x12 rfl⟩
  all_goals exact ⟨rfl, fun _ _ _ => by simp only [atomFn, atomValue]⟩

/-- The warp after a lane's atomic: an ATOM returns the old value to vd, a RED nothing. -/
def Warp.atomReturned (v : Warp) (i : Instr) (x : MemArgs) (l old : Nat) : Warp :=
  match i with
  | .atomAdd _ | .atomMin _ | .atomMax _ | .atomAnd _ | .atomOr _ | .atomXor _ | .atomExch _ | .atomCas _ =>
    v.setVs x.vd.toNat l (loadWords x.w old)
  | _ => v

theorem landed_atomic {i : Instr} {x : MemArgs} {g : Nat → Nat → Nat → Nat} (hg : (i, g) ∈ Spec.atomicResults x)
    (v : Warp) (l old : Nat) : v.landed i x l old = v.atomReturned i x l old := by
  simp only [Spec.atomicResults, List.mem_cons, List.not_mem_nil, or_false, Prod.mk.injEq] at hg
  rcases hg with ⟨rfl, -⟩ | ⟨rfl, -⟩ | ⟨rfl, -⟩ | ⟨rfl, -⟩ | ⟨rfl, -⟩ | ⟨rfl, -⟩ | ⟨rfl, -⟩ | ⟨rfl, -⟩ |
    ⟨rfl, -⟩ | ⟨rfl, -⟩ | ⟨rfl, -⟩ | ⟨rfl, -⟩ | ⟨rfl, -⟩ | ⟨rfl, -⟩ <;> rfl

/-- The element at home, in a page that is not counted, is read and the operation's result written in its place; the lane
then lands the old value. -/
theorem atomicLane_lands {s : State} {c w : Nat} {o : Op} {v : Warp} {m : Team} {x : MemArgs} {sp : MemSpec} {a : Acc}
    (hstands : OpStands s c w o v) (hcnt : a.cnt = false) (hhub : hubRange a.pa = false)
    (hline : (s.core c).line (a.pa / 64) = none) (hgood : ∀ u ∈ unitsOf a.pa sp.n, s.unitBad u = false) :
    let old := Memory.readNat s.mem a.pa sp.n
    ∃ u, s.atomicLane c w sp x m o a = u.land c w o.instr x a old ∧ OpStands u c w o v ∧
      u.mem = Memory.writeN s.mem a.pa (leBytes sp.n (atomValue sp.op (accCode x.w) old a.data a.cmp)) := by
  intro old
  have hdrop : s.dropLine c a.pa a.drop = s := by
    unfold State.dropLine State.evict
    rw [hline]
    exact ite_self s
  have hgate : ∀ en, s.gateStore m.asid m.priv a.va a.xlat sp.n en true = (s, .ok ()) := fun en => by
    unfold State.gateStore
    simp [Acc.xlat, hcnt]
  obtain ⟨t, hwrite, hmem, hstay⟩ := homeWrite_good (s := s) (pa := a.pa)
    (bs := leBytes sp.n (atomValue sp.op (accCode x.w) old a.data a.cmp)) (by rwa [leBytes_length])
  unfold State.atomicLane
  simp only [hhub, Bool.false_eq_true, if_false, hdrop, hgate, homeRead_good hgood]
  rw [show leNat (Memory.readN s.mem a.pa sp.n) = old from rfl, hwrite]
  dsimp only
  have hclaim : ResidentsStay t (if sp.op % 8 = 0 then t.noteClaim a.pa old (old + a.data) else t) ∧
      (if sp.op % 8 = 0 then t.noteClaim a.pa old (old + a.data) else t).mem = t.mem := by
    split
    · exact ⟨ResidentsStay.noteClaim _ _ _ _, noteClaim_mem _ _ _ _⟩
    · exact ⟨ResidentsStay.refl _, rfl⟩
  generalize (if sp.op % 8 = 0 then t.noteClaim a.pa old (old + a.data) else t) = u at hclaim ⊢
  refine ⟨_, rfl, (hstands.stay hstay).stay (hclaim.1.trans ?_), ?_⟩
  · split
    · exact (ResidentsStay.countWrite _ _ _ _ _ _).trans (ResidentsStay.irrevocable _ _ _)
    · exact ResidentsStay.refl _
  · rw [← hmem, ← hclaim.2]
    split
    · exact (modTeam_mem _ _ _ _).trans (countWrite_mem _ _ _ _ _ _)
    · rfl

theorem atomicsAtHome : Spec.AtomicsAtHome := by
  intro s c w o v m x sp a g ht hg hpath hcnt hhub hline hgood hw old
  obtain ⟨hatomic, hvalue⟩ := atomicResults_row hg hw
  obtain ⟨hclaim, -, hop⟩ := isAtomic_kind hatomic
  have hstart : s.laneStart c o a = s := if_neg (by rw [hpath]; exact nofun)
  obtain ⟨u, hland, hstands, hmem⟩ := atomicLane_lands (m := m) (x := x) (OpStands.of_findOp ht.op) hcnt hhub hline hgood
  obtain ⟨v', hwarp, hm, hv, hdone⟩ := memEvent_lands (ret := old) (f := fun sp x s t o a => s.atomicLane c w sp x t o a)
    ht hatomic (hstart.symm ▸ hland) hstands
  refine ⟨_, v', ?_, hwarp, hm.trans (hmem.trans ?_), fun r l => (hv r l).trans ?_, hdone⟩
  · change execAtomicAtHome _ _ _ _ s = _
    unfold execAtomicAtHome
    simp only [ht.op, hclaim, Bool.false_eq_true, if_false]
    rfl
  · rw [hop x sp ht.spec, hvalue]
  · rw [landed_atomic hg]
    rfl

/-- Settles O24: an event that names one lane whose turn has come performs it, and what an access changes of the residents is
no lane register, no flag and no operation. -/
theorem laneAccessesAndAtomics : Obligations.LaneAccessesAndAtomics := ⟨laneAccessesPerformed, atomicsAtHome⟩

end Sys2Proof.Machine

/-! ### Families of splits (R24, R25, R102, R183 to R185, R193): divergence, arrival, merge and exit -/

namespace Sys2Proof.Machine

open Sys2Proof.Laws

/-! #### Targets, votes and free entries -/

/-- A word target is SPC plus four times the signed offset (R158). -/
theorem wordTarget_eq (pc : VAddr) (o : BitVec 14) :
    wordTarget pc o = BitVec.ofInt 54 (pc.toNat + 4 * o.toInt) := by
  have hfour : (4 : VAddr) = BitVec.ofInt 54 4 := rfl
  rw [wordTarget, BitVec.signExtend, hfour, BitVec.ofInt_add, BitVec.ofInt_mul, BitVec.mul_comm]
  simp

/-- The mask of the voting lanes holds exactly the lanes of EXEC whose bit 0 is 1 (R176, R183). -/
theorem maskOf_voteLanes {w : Warp} {v : Nat} {m T : Lanes}
    (h : ∀ l, l < 32 → T.getLsbD l = (m.getLsbD l && (w.vv v l).getLsbD 0)) : maskOf (voteLanes w v m) = T := by
  refine lanes_ext fun l hl => ?_
  rw [maskOf_getLsbD _ hl, h l hl, Bool.eq_iff_iff]
  simp [voteLanes, mem_lanesOf, hl]

theorem freeEntry_eq {w : Warp} {n : Nat} (hn : n < 32) (hfree : amFind w.splits n = none)
    (hlow : ∀ m, m < n → amFind w.splits m ≠ none) : w.freeEntry = n := by
  have hfind : (List.range 32).find? (fun e => (w.entry e).isNone) = some n :=
    List.find?_range_eq_some.2 ⟨by simp [Warp.entry, hfree], List.mem_range.2 hn, fun m hm => by
      simp [Warp.entry, Option.ne_none_iff_isSome.1 (hlow m hm)]⟩
  rw [Warp.freeEntry, hfind, Option.getD_some]

/-! #### Retiring and arriving -/

theorem ScalarReady.local {s : State} {x : Ctx} {i : Instr} (h : ScalarReady s x i) :
    Local s s x (s.core x.who.core) x.warp x.team := Local.of_ctx h.ctx

theorem ScalarReady.splits_self {s : State} {x : Ctx} {i : Instr} (h : ScalarReady s x i) :
    amFind x.warp.splits x.who.entry = some x.split := by
  obtain ⟨-, -, -, -, hsp⟩ := ctxOf_some h.ctxOf
  exact hsp

theorem splits_modSplit_self {w : Warp} {e : Nat} {sp : Split} (h : amFind w.splits e = some sp) (f : Split → Split) :
    amFind (w.modSplit e f).splits e = some (f sp) := by
  rw [splits_modSplit, if_pos rfl, h, Option.map_some]

theorem splits_modSplit_ne (w : Warp) {e n : Nat} (f : Split → Split) (h : n ≠ e) :
    amFind (w.modSplit e f).splits n = amFind w.splits n := by rw [splits_modSplit, if_neg h]

/-- The entry that a SPLIT gives the lanes `T` at `pc` (R102, R183; log 13). -/
def Ctx.child (x : Ctx) (T : Lanes) (pc : VAddr) : Split :=
  { newSplit0 with
    lanes := T, exec := T, spc := pc, lk := x.split.lk, jpc := x.split.jpc, jsave := x.split.jsave,
    origin := BitVec.ofNat 5 x.who.entry, fam := x.split.fam, famSave := x.split.famSave, orgFam := x.split.fam,
    out := if x.split.orgFam = x.split.fam then x.split.out else (x.split.origin, x.split.orgFam),
    outSave := x.split.outSave, seq := x.split.seq }

/-- The split that the lanes `T` leave, with `E` of its EXEC left (R102, R183). -/
def Split.without (sp : Split) (T E : Lanes) : Split :=
  { sp with lanes := sp.lanes &&& ~~~ T, exec := E, liveCount := sp.liveCount + 1 }

/-- The warp once entry `e` has given the lanes `T` to a new split at entry `n`. -/
def Warp.divide (w : Warp) (e n : Nat) (T E : Lanes) (child : Split) : Warp :=
  let u := w.modSplit e fun sp => sp.without T E
  { u with splits := amPut u.splits n child }

theorem divide_rest (w : Warp) (e n : Nat) (T E : Lanes) (child : Split) :
    w.divide e n T E child = { w with splits := (w.divide e n T E child).splits } := by
  unfold Warp.divide
  rw [modSplit_rest]

theorem splits_divide {w : Warp} {e n : Nat} (T E : Lanes) (child : Split) (m : Nat) :
    amFind (w.divide e n T E child).splits m =
      if m = n then some child else amFind (w.modSplit e fun sp => sp.without T E).splits m := amFind_amPut _ _ _ _

/-- SPLIT goes to the target with every lane, goes on with none, or divides the split (R183). -/
theorem execSplit_eq {s : State} {x : Ctx} {v : VReg} {o : BitVec 14} {T : Lanes} (h : ScalarReady s x (.split v o))
    (hT : ∀ l, l < 32 → T.getLsbD l = (x.split.exec.getLsbD l && (x.warp.vv v.toNat l).getLsbD 0)) :
    let E := x.split.exec &&& ~~~ T
    let target := BitVec.ofInt 54 (x.split.spc.toNat + 4 * o.toInt)
    exec (.split v o) s = .next (
      if E = 0 then s.goto x target
      else if T = 0 then s.advance x
      else (s.advance x).modWarp x.who.core x.who.slot fun w =>
        w.divide x.who.entry x.warp.freeEntry T E (x.child T target)) := by
  refine (runScalar_ready h _).trans ?_
  rw [maskOf_voteLanes hT, wordTarget_eq]
  simp only [Split.counted, beq_iff_eq]
  rfl

theorem splitDividesLanes : Spec.SplitDividesLanes := by
  intro s x v o T n h hT E target
  have hrun := execSplit_eq h hT
  refine ⟨fun hE => ⟨_, hrun.trans ?_, h.local.goto target⟩,
    fun hE hT0 => ⟨_, hrun.trans ?_, h.local.goto (x.split.spc + 4)⟩, fun hE hT0 hn hfree hlow => ?_⟩
  · exact congrArg _ (if_pos hE)
  · exact congrArg _ ((if_neg hE).trans (if_pos hT0))
  have hne : x.who.entry ≠ n := fun e => by rw [← e, h.splits_self] at hfree; cases hfree
  refine ⟨_, _, hrun.trans (congrArg _ ((if_neg hE).trans (if_neg hT0))), (h.local.goto _).modWarp _, ?_⟩
  rw [freeEntry_eq hn hfree hlow]
  refine ⟨by rw [divide_rest, modSplit_rest], by rw [splits_divide, if_pos rfl]; rfl, ?_, fun m hmn hme => ?_⟩
  · rw [splits_divide, if_neg hne, Warp.modSplit_modSplit, splits_modSplit_self h.splits_self]
    rfl
  · rw [splits_divide, if_neg hmn, Warp.modSplit_modSplit, splits_modSplit_ne _ _ hme]

/-! #### What LIVE of the origin entries becomes (R102; log 13) -/

theorem splitsOnly_refl (w : Warp) (es : List Nat) : Spec.SplitsOnly w w es := ⟨rfl, fun _ _ => rfl⟩

theorem splitsOnly_trans {w u v : Warp} {es : List Nat} (h : Spec.SplitsOnly w u es) (g : Spec.SplitsOnly u v es) :
    Spec.SplitsOnly w v es :=
  ⟨by rw [g.1, h.1], fun m hm => (g.2 m hm).trans (h.2 m hm)⟩

theorem splitsOnly_modSplit (w : Warp) {e : Nat} {es : List Nat} (he : e ∈ es) (f : Split → Split) :
    Spec.SplitsOnly w (w.modSplit e f) es :=
  ⟨modSplit_rest _ _ _, fun m hm => by rw [splits_modSplit_ne _ _ (show m ≠ e from fun h => hm (h ▸ he))]⟩

theorem splitsOnly_lowerLive (w : Warp) (e : Nat) (o : BitVec 5) (es : List Nat) : Spec.SplitsOnly w (w.lowerLive e o) es := by
  unfold Warp.lowerLive
  split
  · exact splitsOnly_refl w es
  · refine ⟨modSplit_rest _ _ _, fun m _ => ?_⟩
    rw [splits_modSplit]
    split
    next hm =>
      rw [hm, Option.map_map]
      rfl
    next => rfl

theorem splits_lowerLive_self (w : Warp) (e : Nat) (o : BitVec 5) :
    amFind (w.lowerLive e o).splits e = amFind w.splits e := by
  unfold Warp.lowerLive
  split
  · rfl
  next h => exact splits_modSplit_ne _ _ (Ne.symm h)

theorem splitsOnly_arriveLive (w : Warp) (e : Nat) (sp : Split) (es : List Nat) :
    Spec.SplitsOnly w (w.arriveLive e sp) es := by
  unfold Warp.arriveLive
  split
  · exact splitsOnly_lowerLive _ _ _ _
  · exact splitsOnly_refl w es

theorem splits_arriveLive_self (w : Warp) (e : Nat) (sp : Split) :
    amFind (w.arriveLive e sp).splits e = amFind w.splits e := by
  unfold Warp.arriveLive
  split
  · exact splits_lowerLive_self _ _ _
  · rfl

theorem leaveLive_cases (w : Warp) (e : Nat) (sp : Split) :
    w.leaveLive e sp = w.arriveLive e sp ∨ ∃ o, w.leaveLive e sp = (w.arriveLive e sp).lowerLive e o := by
  unfold Warp.leaveLive
  dsimp only
  generalize (if sp.counted = true then sp.out else (sp.origin, sp.orgFam)) = outer
  split
  · exact .inr ⟨_, rfl⟩
  · exact .inl rfl

theorem splitsOnly_leaveLive (w : Warp) (e : Nat) (sp : Split) (es : List Nat) :
    Spec.SplitsOnly w (w.leaveLive e sp) es := by
  have harrive := splitsOnly_arriveLive w e sp es
  rcases leaveLive_cases w e sp with h | ⟨o, h⟩ <;> rw [h]
  · exact harrive
  · exact splitsOnly_trans harrive (splitsOnly_lowerLive _ _ _ _)

theorem splits_leaveLive_self (w : Warp) (e : Nat) (sp : Split) :
    amFind (w.leaveLive e sp).splits e = amFind w.splits e := by
  rcases leaveLive_cases w e sp with h | ⟨o, h⟩ <;> rw [h]
  · exact splits_arriveLive_self _ _ _
  · rw [splits_lowerLive_self, splits_arriveLive_self]

/-! #### Join points open, and members arrive (R184, R185) -/

/-- The split once its JOINAT has opened family `fam` with the join point `pc` (R184; log 13). -/
def Split.opened (sp : Split) (pc : VAddr) (fam : Nat) : Split :=
  { sp with
    jsave := sp.jpc, jpc := pc, famSave := sp.fam, fam := fam,
    outSave := if sp.orgFam = sp.fam then sp.out else (sp.origin, sp.orgFam) }

/-- The warp once its entry `e` has opened a family. -/
def Warp.openFamily (w : Warp) (e : Nat) (pc : VAddr) : Warp :=
  let u := w.modSplit e fun sp => sp.opened pc w.nextId
  { u with nextId := u.nextId + 1 }

theorem execJoinat_opens {s : State} {x : Ctx} {o : BitVec 14} (h : ScalarReady s x (.joinat o)) (hj : x.split.jsave = 0) :
    exec (.joinat o) s = .next ((s.advance x).modWarp x.who.core x.who.slot fun w =>
      w.openFamily x.who.entry (BitVec.ofInt 54 (x.split.spc.toNat + 4 * o.toInt))) := by
  refine (runScalar_ready h _).trans ?_
  rw [wordTarget_eq, hj]
  simp only [Split.counted, beq_iff_eq]
  rfl

theorem execJoin_arrives {s : State} {x : Ctx} (h : ScalarReady s x .join) (hseq : x.split.seq = none)
    (hpc : x.split.jpc = x.split.spc) (hj : x.split.jpc ≠ 0) :
    exec .join s = .next ((s.count x).modWarp x.who.core x.who.slot fun w =>
      (w.modSplit x.who.entry fun sp => { sp with jw := true, wait := .join }).arriveLive x.who.entry x.split) := by
  refine (runScalar_ready h _).trans ?_
  have hspc : x.split.spc ≠ 0 := hpc ▸ hj
  simp only [hseq, hpc, hspc]
  simp

theorem joinPointsAndArrival : Spec.JoinPointsAndArrival := by
  intro s x
  refine ⟨fun o h hj => ⟨_, _, execJoinat_opens h hj, (h.local.goto _).modWarp _, ?_⟩, fun h hseq hpc hj =>
    ⟨_, _, { x.split with jw := true, wait := .join }, execJoin_arrives h hseq hpc hj, (h.local.modTeam _).modWarp _,
      ?_, ?_, rfl⟩⟩
  · unfold Warp.openFamily
    dsimp only
    refine ⟨?_, ?_, fun m hm => ?_⟩
    · rw [modSplit_rest, modSplit_rest]
    · rw [Warp.modSplit_modSplit, splits_modSplit_self h.splits_self, modSplit_rest]
      rfl
    · rw [Warp.modSplit_modSplit, splits_modSplit_ne _ _ hm]
  · exact splitsOnly_trans (splitsOnly_modSplit _ List.mem_cons_self _) (splitsOnly_arriveLive _ _ _ _)
  · rw [splits_arriveLive_self, splits_modSplit_self h.splits_self]

/-! #### Lanes leave (R24, R193, R272) -/

/-- A split all of whose lanes have left. -/
def Split.emptied (sp : Split) : Split :=
  { sp with live := false, lanes := 0, exec := 0, jw := false, atEnd := false, wait := .run }

theorem freeLatch_rest (w : Warp) (e : Nat) :
    w.freeLatch e = { w with latch := if w.latch = some e then none else w.latch } := by
  unfold Warp.freeLatch
  split <;> rfl

/-- Outside a call sequence every lane of the split leaves. -/
theorem leave_of_seq_none {w : Warp} {e : Nat} {sp : Split} (hsp : amFind w.splits e = some sp) (hseq : sp.seq = none) :
    w.leave e = (((w.leaveLive e sp).freeLatch e).modSplit e Split.emptied).sweep e := by
  have hkeep : sp.lanes &&& ~~~ sp.ownLanes = 0 := by
    rw [Split.ownLanes, hseq]
    exact BitVec.and_not_self _
  unfold Warp.leave Warp.entry
  simp only [hsp, hkeep, if_true, hseq]
  rfl

/-- An entry that has left with nothing queued and no trap waiting is free (R24). -/
theorem sweep_frees {w : Warp} {e : Nat} {sp : Split} (hsp : amFind w.splits e = some sp) (hlive : sp.live = false)
    (hcq : sp.cq = []) (hpend : sp.pend = []) :
    w.sweep e = { w with splits := amDel w.splits e }.recharge e noEntry := by
  unfold Warp.sweep
  simp [hsp, hlive, hcq, hpend]

/-- An entry with a clause queued or a trap waiting is kept (R24). -/
theorem sweep_keeps {w : Warp} {e : Nat} {sp : Split} (hsp : amFind w.splits e = some sp)
    (hbusy : sp.cq ≠ [] ∨ sp.pend ≠ []) : w.sweep e = w := by
  unfold Warp.sweep
  rcases hbusy with h | h <;> simp [hsp, h]

/-- The warp as the lanes of its entry `e` have left, before the entry is freed: but for the trap latch, only entries have
changed. -/
theorem leaveLive_emptied (w : Warp) (e : Nat) (sp : Split) :
    let u := ((w.leaveLive e sp).freeLatch e).modSplit e Split.emptied
    u = { w with splits := u.splits, latch := if w.latch = some e then none else w.latch } ∧
    ∀ m, m ∉ [e] → (amFind u.splits m).map (fun sp => { sp with liveCount := 0 }) =
      (amFind w.splits m).map fun sp => { sp with liveCount := 0 } := by
  obtain ⟨hlive, hlives⟩ := splitsOnly_leaveLive w e sp [e]
  obtain ⟨hempty, hempties⟩ :=
    splitsOnly_modSplit ((w.leaveLive e sp).freeLatch e) (List.mem_singleton_self e) Split.emptied
  dsimp only
  rw [freeLatch_rest] at hempty hempties ⊢
  exact ⟨by rw [hempty, hlive], fun m hm => (hempties m hm).trans (hlives m hm)⟩

theorem exitLeavesTheWarp : Spec.ExitLeavesTheWarp := by
  intro s x h hseq
  have hself : amFind ((x.warp.leaveLive x.who.entry x.split).freeLatch x.who.entry).splits x.who.entry = some x.split := by
    rw [freeLatch_rest]
    exact (splits_leaveLive_self _ _ _).trans h.splits_self
  have hgone := splits_modSplit_self hself Split.emptied
  obtain ⟨hrest, hothers⟩ := leaveLive_emptied x.warp x.who.entry x.split
  refine ⟨_, _, runScalar_ready h _, (h.local.modTeam _).modWarp _, ?_⟩
  rw [leave_of_seq_none h.splits_self hseq]
  generalize ((x.warp.leaveLive x.who.entry x.split).freeLatch x.who.entry).modSplit x.who.entry Split.emptied = u at *
  have hops : u.ops = x.warp.ops := by rw [hrest]
  have hlatch : u.latch = if x.warp.latch = some x.who.entry then none else x.warp.latch := by rw [hrest]
  by_cases hfree : x.split.cq = [] ∧ x.split.pend = []
  · obtain ⟨hcq, hpend⟩ := hfree
    rw [sweep_frees hgone rfl hcq hpend]
    refine ⟨⟨by rw [hrest]; rfl, fun m hm => ?_⟩, hlatch, fun _ _ => ⟨?_, congrArg _ hops⟩, fun hbusy => ?_⟩
    · rw [← hothers m hm]
      exact congrArg _ ((amFind_amDel _ _ _).trans (if_neg fun he => hm (List.mem_singleton.2 he)))
    · exact (amFind_amDel _ _ _).trans (if_pos rfl)
    · exact absurd hbusy (by simp [hcq, hpend])
  · have hbusy : x.split.cq ≠ [] ∨ x.split.pend ≠ [] := by rwa [Ne, Ne, ← not_and_or]
    rw [sweep_keeps hgone hbusy]
    exact ⟨⟨by rw [hrest], hothers⟩, hlatch, fun hcq hpend => absurd ⟨hcq, hpend⟩ hfree,
      fun _ => ⟨hops, _, hgone, rfl, rfl, rfl, rfl, rfl⟩⟩

/-! #### Members merge (R25, R185) -/

theorem mem_of_amFind {α : Type} {m : SMap α} {k : Nat} {v : α} (h : amFind m k = some v) : (k, v) ∈ m := by
  induction m with
  | nil => cases h
  | cons p m ih =>
    obtain ⟨k', v'⟩ := p
    simp only [amFind] at h
    split at h
    next hk =>
      cases h
      rw [hk]
      exact List.mem_cons_self
    next => exact List.mem_cons_of_mem _ (ih h)

theorem amFind_isSome_of_mem {α : Type} {m : SMap α} {p : Nat × α} (h : p ∈ m) : (amFind m p.1).isSome = true := by
  induction m with
  | nil => cases h
  | cons q m ih =>
    obtain ⟨k, v⟩ := q
    simp only [amFind]
    split
    · rfl
    next hk =>
      rcases List.mem_cons.1 h with rfl | hm
      · exact absurd rfl hk
      · exact ih hm

theorem mem_amPut {α : Type} {m : SMap α} {k : Nat} {v : α} {p : Nat × α} (h : p ∈ amPut m k v) : p = (k, v) ∨ p ∈ m := by
  induction m with
  | nil => exact .inl (List.mem_singleton.1 h)
  | cons q m ih =>
    obtain ⟨k', v'⟩ := q
    simp only [amPut] at h
    split at h
    · exact List.mem_cons.1 h
    · split at h
      · exact (List.mem_cons.1 h).imp_right (List.mem_cons_of_mem _)
      · rcases List.mem_cons.1 h with rfl | hm
        · exact .inr List.mem_cons_self
        · exact (ih hm).imp_right (List.mem_cons_of_mem _)

theorem mem_of_mem_amDel {α : Type} {m : SMap α} {k : Nat} {p : Nat × α} (h : p ∈ amDel m k) : p ∈ m := by
  induction m with
  | nil => exact h
  | cons q m ih =>
    obtain ⟨k', v'⟩ := q
    simp only [amDel] at h
    split at h
    · exact List.mem_cons_of_mem _ (ih h)
    · rcases List.mem_cons.1 h with rfl | hm
      · exact List.mem_cons_self
      · exact List.mem_cons_of_mem _ (ih hm)

/-- No live split of the table runs in the call group `id`. -/
def Warp.NoGroup (w : Warp) (id : Nat) : Prop := ∀ p ∈ w.splits, p.2.live = true → ∀ q, p.2.seq = some q → q.id ≠ id

theorem groupSplits_eq_nil_iff (w : Warp) (id : Nat) : w.groupSplits id = [] ↔ w.NoGroup id := by
  unfold Warp.groupSplits Warp.NoGroup
  rw [List.filter_eq_nil_iff]
  refine forall_congr' fun p => forall_congr' fun _ => ?_
  cases p.2.live <;> cases p.2.seq <;> simp

/-- A change of an entry that ends its split or leaves its call sequence and its being live brings none into a group. -/
theorem noGroup_modSplit {w : Warp} {id e : Nat} {f : Split → Split} (h : w.NoGroup id)
    (hf : ∀ sp, (f sp).live = true → (f sp).seq = none ∨ (f sp).seq = sp.seq ∧ (f sp).live = sp.live) :
    (w.modSplit e f).NoGroup id := by
  unfold Warp.modSplit
  split
  next sp hsp =>
    intro p hp hlive q hq
    rcases mem_amPut hp with rfl | hm
    · rcases hf sp hlive with hnone | ⟨hseq, hl⟩
      · rw [hnone] at hq
        cases hq
      · exact h _ (mem_of_amFind hsp) (hl ▸ hlive) q (hseq ▸ hq)
    · exact h p hm hlive q hq
  next => exact h

theorem noGroup_of_subset {w u : Warp} {id : Nat} (h : w.NoGroup id) (hsub : ∀ p ∈ u.splits, p ∈ w.splits) : u.NoGroup id :=
  fun p hp => h p (hsub p hp)

theorem sweep_subset (w : Warp) (e : Nat) : ∀ p ∈ (w.sweep e).splits, p ∈ w.splits := by
  unfold Warp.sweep
  split
  · split
    · exact fun p hp => mem_of_mem_amDel hp
    · exact fun p hp => hp
  · exact fun p hp => hp

theorem splits_sweep_ne (w : Warp) {e n : Nat} (h : n ≠ e) : amFind (w.sweep e).splits n = amFind w.splits n := by
  unfold Warp.sweep
  split
  · split
    · exact (amFind_amDel _ _ _).trans (if_neg h)
    · rfl
  · rfl

/-- Where nothing is charged to an entry, freeing it changes no operation. -/
theorem sweep_ops {w : Warp} {e : Nat} (h : ∀ o ∈ w.ops, o.entry ≠ e) : (w.sweep e).ops = w.ops := by
  unfold Warp.sweep
  split
  · split
    · exact (List.map_congr_left fun o ho => if_neg (h o ho)).trans (List.map_id' _)
    · rfl
  · rfl

/-- A split that another one keeps the merge of. -/
def Split.given (sp : Split) : Split :=
  { sp with live := false, lanes := 0, exec := 0, jw := false, atEnd := false, wait := .run, pend := [] }

/-- The trap latch passes from one entry to another (R25, R272). -/
def Warp.passLatch (w : Warp) (e keep : Nat) : Warp := if w.latch = some e then { w with latch := some keep } else w

theorem passLatch_rest (w : Warp) (e keep : Nat) : w.passLatch e keep = { w with latch := (w.passLatch e keep).latch } := by
  unfold Warp.passLatch
  split <;> rfl

/-- The registers and flags of a warp stay. -/
structure Warp.RegsStay (w u : Warp) : Prop where
  v : u.v = w.v
  g : u.g = w.g
  f : u.f = w.f

namespace Warp.RegsStay

theorem refl (w : Warp) : w.RegsStay w := ⟨rfl, rfl, rfl⟩

theorem trans {w u x : Warp} (h : w.RegsStay u) (k : u.RegsStay x) : w.RegsStay x :=
  ⟨k.v.trans h.v, k.g.trans h.g, k.f.trans h.f⟩

theorem modSplit (w : Warp) (e : Nat) (f : Split → Split) : w.RegsStay (w.modSplit e f) := by
  unfold Warp.modSplit
  split <;> exact ⟨rfl, rfl, rfl⟩

theorem passLatch (w : Warp) (e keep : Nat) : w.RegsStay (w.passLatch e keep) := by
  unfold Warp.passLatch
  split <;> exact ⟨rfl, rfl, rfl⟩

theorem recharge (w : Warp) (e keep : Nat) : w.RegsStay (w.recharge e keep) := ⟨rfl, rfl, rfl⟩

theorem sweep (w : Warp) (e : Nat) : w.RegsStay (w.sweep e) := by
  unfold Warp.sweep
  split
  · split <;> exact ⟨rfl, rfl, rfl⟩
  · exact refl w

end Warp.RegsStay

/-- An entry in use gives up its split: its traps, the latch and its operations go to the one that keeps the merge, and it
is freed (R25). -/
theorem giveUp_of_some {w : Warp} {e : Nat} {old : Split} (h : amFind w.splits e = some old) (keep : Nat) :
    w.giveUp e keep =
      ((((w.modSplit keep fun sp => { sp with pend := sp.pend ++ old.pend }).modSplit e Split.given).passLatch e keep).recharge
        e keep).sweep e := by
  unfold Warp.giveUp Warp.entry
  simp only [h]
  rfl

theorem giveUp_of_none {w : Warp} {e : Nat} (h : amFind w.splits e = none) (keep : Nat) : w.giveUp e keep = w := by
  unfold Warp.giveUp Warp.entry
  simp only [h]

theorem Warp.RegsStay.giveUp (w : Warp) (e keep : Nat) : w.RegsStay (w.giveUp e keep) := by
  cases h : amFind w.splits e with
  | none =>
    rw [giveUp_of_none h]
    exact .refl w
  | some old =>
    rw [giveUp_of_some h]
    exact ((((RegsStay.modSplit _ _ _).trans (.modSplit _ _ _)).trans (.passLatch _ _ _)).trans (.recharge _ _ _)).trans
      (.sweep _ _)

/-- Every operation of an entry that gives up its split is charged to the one that keeps the merge. -/
theorem giveUp_ops {w : Warp} {e keep : Nat} (hne : e ≠ keep)
    (h : (amFind w.splits e).isSome = true ∨ ∀ o ∈ w.ops, o.entry ≠ e) :
    (w.giveUp e keep).ops = w.ops.map fun o => if o.entry = e then { o with entry := keep } else o := by
  cases hsp : amFind w.splits e with
  | none =>
    rw [giveUp_of_none hsp]
    have hfree := h.resolve_left (by simp [hsp])
    exact ((List.map_congr_left fun o ho => if_neg (hfree o ho)).trans (List.map_id' _)).symm
  | some old =>
    rw [giveUp_of_some hsp, sweep_ops]
    · unfold Warp.recharge
      rw [passLatch_rest, modSplit_rest, modSplit_rest w]
    · intro o ho
      obtain ⟨p, -, rfl⟩ := List.mem_map.1 ho
      split
      · exact hne.symm
      · assumption

theorem splits_giveUp_ne (w : Warp) {e keep n : Nat} (he : n ≠ e) (hk : n ≠ keep) :
    amFind (w.giveUp e keep).splits n = amFind w.splits n := by
  cases hsp : amFind w.splits e with
  | none => rw [giveUp_of_none hsp]
  | some old =>
    rw [giveUp_of_some hsp, splits_sweep_ne _ he]
    unfold Warp.recharge
    rw [passLatch_rest]
    exact (splits_modSplit_ne _ _ he).trans (splits_modSplit_ne _ _ hk)

/-- The entry that keeps the merge stays in use. -/
theorem giveUp_keeps {w : Warp} {e keep : Nat} (hne : e ≠ keep) (h : (amFind w.splits keep).isSome = true) :
    (amFind (w.giveUp e keep).splits keep).isSome = true := by
  cases hsp : amFind w.splits e with
  | none => rwa [giveUp_of_none hsp]
  | some old =>
    rw [giveUp_of_some hsp, splits_sweep_ne _ hne.symm]
    unfold Warp.recharge
    rw [passLatch_rest]
    refine (congrArg Option.isSome (splits_modSplit_ne _ _ hne.symm)).trans ?_
    rwa [splits_modSplit, if_pos rfl, Option.isSome_map]

theorem noGroup_giveUp {w : Warp} {id : Nat} (h : w.NoGroup id) (e keep : Nat) : (w.giveUp e keep).NoGroup id := by
  cases hsp : amFind w.splits e with
  | none => rwa [giveUp_of_none hsp]
  | some old =>
    rw [giveUp_of_some hsp]
    refine noGroup_of_subset ?_ (sweep_subset _ _)
    unfold Warp.recharge
    rw [passLatch_rest]
    exact noGroup_modSplit (noGroup_modSplit h fun sp _ => .inr ⟨rfl, rfl⟩) fun sp hlive => by cases hlive

/-- The entries listed give up their splits to `keep`, one after another. -/
def Warp.giveUpAll (w : Warp) (ps : List (Nat × Split)) (keep : Nat) : Warp := ps.foldl (fun w p => w.giveUp p.1 keep) w

section
variable {ps : List (Nat × Split)} {keep : Nat}

theorem Warp.RegsStay.giveUpAll (w : Warp) : w.RegsStay (w.giveUpAll ps keep) := by
  unfold Warp.giveUpAll
  induction ps generalizing w with
  | nil => exact .refl w
  | cons p ps ih => exact (RegsStay.giveUp w p.1 keep).trans (ih _)

theorem giveUpAll_keeps {w : Warp} (hne : ∀ p ∈ ps, p.1 ≠ keep) (h : (amFind w.splits keep).isSome = true) :
    (amFind (w.giveUpAll ps keep).splits keep).isSome = true := by
  unfold Warp.giveUpAll
  induction ps generalizing w with
  | nil => exact h
  | cons p ps ih =>
    exact ih (fun q hq => hne q (List.mem_cons_of_mem _ hq)) (giveUp_keeps (hne p List.mem_cons_self) h)

theorem noGroup_giveUpAll {w : Warp} {id : Nat} (h : w.NoGroup id) : (w.giveUpAll ps keep).NoGroup id := by
  unfold Warp.giveUpAll
  induction ps generalizing w with
  | nil => exact h
  | cons p ps ih => exact ih (noGroup_giveUp h _ _)

/-- Every operation of the entries listed is charged to the one that keeps the merge. -/
theorem giveUpAll_ops {w : Warp} (hne : ∀ p ∈ ps, p.1 ≠ keep)
    (h : ∀ p ∈ ps, (amFind w.splits p.1).isSome = true ∨ ∀ o ∈ w.ops, o.entry ≠ p.1) :
    (w.giveUpAll ps keep).ops = w.ops.map fun o => if ps.any (·.1 == o.entry) then { o with entry := keep } else o := by
  unfold Warp.giveUpAll
  induction ps generalizing w with
  | nil => exact (List.map_id' _).symm
  | cons p ps ih =>
    have hp := hne p List.mem_cons_self
    have hops := giveUp_ops hp (h p List.mem_cons_self)
    rw [List.foldl_cons, ih (fun q hq => hne q (List.mem_cons_of_mem _ hq)), hops, List.map_map]
    · refine List.map_congr_left fun o _ => ?_
      by_cases ho : o.entry = p.1
      · have hkeep : ps.any (·.1 == keep) = false := List.any_eq_false.2 fun q hq => by
          simpa using hne q (List.mem_cons_of_mem _ hq)
        simp [ho, hkeep]
      · have hbeq : (p.1 == o.entry) = false := beq_eq_false_iff_ne.2 (Ne.symm ho)
        rw [Function.comp, if_neg ho, List.any_cons, hbeq, Bool.false_or]
    · intro q hq
      rw [hops]
      by_cases hqp : q.1 = p.1
      · refine .inr fun o ho => ?_
        obtain ⟨o', -, rfl⟩ := List.mem_map.1 ho
        split
        · exact (hne q (List.mem_cons_of_mem _ hq)).symm
        next hne' => rwa [hqp]
      · rw [splits_giveUp_ne _ hqp (hne q (List.mem_cons_of_mem _ hq))]
        refine (h q (List.mem_cons_of_mem _ hq)).imp_right fun hfree o ho => ?_
        obtain ⟨o', ho', rfl⟩ := List.mem_map.1 ho
        split
        · exact (hne q (List.mem_cons_of_mem _ hq)).symm
        · exact hfree o' ho'

end

theorem foldl_lanes_getLsbD (l : Nat) (ps : List (Nat × Split)) (m : Lanes) :
    (ps.foldl (fun m p => m ||| p.2.lanes) m).getLsbD l = (m.getLsbD l || ps.any fun p => p.2.lanes.getLsbD l) := by
  induction ps generalizing m with
  | nil => simp
  | cons p ps ih => rw [List.foldl_cons, ih, BitVec.getLsbD_or, List.any_cons, Bool.or_assoc]

/-- The split that keeps the merge of a family with these lanes, outside a call sequence (R25, R185; log 13). -/
def Split.merged (sp : Split) (lanes : Lanes) : Split :=
  { sp with
    lanes := lanes, exec := lanes, spc := sp.jpc + 4, jpc := sp.jsave, jsave := 0, fam := sp.famSave, famSave := 0,
    jw := false, wait := .run, origin := if sp.orgFam = sp.fam then sp.out.1 else sp.origin,
    orgFam := if sp.orgFam = sp.fam then sp.out.2 else sp.orgFam, out := sp.outSave, outSave := (0, 0) }

/-- A family all of whose members have arrived merges into its lowest waiting entry (R25, R185). -/
theorem mergeFamily_merges {w : Warp} {fam e : Nat} {sp : Split} {rest : List (Nat × Split)} (hfam : fam ≠ 0)
    (hall : (w.family fam).all (·.2.arrived fam) = true)
    (hlow : ((w.family fam).filter fun p => p.2.live && p.2.jw) = (e, sp) :: rest) (hseq : sp.seq = none) :
    w.mergeFamily fam = (w.giveUpAll ((w.family fam).filter (·.1 != e)) e).modSplit e fun _ =>
      sp.merged ((w.family fam).foldl (fun m p => m ||| p.2.lanes) 0) := by
  have hgate : (fam != 0 && (w.family fam).all (·.2.arrived fam)) = true := by simp [hfam, hall]
  unfold Warp.mergeFamily
  simp only [hgate, if_true, hlow, Split.counted, Split.execLanes, hseq, beq_iff_eq]
  simp only [Split.merged, hseq]
  split <;> rfl

theorem endGroup_of_noGroup {w : Warp} {id : Nat} (h : w.NoGroup id) : w.endGroup id = w := by
  unfold Warp.endGroup
  rw [(groupSplits_eq_nil_iff w id).2 h]

theorem modWarp_const {s : State} {c n : Nat} {w : Warp} (h : s.warp c n = some w) (f : Warp → Warp) :
    s.modWarp c n f = s.modWarp c n fun _ => f w := by
  unfold State.modWarp
  rw [h]

theorem familyMergesAtJoin : Spec.FamilyMergesAtJoin := by
  intro s core slot fam e w sp rest hw hfam hall hlow hseq hgroup
  have hmem : (e, sp) ∈ w.family fam := (List.mem_filter.1 (hlow ▸ List.mem_cons_self)).1
  have hne : ∀ p ∈ (w.family fam).filter (·.1 != e), p.1 ≠ e := fun p hp => by
    simpa using (List.mem_filter.1 hp).2
  have huse : ∀ p ∈ w.family fam, (amFind w.splits p.1).isSome = true := fun p hp =>
    amFind_isSome_of_mem (List.mem_filter.1 hp).1
  have hmerge := mergeFamily_merges hfam hall hlow hseq
  have hidle : (w.mergeFamily fam).NoGroup fam := by
    rw [hmerge]
    exact noGroup_modSplit (noGroup_giveUpAll ((groupSplits_eq_nil_iff w fam).1 hgroup)) fun _ _ => .inl hseq
  have hkept := giveUpAll_keeps hne (huse _ hmem)
  refine ⟨_, w.mergeFamily fam, sp.merged ((w.family fam).foldl (fun m p => m ||| p.2.lanes) 0), rfl, ?_, ?_, ?_, rfl, ?_⟩
  · rw [modWarp_const hw, endGroup_of_noGroup hidle]
  · obtain ⟨old, hold⟩ := Option.isSome_iff_exists.1 hkept
    rw [hmerge, splits_modSplit_self hold]
  · intro l hl
    refine (foldl_lanes_getLsbD l _ _).trans ?_
    rw [show (0 : Lanes).getLsbD l = false from BitVec.getLsbD_zero, Bool.false_or]
  rw [hmerge]
  obtain ⟨hv, hg, hf⟩ := (Warp.RegsStay.giveUpAll (ps := (w.family fam).filter (·.1 != e)) (keep := e) w).trans
    (.modSplit _ e fun _ => sp.merged ((w.family fam).foldl (fun m p => m ||| p.2.lanes) 0))
  refine ⟨hv, hg, hf, ?_⟩
  rw [modSplit_rest]
  refine (giveUpAll_ops hne fun p hp => .inl (huse p (List.mem_filter.1 hp).1)).trans (List.map_congr_left fun o _ => ?_)
  rw [List.any_filter]
  by_cases ho : o.entry = e
  · have hnone : (w.family fam).any (fun p => p.1 != e && p.1 == o.entry) = false := by
      simp [ho]
    have hself : { o with entry := e } = o := by rw [← ho]
    simp [hnone, hself]
  · have hsame : (fun p : Nat × Split => p.1 != e && p.1 == o.entry) = fun p => p.1 == o.entry := by
      funext p
      cases hp : p.1 == o.entry with
      | false => exact Bool.and_false _
      | true => simp [eq_of_beq hp, ho]
    rw [hsame]

/-- Settles O8: SPLIT, JOINAT and JOIN change the split table alone, EXIT the latch and the leaving entry's operations as well, and a
merge is a run of entries that give up their splits to the lowest waiting one. -/
theorem familiesOfSplits : Obligations.FamiliesOfSplits :=
  ⟨splitDividesLanes, joinPointsAndArrival, familyMergesAtJoin, exitLeavesTheWarp⟩

end Sys2Proof.Machine

/-! ### Writes of the hub, join objects and retiring (R9 to R11, R18, R31, R114, R123) -/

namespace Sys2Proof.Machine

open Sys2Proof.Laws

/-! #### What a write of the hub changes (R83, R192) -/

theorem foldl_hub {α : Type} {f : State → α → State} (hf : ∀ s x, (f s x).hub = s.hub) (xs : List α) (s : State) :
    (xs.foldl f s).hub = s.hub := by
  induction xs generalizing s with
  | nil => rfl
  | cons x xs ih => exact (ih _).trans (hf s x)

theorem foldl_team {α : Type} {f : State → α → State} (hf : ∀ s x c k, (f s x).team c k = s.team c k) (xs : List α)
    (s : State) (c k : Nat) : (xs.foldl f s).team c k = s.team c k := by
  induction xs generalizing s with
  | nil => rfl
  | cons x xs ih => exact (ih _).trans (hf s x c k)

theorem team_modSplit (s : State) (x : Who) (f : Split → Split) (c k : Nat) : (s.modSplit x f).team c k = s.team c k :=
  team_modWarp _ _ _ _ _ _

theorem noteWatch_hub (s : State) (pa n : Nat) : (s.noteWatch pa n).hub = s.hub :=
  foldl_hub (fun _ _ => modSplit_hub _ _ _) _ s

theorem noteWatch_team (s : State) (pa n c k : Nat) : (s.noteWatch pa n).team c k = s.team c k :=
  foldl_team (fun _ _ => team_modSplit _ _ _) _ s c k

theorem noteStale_hub (s : State) (pa : Nat) : (s.noteStale pa).hub = s.hub := by
  unfold State.noteStale
  split <;> rfl

theorem noteStale_team (s : State) (pa c k : Nat) : (s.noteStale pa).team c k = s.team c k := by
  unfold State.noteStale
  split <;> rfl

theorem bell_hub (s : State) (q : Nat) : (s.bell q).hub = s.hub := by
  unfold State.bell
  split <;> rfl

theorem bell_team (s : State) (q c k : Nat) : (s.bell q).team c k = s.team c k := by
  unfold State.bell
  split <;> rfl

/-- A write of the hub changes neither the hub itself nor a team, and writes its bytes whatever stood there. -/
theorem hubPut_frame (s : State) (pa : Nat) (bs : List Byte) :
    (s.hubPut pa bs).mem = Memory.writeN s.mem pa bs ∧ (s.hubPut pa bs).hub = s.hub ∧
      ∀ c k, (s.hubPut pa bs).team c k = s.team c k := by
  unfold State.hubPut
  split
  next t ht =>
    unfold State.homeWrite at ht
    dsimp only at ht
    split at ht
    · cases ht
    · cases ht
      refine ⟨?_, ?_, fun c k => ?_⟩
      · rw [noteWatch_mem, noteBell_mem]
        exact congrArg (fun m => Memory.writeN m pa bs) (foldl_mem noteStale_mem _ s)
      · rw [noteWatch_hub]
        exact (foldl_hub (fun _ _ => bell_hub _ _) _ _).trans (foldl_hub noteStale_hub _ s)
      · rw [noteWatch_team]
        exact (foldl_team (fun _ _ => bell_team _ _) _ _ c k).trans (foldl_team noteStale_team _ s c k)
  · exact ⟨noteWatch_mem _ _ _, noteWatch_hub _ _ _, noteWatch_team _ _ _⟩

@[simp] theorem hubPut_mem (s : State) (pa : Nat) (bs : List Byte) :
    (s.hubPut pa bs).mem = Memory.writeN s.mem pa bs := (hubPut_frame s pa bs).1

@[simp] theorem hubPut_hub (s : State) (pa : Nat) (bs : List Byte) : (s.hubPut pa bs).hub = s.hub :=
  (hubPut_frame s pa bs).2.1

@[simp] theorem hubPut_team (s : State) (pa : Nat) (bs : List Byte) (c k : Nat) :
    (s.hubPut pa bs).team c k = s.team c k := (hubPut_frame s pa bs).2.2 c k

/-! #### What the hub's reads depend on (R10, R93 to R97, R338) -/

/-- Two states in which the hub reads memory alike. -/
structure ReadsAlike (s t : State) : Prop where
  mem : t.mem = s.mem
  memBad : t.memBad = s.memBad
  feat : t.feat = s.feat
  boot : t.boot = s.boot
  asCache : t.asCache = s.asCache
  regs : t.hub.regs = s.hub.regs
  fab : t.fab = s.fab

namespace ReadsAlike
variable {s t : State}

theorem dramUp (h : ReadsAlike s t) (pa : Nat) : t.dramUp pa = s.dramUp pa := by
  unfold State.dramUp
  rw [h.boot]

theorem groupEntry (h : ReadsAlike s t) (asid : Asid) (va level table e : Nat) :
    Machine.groupEntry t asid va level table e = Machine.groupEntry s asid va level table e := by
  unfold Machine.groupEntry State.hasFeature
  rw [h.feat, h.mem, h.memBad]

theorem walkFrom (h : ReadsAlike s t) (asid : Asid) (va fuel level table : Nat) :
    Machine.walkFrom t asid va fuel level table = Machine.walkFrom s asid va fuel level table := by
  induction fuel generalizing level table with
  | zero => rfl
  | succ fuel ih =>
    unfold Machine.walkFrom State.hasFeature
    simp only [h.dramUp, h.groupEntry, h.mem, h.memBad, h.feat, ih]

theorem asEntry (h : ReadsAlike s t) (st : Nat) (asid : Asid) :
    ReadsAlike (s.asEntry st asid).1 (t.asEntry st asid).1 ∧ (t.asEntry st asid).2 = (s.asEntry st asid).2 := by
  unfold State.asEntry
  simp only [h.asCache, h.regs, h.dramUp, h.memBad, h.mem]
  split
  · exact ⟨h, rfl⟩
  · split
    · exact ⟨h, rfl⟩
    · split
      · exact ⟨h, rfl⟩
      · exact ⟨⟨rfl, rfl, h.feat, h.boot, rfl, h.regs, h.fab⟩, rfl⟩

theorem walk (h : ReadsAlike s t) (st : Nat) (asid : Asid) (va : Nat) : (t.walk st asid va).2 = (s.walk st asid va).2 := by
  obtain ⟨hstate, hres⟩ := h.asEntry st asid
  unfold State.walk
  split
  · rfl
  · generalize t.asEntry st asid = b at hstate hres
    generalize s.asEntry st asid = a at hstate hres
    obtain ⟨a, ra⟩ := a
    obtain ⟨b, rb⟩ := b
    cases hres
    cases ra with
    | error c => rfl
    | ok ws =>
      dsimp only
      split
      · exact hstate.walkFrom asid va 4 1 _
      · rfl

theorem translateHub (h : ReadsAlike s t) (asid : Asid) (priv : Bool) (va : Nat) (acc : Access) :
    t.translateHub asid priv va acc = s.translateHub asid priv va acc := by
  unfold State.translateHub State.checkEntry State.populated
  simp only [h.walk, h.dramUp, h.regs]

theorem homeRead (h : ReadsAlike s t) (pa n : Nat) : t.homeRead pa n = s.homeRead pa n := by
  have hbad : t.unitBad = s.unitBad := by
    funext u
    unfold State.unitBad State.firnDown
    rw [h.memBad, h.regs, h.fab]
  unfold State.homeRead
  rw [hbad, h.mem]

/-- Where the hub reads memory alike, it reads the same join object. -/
theorem joinRead (h : ReadsAlike s t) (asid : Asid) (va : Nat) : t.joinRead asid va = s.joinRead asid va := by
  unfold State.joinRead
  simp only [h.translateHub, h.homeRead]

end ReadsAlike

/-! #### Decrements (R11, R123) -/

/-- A decrement nobody waits for and no regions wait for is over at once. -/
theorem decOver_of_idle {d : JoinDec} (hack : d.ack = .none) (hafter : d.after = none) (s : State) : s.decOver d = s := by
  unfold State.decOver
  rw [hack, hafter]
  rfl

/-- A decrement that is over has changed no memory where nobody waits for it. -/
theorem decOver_mem {d : JoinDec} (hack : d.ack = .none) (s : State) : (s.decOver d).mem = s.mem := by
  unfold State.decOver
  rw [hack]
  cases d.after <;> rfl

/-- A decrement that no other step follows lowers COUNT. -/
theorem decrement_lowers {s : State} {d : JoinDec} {j : JoinObj} (hj : s.joinRead d.asid d.va = .ok j) (hc : 1 < j.count)
    (n : Nat) : s.decrement (n + 1) d = (s.hubPut j.pa (leBytes 4 (j.count - 1))).decOver d := by
  have hzero : j.count ≠ 0 := by omega
  have hone : j.count ≠ 1 := by omega
  unfold State.decrement
  simp only [hj, hzero, hone, if_false, ne_eq, not_false_eq_true, if_true]

theorem decrement_refused {s : State} {d : JoinDec} {j : JoinObj} (hj : s.joinRead d.asid d.va = .ok j) (hc : j.count = 0)
    (n : Nat) : s.decrement (n + 1) d = s.refuseDec { d with hold := .ready } := by
  unfold State.decrement
  simp only [hj, hc, if_true]

/-- A decrement that lowers COUNT to 0: the successor, else the object that NOTIFY names, else the task's regions (R11). -/
theorem decrement_last {s : State} {d : JoinDec} {j : JoinObj} (hj : s.joinRead d.asid d.va = .ok j) (hc : j.count = 1)
    (hbad : j.bad = false) (n : Nat) :
    let t := (s.hubPut j.pa (leBytes 4 0)).decOver d
    s.decrement (n + 1) d =
      if bitAt j.sq 7 then
        { t with hub := { t.hub with successors := t.hub.successors ++
          [{ queue := j.sq % 64, asid := d.asid, record := j.succ, notify := j.notify, join := d.va }] } }
      else if j.notify ≠ 0 then
        t.decrement n { asid := d.asid, va := j.notify, hold := .ready, ack := .none, after := some d.va }
      else t.removeRegions d.asid d.va := by
  rw [State.decrement]
  simp only [hj, hc, hbad]
  rfl

theorem joinObjectReachesZero : Spec.JoinObjectReachesZero := by
  intro s asid va j hj t
  refine ⟨fun hc => ?_, fun hc hbad => ?_⟩
  · have ht : t = s.refuseDec { asid := asid, va := va, hold := .ready, ack := .none, after := none } :=
      decrement_refused hj hc 63
    rw [ht]
    unfold State.refuseDec
    dsimp only
    split
    next hroom =>
      rw [decOver_of_idle rfl rfl]
      exact ⟨rfl, _, rfl, rfl, rfl, rfl, rfl, fun _ => rfl, fun h => by rw [hroom] at h; cases h⟩
    next hroom =>
      exact ⟨rfl, _, rfl, rfl, rfl, rfl, rfl, fun h => absurd h hroom, fun _ => ⟨_, rfl, rfl, rfl⟩⟩
  · have ht := decrement_last (d := { asid := asid, va := va, hold := .ready, ack := .none, after := none }) hj hc hbad 63
    dsimp only at ht
    rw [decOver_of_idle rfl rfl] at ht
    refine ⟨fun hsv => ?_, fun hsv hn => ?_, fun n hsv hn hread hcount => ?_⟩
    · rw [show t = _ from ht.trans (if_pos hsv)]
      dsimp only
      rw [hubPut_hub]
      exact ⟨hubPut_mem _ _ _, rfl, rfl⟩
    · rw [show t = _ from ht.trans ((if_neg (by simp [hsv])).trans (if_neg (by simp [hn])))]
      unfold State.removeRegions
      dsimp only
      rw [hubPut_hub]
      exact ⟨hubPut_mem _ _ _, rfl, fun e => by simp [imp_iff_not_or], fun k => by simp [imp_iff_not_or]⟩
    · rw [show t = _ from ht.trans ((if_neg (by simp [hsv])).trans (if_pos hn)), decrement_lowers hread hcount,
        decOver_mem rfl, hubPut_mem, hubPut_mem]

/-! #### Retiring (R18, R31) -/

/-- Where no latch of its team is open a warp's retiring faults nobody (R239). -/
theorem latchRetire_frame {s : State} {c team : Nat} (h : ∀ l ∈ (s.core c).latches, l.team ≠ team) (widx : Nat) :
    (s.latchRetire c team widx).mem = s.mem ∧ ∀ n, (s.latchRetire c team widx).warp c n = s.warp c n := by
  have hnone : ((s.core c).latches.filter fun l => l.team == team && !l.full && l.wmask.getLsbD widx) = [] :=
    List.filter_eq_nil_iff.2 fun l hl => by simp [h l hl]
  unfold State.latchRetire State.failLatches
  simp only [hnone, List.foldl_nil]
  refine ⟨rfl, fun n => ?_⟩
  unfold State.warp
  rw [core_modCore_self]

/-- PHASE.rel of a core without a dirty line does nothing. -/
theorem phaseRel_of_clean {s : State} {c : Nat} (h : (s.core c).dirtyLines = []) (team : Option Nat) :
    s.phaseRel c team = (s, none) := by
  unfold State.phaseRel
  rw [h]
  rfl

theorem foldl_phaseRel_of_clean {s : State} {ps : List (Nat × Nat)} (h : ∀ p ∈ ps, (s.core p.1).dirtyLines = []) :
    ps.foldl (fun s p => (s.phaseRel p.1 none).1) s = s := by
  induction ps with
  | nil => rfl
  | cons p ps ih =>
    rw [List.foldl_cons, phaseRel_of_clean (h p List.mem_cons_self)]
    exact ih fun q hq => h q (List.mem_cons_of_mem _ hq)

/-- A team leaves its core (R18, R76). -/
def State.dropTeam (s : State) (p : Nat × Nat) : State :=
  match s.team p.1 p.2 with
  | none => s
  | some t => s.modCore p.1 fun k =>
    { k with
      teams := amDel k.teams p.2
      reserved := amPut k.reserved p.2 t
      warps := k.warps.filter fun w => w.2.team != p.2
      latches := k.latches.filter fun l => l.team != p.2
      held := k.held.filter fun h => h.team != p.2 }

theorem team_dropTeam (s : State) (p : Nat × Nat) (c k : Nat) :
    (s.dropTeam p).team c k = if (c, k) = p then none else s.team c k := by
  obtain ⟨d, m⟩ := p
  unfold State.dropTeam
  split
  next h =>
    split
    next he => cases he; exact h
    next => rfl
  next h =>
    unfold State.team
    rw [core_modCore]
    by_cases hd : c = d
    · simp only [hd, if_true, amFind_amDel, Prod.mk.injEq, true_and]
    · simp [hd]

theorem foldl_dropTeam_team {ps : List (Nat × Nat)} {p : Nat × Nat} (s : State)
    (h : p ∈ ps ∨ s.team p.1 p.2 = none) : (ps.foldl State.dropTeam s).team p.1 p.2 = none := by
  induction ps generalizing s with
  | nil => exact h.resolve_left List.not_mem_nil
  | cons q ps ih =>
    refine ih _ ?_
    rw [team_dropTeam]
    by_cases hq : (p.1, p.2) = q
    · exact .inr (if_pos hq)
    · rw [if_neg hq]
      exact h.imp_left fun hp => (List.mem_cons.1 hp).resolve_left fun he => hq he

theorem dropTeam_rest (s : State) (p : Nat × Nat) : s.dropTeam p = { s with cores := (s.dropTeam p).cores } := by
  unfold State.dropTeam
  split <;> rfl

theorem foldl_dropTeam_rest (ps : List (Nat × Nat)) (s : State) :
    ps.foldl State.dropTeam s = { s with cores := (ps.foldl State.dropTeam s).cores } := by
  induction ps generalizing s with
  | nil => rfl
  | cons p ps ih => rw [List.foldl_cons, ih, dropTeam_rest]

/-- A gang that leaves its cores has no team on them any more, and the hub lists it no longer (R18). -/
theorem leaveCores_eq (s : State) (g : Gang) : s.leaveCores g = { s with
    cores := (s.leaveCores g).cores
    hub := { s.hub with
      gangs := s.hub.gangs.filter (·.key != g.key), dumps := s.hub.dumps.filter fun d => !g.teams.contains d } } := by
  have hdrop : s.leaveCores g = (g.teams.foldl State.dropTeam s).modHub fun h =>
      { h with gangs := h.gangs.filter (·.key != g.key), dumps := h.dumps.filter fun d => !g.teams.contains d } := rfl
  rw [hdrop, foldl_dropTeam_rest]
  rfl

theorem leaveCores_team {g : Gang} {p : Nat × Nat} (hp : p ∈ g.teams) (s : State) : (s.leaveCores g).team p.1 p.2 = none :=
  foldl_dropTeam_team s (.inl hp)

theorem amFind_mapKey {α β : Type} (f : Nat → α → β) (m : SMap α) (k : Nat) :
    amFind (m.map fun e => (e.1, f e.1 e.2)) k = (amFind m k).map (f k) := by
  induction m with
  | nil => rfl
  | cons p m ih =>
    simp only [List.map_cons, amFind, ih]
    split
    next h => rw [h, Option.map_some]
    next => rfl

/-- A core with the partitions that copies or saves still keep (R18, R76, R292). -/
def State.keepParts (s : State) (c : Nat) (k : Core) : Core :=
  { k with reserved := k.reserved.filter fun r =>
      s.copiesOf (clusterOf c) r.2.gang || s.hub.saving.any fun v => v.gang.key == r.2.gang }

/-- Freeing partitions takes no team off its core. -/
theorem freeParts_team (s : State) (c k : Nat) : s.freeParts.team c k = s.team c k := by
  have hcores : s.freeParts.cores = s.cores.map fun e => (e.1, s.keepParts e.1 e.2) := rfl
  unfold State.team State.core
  rw [amGet_eq, amGet_eq, hcores, amFind_mapKey]
  cases amFind s.cores c <;> rfl

/-! #### The events (R11, R18, R31, R114) -/

theorem warpRetire_retires {s : State} {c w : Nat} {v : Warp} (hw : s.warp c w = some v) (hret : v.retired = false)
    (hmay : v.mayRetire = true) :
    exec (.warpRetire c w) s = .next ((s.setWarp c w { v with retired := true }).latchRetire c v.team v.widx) := by
  change execWarpRetire c w s = _
  unfold execWarpRetire
  simp only [hw, hret, hmay]
  rfl

theorem gangJoinDecrement_finishes {s : State} {k : Nat} {g : Gang} (hg : s.hub.gangs.find? (·.key == k) = some g)
    (hdone : s.gangDone g = true) (hclean : ∀ p ∈ g.teams, (s.core p.1).dirtyLines = []) :
    exec (.gangJoinDecrement k) s = .next (((s.leaveCores g).modHub fun h =>
      { h with gangBars := h.gangBars.filter (·.gang != g.key) }).freeParts.joinDecrement g.asid (recJoin g.record) .none) := by
  change execGangJoinDecrement k s = _
  unfold execGangJoinDecrement
  simp only [hg, hdone, foldl_phaseRel_of_clean hclean]
  rfl

theorem joinDecrementReplayed_makes {s : State} {n : Nat} {d : JoinDec} (hd : s.hub.decs[n]? = some d)
    (hhold : d.hold = .ready) (hnoted : d.noted = none) :
    exec (.joinDecrementReplayed n) s =
      .next ({ s with hub := { s.hub with decs := s.hub.decs.eraseIdx n } }.decrement 64 d) := by
  change execJoinDecrementReplayed n s = _
  unfold execJoinDecrementReplayed
  simp only [hd, hhold, hnoted]

/-- Noting a record at the head of its queue changes the list of heads alone (R12). -/
theorem noteHead_rest (s : State) (q : Nat) :
    s.noteHead q = { s with hub := { s.hub with heads := (s.noteHead q).hub.heads } } := by
  unfold State.noteHead
  dsimp only
  split <;> rfl

/-- Appending one record writes it at TAIL of its queue and advances TAIL (R114). -/
theorem append_single_frame (s : State) (q : Nat) (r : List Byte) :
    let d := s.hub.queue q
    let t := s.append q [r]
    t.mem = Memory.writeN s.mem (d.slot d.tail.toNat) r ∧ t.hub.queue q = { d with tail := d.tail + 1 } ∧
      (∀ p, p ≠ q → t.hub.queue p = s.hub.queue p) ∧ t.hub.successors = s.hub.successors := by
  intro d t
  have ht : t = ((s.hubPut (d.slot d.tail.toNat) r).setQueue q { d with tail := d.tail + 1 }).noteHead q := by
    simp only [t, State.append]
    rfl
  rw [ht, noteHead_rest]
  refine ⟨hubPut_mem _ _ _, ?_, fun p hp => ?_, ?_⟩
  · exact amGet_amPut_self _ _ _ _
  · refine (amGet_amPut_ne _ _ _ hp).trans ?_
    rw [hubPut_hub]
    rfl
  · change (s.hubPut (d.slot d.tail.toNat) r).hub.successors = s.hub.successors
    rw [hubPut_hub]

theorem successorAppend_appends {s : State} {q : Nat} {x : Successor}
    (hx : s.hub.successors.find? (·.queue == q) = some x) (hv : (s.hub.queue q).v = true)
    (hasid : (s.hub.queue q).asid = x.asid) (hres : s.hub.reservedAt q = false) (hroom : (s.hub.queue q).room ≠ 0)
    (hnotify : x.notify = 0) (hnoted : x.noted = none)
    (hup : s.populated ((s.hub.queue q).slot (s.hub.queue q).tail.toNat) = true) :
    exec (.successorAppend q) s = .next (({ s with hub := { s.hub with
      successors := s.hub.successors.erase x } }.append q [x.record]).removeRegions x.asid x.join) := by
  change execSuccessorAppend q s = _
  unfold execSuccessorAppend State.queueUp State.afterSucc
  simp [hx, hv, hasid, hres, hroom, hnotify, hnoted, hup]

theorem retiringAndDecrements : Spec.RetiringAndDecrements := by
  refine ⟨fun s c w v hw hret hmay hlatch => ?_, fun s k g j hg hdone hclean hj hc => ?_,
    fun s n d j hd hhold hack hnoted hafter hj hc => ?_, fun s q x hx => ?_⟩
  · have hnone : ∀ l ∈ ((s.setWarp c w { v with retired := true }).core c).latches, l.team ≠ v.team := by
      unfold State.setWarp
      rw [core_modCore_self]
      exact hlatch
    refine ⟨_, warpRetire_retires hw hret hmay, ?_⟩
    obtain ⟨hmem, hwarp⟩ := latchRetire_frame hnone v.widx
    refine ⟨(hwarp w).trans ?_, hmem, fun n hn => (hwarp n).trans ?_⟩
    · rw [warp_setWarp, if_pos ⟨rfl, rfl⟩]
    · rw [warp_setWarp, if_neg fun h => hn h.2]
  · have hread : (((s.leaveCores g).modHub fun h =>
        { h with gangBars := h.gangBars.filter (·.gang != g.key) }).freeParts).joinRead g.asid (recJoin g.record) = .ok j := by
      rw [← hj]
      refine ReadsAlike.joinRead ?_ _ _
      rw [leaveCores_eq]
      exact ⟨rfl, rfl, rfl, rfl, rfl, rfl, rfl⟩
    refine ⟨_, gangJoinDecrement_finishes hg hdone hclean, ?_⟩
    rw [State.joinDecrement, decrement_lowers hread hc, decOver_of_idle rfl rfl]
    refine ⟨?_, fun h hh => ?_, fun p hp => ?_⟩
    · rw [hubPut_mem, leaveCores_eq]
      rfl
    · rw [hubPut_hub, leaveCores_eq] at hh
      have hkey : g.key = k := eq_of_beq (List.find?_some (p := fun g : Gang => g.key == k) hg)
      have hne := (List.mem_filter.1 hh).2
      simpa [hkey] using hne
    · rw [hubPut_team, freeParts_team]
      exact leaveCores_team hp s
  · have hread : ({ s with hub := { s.hub with decs := s.hub.decs.eraseIdx n } } : State).joinRead d.asid d.va = .ok j := by
      rw [← hj]
      refine ReadsAlike.joinRead ?_ _ _
      exact ⟨rfl, rfl, rfl, rfl, rfl, rfl, rfl⟩
    refine ⟨_, joinDecrementReplayed_makes hd hhold hnoted, ?_⟩
    rw [decrement_lowers hread hc, decOver_of_idle hack hafter]
    exact ⟨hubPut_mem _ _ _, by rw [hubPut_hub]⟩
  · intro q' hv hasid hres hroom hnotify hnoted hup
    refine ⟨_, successorAppend_appends hx hv hasid hres hroom hnotify hnoted hup, ?_⟩
    obtain ⟨hmem, hqueue, hother, hsucc⟩ := append_single_frame
      { s with hub := { s.hub with successors := s.hub.successors.erase x } } q x.record
    generalize State.append _ q [x.record] = u at *
    exact ⟨hqueue, hother, hsucc, hmem⟩

/-- Settles O38: a decrement writes COUNT and then does at most one thing more, and what the hub writes changes no team and no
queue. -/
theorem joinsAndRetiring : Obligations.JoinsAndRetiring := ⟨retiringAndDecrements, joinObjectReachesZero⟩

end Sys2Proof.Machine

/-! ### Resume lists and thermal migration (R16, R171, R296, R297, R299) -/

namespace Sys2Proof.Machine

open Sys2Proof.Laws

/-! #### What noting the waiting heads leaves as it was (R289) -/

theorem findCluster_congr {s t : State} (hboot : t.boot = s.boot) (hcores : t.cores = s.cores)
    (fs : List (Core → Option Fit)) (cs : List Nat) : t.findCluster fs cs = s.findCluster fs cs := by
  have hfit : ∀ c, t.fitCluster c fs = s.fitCluster c fs := fun c => by
    unfold State.fitCluster State.clusterUp State.core
    rw [hboot, hcores]
  induction cs with
  | nil => rfl
  | cons c cs ih =>
    unfold State.findCluster
    rw [hfit, ih]

/-- How long a head record has found no cluster, as the placer notes it. -/
def State.headWait (s : State) (q : Nat) (h : Head) : Option Nat :=
  let c := s.hub.queue q
  if c.v && h.checked && s.hub.admitted c.asid h && (s.headCluster q h).isNone then some (h.waitSince.getD s.clock.toNat)
  else none

/-- A head record with its wait noted. -/
def State.noteHeadWait (s : State) (q : Nat) (h : Head) : Head := { h with waitSince := s.headWait q h }

theorem noteWaits_eq (s : State) :
    s.noteWaits = s.modHub fun x => { x with heads := x.heads.map fun e => (e.1, s.noteHeadWait e.1 e.2) } := rfl

@[simp] theorem noteWaits_findCluster (s : State) (fs : List (Core → Option Fit)) (cs : List Nat) :
    s.noteWaits.findCluster fs cs = s.findCluster fs cs :=
  findCluster_congr (s := s) (t := s.noteWaits) rfl rfl fs cs

@[simp] theorem noteWaits_clusterOrder (s : State) (asid : Asid) : s.noteWaits.clusterOrder asid = s.clusterOrder asid := rfl

@[simp] theorem noteWaits_codeGone (s : State) (v : SavedGang) : s.noteWaits.codeGone v = s.codeGone v := rfl

@[simp] theorem noteWaits_resumeReady (s : State) (l : Nat) : s.noteWaits.resumeReady l = s.resumeReady l := by
  unfold State.resumeReady
  rw [show s.noteWaits.hub.resumeFirst l = s.hub.resumeFirst l from rfl]
  cases s.hub.resumeFirst l with
  | none => rfl
  | some v => simp only [noteWaits_codeGone, noteWaits_findCluster, noteWaits_clusterOrder]

/-- Where a head record's gang would go does not depend on how long it has waited. -/
@[simp] theorem noteWaits_headFit (s : State) (q : Nat) (h : Head) :
    s.noteWaits.headFit q (s.noteHeadWait q h) = s.headFit q h := by
  unfold State.headFit State.headCluster
  simp only [noteWaits_findCluster]
  rfl

theorem noteWaits_headOf (s : State) (q : Nat) :
    s.noteWaits.hub.headOf q = (s.hub.headOf q).map (s.noteHeadWait q) := by
  rw [noteWaits_eq]
  unfold Hub.headOf
  change ((s.hub.heads.map _).find? _).map _ = _
  rw [List.find?_map]
  simp only [Function.comp_def]
  cases h : s.hub.heads.find? fun e => e.1 == q with
  | none => rfl
  | some e =>
    have he := List.find?_some h
    simp only [beq_iff_eq] at he
    subst he
    rfl

@[simp] theorem noteWaits_queueTurn (s : State) (q : Nat) : s.noteWaits.queueTurn q = s.queueTurn q := by
  have hheads : s.noteWaits.hub.heads = s.hub.heads.map fun e => (e.1, s.noteHeadWait e.1 e.2) := rfl
  unfold State.queueTurn
  dsimp only
  rw [hheads, List.all_map]
  simp only [Function.comp_def, noteWaits_headFit]
  rfl

/-- Noting the waits leaves which queues have an eligible head. -/
@[simp] theorem noteWaits_firstEligible_isNone (s : State) (qs : List Nat) :
    (s.noteWaits.firstEligible qs).isNone = (s.firstEligible qs).isNone := by
  induction qs with
  | nil => rfl
  | cons q qs ih =>
    unfold State.firstEligible
    rw [noteWaits_headOf, noteWaits_queueTurn]
    cases s.hub.headOf q with
    | none => exact ih
    | some h =>
      dsimp only [Option.map_some]
      rw [noteWaits_headFit]
      cases (if s.queueTurn q then s.headFit q h else none) with
      | none => exact ih
      | some f => rfl

@[simp] theorem noteWaits_levelTurn (s : State) (l : Nat) : s.noteWaits.levelTurn l = s.levelTurn l := by
  unfold State.levelTurn
  simp only [noteWaits_resumeReady]
  exact congrArg _ (funext fun k => by rw [noteWaits_firstEligible_isNone]; rfl)

/-- GANG_RESTORE of a level whose turn it is, where a cluster fits the first gang of its resume list. -/
theorem execGangRestore_of_turn {s : State} {l cl : Nat} {v : SavedGang} {fits : List (Nat × Fit)}
    (hfirst : s.hub.resumeFirst l = some v) (hgone : s.codeGone v = false) (hturn : s.levelTurn l = true)
    (hfind : s.findCluster v.claims (s.clusterOrder v.gang.asid) = some (cl, fits)) :
    exec (.gangRestore l) s =
      .next ((s.noteWaits.resumeGang v cl fits).modHub fun h => { h with lastCluster := cl }) := by
  change execGangRestore l s = _
  unfold execGangRestore
  simp only [hfirst, noteWaits_codeGone, hgone, noteWaits_levelTurn, hturn, noteWaits_findCluster,
    noteWaits_clusterOrder, hfind, Bool.not_true, Bool.or_false, Bool.false_eq_true, if_false]

/-! #### What a team keeps while its gang is restored (R171, R296) -/

/-- From `s` to `t` the hub is as it was, and each team keeps its place on its core and its count of instructions. -/
structure PlacesStay (s t : State) : Prop where
  hub : t.hub = s.hub
  team : ∀ c k m, s.team c k = some m →
    ∃ m', t.team c k = some m' ∧ m'.lmBase = m.lmBase ∧ m'.warps = m.warps ∧ m'.instr = m.instr

namespace PlacesStay

theorem refl (s : State) : PlacesStay s s := ⟨rfl, fun _ _ m h => ⟨m, h, rfl, rfl, rfl⟩⟩

theorem trans {s t u : State} (h : PlacesStay s t) (k : PlacesStay t u) : PlacesStay s u := by
  refine ⟨k.hub.trans h.hub, fun c n m hm => ?_⟩
  obtain ⟨m₁, hm₁, hbase₁, hwarps₁, hinstr₁⟩ := h.team c n m hm
  obtain ⟨m₂, hm₂, hbase₂, hwarps₂, hinstr₂⟩ := k.team c n m₁ hm₁
  exact ⟨m₂, hm₂, hbase₂.trans hbase₁, hwarps₂.trans hwarps₁, hinstr₂.trans hinstr₁⟩

theorem foldl {α : Type} {f : State → α → State} (hf : ∀ s x, PlacesStay s (f s x)) (xs : List α) (s : State) :
    PlacesStay s (xs.foldl f s) := by
  induction xs generalizing s with
  | nil => exact refl s
  | cons x xs ih => exact (hf s x).trans (ih _)

theorem of_team {s t : State} (hhub : t.hub = s.hub) (hteam : ∀ c k, t.team c k = s.team c k) : PlacesStay s t :=
  ⟨hhub, fun c k m h => ⟨m, (hteam c k).trans h, rfl, rfl, rfl⟩⟩

theorem modCore (s : State) (c : Nat) {f : Core → Core} (hf : ∀ k, (f k).teams = k.teams) :
    PlacesStay s (s.modCore c f) := by
  refine of_team rfl fun d n => ?_
  unfold State.team
  rw [core_modCore]
  split
  next hd => rw [hf, hd]
  next => rfl

theorem modTeam (s : State) (c k : Nat) {f : Team → Team}
    (hf : ∀ m, (f m).lmBase = m.lmBase ∧ (f m).warps = m.warps ∧ (f m).instr = m.instr) :
    PlacesStay s (s.modTeam c k f) := by
  refine ⟨modTeam_hub _ _ _ _, fun d n m hm => ?_⟩
  rw [team_modTeam]
  split
  next hd =>
    obtain ⟨rfl, rfl⟩ := hd
    exact ⟨f m, by rw [hm]; rfl, hf m⟩
  next => exact ⟨m, hm, rfl, rfl, rfl⟩

theorem phaseAcq (s : State) (c : Nat) : PlacesStay s (s.phaseAcq c) := modCore s c fun _ => rfl

theorem modBar (s : State) (c : Nat) (t : Team) (off : Nat) (f : Bar → Bar) : PlacesStay s (s.modBar c t off f) := by
  unfold State.modBar
  split
  · exact refl s
  · refine (modCore s c fun k => ?_).trans (modTeam _ c _ fun m => ?_)
    · rfl
    · unfold Team.noteObject
      split <;> exact ⟨rfl, rfl, rfl⟩

theorem applyFabric (s : State) (v : SavedTeam) (c : Nat) : PlacesStay s (s.applyFabric v c) := by
  refine foldl (fun u off => ?_) _ s
  split
  next t _ => exact (phaseAcq u c).trans (modBar _ c t off _)
  next => exact refl u

theorem setSlotState (s : State) (slot code : Nat) : PlacesStay s (s.setSlotState slot code) :=
  of_team (hubPut_hub _ _ _) (hubPut_team _ _ _)

theorem takeHeld (s : State) (c k : Nat) : PlacesStay s (s.takeHeld c k) := by
  unfold State.takeHeld
  split
  · exact refl s
  · refine (of_team (modWarp_hub _ _ _ _) fun d n => team_modWarp _ _ _ _ d n).trans (modTeam _ _ _ fun m => ?_)
    unfold Team.beginStop
    split <;> exact ⟨rfl, rfl, rfl⟩

end PlacesStay

/-! #### A saved gang comes back, a discarded one starts again (R296, R297) -/

/-- A team that comes back is on its core with the claims found and the registers of its slot; the hub is as it was. -/
theorem restoreTeam_team (s : State) (v : SavedTeam) (c : Nat) (f : Fit) :
    (s.restoreTeam v c f).hub = s.hub ∧ ∃ m, (s.restoreTeam v c f).team c v.key = some m ∧ m.lmBase = f.base ∧
      m.warps = f.slots ∧ m.instr = BitVec.ofNat 64 (s.memNat (s.slotPa v.slot + 0x40) 8) := by
  refine ⟨rfl, ?_⟩
  unfold State.restoreTeam State.team
  simp only [core_modCore_self, amFind_amPut_self]
  exact ⟨_, rfl, rfl, rfl, rfl⟩

/-- A saved gang as it comes back on a cluster. -/
def SavedGang.restored (v : SavedGang) (clock cl : Nat) (fits : List (Nat × Fit)) : Gang :=
  { v.gang with
    cluster := cl, since := clock
    state := match v.gang.state with
      | .migrateAsked _ _ (some (d, q, n)) => .draining d q n
      | _ => .running
    teams := (v.teams.zip fits).map fun p => (p.2.1, p.1.key) }

/-- A gang's teams come back on their cores. -/
def State.restoreTeams (s : State) (ps : List (SavedTeam × Nat × Fit)) : State :=
  ps.foldl (fun s p => (s.restoreTeam p.1 p.2.1 p.2.2).applyFabric p.1 p.2.1) s

/-- The hub lists a gang again, and its resume list no more. -/
def Hub.relist (h : Hub) (v : SavedGang) (g : Gang) : Hub :=
  { h with gangs := h.gangs ++ [g], resume := h.resume.filter fun w => w.gang.key != v.gang.key }

theorem mem_relist (h : Hub) (v : SavedGang) (g : Gang) :
    g ∈ (h.relist v g).gangs ∧ ∀ w ∈ (h.relist v g).resume, w.gang.key ≠ v.gang.key :=
  ⟨List.mem_append_right _ List.mem_cons_self, fun w hw => by simpa using (List.mem_filter.1 hw).2⟩

/-- The slots of a saved gang become free. -/
def State.freeSlotsOf (s : State) (v : SavedGang) : State := v.teams.foldl (fun s t => s.setSlotState t.slot 0) s

theorem freeSlotsOf_places (s : State) (v : SavedGang) : PlacesStay s (s.freeSlotsOf v) := by
  have h (u : State) (t : SavedTeam) : PlacesStay u (u.setSlotState t.slot 0) := .setSlotState u t.slot 0
  exact .foldl h v.teams s

/-- Each team of a gang that issues takes a trap held meanwhile. -/
def State.takeAllHeld (s : State) (ts : List (Nat × Nat)) : State :=
  ts.foldl (fun s p => if s.issuing p.1 p.2 then s.takeHeld p.1 p.2 else s) s

theorem takeAllHeld_places (s : State) (ts : List (Nat × Nat)) : PlacesStay s (s.takeAllHeld ts) :=
  .foldl (fun u p => by
    split
    · exact .takeHeld u p.1 p.2
    · exact .refl u) ts s

/-- The hub lists a gang once its teams are back. -/
def State.relistGang (s : State) (v : SavedGang) (g : Gang) : State := s.modHub fun h => h.relist v g

theorem restoreGang_eq (s : State) (v : SavedGang) (cl : Nat) (fits : List (Nat × Fit)) :
    let a := s.restoreTeams (v.teams.zip fits)
    let g := v.restored a.clock.toNat cl fits
    s.restoreGang v cl fits = ((a.relistGang v g).freeSlotsOf v).takeAllHeld g.teams := rfl

theorem restoreGang_single {s : State} {v : SavedGang} {x : SavedTeam} (hv : v.teams = [x]) (cl c : Nat) (f : Fit) :
    ∃ clock m, (s.restoreGang v cl [(c, f)]).hub = s.hub.relist v (v.restored clock cl [(c, f)]) ∧
      (s.restoreGang v cl [(c, f)]).team c x.key = some m ∧ m.lmBase = f.base ∧ m.warps = f.slots ∧
      m.instr = BitVec.ofNat 64 (s.memNat (s.slotPa x.slot + 0x40) 8) := by
  obtain ⟨hhub, m, hm, hbase, hwarps, hinstr⟩ := restoreTeam_team s x c f
  obtain ⟨hhub₁, hteam₁⟩ := PlacesStay.applyFabric (s.restoreTeam x c f) x c
  obtain ⟨m₁, hm₁, hbase₁, hwarps₁, hinstr₁⟩ := hteam₁ c x.key m hm
  have heq := restoreGang_eq s v cl [(c, f)]
  dsimp only at heq
  rw [show s.restoreTeams (v.teams.zip [(c, f)]) = (s.restoreTeam x c f).applyFabric x c by rw [hv]; rfl] at heq
  rw [heq]
  generalize (s.restoreTeam x c f).applyFabric x c = a at *
  obtain ⟨hhub₂, hteam₂⟩ := (freeSlotsOf_places (a.relistGang v (v.restored a.clock.toNat cl [(c, f)])) v).trans
    (takeAllHeld_places _ (v.restored a.clock.toNat cl [(c, f)]).teams)
  obtain ⟨m₂, hm₂, hbase₂, hwarps₂, hinstr₂⟩ := hteam₂ c x.key m₁ hm₁
  exact ⟨_, m₂, hhub₂.trans (congrArg (Hub.relist · v _) (hhub₁.trans hhub)), hm₂, hbase₂.trans (hbase₁.trans hbase),
    hwarps₂.trans (hwarps₁.trans hwarps), hinstr₂.trans (hinstr₁.trans hinstr)⟩

/-- A discarded gang as it starts again. -/
def SavedGang.restarted (v : SavedGang) (s : State) (cl : Nat) : Gang :=
  { v.gang with key := s.hub.nextKey, cluster := cl, state := .running, since := s.clock.toNat, teams := [] }

/-- The hub gives up a resume entry for a new key. -/
def State.takeResume (s : State) (v : SavedGang) : State :=
  s.modHub fun h => { h with nextKey := h.nextKey + 1, resume := h.resume.filter fun w => w.gang.key != v.gang.key }

theorem takeResume_resume (s : State) (v : SavedGang) : ∀ w ∈ (s.takeResume v).hub.resume, w.gang.key ≠ v.gang.key :=
  fun w hw => by simpa using (List.mem_filter.1 hw).2

theorem restartGang_eq {v : SavedGang} {d : Desc} (hd : parseDesc v.gang.desc = some d) (s : State) (cl : Nat)
    (fits : List (Nat × Fit)) : s.restartGang v cl fits =
      ((s.takeResume v).startGang d (v.restarted s cl) ((s.takeResume v).taskRegions v.gang.task) fits).freeSlotsOf v := by
  unfold State.restartGang
  rw [hd]
  rfl

/-- The teams of a gang that has started stand as they start. -/
theorem startGang_team (s : State) (d : Desc) (g : Gang) (rs : List Region) {fits : List (Nat × Fit)}
    (hfits : (fits.map (·.1)).Nodup) {i c : Nat} {f : Fit} (hi : fits[i]? = some (c, f)) :
    (s.startGang d g rs fits).team c (teamKey g.key i) = some (newTeam d f g i rs) := by
  have hzip : (fits.zipIdx.map (·.1.1)).Nodup := by
    rwa [← List.zipIdx_map_fst 0 fits, List.map_map] at hfits
  obtain ⟨u, hu⟩ := startTeams_core (d := d) (g := g) (rs := rs) hzip (List.mk_mem_zipIdx_iff_getElem?.2 hi) s
  obtain ⟨-, hcores, -⟩ := startGang_frame s d g rs fits
  have hcore := (congrArg (amGet Core.reset · c) hcores).trans hu
  exact (team_of_core hcore _).trans (startTeam_team u d g rs i c f)

/-- A gang that starts again is listed under a new key, and its teams stand as they start. -/
theorem restartGang_places {s : State} {v : SavedGang} {d : Desc} (hd : parseDesc v.gang.desc = some d) (cl : Nat)
    {fits : List (Nat × Fit)} (hfits : (fits.map (·.1)).Nodup) :
    (v.restarted s cl).withTeams fits ∈ (s.restartGang v cl fits).hub.gangs ∧
      (∀ w ∈ (s.restartGang v cl fits).hub.resume, w.gang.key ≠ v.gang.key) ∧
      ∀ (i c : Nat) (f : Fit), fits[i]? = some (c, f) → ∃ m,
        (s.restartGang v cl fits).team c (teamKey (v.restarted s cl).key i) = some m ∧ m.lmBase = f.base ∧ m.instr = 0 := by
  rw [restartGang_eq hd]
  generalize (s.takeResume v).taskRegions v.gang.task = rs
  obtain ⟨-, -, hhub⟩ := startGang_frame (s.takeResume v) d (v.restarted s cl) rs fits
  obtain ⟨hhub₁, hteam₁⟩ := freeSlotsOf_places ((s.takeResume v).startGang d (v.restarted s cl) rs fits) v
  rw [hhub₁, hhub]
  refine ⟨List.mem_append_right _ List.mem_cons_self, takeResume_resume s v, fun i c f hi => ?_⟩
  obtain ⟨m, hm, hbase, -, hinstr⟩ := hteam₁ c _ _ (startGang_team (s.takeResume v) d (v.restarted s cl) rs hfits hi)
  exact ⟨m, hm, hbase, hinstr⟩

/-! #### Thermal migration (R299) -/

theorem gangHot_iff (s : State) (g : Gang) : s.gangHot g = true ↔ g.since + 2000 * 940 < s.clock.toNat ∧
    ∃ p ∈ g.teams, ∃ a, (s.core p.1).hot = some a ∧ a + 2000 * 940 < s.clock.toNat := by
  unfold State.gangHot
  rw [Bool.and_eq_true, decide_eq_true_eq, List.any_eq_true]
  refine and_congr Iff.rfl (exists_congr fun p => and_congr Iff.rfl ?_)
  cases (s.core p.1).hot with
  | none => simp
  | some a =>
    simp only [decide_eq_true_eq, Option.some.injEq, exists_eq_left']
    rfl

/-- A gang whose state is set is found with that state. -/
theorem gang_setGang {s : State} {g : Gang} (h : Spec.gang s g.key = some g) (x : GangState) :
    Spec.gang (s.setGang g x) g.key = some { g with state := x } := by
  unfold Spec.gang at h ⊢
  change (s.hub.gangs.map _).find? _ = _
  rw [List.find?_map, show ((fun k : Gang => k.key == g.key) ∘ fun k => if k.key = g.key then { k with state := x } else k) =
    fun k => k.key == g.key from funext fun k => by
      dsimp only [Function.comp_apply]
      split <;> rfl, h]
  exact congrArg some (if_pos rfl)

/-- A gang that runs or drains is migrated exactly where it is late, the device migrates and a cool cluster and slots are
there. -/
theorem execThermalMigrate_eq {s : State} {g : Gang} (h : Spec.gang s g.key = some g) {dr : Option (Nat × Nat × Bool)}
    (hdr : g.drains = some dr) : exec (.thermalMigrate g.key) s = .next
      (if !s.hasFeature 31 || !s.gangHot g || (s.coolCluster (s.claimsOf g)).isNone || !s.slotsFor g.teams.length then s
      else (s.modHub fun h => { h with nextKey := h.nextKey + 1 }).setGang g (.migrateAsked s.hub.nextKey false dr)) := by
  change execThermalMigrate g.key s = _
  unfold execThermalMigrate
  rw [show s.hub.gangs.find? (·.key == g.key) = some g from h]
  dsimp only
  rw [hdr]

theorem drains_of_state {g : Gang} {dr : Option (Nat × Nat × Bool)}
    (h : (g.state = .running ∧ dr = none) ∨ ∃ d q n, g.state = .draining d q n ∧ dr = some (d, q, n)) :
    g.drains = some dr := by
  unfold Gang.drains
  obtain ⟨hs, rfl⟩ | ⟨d, q, n, hs, rfl⟩ := h <;> rw [hs]

/-- Settles O44: GANG_RESTORE's level and cluster are found as before the waits are noted, and what follows a team's return
leaves it its place; a restart is a start; a gang is migrated where its lateness is what the model tests. -/
theorem restoreAndMigration : Obligations.RestoreAndMigration := by
  refine ⟨fun s l cl v fits hfirst hgone hturn hfind => ?_, fun s c temp => ?_, fun s g dr hg hdr => ?_⟩
  · have hexec := execGangRestore_of_turn hfirst hgone hturn hfind
    refine ⟨fun x c f hkind hv hfits => ?_, fun d hkind hd => ?_⟩
    · subst hfits
      rw [State.resumeGang, if_neg (by rw [hkind]; decide)] at hexec
      obtain ⟨clock, m, hhub, hm, hbase, hwarps, hinstr⟩ := restoreGang_single (s := s.noteWaits) hv cl c f
      obtain ⟨hmem, hresume⟩ := mem_relist s.noteWaits.hub v (v.restored clock cl [(c, f)])
      rw [← hhub] at hmem hresume
      refine ⟨_, _, m, hexec, hmem, rfl, rfl, rfl, rfl, ?_, rfl, hresume, hm, hbase, hwarps, ?_⟩
      · rw [SavedGang.restored, hv]
        rfl
      · rw [hinstr, BitVec.toNat_ofNat]
        rfl
    · rw [State.resumeGang, if_pos hkind] at hexec
      have hnodup := fitCluster_nodup (findCluster_fits hfind)
      obtain ⟨hmem, hresume, hteams⟩ := restartGang_places (s := s.noteWaits) hd cl hnodup
      exact ⟨_, _, hexec, hmem, rfl, rfl, rfl, rfl, hresume, hteams⟩
  · refine ⟨_, rfl, ?_, ?_, rfl, rfl, fun d hd => ?_⟩
    · rw [core_modCore_self]
    · rw [core_modCore_self]
    · rw [core_modCore, if_neg hd]
  · have hexec := execThermalMigrate_eq hg (drains_of_state hdr)
    dsimp only
    rw [← gangHot_iff]
    refine ⟨fun hlate hfeat hcool hslots => ?_, fun h => ?_⟩
    · rw [hlate, hfeat, hslots, if_neg (by simpa [← Option.isSome_iff_ne_none] using hcool)] at hexec
      exact ⟨_, _, hexec, gang_setGang (s := s.modHub fun h => { h with nextKey := h.nextKey + 1 }) hg _, rfl⟩
    · rw [hexec, if_pos]
      rcases h with h | h <;> simp [h]

end Sys2Proof.Machine

/-! ### A QPUSH one of whose lanes is held (R138, R171, R250) -/

namespace Sys2Proof.Machine

open Sys2Proof.Laws

theorem execAtomicAtHome_of_claim {s : State} {c w id : Nat} {o : Op} {v : Warp} {m : Team}
    (hop : s.findOp c w id = some (o, v, m)) (hclaim : isClaim o.instr = true) (lanes : Lanes) :
    exec (.atomicAtHome c w id lanes) s = .next (s.claimStep c w id) := by
  change execAtomicAtHome c w id lanes s = _
  unfold execAtomicAtHome
  rw [hop]
  exact congrArg _ (if_pos hclaim)

/-- A QPUSH of two lanes that has read the queue's descriptor: lane 0 is to claim, lane 1 waits for a REPLAY, and INSTR
holds the instruction already. -/
def halfHeldPush : Op :=
  { id := 1, serial := 0, entry := 0, clauseSerial := 5, unit := 1, instr := .qpush ⟨8, 0, 0, 0, 6, 0, 0, .none⟩, flags := 1
    act := 3, accs := [claimAcc 0 0x1FC0 0, { claimAcc 1 0x1FC0 0 with st := .stalled 0 }], rel := .none
    aux := .eng 1 [4 * 2 ^ 58], counted := true }

/-- The warp the operation is of. -/
def halfHeldWarp : Warp := { newWarp 0 0 .matrix 256 0 0x1000 with ops := [halfHeldPush], nextId := 2 }

/-- A machine with that warp, whose page at VA 0 is mapped to PA 0x20000. -/
def halfHeldState : State := (State.reset.placePlain []).setWarp 0 0 halfHeldWarp

theorem halfHeldState_findOp : halfHeldState.findOp 0 0 1 = some (halfHeldPush, halfHeldWarp, plainTeam) := rfl

/-- The page of WIDX is mapped, not counted, and good for an atomic. -/
theorem halfHeldState_translate :
    halfHeldState.translate 0 0 true 0x1FC8 .atomic = (halfHeldState, .ok ⟨0x21FC8, false, false⟩) := rfl

/-- The claim's step keeps the operation as one that INSTR no longer holds, for lane 1 is held (R138). -/
theorem halfHeldState_claimStep :
    (((halfHeldState.claimStep 0 0 1).warp 0 0).bind (·.op 1)).map (·.counted) = some false := by decide +kernel

/-- Refutes O31: a QPUSH that INSTR holds, lane 0 of which claims while lane 1 waits for a REPLAY, meets the hypotheses of
`Spec.ClaimSteps`, and its step also takes it back out of INSTR, where the statement has it differ in its notes alone. -/
theorem not_queuesAndLaunches : ¬ Obligations.QueuesAndLaunches := by
  intro ⟨_, hsteps, _⟩
  obtain ⟨hpush, -, -⟩ := hsteps halfHeldState halfHeldState 0 0 halfHeldPush halfHeldWarp plainTeam
    ⟨8, 0, 0, 0, 6, 0, 0, .none⟩ (claimAcc 0 0x1FC0 0) ⟨0x21FC8, false, false⟩ [4 * 2 ^ 58] halfHeldState_findOp rfl rfl rfl
    (by decide) rfl rfl (by decide +kernel)
  obtain ⟨t, v, hexec, hwarp, -, -, hop⟩ := hpush rfl rfl (by decide) (by decide) (by decide +kernel) halfHeldState_translate
  rw [show halfHeldPush.id = 1 from rfl] at hexec hop
  rw [execAtomicAtHome_of_claim halfHeldState_findOp rfl] at hexec
  cases hexec
  have hcount := halfHeldState_claimStep
  rw [hwarp, Option.bind_some, hop] at hcount
  cases hcount

end Sys2Proof.Machine

/-! ### Values as real numbers (R32, R34 to R38): exact arithmetic and comparison -/

namespace Sys2Proof.Machine

open Sys2Proof.Laws

@[simp] theorem realOf_fin (s : Bool) (m : Nat) (e : Int) :
    Spec.realOf (.fin s m e) = (if s then -1 else 1) * (m : ℝ) * (2 : ℝ) ^ e := rfl

theorem realOf_fin_signed (s : Bool) (m : Nat) (e : Int) :
    Spec.realOf (.fin s m e) = (signed s m : ℝ) * (2 : ℝ) ^ e := by
  cases s <;> simp [signed]

@[simp] theorem realOf_inf (s : Bool) : Spec.realOf (.inf s) = 0 := rfl

@[simp] theorem realOf_nan (s : Bool) (p : Nat) : Spec.realOf (.nan s p) = 0 := rfl

/-- A multiple of 2^e in units of a smaller power of two. -/
theorem scaled_mul_two_zpow {i : ℤ} {e k : ℤ} (h : k ≤ e) :
    ((i * 2 ^ (e - k).toNat : ℤ) : ℝ) * (2 : ℝ) ^ k = (i : ℝ) * (2 : ℝ) ^ e := by
  obtain ⟨n, rfl⟩ : ∃ n : ℕ, e = k + n := ⟨(e - k).toNat, by omega⟩
  rw [show (k + (n : ℤ) - k).toNat = n by omega, zpow_add₀ two_ne_zero, zpow_natCast]
  push_cast
  ring

theorem realOf_xOfInt (i e : ℤ) (z : Bool) : Spec.realOf (xOfInt i e z) = (i : ℝ) * (2 : ℝ) ^ e := by
  have habs : (i.natAbs : ℝ) = |(i : ℝ)| := by rw [Nat.cast_natAbs, Int.cast_abs]
  rcases lt_trichotomy i 0 with h | h | h
  · have : (i : ℝ) < 0 := by exact_mod_cast h
    simp [xOfInt, h, habs, abs_of_neg this]
  · simp [xOfInt, h]
  · have : (0 : ℝ) < i := by exact_mod_cast h
    simp [xOfInt, h.le, h.ne', habs, abs_of_pos this]

/-- The sum of two finite values is finite and exact; a zero sum is negative where both terms are (R38). -/
theorem xadd_fin (s t : Bool) (m n : Nat) (d e : Int) : ∃ i k, xadd (.fin s m d) (.fin t n e) = xOfInt i k (s && t) ∧
    (i : ℝ) * (2 : ℝ) ^ k = Spec.realOf (.fin s m d) + Spec.realOf (.fin t n e) := by
  refine ⟨_, _, rfl, ?_⟩
  rw [Int.cast_add, add_mul, scaled_mul_two_zpow (min_le_left _ _), scaled_mul_two_zpow (min_le_right _ _),
    realOf_fin_signed, realOf_fin_signed]

theorem realOf_xadd_fin (s t : Bool) (m n : Nat) (d e : Int) :
    Spec.realOf (xadd (.fin s m d) (.fin t n e)) = Spec.realOf (.fin s m d) + Spec.realOf (.fin t n e) := by
  obtain ⟨i, k, h, hv⟩ := xadd_fin s t m n d e
  rw [h, realOf_xOfInt, hv]

@[simp] theorem realOf_xneg (x : XVal) : Spec.realOf (xneg x) = -Spec.realOf x := by
  cases x with
  | fin s m e => cases s <;> simp [xneg]
  | _ => simp [xneg]

@[simp] theorem realOf_xabs (x : XVal) : Spec.realOf (xabs x) = |Spec.realOf x| := by
  cases x with
  | fin s m e => cases s <;> simp [xabs, abs_mul, abs_of_pos (zpow_pos (two_pos (α := ℝ)) e)]
  | _ => simp [xabs]

@[simp] theorem realOf_xscale (x : XVal) (k : ℤ) : Spec.realOf (xscale x k) = Spec.realOf x * (2 : ℝ) ^ k := by
  cases x with
  | fin s m e => simp [xscale, zpow_add₀, mul_assoc]
  | _ => simp [xscale]

/-- Finite values compare as their real numbers do. -/
theorem xlt_fin (s t : Bool) (m n : Nat) (d e : Int) :
    xlt (.fin s m d) (.fin t n e) = true ↔ Spec.realOf (.fin s m d) < Spec.realOf (.fin t n e) := by
  rw [realOf_fin_signed, realOf_fin_signed, ← scaled_mul_two_zpow (min_le_left d e), ← scaled_mul_two_zpow (min_le_right d e),
    mul_lt_mul_iff_left₀ (by positivity), Int.cast_lt]
  simp [xlt]

theorem xeq_fin (s t : Bool) (m n : Nat) (d e : Int) :
    xeq (.fin s m d) (.fin t n e) = true ↔ Spec.realOf (.fin s m d) = Spec.realOf (.fin t n e) := by
  simp only [xeq, XVal.isNan, Bool.not_false, Bool.true_and, Bool.and_eq_true, Bool.not_eq_true', ← Bool.not_eq_true,
    xlt_fin]
  exact ⟨fun h => le_antisymm (not_lt.1 h.2) (not_lt.1 h.1), fun h => ⟨h.not_lt, h.symm.not_lt⟩⟩

/-- A value is finite. -/
def XVal.isFin : XVal → Bool
  | .fin _ _ _ => true
  | _ => false

theorem XVal.isFin_iff {x : XVal} : x.isFin = true ↔ ∃ s m e, x = .fin s m e := by
  cases x <;> simp [XVal.isFin]

theorem xlt_iff {x y : XVal} (hx : x.isFin = true) (hy : y.isFin = true) : xlt x y = true ↔ Spec.realOf x < Spec.realOf y := by
  obtain ⟨s, m, d, rfl⟩ := XVal.isFin_iff.1 hx
  obtain ⟨t, n, e, rfl⟩ := XVal.isFin_iff.1 hy
  exact xlt_fin ..

theorem xeq_iff {x y : XVal} (hx : x.isFin = true) (hy : y.isFin = true) : xeq x y = true ↔ Spec.realOf x = Spec.realOf y := by
  obtain ⟨s, m, d, rfl⟩ := XVal.isFin_iff.1 hx
  obtain ⟨t, n, e, rfl⟩ := XVal.isFin_iff.1 hy
  exact xeq_fin ..

@[simp] theorem isFin_xabs (x : XVal) : (xabs x).isFin = x.isFin := by cases x <;> rfl
@[simp] theorem isFin_xneg (x : XVal) : (xneg x).isFin = x.isFin := by cases x <;> rfl
@[simp] theorem isFin_xscale (x : XVal) (k : ℤ) : (xscale x k).isFin = x.isFin := by cases x <;> rfl
@[simp] theorem isFin_xOfInt (i e : ℤ) (z : Bool) : (xOfInt i e z).isFin = true := rfl

theorem isFin_xadd {x y : XVal} (hx : x.isFin = true) (hy : y.isFin = true) : (xadd x y).isFin = true := by
  obtain ⟨s, m, d, rfl⟩ := XVal.isFin_iff.1 hx
  obtain ⟨t, n, e, rfl⟩ := XVal.isFin_iff.1 hy
  rfl

theorem realOf_xadd {x y : XVal} (hx : x.isFin = true) (hy : y.isFin = true) :
    Spec.realOf (xadd x y) = Spec.realOf x + Spec.realOf y := by
  obtain ⟨s, m, d, rfl⟩ := XVal.isFin_iff.1 hx
  obtain ⟨t, n, e, rfl⟩ := XVal.isFin_iff.1 hy
  exact realOf_xadd_fin ..

/-! ### The value of a magnitude code (R32) -/

/-- The value of the code `k` with sign bit 0, as if the exponents of a format went on above its largest finite code. -/
noncomputable def Fmt.mag (f : Fmt) (k : ℕ) : ℝ :=
  if k / 2 ^ f.mbits = 0 then k * (2 : ℝ) ^ f.qmin
  else ((k % 2 ^ f.mbits + 2 ^ f.mbits : ℕ) : ℝ) * (2 : ℝ) ^ (f.qmin + (k / 2 ^ f.mbits : ℕ) - 1)

/-- A code counts units in the last place: `n` of them where the exponent field is `E` above its least. -/
theorem mag_units (f : Fmt) {E n : ℕ} (hn : n ≤ 2 ^ (f.mbits + 1)) (hE : E = 0 ∨ 2 ^ f.mbits ≤ n) :
    f.mag (E * 2 ^ f.mbits + n) = n * (2 : ℝ) ^ (f.qmin + E) := by
  have hM : 0 < 2 ^ f.mbits := by positivity
  rw [pow_succ] at hn
  unfold Fmt.mag
  rcases Nat.lt_or_ge n (2 ^ f.mbits) with hlt | hge
  · obtain rfl : E = 0 := by omega
    simp [Nat.div_eq_of_lt hlt]
  obtain ⟨r, rfl⟩ := Nat.exists_eq_add_of_le hge
  rw [show E * 2 ^ f.mbits + (2 ^ f.mbits + r) = r + (E + 1) * 2 ^ f.mbits by ring, Nat.add_mul_div_right _ _ hM,
    Nat.add_mul_mod_self_right, if_neg (Nat.add_pos_right _ E.succ_pos).ne']
  rcases Nat.lt_or_ge r (2 ^ f.mbits) with h | h
  · rw [Nat.div_eq_of_lt h, Nat.mod_eq_of_lt h]
    push_cast
    rw [show f.qmin + (0 + ((E : ℤ) + 1)) - 1 = f.qmin + E by ring]
    ring
  · obtain rfl : r = 2 ^ f.mbits := by omega
    rw [Nat.div_self hM, Nat.mod_self]
    push_cast
    rw [show f.qmin + (1 + ((E : ℤ) + 1)) - 1 = (f.qmin + E) + 1 by ring, zpow_add_one₀ two_ne_zero]
    ring

/-- Every code is some units of an exponent. -/
theorem exists_units (f : Fmt) (k : ℕ) : ∃ E n, k = E * 2 ^ f.mbits + n ∧ n < 2 ^ (f.mbits + 1) ∧ (E = 0 ∨ 2 ^ f.mbits ≤ n) := by
  have hM : 0 < 2 ^ f.mbits := by positivity
  have hmod := Nat.div_add_mod k (2 ^ f.mbits)
  have hlt := Nat.mod_lt k hM
  rw [pow_succ]
  rcases Nat.eq_zero_or_pos (k / 2 ^ f.mbits) with h | h
  · exact ⟨0, k, by simp, by rw [h] at hmod; omega, .inl rfl⟩
  · obtain ⟨E, hE⟩ := Nat.exists_eq_add_of_le h
    refine ⟨E, 2 ^ f.mbits + k % 2 ^ f.mbits, ?_, by omega, by omega⟩
    rw [hE] at hmod
    nlinarith

theorem mag_succ {f : Fmt} {E n : ℕ} (hn : n < 2 ^ (f.mbits + 1)) (hE : E = 0 ∨ 2 ^ f.mbits ≤ n) :
    f.mag (E * 2 ^ f.mbits + n + 1) = (n + 1) * (2 : ℝ) ^ (f.qmin + E) := by
  rw [add_assoc, mag_units f hn (by omega)]
  push_cast
  rfl

theorem mag_strictMono (f : Fmt) : StrictMono f.mag := by
  refine strictMono_nat_of_lt_succ fun k => ?_
  obtain ⟨E, n, rfl, hn, hE⟩ := exists_units f k
  rw [mag_succ hn hE, mag_units f hn.le hE]
  exact mul_lt_mul_of_pos_right (lt_add_one _) (by positivity)

@[simp] theorem mag_zero (f : Fmt) : f.mag 0 = 0 := by simp [Fmt.mag]

theorem mag_nonneg (f : Fmt) (k : ℕ) : 0 ≤ f.mag k := (mag_zero f).symm.le.trans ((mag_strictMono f).monotone (Nat.zero_le k))

/-- A finite code of a format, with its sign, decodes to its units. -/
theorem decodeF_code (f : Fmt) (neg : Bool) {k : ℕ} (hk : k ≤ f.maxCode) : ∃ m e, decodeF f (f.code neg k) = .fin neg m e ∧
    m * (2 : ℝ) ^ e = f.mag k ∧ (m = 0 ↔ k = 0) ∧ ((m < 2 ^ f.mbits ∧ e = f.qmin) ∨ (2 ^ f.mbits ≤ m ∧ m < 2 ^ (f.mbits + 1) ∧ f.qmin ≤ e ∧
      e < f.qmin + (k / 2 ^ f.mbits : ℕ))) := by
  have hlow : k < 2 ^ f.low := by cases f <;> simp only [Fmt.maxCode] at hk <;> simp [Fmt.low, Fmt.ebits, Fmt.mbits] <;> omega
  have hM : 0 < 2 ^ f.mbits := by positivity
  have hmod := Nat.mod_lt k hM
  have hsign : (f.code neg k) / 2 ^ f.low % 2 = neg.toNat := by
    cases neg
    · simp [Fmt.code, Nat.div_eq_of_lt hlow]
    · simp [Fmt.code, Nat.div_eq_of_lt hlow]
  have hexp : (f.code neg k) / 2 ^ f.mbits % 2 ^ f.ebits = k / 2 ^ f.mbits := by
    have hlt : k / 2 ^ f.mbits < 2 ^ f.ebits := by
      rw [Nat.div_lt_iff_lt_mul hM, ← pow_add]
      exact hlow
    cases neg
    · simp [Fmt.code, Nat.mod_eq_of_lt hlt]
    · rw [Fmt.code, if_pos rfl, Fmt.low, pow_add, Nat.add_mul_div_right _ _ hM, Nat.add_mod_right, Nat.mod_eq_of_lt hlt]
  have hman : (f.code neg k) % 2 ^ f.mbits = k % 2 ^ f.mbits := by
    cases neg
    · simp [Fmt.code]
    · rw [Fmt.code, if_pos rfl, Fmt.low, pow_add, Nat.add_mul_mod_self_right]
  have hfin : (f == .e4m3 && k / 2 ^ f.mbits == 15 && k % 2 ^ f.mbits == 7) = false ∧
      (f.hasInf && k / 2 ^ f.mbits == 2 ^ f.ebits - 1) = false := by
    cases f <;> simp [Fmt.hasInf, Fmt.mbits, Fmt.ebits, Fmt.maxCode] at hk ⊢ <;> omega
  unfold decodeF
  simp only [hsign, hexp, hman, hfin.1, hfin.2, Bool.false_eq_true, if_false]
  have hbit : (neg.toNat == 1) = neg := by cases neg <;> rfl
  have hdiv := Nat.div_add_mod k (2 ^ f.mbits)
  rw [hbit]
  unfold Fmt.mag
  split
  case isTrue h =>
    rw [h] at hdiv
    refine ⟨_, _, rfl, ?_, ?_, .inl ⟨hmod, rfl⟩⟩
    · rw [show k % 2 ^ f.mbits = k by omega]
    · omega
  case isFalse h =>
    refine ⟨_, _, rfl, rfl, ?_, .inr ⟨by omega, by rw [pow_succ]; omega, by omega, by omega⟩⟩
    constructor
    · omega
    · rintro rfl
      simp at h

theorem code_false (f : Fmt) (k : ℕ) : f.code false k = k := rfl

theorem realOf_decodeF {f : Fmt} {k : ℕ} (hk : k ≤ f.maxCode) : Spec.realOf (decodeF f k) = f.mag k := by
  obtain ⟨m, e, h, hv, -⟩ := decodeF_code f false hk
  rw [code_false] at h
  rw [h, ← hv]
  simp

theorem isFin_decodeF {f : Fmt} {k : ℕ} (hk : k ≤ f.maxCode) : (decodeF f k).isFin = true := by
  obtain ⟨m, e, h, -⟩ := decodeF_code f false hk
  rw [code_false] at h
  rw [h]
  rfl

end Sys2Proof.Machine

/-! ### Rounding to the nearest (R35, R36) -/

namespace Sys2Proof.Machine

open Sys2Proof.Laws

/-- `n` is `x` rounded to the nearest integer, a tie away from zero or to even. -/
def RoundsInt (rna : Bool) (x : ℝ) (n : ℕ) : Prop :=
  |x - n| ≤ 1 / 2 ∧ (|x - n| = 1 / 2 → if rna then x < n else n % 2 = 0)

/-- m × 2^e stands for `v` where one rounds: it is `v`, or it has a last bit set, below all that any format keeps, for what `v`
has there or below. -/
def Stands (m : ℕ) (e : ℤ) (v : ℝ) : Prop :=
  v = m * (2 : ℝ) ^ e ∨ (m % 2 = 1 ∧ 2 ^ 25 ≤ m ∧ |v - m * (2 : ℝ) ^ e| < (2 : ℝ) ^ e)

theorem roundsInt_of_lt {rna : Bool} {x : ℝ} {n : ℕ} (h : |x - n| < 1 / 2) : RoundsInt rna x n :=
  ⟨h.le, fun e => absurd e h.ne⟩

theorem roundsInt_natCast (rna : Bool) (n : ℕ) : RoundsInt rna n n := roundsInt_of_lt (by simp)

/-- The rounding of a quotient by a power of two. -/
theorem roundsInt_div (rna : Bool) (m d : ℕ) :
    RoundsInt rna (m / 2 ^ d) (if 2 ^ d < m % 2 ^ d * 2 || (m % 2 ^ d * 2 == 2 ^ d && (rna || m / 2 ^ d % 2 == 1))
      then m / 2 ^ d + 1 else m / 2 ^ d) := by
  have hD : (0 : ℝ) < 2 ^ d := by positivity
  have hm : (m : ℝ) / 2 ^ d = (m / 2 ^ d : ℕ) + (m % 2 ^ d : ℕ) / 2 ^ d := by
    rw [div_eq_iff hD.ne', add_mul, div_mul_cancel₀ _ hD.ne']
    exact_mod_cast (Nat.div_add_mod' m (2 ^ d)).symm
  have hlt : (m % 2 ^ d : ℕ) / (2 : ℝ) ^ d < 1 := (div_lt_one hD).2 (by exact_mod_cast Nat.mod_lt m (by positivity))
  have hnn : (0 : ℝ) ≤ (m % 2 ^ d : ℕ) / (2 : ℝ) ^ d := by positivity
  rw [hm]
  generalize m / 2 ^ d = n
  rcases lt_trichotomy (2 ^ d) (m % 2 ^ d * 2) with h | h | h
  · have : (1 : ℝ) / 2 < (m % 2 ^ d : ℕ) / (2 : ℝ) ^ d := by
      rw [lt_div_iff₀ hD]
      have : ((2 ^ d : ℕ) : ℝ) < (m % 2 ^ d * 2 : ℕ) := by exact_mod_cast h
      push_cast at this ⊢
      linarith
    rw [decide_eq_true h, Bool.true_or, if_pos rfl]
    refine roundsInt_of_lt ?_
    push_cast at this hlt ⊢
    rw [abs_lt]
    constructor <;> linarith
  · have hhalf : (m % 2 ^ d : ℕ) / (2 : ℝ) ^ d = 1 / 2 := by
      rw [div_eq_div_iff hD.ne' two_ne_zero, one_mul]
      exact_mod_cast h.symm
    rw [hhalf, decide_eq_false h.not_lt, Bool.false_or, ← h, beq_self_eq_true, Bool.true_and]
    cases rna
    · by_cases hodd : n % 2 = 1
      · simp only [hodd, beq_self_eq_true, Bool.or_true, if_true]
        refine ⟨?_, fun _ => ?_⟩
        · push_cast; rw [abs_le]; constructor <;> linarith
        · simp only [Bool.false_eq_true, if_false]; omega
      · simp only [beq_eq_false_iff_ne.2 hodd, Bool.or_self, Bool.false_eq_true, if_false]
        exact ⟨by simp, fun _ => by simp only [Bool.false_eq_true, if_false]; omega⟩
    · simp only [Bool.true_or, if_true]
      refine ⟨?_, fun _ => ?_⟩
      · push_cast; rw [abs_le]; constructor <;> linarith
      · simp only [if_true]; push_cast; linarith
  · have : (m % 2 ^ d : ℕ) / (2 : ℝ) ^ d < 1 / 2 := by
      rw [div_lt_iff₀ hD]
      have : ((m % 2 ^ d * 2 : ℕ) : ℝ) < (2 ^ d : ℕ) := by exact_mod_cast h
      push_cast at this ⊢
      linarith
    rw [decide_eq_false h.le.not_gt, beq_eq_false_iff_ne.2 h.ne, Bool.false_and, Bool.or_self, if_neg Bool.false_ne_true]
    refine roundsInt_of_lt ?_
    rw [abs_lt]
    constructor <;> linarith

/-- An odd number of halves of a unit finer than 2^-2 is no tie, and neither is what lies less than 2^-d beside it. -/
theorem roundsInt_near {rna : Bool} {m d n : ℕ} {x : ℝ} (hd : 2 ≤ d) (hodd : m % 2 = 1) (h : RoundsInt rna (m / 2 ^ d) n)
    (hx : |x - m / 2 ^ d| < 1 / 2 ^ d) : RoundsInt rna x n := by
  obtain ⟨c, rfl⟩ := Nat.exists_eq_add_of_le hd
  have hD : (0 : ℝ) < 2 ^ (2 + c) := by positivity
  have hle : |(m : ℤ) * 2 - n * 2 ^ (2 + c) * 2| ≤ 2 ^ (2 + c) := by
    have := h.1
    rw [div_sub' hD.ne', abs_div, abs_of_pos hD, div_le_div_iff₀ hD two_pos] at this
    have e : |(m : ℝ) - 2 ^ (2 + c) * n| * 2 = |(m : ℝ) * 2 - n * 2 ^ (2 + c) * 2| := by
      rw [← abs_of_pos (two_pos (α := ℝ)), ← abs_mul, abs_of_pos (two_pos (α := ℝ))]
      congr 1
      ring
    rw [e, one_mul] at this
    exact_mod_cast this
  have hstep : |(m : ℤ) * 2 - n * 2 ^ (2 + c) * 2| + 2 ≤ 2 ^ (2 + c) := by
    have e : (2 : ℤ) ^ (2 + c) = 4 * 2 ^ c := by ring
    rw [e] at hle ⊢
    rw [show (n : ℤ) * (4 * 2 ^ c) * 2 = 8 * (n * 2 ^ c) by ring] at hle ⊢
    generalize (n : ℤ) * 2 ^ c = a at hle ⊢
    generalize (2 : ℤ) ^ c = b at hle ⊢
    rw [← le_sub_iff_add_le]
    rw [abs_le] at hle ⊢
    omega
  have hreal : |(m : ℝ) / 2 ^ (2 + c) - n| + 1 / 2 ^ (2 + c) ≤ 1 / 2 := by
    have : |(m : ℝ) * 2 - n * 2 ^ (2 + c) * 2| + 2 ≤ 2 ^ (2 + c) := by exact_mod_cast hstep
    rw [div_sub' hD.ne', abs_div, abs_of_pos hD, ← add_div, div_le_div_iff₀ hD two_pos, one_mul]
    calc (|(m : ℝ) - 2 ^ (2 + c) * n| + 1) * 2 = |((m : ℝ) - 2 ^ (2 + c) * n) * 2| + 2 := by
          rw [abs_mul, abs_of_pos (two_pos (α := ℝ))]; ring
      _ = |(m : ℝ) * 2 - n * 2 ^ (2 + c) * 2| + 2 := by ring_nf
      _ ≤ 2 ^ (2 + c) := this
  exact roundsInt_of_lt ((abs_sub_le x (m / 2 ^ (2 + c)) n).trans_lt (by linarith))

/-- `roundTo` rounds what its number stands for to units of 2^q. -/
theorem roundsInt_roundTo (rna : Bool) {m : ℕ} {e q : ℤ} {v : ℝ} (hv : Stands m e v) (hq : v = m * (2 : ℝ) ^ e ∨ e + 2 ≤ q) :
    RoundsInt rna (v / (2 : ℝ) ^ q) (roundTo rna m e q) := by
  have two_zpow_sub (d : ℕ) : (2 : ℝ) ^ e / 2 ^ (e + d) = 1 / 2 ^ d := by
    rw [zpow_add₀ two_ne_zero, zpow_natCast, div_mul_eq_div_div, div_self (by positivity)]
  unfold roundTo
  split
  case isTrue h =>
    obtain rfl : v = m * (2 : ℝ) ^ e := hq.resolve_right (by omega)
    obtain ⟨d, rfl⟩ : ∃ d : ℕ, e = q + d := ⟨(e - q).toNat, by omega⟩
    have : (m : ℝ) * (2 : ℝ) ^ (q + d) / 2 ^ q = (m * 2 ^ d : ℕ) := by
      rw [zpow_add₀ two_ne_zero, zpow_natCast]
      push_cast
      field_simp
    rw [this, show (q + (d : ℤ) - q).toNat = d by omega]
    exact roundsInt_natCast _ _
  case isFalse h =>
    obtain ⟨d, rfl⟩ : ∃ d : ℕ, q = e + d := ⟨(q - e).toNat, by omega⟩
    rw [show (e + (d : ℤ) - e).toNat = d by omega]
    have hround := roundsInt_div rna m d
    rcases hv with rfl | ⟨hodd, -, hv⟩
    · rwa [mul_div_assoc, two_zpow_sub, mul_one_div]
    · rcases hq with rfl | hq
      · rwa [mul_div_assoc, two_zpow_sub, mul_one_div]
      refine roundsInt_near (by omega) hodd hround ?_
      have e1 : v / (2 : ℝ) ^ (e + d) - m / 2 ^ d = (v - m * (2 : ℝ) ^ e) / 2 ^ (e + d) := by
        rw [sub_div, mul_div_assoc, two_zpow_sub, mul_one_div]
      rw [e1, abs_div, abs_of_pos (show (0 : ℝ) < 2 ^ (e + (d : ℤ)) by positivity), ← two_zpow_sub]
      exact div_lt_div_of_pos_right hv (by positivity)

/-- The nearest code to a magnitude among all, of two as near the even one or the farther from zero (R35). -/
def Nearest (f : Fmt) (v : ℝ) (k : ℕ) : Prop :=
  ∀ j, j ≠ k → |f.mag k - v| < |f.mag j - v| ∨ (|f.mag k - v| = |f.mag j - v| ∧ if f.narrow then j < k else k % 2 = 0)

theorem mbits_pos (f : Fmt) : 0 < f.mbits := by cases f <;> decide

/-- Rounding to units of an exponent gives the nearest code, where the value has that exponent. -/
theorem nearest_of_roundsInt {f : Fmt} {E n : ℕ} {v : ℝ} (h : RoundsInt f.narrow (v / (2 : ℝ) ^ (f.qmin + E)) n)
    (hlow : E = 0 ∨ (2 : ℝ) ^ f.mbits ≤ v / (2 : ℝ) ^ (f.qmin + E)) (hup : v / (2 : ℝ) ^ (f.qmin + E) < 2 ^ (f.mbits + 1)) :
    Nearest f v (E * 2 ^ f.mbits + n) := by
  have hu : (0 : ℝ) < 2 ^ (f.qmin + E) := by positivity
  generalize hx : v / (2 : ℝ) ^ (f.qmin + E) = x at h hlow hup
  obtain rfl : v = x * (2 : ℝ) ^ (f.qmin + E) := by rw [← hx, div_mul_cancel₀ _ hu.ne']
  obtain ⟨hdist, htie⟩ := h
  obtain ⟨hd1, hd2⟩ := abs_le.1 hdist
  have hnup : n ≤ 2 ^ (f.mbits + 1) := by
    have : (n : ℝ) < (2 ^ (f.mbits + 1) + 1 : ℕ) := by push_cast; linarith
    exact Nat.lt_succ_iff.1 (by exact_mod_cast this)
  have hnlow : E = 0 ∨ 2 ^ f.mbits ≤ n := hlow.imp_right fun h => by
    have : ((2 ^ f.mbits : ℕ) : ℝ) < (n + 1 : ℕ) := by push_cast; linarith
    exact Nat.lt_succ_iff.1 (by exact_mod_cast this)
  have hk := mag_units f hnup hnlow
  have hself : |f.mag (E * 2 ^ f.mbits + n) - x * (2 : ℝ) ^ (f.qmin + E)| = |x - n| * (2 : ℝ) ^ (f.qmin + E) := by
    rw [hk, ← sub_mul, abs_mul, abs_of_pos hu, abs_sub_comm]
  have hpar : (E * 2 ^ f.mbits + n) % 2 = n % 2 := by
    obtain ⟨b, hb⟩ := Nat.exists_eq_add_of_le' (mbits_pos f)
    rw [hb, pow_succ, ← mul_assoc, mul_comm _ 2, Nat.mul_add_mod]
  intro j hj
  rw [hself]
  have conclude (hfar : (2 : ℝ) ^ (f.qmin + E) / 2 ≤ |f.mag j - x * (2 : ℝ) ^ (f.qmin + E)|)
      (hrule : |x - n| = 1 / 2 → if f.narrow then j < E * 2 ^ f.mbits + n else (E * 2 ^ f.mbits + n) % 2 = 0) :
      |x - n| * (2 : ℝ) ^ (f.qmin + E) < |f.mag j - x * (2 : ℝ) ^ (f.qmin + E)| ∨
        (|x - n| * (2 : ℝ) ^ (f.qmin + E) = |f.mag j - x * (2 : ℝ) ^ (f.qmin + E)| ∧
          if f.narrow then j < E * 2 ^ f.mbits + n else (E * 2 ^ f.mbits + n) % 2 = 0) := by
    rcases hdist.lt_or_eq with h | h
    · exact .inl ((mul_lt_mul_of_pos_right h hu).trans_le (by linarith))
    · exact (show |x - n| * (2 : ℝ) ^ (f.qmin + E) ≤ _ by rw [h]; linarith).lt_or_eq.imp_right fun e => ⟨e, hrule h⟩
  rcases Nat.lt_or_gt_of_ne hj with hlt | hgt
  · have hmag := mag_strictMono f hlt
    rcases le_or_gt (n : ℝ) x with hnx | hxn
    · rw [hk] at hmag
      have := mul_le_mul_of_nonneg_right hnx hu.le
      rw [abs_of_nonneg (sub_nonneg.2 hnx), abs_of_neg (by linarith), sub_mul]
      exact .inl (by linarith)
    · have hn0 : n ≠ 0 := by
        rintro rfl
        rcases hnlow with rfl | h
        · omega
        · exact absurd h (by simp)
      obtain ⟨p, rfl⟩ : ∃ p, n = p + 1 := Nat.exists_eq_succ_of_ne_zero hn0
      have hprev : E = 0 ∨ 2 ^ f.mbits ≤ p := hlow.imp_right fun h => by
        have : ((2 ^ f.mbits : ℕ) : ℝ) < (p + 1 : ℕ) := by push_cast at hxn ⊢; linarith
        exact Nat.lt_succ_iff.1 (by exact_mod_cast this)
      have hj1 : f.mag j ≤ p * (2 : ℝ) ^ (f.qmin + E) := by
        rw [← mag_units f (by omega) hprev]
        exact (mag_strictMono f).monotone (by omega)
      refine conclude ?_ fun h => ?_
      · push_cast at hd1
        rw [abs_sub_comm]
        refine le_trans ?_ (le_abs_self _)
        nlinarith
      · have := htie h
        split at this <;> simp_all
  · have hmag := mag_strictMono f hgt
    rcases le_or_gt x n with hxn | hnx
    · rw [hk] at hmag
      have := mul_le_mul_of_nonneg_right hxn hu.le
      rw [abs_of_nonpos (sub_nonpos.2 hxn), abs_of_pos (by linarith), neg_sub, sub_mul]
      exact .inl (by linarith)
    · have hn1 : n < 2 ^ (f.mbits + 1) := by exact_mod_cast hnx.trans hup
      have hj1 : (n + 1) * (2 : ℝ) ^ (f.qmin + E) ≤ f.mag j := by
        rw [← mag_succ hn1 hnlow]
        exact (mag_strictMono f).monotone hgt
      refine conclude ?_ fun h => ?_
      · refine le_trans ?_ (le_abs_self _)
        nlinarith
      · have := htie h
        split at this
        · exact absurd this hnx.not_gt
        · rw [hpar]
          simp_all

/-- The rounded code before overflow is looked at is the nearest one to what the number stands for. -/
theorem nearest_roundMag (f : Fmt) {m : ℕ} {e : ℤ} {v : ℝ} (hv : Stands m e v) : Nearest f v (roundMag f m e) := by
  have hmb : f.mbits ≤ 23 := by cases f <;> decide
  unfold roundMag
  split
  case isTrue h =>
    subst h
    obtain rfl : v = 0 := by simpa [Stands] using hv
    intro j hj
    left
    have := mag_strictMono f (Nat.pos_of_ne_zero hj)
    rw [mag_zero] at this
    simp [abs_of_pos this, this]
  case isFalse hm =>
    have hlog1 : 2 ^ Nat.log2 m ≤ m := Nat.log2_self_le hm
    have hlog2 : m < 2 ^ (Nat.log2 m + 1) := Nat.lt_log2_self
    generalize Nat.log2 m = L at hlog1 hlog2
    have hbounds : (2 : ℝ) ^ (e + L) ≤ v ∧ v < (2 : ℝ) ^ (e + L + 1) := by
      have he : (0 : ℝ) < 2 ^ e := by positivity
      rw [add_assoc, zpow_add₀ two_ne_zero, zpow_add₀ two_ne_zero, show ((L : ℤ) + 1) = ((L + 1 : ℕ) : ℤ) by push_cast; rfl,
        zpow_natCast, zpow_natCast, mul_comm, mul_comm _ ((2 : ℝ) ^ (L + 1))]
      rcases hv with rfl | ⟨hodd, hbig, hv⟩
      · exact ⟨mul_le_mul_of_nonneg_right (by exact_mod_cast hlog1) he.le,
          mul_lt_mul_of_pos_right (by exact_mod_cast hlog2) he⟩
      · obtain ⟨h1, h2⟩ := abs_lt.1 hv
        obtain ⟨l, rfl⟩ : ∃ l, L = l + 1 := Nat.exists_eq_succ_of_ne_zero (by rintro rfl; omega)
        have hlog1 : 2 ^ (l + 1) + 1 ≤ m := by rw [pow_succ] at hlog1 ⊢; omega
        have hlog1 : (2 : ℝ) ^ (l + 1) + 1 ≤ m := by exact_mod_cast hlog1
        have hlog2 : (m : ℝ) + 1 ≤ 2 ^ (l + 1 + 1) := by exact_mod_cast hlog2
        have hmul1 := mul_le_mul_of_nonneg_right hlog1 he.le
        have hmul2 := mul_le_mul_of_nonneg_right hlog2 he.le
        constructor <;> linarith
    obtain ⟨E, hE⟩ : ∃ E : ℕ, max (e + L - f.mbits) f.qmin = f.qmin + E := ⟨(max (e + L - f.mbits) f.qmin - f.qmin).toNat, by omega⟩
    simp only [hE, show (f.qmin + (E : ℤ) - f.qmin).toNat = E by omega]
    refine nearest_of_roundsInt (roundsInt_roundTo _ hv (hv.imp_right fun h => ?_)) ?_ ?_
    · have : (25 : ℕ) < L + 1 := (Nat.pow_lt_pow_iff_right (by decide : 1 < 2)).1 (h.2.1.trans_lt hlog2)
      omega
    · by_cases h : E = 0
      · exact .inl h
      · right
        rw [show f.qmin + (E : ℤ) = e + L - f.mbits by omega, le_div_iff₀ (by positivity), ← zpow_natCast,
          ← zpow_add₀ two_ne_zero]
        simpa using hbounds.1
    · rw [div_lt_iff₀ (by positivity), ← zpow_natCast, ← zpow_add₀ two_ne_zero]
      refine hbounds.2.trans_le (zpow_le_zpow_right₀ one_le_two ?_)
      push_cast
      omega

/-- Each format's largest finite code: the gap above it is the gap below, and where ties go to even it is odd. -/
theorem maxCode_facts (f : Fmt) : f.mag (f.maxCode + 1) - f.mag f.maxCode = f.mag f.maxCode - f.mag (f.maxCode - 1) ∧
    (f.narrow = false → f.maxCode % 2 = 1) ∧ 0 < f.maxCode := by
  refine ⟨?_, by cases f <;> decide, by cases f <;> decide⟩
  cases f <;> norm_num [Fmt.mag, Fmt.maxCode, Fmt.mbits, Fmt.qmin, Fmt.bias]

theorem infOut_of_wide {f : Fmt} (h : f.narrow = false) (neg : Bool) :
    infOut f neg = f.code neg ((2 ^ f.ebits - 1) * 2 ^ f.mbits) := by
  have : f.hasInf = true := by cases f <;> simp [Fmt.narrow, Fmt.hasInf] at h ⊢
  rw [infOut, if_pos this]

/-- What rounds to a magnitude rounds, with its sign, to a code (R35, R36). -/
theorem rounds_of_nearest {f : Fmt} {m : ℕ} {e : ℤ} {v : ℝ} (neg : Bool) (h : Nearest f v (roundMag f m e)) :
    Spec.Rounds f neg v (roundF f (.fin neg m e)) := by
  obtain ⟨hgap, hodd, hpos⟩ := maxCode_facts f
  have hval {j : ℕ} (hj : j ≤ f.maxCode) : Spec.realOf (decodeF f j) = f.mag j := realOf_decodeF hj
  have hpred : Spec.realOf (decodeF f (f.maxCode - 1)) = f.mag (f.maxCode - 1) := hval (Nat.sub_le _ _)
  unfold Spec.Rounds roundF
  simp only [hval le_rfl, hpred, ← hgap]
  set k := roundMag f m e
  rcases Nat.lt_or_ge f.maxCode k with hk | hk
  · rw [if_pos hk]
    have hbig : f.mag f.maxCode + (f.mag (f.maxCode + 1) - f.mag f.maxCode) / 2 ≤ v := by
      have hup : f.mag (f.maxCode + 1) ≤ f.mag k := (mag_strictMono f).monotone hk
      have hstep := mag_strictMono f (Nat.lt_succ_self f.maxCode)
      have hle : |f.mag k - v| ≤ |f.mag f.maxCode - v| := (h f.maxCode hk.ne).elim le_of_lt fun h => h.1.le
      by_contra hlt
      rw [abs_of_pos (by linarith)] at hle
      rcases le_abs'.1 hle with h | h
      · linarith
      · linarith
    cases hn : f.narrow
    · refine ⟨(2 ^ f.ebits - 1) * 2 ^ f.mbits, ?_, fun _ _ => rfl, fun h => ?_⟩
      · rw [if_neg (by simp), infOut_of_wide hn]
      · exact absurd h (by simp [hbig])
    · refine ⟨f.maxCode, by simp, by simp, fun _ => ⟨le_rfl, fun j hj hne => .inl ?_⟩⟩
      rw [hval hj, hval le_rfl]
      have h1 := mag_strictMono f (lt_of_le_of_ne hj hne)
      have h2 := mag_strictMono f (Nat.lt_succ_self f.maxCode)
      rw [abs_of_nonpos (by linarith), abs_of_nonpos (by linarith)]
      linarith
  · rw [if_neg hk.not_gt]
    refine ⟨k, rfl, fun hn hbig => ?_, fun _ => ⟨hk, fun j hj hne => ?_⟩⟩
    · exfalso
      have hstep := mag_strictMono f (Nat.lt_succ_self f.maxCode)
      have hle : f.mag k ≤ f.mag f.maxCode := (mag_strictMono f).monotone hk
      have habove := h (f.maxCode + 1) (by omega)
      have hfar : v - f.mag k < |f.mag (f.maxCode + 1) - v| ∨ (f.mag k < f.mag f.maxCode ∧
          v - f.mag k ≤ |f.mag (f.maxCode + 1) - v|) := by
        rw [abs_of_nonpos (by linarith : f.mag k - v ≤ 0), neg_sub] at habove
        refine habove.imp_right fun h => ⟨mag_strictMono f (lt_of_le_of_ne hk ?_), h.1.le⟩
        rintro hk
        have := hodd hn
        rw [← hk] at this
        simp [hn, this] at h
      rcases abs_cases (f.mag (f.maxCode + 1) - v) with h | h <;> rcases hfar with h' | h' <;> linarith
    · rw [hval hj, hval hk]
      exact h j hne

end Sys2Proof.Machine

namespace Sys2Proof.Machine

open Sys2Proof.Laws

theorem roundF_rounds (f : Fmt) (neg : Bool) {m : ℕ} {e : ℤ} {v : ℝ} (hv : Stands m e v) :
    Spec.Rounds f neg v (roundF f (.fin neg m e)) := rounds_of_nearest neg (nearest_roundMag f hv)

theorem roundF_fin_rounds (f : Fmt) (neg : Bool) (m : ℕ) (e : ℤ) :
    Spec.Rounds f neg |Spec.realOf (.fin neg m e)| (roundF f (.fin neg m e)) := by
  refine roundF_rounds f neg (.inl ?_)
  cases neg <;> simp [abs_of_pos (zpow_pos (two_pos (α := ℝ)) e)]

/-- A value that some finite code has is rounded to that code. -/
theorem roundF_of_mag {f : Fmt} {k m : ℕ} {e : ℤ} (neg : Bool) (hk : k ≤ f.maxCode) (h : m * (2 : ℝ) ^ e = f.mag k) :
    roundF f (.fin neg m e) = f.code neg k := by
  have hround : roundMag f m e = k := by
    by_contra hne
    have := nearest_roundMag f (.inl h.symm : Stands m e (f.mag k)) k (Ne.symm hne)
    rw [sub_self, abs_zero] at this
    rcases this with h | h
    · exact absurd h (abs_nonneg _).not_gt
    · exact hne ((mag_strictMono f).injective (sub_eq_zero.1 (abs_eq_zero.1 h.1)))
  rw [roundF, hround, if_neg hk.not_gt]

/-! #### FP32 values in words (R32, R37) -/

theorem wordX_toNat_of_lt {x : XVal} (h : roundF .f32 x < 2 ^ 32) : (wordX x).toNat = roundF .f32 x := by
  rw [wordX, BitVec.toNat_ofNat, Nat.mod_eq_of_lt h]

theorem code_f32_lt (neg : Bool) {k : ℕ} (hk : k < 2 ^ 31) : Fmt.f32.code neg k < 2 ^ 32 := by
  cases neg <;> simp [Fmt.code, Fmt.low, Fmt.ebits, Fmt.mbits] <;> omega

theorem nanOut_f32 (s : Bool) (p : ℕ) : nanOut .f32 s p = Fmt.f32.code s (0x7F800000 +
    if p % 2 ^ 23 / 2 ^ 22 % 2 = 1 then p % 2 ^ 23 else p % 2 ^ 23 + 2 ^ 22) := by
  simp [nanOut, Fmt.mbits, Fmt.ebits]

/-- Every rounding to f32 fits a word. -/
theorem roundF_f32_lt (x : XVal) : roundF .f32 x < 2 ^ 32 := by
  have hinf (s : Bool) : infOut .f32 s < 2 ^ 32 := by cases s <;> decide
  cases x with
  | nan s p =>
    rw [roundF, nanOut_f32]
    refine code_f32_lt s ?_
    split <;> omega
  | inf s => exact hinf s
  | fin s m e =>
    simp only [roundF, Fmt.narrow, Bool.false_eq_true, if_false]
    split
    case isTrue => exact hinf s
    case isFalse h => exact code_f32_lt s (by simp only [Fmt.maxCode] at h; omega)

@[simp] theorem wordX_toNat (x : XVal) : (wordX x).toNat = roundF .f32 x := wordX_toNat_of_lt (roundF_f32_lt x)

/-- An f32 word is a sign and a magnitude. -/
theorem exists_code (w : Word) : ∃ neg k, k < 2 ^ 31 ∧ w.toNat = Fmt.f32.code neg k := by
  have := w.isLt
  by_cases h : w.toNat < 2 ^ 31
  · exact ⟨false, w.toNat, h, rfl⟩
  · refine ⟨true, w.toNat - 2 ^ 31, by omega, ?_⟩
    simp only [Fmt.code, Fmt.low, Fmt.ebits, Fmt.mbits, if_true]
    omega

/-- What a word above the largest finite magnitude holds. -/
theorem decodeF_big (neg : Bool) {k : ℕ} (h1 : Fmt.f32.maxCode < k) (h2 : k < 2 ^ 31) :
    decodeF .f32 (Fmt.f32.code neg k) = if k = 0x7F800000 then .inf neg else .nan neg (k - 0x7F800000) := by
  have hs : Fmt.f32.code neg k / 2 ^ 31 % 2 = neg.toNat := by
    cases neg <;> simp [Fmt.code, Fmt.low, Fmt.ebits, Fmt.mbits] <;> omega
  have he : Fmt.f32.code neg k / 2 ^ 23 % 2 ^ 8 = 255 := by
    cases neg <;> simp [Fmt.code, Fmt.low, Fmt.ebits, Fmt.mbits, Fmt.maxCode] at h1 ⊢ <;> omega
  have hm : Fmt.f32.code neg k % 2 ^ 23 = k - 0x7F800000 := by
    cases neg <;> simp [Fmt.code, Fmt.low, Fmt.ebits, Fmt.mbits, Fmt.maxCode] at h1 ⊢ <;> omega
  have hbit : (neg.toNat == 1) = neg := by cases neg <;> rfl
  unfold decodeF
  simp only [Fmt.low, Fmt.ebits, Fmt.mbits, Fmt.hasInf, hs, he, hm, hbit]
  by_cases hk : k = 0x7F800000
  · subst hk; rfl
  · have hne : k - 0x7F800000 ≠ 0 := by simp only [Fmt.maxCode] at h1; omega
    simp [hne, hk]

/-- A finite value of a word: its mantissa and exponent within the format's, the mantissa whole where the exponent is above
its least. -/
theorem fin_of_word {w : Word} {neg : Bool} {m : ℕ} {e : ℤ} (h : decodeF .f32 w.toNat = .fin neg m e) :
    m < 2 ^ 24 ∧ -149 ≤ e ∧ e ≤ 104 ∧ (e ≠ -149 → 2 ^ 23 ≤ m) := by
  obtain ⟨s, k, hk, hw⟩ := exists_code w
  rw [hw] at h
  rcases Nat.lt_or_ge Fmt.f32.maxCode k with hbig | hsmall
  · rw [decodeF_big s hbig hk] at h
    split at h <;> cases h
  · obtain ⟨n, d, hd, -, -, hrange⟩ := decodeF_code .f32 s hsmall
    rw [hd] at h
    cases h
    simp only [Fmt.mbits, Fmt.qmin, Fmt.bias, Fmt.maxCode] at hrange hsmall
    omega

/-- A word that is no NaN is what its value rounds to. -/
theorem wordX_decodeF {w : Word} (h : (decodeF .f32 w.toNat).isNan = false) : wordX (decodeF .f32 w.toNat) = w := by
  refine BitVec.eq_of_toNat_eq ?_
  rw [wordX_toNat]
  obtain ⟨neg, k, hk, hw⟩ := exists_code w
  rw [hw] at h ⊢
  rcases Nat.lt_or_ge Fmt.f32.maxCode k with hbig | hsmall
  · rw [decodeF_big neg hbig hk] at h ⊢
    split at h
    case isTrue he => subst he; cases neg <;> rfl
    case isFalse => cases h
  · obtain ⟨m, e, hd, hv, -⟩ := decodeF_code .f32 neg hsmall
    rw [hd]
    exact roundF_of_mag neg hsmall hv

/-- Setting a bit of a number adds it where it is clear. -/
theorem or_two_pow (n i : ℕ) : n ||| 2 ^ i = if n / 2 ^ i % 2 = 1 then n else n + 2 ^ i := by
  split
  case isTrue h =>
    refine Nat.eq_of_testBit_eq fun j => ?_
    rw [Nat.testBit_or, Nat.testBit_two_pow]
    by_cases hj : i = j
    · subst hj; simp [Nat.testBit_eq_decide_div_mod_eq, h]
    · simp [hj]
  case isFalse h =>
    have hb := Nat.mod_lt n (show 0 < 2 ^ i by positivity)
    have hlow : n % 2 ^ i < 2 ^ (i + 1) := hb.trans (Nat.pow_lt_pow_right (by decide) (Nat.lt_add_one i))
    have hn : n = 2 ^ (i + 1) * (n / 2 ^ i / 2) + n % 2 ^ i := by
      have h1 := Nat.div_add_mod n (2 ^ i)
      have h2 : n / 2 ^ i = 2 * (n / 2 ^ i / 2) := by omega
      rw [pow_succ, mul_assoc, ← h2, h1]
    have hsum : n + 2 ^ i = 2 ^ i * (2 * (n / 2 ^ i / 2) + 1) + n % 2 ^ i := by
      rw [mul_add, ← mul_assoc, ← pow_succ, mul_one]
      omega
    have hodd : 2 ^ i * (2 * (n / 2 ^ i / 2) + 1) = 2 ^ (i + 1) * (n / 2 ^ i / 2) ||| 2 ^ i := by
      rw [← Nat.two_pow_add_eq_or_of_lt (Nat.pow_lt_pow_right (by decide) (Nat.lt_add_one i))]
      ring
    rw [hsum, Nat.two_pow_add_eq_or_of_lt hb, hodd]
    nth_rw 1 [hn]
    rw [Nat.two_pow_add_eq_or_of_lt hlow, Nat.lor_assoc, Nat.lor_assoc, Nat.lor_comm (2 ^ i)]

/-- A NaN word's own code is the word with its quiet bit set (R37). -/
theorem nanOut_decodeF {w : Word} {s : Bool} {p : Nat} (h : decodeF .f32 w.toNat = .nan s p) :
    BitVec.ofNat 32 (nanOut .f32 s p) = Spec.quiet w := by
  obtain ⟨neg, k, hk, hw⟩ := exists_code w
  rw [hw] at h
  rcases Nat.lt_or_ge Fmt.f32.maxCode k with hbig | hsmall
  case inr =>
    obtain ⟨m, e, hd, -⟩ := decodeF_code .f32 neg hsmall
    rw [hd] at h
    cases h
  rw [decodeF_big neg hbig hk] at h
  split at h
  case isTrue => cases h
  cases h
  refine BitVec.eq_of_toNat_eq ?_
  rw [Spec.quiet, BitVec.toNat_or, show (0x00400000 : Word).toNat = 2 ^ 22 from rfl, or_two_pow, nanOut_f32, BitVec.toNat_ofNat,
    Nat.mod_eq_of_lt (code_f32_lt s (by split <;> omega)), hw]
  cases s <;> simp only [Fmt.code, Fmt.low, Fmt.ebits, Fmt.mbits, Fmt.maxCode, if_true, Bool.false_eq_true, if_false] at hbig ⊢ <;>
    split <;> split <;> omega

end Sys2Proof.Machine

/-! ### One rounding is to nearest, ties to even (R35, R199) -/

namespace Sys2Proof.Machine

open Sys2Proof.Laws

/-- How far a value lies from a finite code. -/
theorem realOf_distance (m : ℕ) (e : ℤ) {f : Fmt} {c : ℕ} (hc : c ≤ f.maxCode) :
    (xabs (xadd (.fin false m e) (xneg (decodeF f c)))).isFin = true ∧
    Spec.realOf (xabs (xadd (.fin false m e) (xneg (decodeF f c)))) = |f.mag c - m * (2 : ℝ) ^ e| := by
  have hfin := isFin_decodeF hc
  refine ⟨?_, ?_⟩
  · rw [isFin_xabs]
    exact isFin_xadd rfl (by rw [isFin_xneg, hfin])
  · rw [realOf_xabs, realOf_xadd rfl (by rw [isFin_xneg, hfin]), realOf_xneg, realOf_decodeF hc, abs_sub_comm]
    simp [sub_eq_add_neg]

/-- Settles O17: the rounded code is the nearest of all to the exact value, and the model's distances compare as the real ones. -/
theorem singleRoundingIsNearestEven : Obligations.SingleRoundingIsNearestEven := by
  intro neg m e hmax
  refine ⟨by rw [roundF, if_neg hmax.not_gt], fun c hc hne => ?_⟩
  obtain ⟨hcf, hcv⟩ := realOf_distance m e hc
  obtain ⟨hrf, hrv⟩ := realOf_distance m e hmax
  rw [← Bool.not_eq_true, xlt_iff hcf hrf, xeq_iff hcf hrf, hcv, hrv]
  rcases nearest_roundMag .f32 (.inl rfl : Stands m e _) c hne with h | ⟨h, heven⟩
  · exact ⟨h.le.not_gt, fun he => absurd he h.ne'⟩
  · exact ⟨h.le.not_gt, fun _ => heven⟩

end Sys2Proof.Machine

/-! ### Arithmetic lane instructions of one, two and three operands (R195) -/

namespace Sys2Proof.Machine

open Sys2Proof.Laws

section

variable {s : State} {y : LCtx} {i : Instr} {a : AluArgs}

theorem lane1_ready (h : LaneReady s y i) {f : Word → Word} (he : exec i s = lane1 s i a f) :
    Spec.WritesLanes s y i a.vd fun l => f (y.x.warp.vv a.va.toNat l) := laneOp_ready h a _ he

theorem lane2_ready (h : LaneReady s y i) {f : Word → Word → Word} (he : exec i s = lane2 s i a f) :
    Spec.WritesLanes s y i a.vd fun l => f (y.x.warp.vv a.va.toNat l) (Spec.operandB y a l) := by
  simpa only [operandB_eq, LCtx.a, LCtx.c] using laneOp_ready h a _ he

theorem lane3_ready (h : LaneReady s y i) {f : Word → Word → Word → Word} (he : exec i s = lane3 s i a f) :
    Spec.WritesLanes s y i a.vd fun l =>
      f (y.x.warp.vv a.va.toNat l) (Spec.operandB y a l) (y.x.warp.vv a.vc.toNat l) := by
  simpa only [operandB_eq, LCtx.a, LCtx.c] using laneOp_ready h a _ he

end

/-! ### FP32 and packed arithmetic, and compares (R199 to R201) -/

theorem laneFloatResults : Spec.LaneFloatResults := by
  intro s y a i k h forms hk
  match k with
  | 0 => obtain rfl := Option.some.inj hk; exact lane2_ready h (show exec (.fadd a) s = execFadd a s from rfl)
  | 1 => obtain rfl := Option.some.inj hk; exact lane2_ready h (show exec (.fsub a) s = execFsub a s from rfl)
  | 2 => obtain rfl := Option.some.inj hk; exact lane2_ready h (show exec (.fmul a) s = execFmul a s from rfl)
  | 3 => obtain rfl := Option.some.inj hk; exact lane3_ready h (show exec (.ffma a) s = execFfma a s from rfl)
  | 4 => obtain rfl := Option.some.inj hk; exact lane2_ready h (show exec (.fmin a) s = execFmin a s from rfl)
  | 5 => obtain rfl := Option.some.inj hk; exact lane2_ready h (show exec (.fmax a) s = execFmax a s from rfl)
  | 6 => obtain rfl := Option.some.inj hk; exact lane2_ready h (show exec (.hadd2 a) s = execHadd2 a s from rfl)
  | 7 => obtain rfl := Option.some.inj hk; exact lane2_ready h (show exec (.hmul2 a) s = execHmul2 a s from rfl)
  | 8 => obtain rfl := Option.some.inj hk; exact lane3_ready h (show exec (.hfma2 a) s = execHfma2 a s from rfl)
  | k + 9 => cases hk

theorem xlt_nan {x y : XVal} (h : x.isNan = true ∨ y.isNan = true) : xlt x y = false := by
  cases x <;> cases y <;> simp_all [XVal.isNan, xlt]

theorem xeq_nan {x y : XVal} (h : x.isNan = true ∨ y.isNan = true) : xeq x y = false := by
  rcases h with h | h <;> simp [xeq, h]

/-- With a NaN only .ne and .nan hold (R200). -/
theorem fcmpHolds_nan {A B : Word} {q : Nat} (hq : q < 8)
    (h : (decodeF .f32 A.toNat).isNan = true ∨ (decodeF .f32 B.toNat).isNan = true) :
    fcmpHolds q A B = decide (q = 1 ∨ q = 7) := by
  have hnan : ((decodeF .f32 A.toNat).isNan || (decodeF .f32 B.toNat).isNan) = true := by simpa using h
  unfold fcmpHolds
  simp only [xlt_nan h, xlt_nan h.symm, xeq_nan h, hnan]
  interval_cases q <;> rfl

/-- Finite operands compare as integers, in units of a power of two that divides both (R200). -/
theorem xlt_fin_units {s t : Bool} {m n : Nat} {d e k : Int} (hd : k ≤ d) (he : k ≤ e) :
    xlt (.fin s m d) (.fin t n e) = decide (signed s m * 2 ^ (d - k).toNat < signed t n * 2 ^ (e - k).toNat) := by
  rw [Bool.eq_iff_iff, xlt_fin, decide_eq_true_iff, realOf_fin_signed, realOf_fin_signed, ← scaled_mul_two_zpow hd,
    ← scaled_mul_two_zpow he, mul_lt_mul_iff_left₀ (by positivity), Int.cast_lt]

theorem floatCompareResults : Spec.FloatCompareResults := by
  refine ⟨fun s y a h => lane2_ready h (show exec (.fcmp a) s = execFcmp a s from rfl), fun A B q hq h => fcmpHolds_nan hq h, ?_⟩
  intro A B s t m n d e k hA hB hd he
  have hab := xlt_fin_units (s := s) (t := t) (m := m) (n := n) hd he
  have hba := xlt_fin_units (s := t) (t := s) (m := n) (n := m) he hd
  have heq (x y : Int) : (!decide (x < y) && !decide (y < x)) = decide (x = y) := by
    rw [Bool.eq_iff_iff]; simp; omega
  have hle (x y : Int) : (decide (x < y) || decide (x = y)) = decide (x ≤ y) := by
    rw [Bool.eq_iff_iff]; simp; omega
  have hge (x y : Int) : (decide (y < x) || decide (x = y)) = decide (y ≤ x) := by
    rw [Bool.eq_iff_iff]; simp; omega
  simp only [fcmpHolds, hA, hB, xeq, XVal.isNan, hab, hba, Bool.not_false, Bool.true_and, heq, hle, hge, Bool.or_self,
    decide_not, ne_eq, and_self]

end Sys2Proof.Machine

/-! ### Conversion and block quantisation: registers and frame (R53, R161, R202, R203) -/

namespace Sys2Proof.Machine

open Sys2Proof.Laws

theorem length_wordsOf (n x : Nat) : (wordsOf n x).length = n := by
  induction n generalizing x with
  | zero => rfl
  | succ n ih => rw [wordsOf, List.length_cons, ih]

/-- The words of a number, low word first. -/
theorem wordsOf_getD {n k : Nat} (h : k < n) (x : Nat) : (wordsOf n x).getD k 0 = BitVec.ofNat 32 (x / 2 ^ (32 * k)) := by
  induction n generalizing k x with
  | zero => omega
  | succ n ih =>
    cases k with
    | zero => simp [wordsOf]
    | succ k =>
      rw [wordsOf, List.getD_cons_succ, ih (by omega), Nat.div_div_eq_div_mul, ← pow_add]
      congr 3
      ring

/-- Every lane of every register after a write of consecutive registers in one lane. -/
theorem v_setVs (w : Warp) (r l : Nat) (xs : List Word) (q k : Nat) (hl : l < 32) (hk : k < 32) :
    (w.setVs r l xs).v_ q k = if r ≤ q ∧ q < r + xs.length ∧ k = l then cellOf (xs.getD (q - r) 0) else w.v_ q k := by
  induction xs generalizing w r with
  | nil => rw [Warp.setVs, if_neg (by simp; omega)]
  | cons x xs ih =>
    rw [Warp.setVs, ih, v_setV _ _ _ _ _ _ hl hk, List.length_cons]
    by_cases hq : q = r
    · subst hq
      rw [if_neg (by omega), Nat.sub_self, List.getD_cons_zero]
      by_cases h : k = l
      · rw [if_pos ⟨rfl, h⟩, if_pos ⟨le_rfl, by omega, h⟩]
      · rw [if_neg (fun c => h c.2), if_neg (fun c => h c.2.2)]
    · rw [if_neg (fun c : q = r ∧ k = l => hq c.1)]
      by_cases h : r + 1 ≤ q ∧ q < r + 1 + xs.length ∧ k = l
      · rw [if_pos h, if_pos (by omega), show q - r = (q - (r + 1)) + 1 by omega, List.getD_cons_succ]
      · rw [if_neg h, if_neg (by omega)]

/-- A fold of writes of lane registers leaves the rest of the warp. -/
theorem foldl_v_rest {α : Type} {f : Warp → α → Warp} (hf : ∀ w x, f w x = { w with v := (f w x).v }) (xs : List α) (w : Warp) :
    xs.foldl f w = { w with v := (xs.foldl f w).v } := by
  induction xs generalizing w with
  | nil => rfl
  | cons x xs ih => rw [List.foldl_cons, ih, hf w x]

/-- A fold of writes, each of its own lane, read back. -/
theorem v_foldl_lanes {f : Warp → Nat → Warp} {P : Nat → Prop} [DecidablePred P] {F : Nat → Nat → RWord} {q : Nat}
    (hf : ∀ w l k, l < 32 → k < 32 → (f w l).v_ q k = if k = l ∧ P q then F q k else w.v_ q k)
    (ls : List Nat) (hls : ∀ l ∈ ls, l < 32) (w : Warp) {k : Nat} (hk : k < 32) :
    (ls.foldl f w).v_ q k = if k ∈ ls ∧ P q then F q k else w.v_ q k := by
  induction ls generalizing w with
  | nil => simp
  | cons l ls ih =>
    rw [List.foldl_cons, ih (fun m hm => hls m (List.mem_cons_of_mem _ hm)), hf w l k (hls l List.mem_cons_self) hk]
    by_cases h1 : P q <;> by_cases h2 : k = l <;> simp [h1, h2]

/-- CVT writes the converted value to the registers of its target in each active lane (R202). -/
theorem cvt_ready {s : State} {y : LCtx} {a : AluArgs} (h : LaneReady s y (.cvt a)) :
    ∃ t w, exec (.cvt a) s = .next t ∧ Dispatches s t y (s.core y.x.who.core) w ∧ w = { y.x.warp with v := w.v } ∧
      ∀ r l, l < 32 → w.v_ r l =
        if a.vd.toNat ≤ r ∧ r < a.vd.toNat + codeRegs (a.imm.toNat % 256) ∧ y.act.getLsbD l = true then
          cellOf (BitVec.ofNat 32 (cvtBits a.imm (vGroup y.x.warp a.va (codeRegs (a.imm.toNat / 256 % 256)) l) /
            2 ^ (32 * (r - a.vd.toNat))))
        else y.x.warp.v_ r l := by
  refine ⟨_, _, (show exec (.cvt a) s = execCvt a s from rfl).trans (runLane_ready h _),
    Local.dispatched ((Local.of_lctx h.ctx).modWarp _), foldl_v_rest (fun w p => setVs_rest _ _ _ _) _ _, ?_⟩
  intro r l hl
  have hwrite (w : Warp) (m k : Nat) (hm : m < 32) (hk : k < 32) :
      (w.setVs a.vd.toNat m (wordsOf (codeRegs (a.imm.toNat % 256))
        (cvtBits a.imm (vGroup y.x.warp a.va (codeRegs (a.imm.toNat / 256 % 256)) m)))).v_ r k =
      if k = m ∧ a.vd.toNat ≤ r ∧ r < a.vd.toNat + codeRegs (a.imm.toNat % 256) then
        cellOf (BitVec.ofNat 32 (cvtBits a.imm (vGroup y.x.warp a.va (codeRegs (a.imm.toNat / 256 % 256)) k) /
          2 ^ (32 * (r - a.vd.toNat)))) else w.v_ r k := by
    rw [v_setVs _ _ _ _ _ _ hm hk, length_wordsOf]
    by_cases h : k = m ∧ a.vd.toNat ≤ r ∧ r < a.vd.toNat + codeRegs (a.imm.toNat % 256)
    · obtain ⟨rfl, h1, h2⟩ := h
      rw [if_pos ⟨h1, h2, rfl⟩, if_pos ⟨rfl, h1, h2⟩, wordsOf_getD (by omega)]
    · rw [if_neg h, if_neg (fun c => h ⟨c.2.2, c.1, c.2.1⟩)]
  simp only [List.foldl_map]
  refine (v_foldl_lanes (F := fun r k => cellOf (BitVec.ofNat 32 (cvtBits a.imm
    (vGroup y.x.warp a.va (codeRegs (a.imm.toNat / 256 % 256)) k) / 2 ^ (32 * (r - a.vd.toNat)))))
    (P := fun r => a.vd.toNat ≤ r ∧ r < a.vd.toNat + codeRegs (a.imm.toNat % 256)) hwrite _
    (fun m hm => (mem_lanesOf.1 hm).1) _ hl).trans (if_congr ?_ rfl rfl)
  rw [mem_lanesOf]
  tauto

/-- The active lanes of the block of 16 or 32 lanes that a lane is in (R203). -/
def blockLanes (m : Lanes) (one : Bool) (l : Nat) : List Nat :=
  let first := if one then 0 else l / 16 * 16
  (List.range 32).filter fun k => decide (first ≤ k) && decide (k < first + (if one then 32 else 16)) && m.getLsbD k

theorem mem_blockLanes {m : Lanes} {one : Bool} {l : Nat} (hl : l < 32) : l ∈ blockLanes m one l ↔ m.getLsbD l = true := by
  have : l < l / 16 * 16 + 16 := by omega
  cases one <;> simp [blockLanes, hl, this, Nat.div_mul_le_self]

theorem nodup_blockLanes (m : Lanes) (one : Bool) (l : Nat) : (blockLanes m one l).Nodup := List.nodup_range.filter _

/-- The blocks of lanes CVTQ works on, each with its active lanes. -/
theorem laneBlocks_filter {m : Lanes} {one : Bool} {b : List Nat} (hb : b ∈ laneBlocks one) {l : Nat} (hl : l ∈ b) :
    b.filter (laneIn m) = blockLanes m one l := by
  cases one
  · have hsplit : List.range 32 = List.range 16 ++ (List.range 16).map (· + 16) := rfl
    simp only [laneBlocks, Bool.false_eq_true, if_false, List.mem_cons, List.not_mem_nil, or_false] at hb
    rw [blockLanes, hsplit, List.filter_append]
    rcases hb with rfl | rfl
    · have hl0 : l / 16 * 16 = 0 := by have := List.mem_range.1 hl; omega
      have hhigh : ((List.range 16).map (· + 16)).filter (fun k => decide (l / 16 * 16 ≤ k) &&
          decide (k < l / 16 * 16 + 16) && m.getLsbD k) = [] := by simp [hl0]
      simp only [Bool.false_eq_true, if_false, hhigh, List.append_nil]
      exact List.filter_congr fun k hk => by simp [laneIn, hl0, List.mem_range.1 hk]
    · have hl1 : l / 16 * 16 = 16 := by
        obtain ⟨k, hk, rfl⟩ := List.mem_map.1 hl
        have := List.mem_range.1 hk
        omega
      have hlow : (List.range 16).filter (fun k => decide (l / 16 * 16 ≤ k) &&
          decide (k < l / 16 * 16 + 16) && m.getLsbD k) = [] :=
        List.filter_eq_nil_iff.2 fun k hk => by have := List.mem_range.1 hk; simp [hl1]; omega
      simp only [Bool.false_eq_true, if_false, hlow, List.nil_append]
      refine List.filter_congr fun k hk => ?_
      obtain ⟨j, hj, rfl⟩ := List.mem_map.1 hk
      have := List.mem_range.1 hj
      simp [laneIn, hl1, show j + 16 < 32 by omega]
  · simp only [laneBlocks, if_true, List.mem_singleton] at hb
    subst hb
    rw [blockLanes]
    exact List.filter_congr fun k hk => by simp [laneIn, List.mem_range.1 hk]

theorem nodup_of_mem_laneBlocks {one : Bool} {b : List Nat} (hb : b ∈ laneBlocks one) : b.Nodup := by
  cases one <;> revert b <;> decide

theorem mem_laneBlocks_flatMap {m : Lanes} {one : Bool} {l : Nat} :
    l ∈ (laneBlocks one).flatMap (List.filter (laneIn m)) ↔ l < 32 ∧ m.getLsbD l = true := by
  cases one <;> simp only [laneBlocks, Bool.false_eq_true, if_false, if_true, List.flatMap_cons, List.flatMap_nil, List.append_nil,
    ← List.filter_append, List.mem_filter, laneIn]
  · rw [show List.range 16 ++ (List.range 16).map (· + 16) = List.range 32 from rfl, List.mem_range]
  · rw [List.mem_range]

theorem length_cvtqBlock (tgt : Nat) (xs : List XVal) : (cvtqBlock tgt xs).1.length = xs.length := by
  unfold cvtqBlock quantKb4 quantE8
  split
  · simp only
    split
    · simp
    · split <;> simp
  · split <;> split <;> simp

/-- The codes of a list's elements, paired with them, are those at their places. -/
theorem zip_eq_map_idxOf {ls cs : List Nat} (hnd : ls.Nodup) (hlen : cs.length = ls.length) :
    ls.zip cs = ls.map fun l => (l, cs.getD (ls.idxOf l) 0) := by
  refine List.ext_getElem (by simp [hlen]) fun n h1 h2 => ?_
  have hn : n < ls.length := by simpa using h2
  rw [List.getElem_zip, List.getElem_map, hnd.idxOf_getElem n hn, List.getD_eq_getElem _ _ (by omega)]

/-- What CVTQ gives the lanes of a lane's block (R203). -/
def blockCodes (y : LCtx) (a : AluArgs) (l : Nat) : List Nat × Nat :=
  cvtqBlock (a.imm.toNat % 256) ((blockLanes y.act (a.imm.getLsbD 8) l).map fun m => decodeF .f32 (y.x.warp.vv a.va.toNat m).toNat)

/-- CVTQ writes each active lane's code to vd and its block's side word to vc (R203). -/
theorem cvtq_ready {s : State} {y : LCtx} {a : AluArgs} (h : LaneReady s y (.cvtq a)) :
    ∃ t w, exec (.cvtq a) s = .next t ∧ Dispatches s t y (s.core y.x.who.core) w ∧ w = { y.x.warp with v := w.v } ∧
      ∀ r l, l < 32 → w.v_ r l =
        if y.act.getLsbD l = true ∧ (r = a.vd.toNat ∨ r = a.vc.toNat) then
          cellOf (if r = a.vc.toNat then BitVec.ofNat 32 (blockCodes y a l).2
            else BitVec.ofNat 32 ((blockCodes y a l).1.getD ((blockLanes y.act (a.imm.getLsbD 8) l).idxOf l) 0))
        else y.x.warp.v_ r l := by
  have hwrites : ((laneBlocks (a.imm.getLsbD 8)).flatMap fun ls =>
      let ls := ls.filter (laneIn y.act)
      let q := cvtqBlock (a.imm.toNat % 256) (ls.map fun l => decodeF .f32 (y.a a l).toNat)
      (ls.zip q.1).map fun p => (p.1, BitVec.ofNat 32 p.2, BitVec.ofNat 32 q.2)) =
      ((laneBlocks (a.imm.getLsbD 8)).flatMap (List.filter (laneIn y.act))).map fun l =>
        (l, BitVec.ofNat 32 ((blockCodes y a l).1.getD ((blockLanes y.act (a.imm.getLsbD 8) l).idxOf l) 0),
          BitVec.ofNat 32 (blockCodes y a l).2) := by
    rw [List.map_flatMap]
    refine List.flatMap_congr fun b hb => ?_
    have hnd : (b.filter (laneIn y.act)).Nodup := (nodup_of_mem_laneBlocks hb).filter _
    simp only
    rw [zip_eq_map_idxOf hnd (by rw [length_cvtqBlock, List.length_map]), List.map_map]
    refine List.map_congr_left fun l hl => ?_
    have hbl := laneBlocks_filter (m := y.act) hb (List.mem_of_mem_filter hl)
    simp only [Function.comp, hbl]
    rfl
  refine ⟨_, _, (show exec (.cvtq a) s = execCvtq a s from rfl).trans (runLane_ready h _),
    Local.dispatched ((Local.of_lctx h.ctx).modWarp _), foldl_v_rest (fun w p => rfl) _ _, ?_⟩
  intro r l hl
  rw [hwrites, List.foldl_map]
  have hwrite (w : Warp) (m k : Nat) (hm : m < 32) (hk : k < 32) :
      ((w.setV a.vd.toNat m (BitVec.ofNat 32 ((blockCodes y a m).1.getD ((blockLanes y.act (a.imm.getLsbD 8) m).idxOf m) 0))).setV
        a.vc.toNat m (BitVec.ofNat 32 (blockCodes y a m).2)).v_ r k =
      if k = m ∧ (r = a.vd.toNat ∨ r = a.vc.toNat) then
        cellOf (if r = a.vc.toNat then BitVec.ofNat 32 (blockCodes y a k).2
          else BitVec.ofNat 32 ((blockCodes y a k).1.getD ((blockLanes y.act (a.imm.getLsbD 8) k).idxOf k) 0))
      else w.v_ r k := by
    rw [v_setV _ _ _ _ _ _ hm hk, v_setV _ _ _ _ _ _ hm hk]
    by_cases h1 : k = m
    · subst h1
      by_cases h2 : r = a.vc.toNat
      · simp [h2]
      · by_cases h3 : r = a.vd.toNat
        · rw [if_neg (fun c => h2 c.1), if_pos ⟨h3, rfl⟩, if_pos ⟨rfl, .inl h3⟩, if_neg h2]
        · simp [h2, h3]
    · simp [h1]
  refine (v_foldl_lanes (F := fun r k => cellOf (if r = a.vc.toNat then BitVec.ofNat 32 (blockCodes y a k).2
      else BitVec.ofNat 32 ((blockCodes y a k).1.getD ((blockLanes y.act (a.imm.getLsbD 8) k).idxOf k) 0)))
    (P := fun r => r = a.vd.toNat ∨ r = a.vc.toNat) hwrite _ (fun m hm => (mem_laneBlocks_flatMap.1 hm).1) _ hl).trans
    (if_congr ?_ rfl rfl)
  rw [mem_laneBlocks_flatMap]
  tauto

end Sys2Proof.Machine

/-! ### Results of the units depend on their operands alone (R43, R202, R203, R208) -/

namespace Sys2Proof.Machine

open Sys2Proof.Laws

/-- The special functions write their result in the active lanes (R208). -/
theorem specialFn_ready {s : State} {y : LCtx} {a : AluArgs} {i : Instr} {fn : Nat}
    (hi : (i, fn) ∈ [(.rcp a, 0), (.rsq a, 1), (.sqrt a, 2), (.exp2 a, 3), (.log2 a, 4), (.sin a, 5), (.cos a, 6),
      (.tanh a, 7), (Instr.sigm a, 8)]) (h : LaneReady s y i) :
    Spec.WritesLanes s y i a.vd fun l => specialFn fn (y.x.warp.vv a.va.toNat l) := by
  simp only [List.mem_cons, Prod.mk.injEq, List.not_mem_nil, or_false] at hi
  rcases hi with ⟨rfl, rfl⟩ | ⟨rfl, rfl⟩ | ⟨rfl, rfl⟩ | ⟨rfl, rfl⟩ | ⟨rfl, rfl⟩ | ⟨rfl, rfl⟩ | ⟨rfl, rfl⟩ | ⟨rfl, rfl⟩ | ⟨rfl, rfl⟩
  · exact lane1_ready h (show exec (.rcp a) s = execRcp a s from rfl)
  · exact lane1_ready h (show exec (.rsq a) s = execRsq a s from rfl)
  · exact lane1_ready h (show exec (.sqrt a) s = execSqrt a s from rfl)
  · exact lane1_ready h (show exec (.exp2 a) s = execExp2 a s from rfl)
  · exact lane1_ready h (show exec (.log2 a) s = execLog2 a s from rfl)
  · exact lane1_ready h (show exec (.sin a) s = execSin a s from rfl)
  · exact lane1_ready h (show exec (.cos a) s = execCos a s from rfl)
  · exact lane1_ready h (show exec (.tanh a) s = execTanh a s from rfl)
  · exact lane1_ready h (show exec (.sigm a) s = execSigm a s from rfl)

/-- Words as one little-endian number (R53). -/
def groupValue (ws : List Word) : Nat := ws.foldr (fun x acc => x.toNat + acc * 2 ^ 32) 0

theorem vGroup_eq_groupValue (w : Warp) (v : VReg) (n l : Nat) :
    vGroup w v n l = groupValue ((List.range n).map fun k => w.vv (v.toNat + k) l) := by
  rw [vGroup, groupValue, List.foldr_map]

/-- The places of a block that hold the word of an active lane. -/
def activePlaces (ws : List (Option Word)) : List Nat := (List.range ws.length).filter fun k => ((ws[k]?).getD none).isSome

/-- The code and side word that CVTQ gives the lane at a place of its block, by the block's words alone (R203). -/
def blockResult (tgt : Nat) (ws : List (Option Word)) (i : Nat) : Word × Word :=
  let q := cvtqBlock tgt ((activePlaces ws).map fun k => decodeF .f32 (((ws[k]?).getD none).getD 0).toNat)
  (BitVec.ofNat 32 (q.1.getD ((activePlaces ws).idxOf i) 0), BitVec.ofNat 32 q.2)

/-- The lanes of a block of CVTQ (R203). -/
def blockSize (a : AluArgs) : Nat := if a.imm.getLsbD 8 then 32 else 16

/-- The words of a lane's block, those of inactive lanes left out. -/
def blockWords (y : LCtx) (a : AluArgs) (l : Nat) : List (Option Word) :=
  (List.range (blockSize a)).map fun k =>
    if y.act.getLsbD (l / blockSize a * blockSize a + k) then some (y.x.warp.vv a.va.toNat (l / blockSize a * blockSize a + k))
    else none

theorem blockWords_get (y : LCtx) (a : AluArgs) (l : Nat) {k : Nat} (hk : k < blockSize a) :
    ((blockWords y a l)[k]?).getD none = if y.act.getLsbD (l / blockSize a * blockSize a + k) then
      some (y.x.warp.vv a.va.toNat (l / blockSize a * blockSize a + k)) else none := by
  rw [blockWords, List.getElem?_map, List.getElem?_range hk, Option.map_some, Option.getD_some]

/-- A lane's block is one of CVTQ's, counted from its first lane on. -/
theorem block_mem_laneBlocks (a : AluArgs) {l : Nat} (hl : l < 32) :
    (List.range (blockSize a)).map (l / blockSize a * blockSize a + ·) ∈ laneBlocks (a.imm.getLsbD 8) ∧
      l ∈ (List.range (blockSize a)).map (l / blockSize a * blockSize a + ·) := by
  have hpos : 0 < blockSize a := by unfold blockSize; split <;> decide
  refine ⟨?_, List.mem_map.2 ⟨l % blockSize a, List.mem_range.2 (Nat.mod_lt _ hpos), Nat.div_add_mod' l _⟩⟩
  unfold blockSize
  cases a.imm.getLsbD 8
  · rcases show l / 16 * 16 = 0 ∨ l / 16 * 16 = 16 by omega with h | h <;>
      simp only [Bool.false_eq_true, if_false, h, laneBlocks, List.mem_cons] <;> decide
  · simp only [if_true, show l / 32 * 32 = 0 by omega, laneBlocks]
    decide

/-- The active lanes of a block are its active places, from the block's first lane on. -/
theorem blockLanes_eq_map (y : LCtx) (a : AluArgs) {l : Nat} (hl : l < 32) :
    blockLanes y.act (a.imm.getLsbD 8) l = (activePlaces (blockWords y a l)).map (l / blockSize a * blockSize a + ·) := by
  obtain ⟨hblock, hmem⟩ := block_mem_laneBlocks a hl
  rw [← laneBlocks_filter hblock hmem, List.filter_map, activePlaces, blockWords, List.length_map, List.length_range, ← blockWords]
  congr 1
  refine List.filter_congr fun k hk => ?_
  rw [blockWords_get y a l (List.mem_range.1 hk), Function.comp, laneIn]
  cases y.act.getLsbD (l / blockSize a * blockSize a + k) <;> rfl

theorem idxOf_map_add (ls : List Nat) (b x : Nat) : (ls.map (b + ·)).idxOf (b + x) = ls.idxOf x := by
  induction ls with
  | nil => rfl
  | cons y ys ih => simp only [List.map_cons, List.idxOf_cons, ih, Bool.cond_eq_ite, beq_iff_eq, Nat.add_left_cancel_iff]

/-- What CVTQ gives a lane is what its block's words give its place. -/
theorem blockResult_eq (y : LCtx) (a : AluArgs) {l : Nat} (hl : l < 32) :
    blockResult (a.imm.toNat % 256) (blockWords y a l) (l % blockSize a) =
      (BitVec.ofNat 32 ((blockCodes y a l).1.getD ((blockLanes y.act (a.imm.getLsbD 8) l).idxOf l) 0),
        BitVec.ofNat 32 (blockCodes y a l).2) := by
  have hlanes := blockLanes_eq_map y a hl
  have hvals : (activePlaces (blockWords y a l)).map (fun k => decodeF .f32 ((((blockWords y a l)[k]?).getD none).getD 0).toNat) =
      (blockLanes y.act (a.imm.getLsbD 8) l).map fun m => decodeF .f32 (y.x.warp.vv a.va.toNat m).toNat := by
    rw [hlanes, List.map_map]
    refine List.map_congr_left fun k hk => ?_
    obtain ⟨hk, hsome⟩ := List.mem_filter.1 hk
    rw [blockWords, List.length_map, List.length_range, List.mem_range] at hk
    rw [blockWords_get y a l hk] at hsome ⊢
    split at hsome
    case isTrue h => rw [if_pos h]; rfl
    case isFalse => cases hsome
  have hidx : (blockLanes y.act (a.imm.getLsbD 8) l).idxOf l = (activePlaces (blockWords y a l)).idxOf (l % blockSize a) := by
    have h := idxOf_map_add (activePlaces (blockWords y a l)) (l / blockSize a * blockSize a) (l % blockSize a)
    rwa [Nat.div_add_mod', ← hlanes] at h
  rw [hidx, blockCodes, ← hvals]
  rfl

theorem unitResultsAreDeterministic : Spec.UnitResultsAreDeterministic := by
  refine ⟨⟨specialFn, fun s y a i fn hi h => specialFn_ready hi h⟩,
    ⟨fun imm ws k => BitVec.ofNat 32 (cvtBits imm (groupValue ws) / 2 ^ (32 * k)), fun s y a h => ?_⟩,
    ⟨blockResult, fun s y a h => ?_⟩⟩
  · simpa only [← vGroup_eq_groupValue] using cvt_ready h
  · obtain ⟨t, w, hexec, hd, hw, hv⟩ := cvtq_ready h
    refine ⟨t, w, hexec, hd, hw, fun r l hl => ?_⟩
    change w.v_ r l =
      if y.act.getLsbD l = true ∧ r = a.vc.toNat then
        cellOf (blockResult (a.imm.toNat % 256) (blockWords y a l) (l % blockSize a)).2
      else if y.act.getLsbD l = true ∧ r = a.vd.toNat then
        cellOf (blockResult (a.imm.toNat % 256) (blockWords y a l) (l % blockSize a)).1
      else y.x.warp.v_ r l
    rw [hv r l hl, blockResult_eq y a hl]
    by_cases h1 : y.act.getLsbD l = true
    · by_cases h2 : r = a.vc.toNat
      · simp [h1, h2]
      · by_cases h3 : r = a.vd.toNat
        · rw [if_pos ⟨h1, .inl h3⟩, if_neg h2, if_neg fun c => h2 c.2, if_pos ⟨h1, h3⟩]
        · simp [h2, h3]
    · simp [h1]

/-- Settles O16: the lane forms write what their functions give of the values they read, and finite operands compare as their
exact values. -/
theorem laneFloatAndCompareResults : Obligations.LaneFloatAndCompareResults :=
  ⟨laneFloatResults, floatCompareResults, unitResultsAreDeterministic⟩

end Sys2Proof.Machine

/-! ### Exact sums rounded once (R42, R48, R204, R206) -/

namespace Sys2Proof.Machine

open Sys2Proof.Laws

/-- A value is the exact sum of terms, none a NaN. -/
def IsSum (ts : List XVal) : XVal → Prop
  | .nan s p => s = false ∧ p = 0 ∧ .inf true ∈ ts ∧ .inf false ∈ ts
  | .inf s => .inf s ∈ ts ∧ .inf (!s) ∉ ts
  | .fin s m e => (∀ x ∈ ts, x.isFin = true) ∧ Spec.realOf (.fin s m e) = (ts.map Spec.realOf).sum ∧
      (m = 0 → (s = true ↔ ∀ x ∈ ts, ∃ d, x = .fin true 0 d))

theorem realOf_eq_zero {s : Bool} {m : ℕ} {e : ℤ} : Spec.realOf (.fin s m e) = 0 ↔ m = 0 := by
  cases s <;> simp [zpow_ne_zero]

/-- Two negative values whose sum is zero are zeros. -/
theorem zeros_of_sum_zero {m n : ℕ} {d e : ℤ}
    (h : Spec.realOf (.fin true m d) + Spec.realOf (.fin true n e) = 0) : m = 0 ∧ n = 0 := by
  have h1 : 0 ≤ (m : ℝ) * (2 : ℝ) ^ d := by positivity
  have h2 : 0 ≤ (n : ℝ) * (2 : ℝ) ^ e := by positivity
  simp only [realOf_fin, if_true, neg_mul, one_mul] at h
  refine ⟨(realOf_eq_zero (s := true) (e := d)).1 ?_, (realOf_eq_zero (s := true) (e := e)).1 ?_⟩ <;>
    simp only [realOf_fin, if_true, neg_mul, one_mul] <;> linarith

theorem isSum_singleton {x : XVal} (h : x.isNan = false) : IsSum [x] x := by
  cases x with
  | nan s p => cases h
  | inf s => simp [IsSum]
  | fin s m e =>
    refine ⟨by simp [XVal.isFin], by simp, fun hm => ?_⟩
    subst hm
    simp

/-- One more term is added exactly. -/
theorem IsSum.snoc {ts : List XVal} {r y : XVal} (h : IsSum ts r) (hy : y.isNan = false) : IsSum (ts ++ [y]) (xadd r y) := by
  cases y with
  | nan => cases hy
  | inf t =>
    cases r with
    | nan s p => obtain ⟨rfl, rfl, h1, h2⟩ := h; exact ⟨rfl, rfl, by simp [h1], by simp [h2]⟩
    | inf s =>
      obtain ⟨h1, h2⟩ := h
      cases s <;> cases t <;> simp_all [xadd, IsSum, xDefault]
    | fin s m e =>
      have hfin : XVal.inf (!t) ∉ ts := fun hm => by cases h.1 _ hm
      simp [xadd, IsSum, hfin]
  | fin t n d =>
    cases r with
    | nan s p => obtain ⟨rfl, rfl, h1, h2⟩ := h; exact ⟨rfl, rfl, by simp [h1], by simp [h2]⟩
    | inf s => simpa [xadd, IsSum] using h
    | fin s m e =>
      obtain ⟨hfin, hsum, hzero⟩ := h
      obtain ⟨i, k, hadd, hv⟩ := xadd_fin s t m n e d
      rw [hadd]
      refine ⟨?_, ?_, fun hi => ?_⟩
      · simp only [List.mem_append, List.mem_singleton]
        rintro x (hx | rfl)
        · exact hfin x hx
        · rfl
      · rw [List.map_append, List.sum_append, ← hsum]
        exact (realOf_xOfInt i k (s && t)).trans (by rw [hv]; simp)
      · obtain rfl : i = 0 := Int.natAbs_eq_zero.1 hi
        rw [Int.cast_zero, zero_mul] at hv
        simp only [lt_self_iff_false, decide_false, beq_self_eq_true, Bool.true_and, Bool.false_or, Bool.and_eq_true,
          List.mem_append, List.mem_singleton]
        constructor
        · rintro ⟨rfl, rfl⟩ x hx
          obtain ⟨rfl, rfl⟩ := zeros_of_sum_zero hv.symm
          rcases hx with hx | rfl
          · exact (hzero rfl).1 rfl x hx
          · exact ⟨d, rfl⟩
        · intro hall
          obtain ⟨d', hd⟩ := hall _ (.inr rfl)
          cases hd
          have hm : m = 0 := by
            refine (realOf_eq_zero (s := s) (e := e)).1 ?_
            simpa using hv.symm
          exact ⟨(hzero hm).2 fun x hx => hall x (.inl hx), rfl⟩

theorem IsSum.foldl {xs ts : List XVal} {r : XVal} (h : IsSum ts r) (hxs : ∀ x ∈ xs, x.isNan = false) :
    IsSum (ts ++ xs) (xs.foldl xadd r) := by
  induction xs generalizing ts r with
  | nil => simpa using h
  | cons x xs ih =>
    have := ih (h.snoc (hxs x List.mem_cons_self)) fun y hy => hxs y (List.mem_cons_of_mem _ hy)
    rwa [List.append_assoc, List.singleton_append] at this

theorem isSum_xsum {ts : List XVal} (hne : ts ≠ []) (h : ∀ x ∈ ts, x.isNan = false) : IsSum ts (xsum ts) := by
  obtain ⟨x, xs, rfl⟩ := List.exists_cons_of_ne_nil hne
  exact (isSum_singleton (h x List.mem_cons_self)).foldl fun y hy => h y (List.mem_cons_of_mem _ hy)

/-- The exact sum of terms, scaled by a power of two and rounded once. -/
theorem sumWord_wordX {ts : List XVal} (hne : ts ≠ []) (h : ∀ x ∈ ts, x.isNan = false) (k : ℤ) :
    Spec.SumWord ts ((2 : ℝ) ^ k) (wordX (xscale (xsum ts) k)) := by
  have hsum := isSum_xsum hne h
  generalize xsum ts = r at hsum
  cases r with
  | nan s p =>
    obtain ⟨rfl, rfl, h1, h2⟩ := hsum
    exact ⟨fun _ _ => rfl, fun h => absurd h1 h, fun _ h => absurd h2 h, fun h => absurd h1 h⟩
  | inf s =>
    obtain ⟨h1, h2⟩ := hsum
    cases s
    · exact ⟨fun h => absurd h h2, fun _ _ => rfl, fun h => absurd h h2, fun _ h => absurd h1 h⟩
    · exact ⟨fun _ h => absurd h h2, fun h => absurd h1 h, fun _ _ => rfl, fun h => absurd h1 h⟩
  | fin s m e =>
    obtain ⟨hfin, hv, hzero⟩ := hsum
    have hno (t : Bool) : XVal.inf t ∉ ts := fun hm => by cases hfin _ hm
    refine ⟨fun h => absurd h (hno _), fun _ h => absurd h (hno _), fun h => absurd h (hno _), fun _ _ => ?_⟩
    have hscaled : (2 : ℝ) ^ k * (ts.map Spec.realOf).sum = Spec.realOf (.fin s m (e + k)) := by
      rw [← hv, mul_comm]
      exact (realOf_xscale (.fin s m e) k).symm
    have hpos : 0 ≤ (m : ℝ) * (2 : ℝ) ^ (e + k) := by positivity
    simp only [hscaled]
    refine ⟨s, fun hneg => ?_, fun hpos' => ?_, fun h0 => hzero (realOf_eq_zero.1 h0), ?_⟩
    · cases s
      · simp only [realOf_fin, Bool.false_eq_true, if_false, one_mul] at hneg
        linarith
      · rfl
    · cases s
      · rfl
      · simp only [realOf_fin, if_true, neg_mul, one_mul] at hpos'
        linarith
    · rw [wordX_toNat]
      exact roundF_fin_rounds .f32 s m (e + k)

end Sys2Proof.Machine

/-! ### Combinations (R206) -/

namespace Sys2Proof.Machine

open Sys2Proof.Laws

section

variable {α β : Type} [LinearOrder β] {op : α → α → α} {key : α → β} {P : α → Prop}

/-- An operation that picks the lesser of two picks the least of a list. -/
theorem foldl_least (hpick : ∀ a b, op a b = a ∨ op a b = b)
    (hkey : ∀ a b, P a → P b → key (op a b) ≤ key a ∧ key (op a b) ≤ key b) (ws : List α) (w : α) (hP : ∀ v ∈ w :: ws, P v) :
    ws.foldl op w ∈ w :: ws ∧ ∀ v ∈ w :: ws, key (ws.foldl op w) ≤ key v := by
  induction ws generalizing w with
  | nil => simp
  | cons x ws ih =>
    obtain ⟨hw, hx, hws⟩ : P w ∧ P x ∧ ∀ v ∈ ws, P v := by simpa using hP
    have hop : P (op w x) := by rcases hpick w x with h | h <;> rwa [h]
    obtain ⟨hmem, hle⟩ := ih (op w x) (by simpa using ⟨hop, hws⟩)
    obtain ⟨h1, h2⟩ := hkey w x hw hx
    rw [List.foldl_cons]
    have hle0 := hle _ List.mem_cons_self
    constructor
    · rcases List.mem_cons.1 hmem with h | h
      · rw [h]
        rcases hpick w x with h | h <;> simp [h]
      · simp [h]
    · simp only [List.mem_cons, forall_eq_or_imp]
      exact ⟨hle0.trans h1, hle0.trans h2, fun v hv => hle v (List.mem_cons_of_mem _ hv)⟩

end

theorem combine_add (w : Word) (ws : List Word) : combine 0 (w :: ws) = BitVec.ofNat 32 ((w :: ws).map (·.toNat)).sum := by
  change ws.foldl (· + ·) w = _
  induction ws generalizing w with
  | nil => simp
  | cons x ws ih =>
    rw [List.foldl_cons, ih]
    refine BitVec.eq_of_toNat_eq ?_
    simp only [List.map_cons, List.sum_cons, BitVec.toNat_ofNat, BitVec.toNat_add]
    omega

theorem toInt_minS (a b : Word) : (minS a b).toInt ≤ a.toInt ∧ (minS a b).toInt ≤ b.toInt := by
  simp only [minS, BitVec.slt_iff_toInt_lt]; split <;> omega

theorem toInt_maxS (a b : Word) : a.toInt ≤ (maxS a b).toInt ∧ b.toInt ≤ (maxS a b).toInt := by
  simp only [maxS, BitVec.slt_iff_toInt_lt]; split <;> omega

theorem toNat_minN (a b : Word) : (minN a b).toNat ≤ a.toNat ∧ (minN a b).toNat ≤ b.toNat := by
  simp only [minN, BitVec.ult_iff_lt, BitVec.lt_def]; split <;> omega

theorem toNat_maxN (a b : Word) : a.toNat ≤ (maxN a b).toNat ∧ b.toNat ≤ (maxN a b).toNat := by
  simp only [maxN, BitVec.ult_iff_lt, BitVec.lt_def]; split <;> omega

/-- The picks of the integer forms. -/
theorem combine_minS (w : Word) (ws : List Word) :
    (∀ v ∈ w :: ws, (combine 1 (w :: ws)).toInt ≤ v.toInt) ∧ combine 1 (w :: ws) ∈ w :: ws :=
  (foldl_least (op := minS) (key := BitVec.toInt) (P := fun _ => True) (fun a b => by unfold minS; split <;> simp)
    (fun a b _ _ => toInt_minS a b) ws w (by simp)).symm

theorem combine_maxS (w : Word) (ws : List Word) :
    (∀ v ∈ w :: ws, v.toInt ≤ (combine 2 (w :: ws)).toInt) ∧ combine 2 (w :: ws) ∈ w :: ws :=
  (foldl_least (op := maxS) (key := fun v => OrderDual.toDual v.toInt) (P := fun _ => True)
    (fun a b => by unfold maxS; split <;> simp) (fun a b _ _ => toInt_maxS a b) ws w (by simp)).symm

theorem combine_minN (w : Word) (ws : List Word) :
    (∀ v ∈ w :: ws, (combine 3 (w :: ws)).toNat ≤ v.toNat) ∧ combine 3 (w :: ws) ∈ w :: ws :=
  (foldl_least (op := minN) (key := BitVec.toNat) (P := fun _ => True) (fun a b => by unfold minN; split <;> simp)
    (fun a b _ _ => toNat_minN a b) ws w (by simp)).symm

theorem combine_maxN (w : Word) (ws : List Word) :
    (∀ v ∈ w :: ws, v.toNat ≤ (combine 4 (w :: ws)).toNat) ∧ combine 4 (w :: ws) ∈ w :: ws :=
  (foldl_least (op := maxN) (key := fun v => OrderDual.toDual v.toNat) (P := fun _ => True)
    (fun a b => by unfold maxN; split <;> simp) (fun a b _ _ => toNat_maxN a b) ws w (by simp)).symm

theorem combine_bits (w : Word) (ws : List Word) (k : Nat) :
    (combine 5 (w :: ws)).getLsbD k = (w :: ws).all (·.getLsbD k) ∧
    (combine 6 (w :: ws)).getLsbD k = (w :: ws).any (·.getLsbD k) ∧
    (combine 7 (w :: ws)).getLsbD k = (((w :: ws).countP (·.getLsbD k)) % 2 == 1) := by
  change (ws.foldl (· &&& ·) w).getLsbD k = _ ∧ (ws.foldl (· ||| ·) w).getLsbD k = _ ∧ (ws.foldl (· ^^^ ·) w).getLsbD k = _
  induction ws generalizing w with
  | nil => cases h : w.getLsbD k <;> simp [h]
  | cons x ws ih =>
    simp only [List.foldl_cons, ih, List.all_cons, List.any_cons, List.countP_cons, BitVec.getLsbD_and, BitVec.getLsbD_or,
      BitVec.getLsbD_xor, Bool.and_assoc, Bool.or_assoc, true_and]
    cases w.getLsbD k <;> cases x.getLsbD k <;> simp
    omega

/-! #### The least and greatest of f32 values (R199, R206) -/

/-- A value's place on the extended real line. -/
noncomputable def XVal.line : XVal → EReal
  | .inf true => ⊥
  | .inf false => ⊤
  | x => (Spec.realOf x : EReal)

/-- The order of the least and the greatest: the line, −0 below +0. -/
noncomputable def XVal.rank (x : XVal) : EReal ×ₗ Bool := toLex (x.line, !x.neg?)

theorem line_fin (s : Bool) (m : ℕ) (e : ℤ) : (XVal.fin s m e).line = (Spec.realOf (.fin s m e) : EReal) := rfl

theorem xlt_iff_line {x y : XVal} (hx : x.isNan = false) (hy : y.isNan = false) : xlt x y = true ↔ x.line < y.line := by
  cases x with
  | nan => cases hx
  | inf s =>
    cases y with
    | nan => cases hy
    | inf t => cases s <;> cases t <;> simp [xlt, XVal.line]
    | fin t n e => cases s <;> simp [xlt, XVal.line, EReal.bot_lt_coe]
  | fin s m d =>
    cases y with
    | nan => cases hy
    | inf t => cases t <;> simp [xlt, XVal.line, EReal.coe_lt_top]
    | fin t n e => rw [xlt_fin, line_fin, line_fin, EReal.coe_lt_coe_iff]

theorem rank_le_iff {x y : XVal} : x.rank ≤ y.rank ↔ x.line < y.line ∨ x.line = y.line ∧ (x.neg? = true ∨ y.neg? = false) := by
  rw [XVal.rank, XVal.rank, Prod.Lex.le_iff]
  cases x.neg? <;> cases y.neg? <;> simp

theorem rank_xmin {a b : XVal} (ha : a.isNan = false) (hb : b.isNan = false) :
    (xmin a b).rank ≤ a.rank ∧ (xmin a b).rank ≤ b.rank := by
  simp only [xmin, xlt_iff_line ha hb, xlt_iff_line hb ha]
  rcases lt_trichotomy a.line b.line with h | h | h
  · simp [h, rank_le_iff]
  · cases hs : a.neg? <;> simp [h, hs, rank_le_iff]
  · simp [h, h.not_gt, rank_le_iff]

theorem rank_xmax {a b : XVal} (ha : a.isNan = false) (hb : b.isNan = false) :
    a.rank ≤ (xmax a b).rank ∧ b.rank ≤ (xmax a b).rank := by
  simp only [xmax, xlt_iff_line ha hb, xlt_iff_line hb ha]
  rcases lt_trichotomy a.line b.line with h | h | h
  · simp [h, rank_le_iff]
  · cases hs : a.neg? <;> simp [h, hs, rank_le_iff]
  · simp [h, h.not_gt, rank_le_iff]

theorem xmin_pick (a b : XVal) : xmin a b = a ∨ xmin a b = b := by
  unfold xmin
  split
  · exact .inl rfl
  · split
    · exact .inr rfl
    · split <;> simp

theorem xmax_pick (a b : XVal) : xmax a b = a ∨ xmax a b = b := by
  unfold xmax
  split
  · exact .inr rfl
  · split
    · exact .inl rfl
    · split <;> simp

/-- A lesser word by R206 has a lesser rank. -/
theorem rank_lt_of_less {a b : Word} (ha : (decodeF .f32 a.toNat).isNan = false) (hb : (decodeF .f32 b.toNat).isNan = false)
    (h : xlt (decodeF .f32 a.toNat) (decodeF .f32 b.toNat) = true ∨ (a = 0x80000000 ∧ b = 0)) :
    (decodeF .f32 a.toNat).rank < (decodeF .f32 b.toNat).rank := by
  rw [← not_le, rank_le_iff]
  rcases h with h | ⟨rfl, rfl⟩
  · rw [xlt_iff_line ha hb] at h
    simp [h.not_gt, h.ne']
  · have h1 : decodeF .f32 (0x80000000 : Word).toNat = .fin true 0 (-149) := rfl
    have h2 : decodeF .f32 (0 : Word).toNat = .fin false 0 (-149) := rfl
    rw [h1, h2]
    simp [line_fin, XVal.neg?]

section

variable {ws : List Word}

/-- The value of f32 forms where a lane holds a NaN. -/
theorem combine_nan {w : Word} (h : ws.find? (fun w => (decodeF .f32 w.toNat).isNan) = some w) {q : Nat} (hq : q ∈ [8, 9, 10]) :
    combine q ws = Spec.quiet w := by
  have hnan : (decodeF .f32 w.toNat).isNan = true := List.find?_some (p := fun w : Word => (decodeF .f32 w.toNat).isNan) h
  have hmap : (ws.map fun w => decodeF .f32 w.toNat).find? (·.isNan) = some (decodeF .f32 w.toNat) := by
    rw [List.find?_map]
    exact congrArg (Option.map _) h
  have hword : wordX (decodeF .f32 w.toNat) = Spec.quiet w := by
    cases hd : decodeF .f32 w.toNat with
    | nan s p => exact nanOut_decodeF hd
    | _ => rw [hd] at hnan; cases hnan
  match ws, hmap with
  | x :: xs, hmap =>
    simp only [List.mem_cons, List.not_mem_nil, or_false] at hq
    rcases hq with rfl | rfl | rfl <;> simp only [combine, hmap, hword]

variable (hne : ws ≠ []) (h : ∀ w ∈ ws, (decodeF .f32 w.toNat).isNan = false)

include hne h

theorem combine_fadd : Spec.SumWord (ws.map fun w => decodeF .f32 w.toNat) 1 (combine 8 ws) := by
  have hnan : ∀ x ∈ ws.map fun w => decodeF .f32 w.toNat, x.isNan = false := by simpa using h
  have hscale (x : XVal) : xscale x 0 = x := by cases x <;> simp [xscale]
  have hsum := sumWord_wordX (by simpa using hne) hnan 0
  rw [zpow_zero, hscale] at hsum
  have hfind : (ws.map fun w => decodeF .f32 w.toNat).find? (·.isNan) = none :=
    List.find?_eq_none.2 fun x hx => by simp [hnan x hx]
  obtain ⟨w, rest, rfl⟩ := List.exists_cons_of_ne_nil hne
  simpa only [combine, hfind, if_true] using hsum

/-- A pick by rank among the values of words is the word picked. -/
theorem combine_pick {q : Nat} {op : XVal → XVal → XVal} {β : Type} [LinearOrder β] {key : XVal → β}
    (hq : ∀ w rest, combine q (w :: rest) = match ((w :: rest).map fun w => decodeF .f32 w.toNat).find? (·.isNan) with
      | some x => wordX x
      | none => wordX ((rest.map fun w => decodeF .f32 w.toNat).foldl op (decodeF .f32 w.toNat)))
    (hpick : ∀ a b, op a b = a ∨ op a b = b)
    (hkey : ∀ a b, a.isNan = false → b.isNan = false → key (op a b) ≤ key a ∧ key (op a b) ≤ key b) :
    combine q ws ∈ ws ∧ ∀ w ∈ ws, key (decodeF .f32 (combine q ws).toNat) ≤ key (decodeF .f32 w.toNat) := by
  have hnan : ∀ x ∈ ws.map fun w => decodeF .f32 w.toNat, x.isNan = false := by simpa using h
  have hfind : (ws.map fun w => decodeF .f32 w.toNat).find? (·.isNan) = none :=
    List.find?_eq_none.2 fun x hx => by simp [hnan x hx]
  obtain ⟨w, rest, rfl⟩ := List.exists_cons_of_ne_nil hne
  obtain ⟨hmem, hle⟩ := foldl_least hpick hkey (rest.map fun w : Word => decodeF .f32 w.toNat) (decodeF .f32 w.toNat) hnan
  obtain ⟨v, hv, hval⟩ := List.mem_map.1 (show _ ∈ (w :: rest).map fun w => decodeF .f32 w.toNat from hmem)
  have hcomb : combine q (w :: rest) = v := by
    rw [hq, hfind]
    simp only [← hval]
    exact wordX_decodeF (h v hv)
  rw [hcomb]
  refine ⟨hv, fun u hu => ?_⟩
  simp only [hval]
  exact hle _ (List.mem_map_of_mem (f := fun w : Word => decodeF .f32 w.toNat) hu)

end

theorem laneCombinations : Spec.LaneCombinations := by
  refine ⟨fun q hq => by interval_cases q <;> rfl, fun w ws => ?_, fun ws hne => ?_⟩
  · obtain ⟨h1, h1'⟩ := combine_minS w ws
    obtain ⟨h2, h2'⟩ := combine_maxS w ws
    obtain ⟨h3, h3'⟩ := combine_minN w ws
    obtain ⟨h4, h4'⟩ := combine_maxN w ws
    exact ⟨combine_add w ws, h1, h1', h2, h2', h3, h3', h4, h4', fun k _ => combine_bits w ws k⟩
  · refine ⟨fun q hq w hw => combine_nan hw hq, fun hnone => ?_⟩
    have h : ∀ w ∈ ws, (decodeF .f32 w.toNat).isNan = false := by simpa using List.find?_eq_none.1 hnone
    obtain ⟨hmin, hle⟩ := combine_pick hne h (q := 9) (key := XVal.rank) (fun w rest => rfl) xmin_pick
      fun a b ha hb => rank_xmin ha hb
    obtain ⟨hmax, hge⟩ := combine_pick hne h (q := 10) (key := fun x => OrderDual.toDual x.rank) (fun w rest => rfl) xmax_pick
      fun a b ha hb => rank_xmax ha hb
    exact ⟨combine_fadd hne h, hmin, fun w hw hless => (hle w hw).not_gt (rank_lt_of_less (h w hw) (h _ hmin) hless),
      hmax, fun w hw hless => (hge w hw).not_gt (rank_lt_of_less (h _ hmax) (h w hw) hless)⟩

end Sys2Proof.Machine

/-! ### Cross-lane instructions (R48, R204 to R207) -/

namespace Sys2Proof.Machine

open Sys2Proof.Laws

/-- What is written in lanes that are not active does not matter. -/
theorem WritesLanes.congr {s : State} {y : LCtx} {i : Instr} {vd : VReg} {f g : Nat → Word} (h : Spec.WritesLanes s y i vd f)
    (hfg : ∀ l, l < 32 → y.act.getLsbD l = true → f l = g l) : Spec.WritesLanes s y i vd g := by
  obtain ⟨t, w, hexec, hd, hw, hv⟩ := h
  refine ⟨t, w, hexec, hd, hw, fun r l hl => (hv r l hl).trans ?_⟩
  by_cases hact : y.act.getLsbD l = true
  · rw [hfg l hl hact]
  · rw [if_neg fun c => hact c.2, if_neg fun c => hact c.2]

/-- The lowest active lane. -/
theorem low_eq {y : LCtx} {low : Nat} (hlow : low < 32) (hact : y.act.getLsbD low = true)
    (hbelow : ∀ m, m < low → y.act.getLsbD m = false) : y.low = low := by
  have hfind : (List.range 32).find? (laneIn y.act) = some low :=
    List.find?_range_eq_some.2 ⟨hact, List.mem_range.2 hlow, fun m hm => by simp [laneIn, hbelow m hm]⟩
  rw [LCtx.low, LCtx.lanes, lanesOf, List.headD_eq_head?_getD, List.head?_filter, hfind, Option.getD_some]

theorem hadSign_eq (i k : Nat) :
    hadSign i k = (((List.range 5).countP fun b => i.testBit b && k.testBit b) % 2 == 1) := by
  have hbit (x b : Nat) : bitAt x b = x.testBit b := by
    rw [Nat.testBit_eq_decide_div_mod_eq, bitAt, Bool.eq_iff_iff]
    simp
  simp only [hadSign, hbit, List.countP_eq_length_filter]

/-- What HAD gives a lane of its block of `n` lanes from `base` on (R48, R204). -/
theorem hadWord_eq (a : AluArgs) (w : Warp) {l : Nat} (hl : l < 32) :
    let n := if a.q.getLsbD 0 then 32 else 16
    hadWord a w l = wordX (hadOut ((List.range n).map fun k => decodeF .f32 (w.vv a.va.toNat (l / n * n + k)).toNat) (l % n)
      (if a.q.getLsbD 0 && a.q.getLsbD 1 then -3 else -2)) := by
  unfold hadWord
  cases a.q.getLsbD 0
  · simp only [Bool.false_eq_true, if_false, Bool.false_and]
    rw [show l - l / 16 * 16 = l % 16 by omega]
  · simp only [if_true, Bool.true_and]
    rw [show l / 32 * 32 = 0 by omega, show l - 0 = l % 32 by omega]

section

variable {n : Nat} {A : Nat → Word} {i : Nat} {k : Int}

/-- A Hadamard output over values with a NaN is the first NaN, quieted. -/
theorem hadOut_nan {j : Nat} (hj : j < n) (hnan : (decodeF .f32 (A j).toNat).isNan = true)
    (hbelow : ∀ m, m < j → (decodeF .f32 (A m).toNat).isNan = false) :
    wordX (hadOut ((List.range n).map fun m => decodeF .f32 (A m).toNat) i k) = Spec.quiet (A j) := by
  have hfind : ((List.range n).map fun m => decodeF .f32 (A m).toNat).find? (·.isNan) = some (decodeF .f32 (A j).toNat) := by
    rw [List.find?_map, List.find?_range_eq_some.2 ⟨hnan, List.mem_range.2 hj, fun m hm => by simp [hbelow m hm]⟩]
    rfl
  rw [hadOut, hfind]
  cases hd : decodeF .f32 (A j).toNat with
  | nan s p => exact nanOut_decodeF hd
  | _ => rw [hd] at hnan; cases hnan

/-- A Hadamard output over other values is the exact signed sum, scaled and rounded once. -/
theorem hadOut_sum (hn : 0 < n) (h : ∀ m, m < n → (decodeF .f32 (A m).toNat).isNan = false) :
    Spec.SumWord ((List.range n).map fun m => if hadSign i m then xneg (decodeF .f32 (A m).toNat) else decodeF .f32 (A m).toNat)
      ((2 : ℝ) ^ k) (wordX (hadOut ((List.range n).map fun m => decodeF .f32 (A m).toNat) i k)) := by
  have hfind : ((List.range n).map fun m => decodeF .f32 (A m).toNat).find? (·.isNan) = none :=
    List.find?_eq_none.2 fun x hx => by
      obtain ⟨m, hm, rfl⟩ := List.mem_map.1 hx
      simp [h m (List.mem_range.1 hm)]
  have hterms : ((List.range ((List.range n).map fun m => decodeF .f32 (A m).toNat).length).map fun j =>
      let x := ((List.range n).map fun m => decodeF .f32 (A m).toNat).getD j (.fin false 0 0)
      if hadSign i j then xneg x else x) =
      (List.range n).map fun m => if hadSign i m then xneg (decodeF .f32 (A m).toNat) else decodeF .f32 (A m).toNat := by
    rw [List.length_map, List.length_range]
    refine List.map_congr_left fun m hm => ?_
    have hm := List.mem_range.1 hm
    rw [List.getD_eq_getElem _ _ (by simpa using hm), List.getElem_map, List.getElem_range]
  rw [hadOut, hfind]
  simp only [hterms]
  refine sumWord_wordX (by simp; omega) (fun x hx => ?_) k
  obtain ⟨m, hm, rfl⟩ := List.mem_map.1 hx
  have hx := h m (List.mem_range.1 hm)
  split
  · cases hd : decodeF .f32 (A m).toNat with
    | nan s p => rw [hd] at hx; cases hx
    | _ => rfl
  · exact hx

end

theorem crossLaneResults : Spec.CrossLaneResults := by
  intro s y a A B act
  refine ⟨fun h => ?_, fun h => ?_, fun h low hlow hact hbelow => ?_, fun h => ?_, fun h => ?_, fun h => ?_, fun h => ?_⟩
  · refine WritesLanes.congr (laneOp_ready h a _ (show exec (.shfl a) s = execShfl a s from rfl)) fun l _ _ => ?_
    exact congrArg (fun b : Word => A (b.toNat % 32)) (operandB_eq y a l)
  · refine WritesLanes.congr (laneOp_ready h a _ (show exec (.bfly a) s = execBfly a s from rfl)) fun l _ _ => ?_
    exact congrArg (fun b : Word => A (l ^^^ b.toNat % 32)) (operandB_eq y a l)
  · refine WritesLanes.congr (laneOp_ready h a _ (show exec (.bcast a) s = execBcast a s from rfl)) fun l _ _ => ?_
    change A ((y.b a y.low).toNat % 32) = A (B low)
    rw [low_eq hlow hact hbelow, operandB_eq]
  · exact laneOp_ready h a _ (show exec (.laneid a) s = execLaneid a s from rfl)
  · exact laneOp_ready h a _ (show exec (.redux a) s = execRedux a s from rfl)
  · refine WritesLanes.congr (laneOp_ready h a _ (show exec (.scan a) s = execScan a s from rfl)) fun l _ _ => ?_
    change combine _ ((((List.range 32).filter act).filter fun m =>
      if a.imm.getLsbD 0 then decide (m < l) else decide (m ≤ l)).map A) = _
    rw [List.filter_filter]
    simp only [Bool.and_comm]
  · refine ⟨_, laneOp_ready h a _ (show exec (.had a) s = execHad a s from rfl), fun l hl _ => ?_⟩
    have hn : 0 < if a.q.getLsbD 0 then 32 else 16 := by split <;> decide
    rw [hadWord_eq a _ hl]
    refine ⟨fun k hk hnan hbelow => hadOut_nan hk hnan hbelow, fun hnone => ?_⟩
    have := hadOut_sum (A := fun k => A (l / (if a.q.getLsbD 0 then 32 else 16) * (if a.q.getLsbD 0 then 32 else 16) + k))
      (i := l % if a.q.getLsbD 0 then 32 else 16) (k := if a.q.getLsbD 0 && a.q.getLsbD 1 then -3 else -2) hn hnone
    simp only [hadSign_eq] at this
    have hscale : ((2 : ℝ) ^ (if a.q.getLsbD 0 && a.q.getLsbD 1 then -3 else -2 : ℤ)) =
        if a.q.getLsbD 0 && a.q.getLsbD 1 then 1 / 8 else 1 / 4 := by split <;> norm_num
    rw [hscale] at this
    exact this

/-- Settles O15: a combination picks, folds bits or sums exactly, and the lanes read are those named. -/
theorem crossLaneResultsAndCombinations : Obligations.CrossLaneResultsAndCombinations := ⟨crossLaneResults, laneCombinations⟩

end Sys2Proof.Machine

/-! ### Correctly rounded special functions (R43, R44, R208) -/

namespace Sys2Proof.Machine

open Sys2Proof.Laws

theorem isqrtFrom_spec {x n r : ℕ} (hlow : r * r ≤ x) (hup : x < (r + 2 ^ n) * (r + 2 ^ n)) :
    isqrtFrom x n r * isqrtFrom x n r ≤ x ∧ x < (isqrtFrom x n r + 1) * (isqrtFrom x n r + 1) := by
  induction n generalizing r with
  | zero => exact ⟨hlow, hup⟩
  | succ n ih =>
    rw [isqrtFrom]
    split
    case isTrue h => exact ih h (by rw [pow_succ] at hup; convert hup using 2 <;> ring)
    case isFalse h => exact ih hlow (not_le.1 h)

/-- The integer square root (R43). -/
theorem isqrt_spec {x : ℕ} (h : x < 2 ^ 140) : isqrt x * isqrt x ≤ x ∧ x < (isqrt x + 1) * (isqrt x + 1) :=
  isqrtFrom_spec (Nat.zero_le _) (by rw [zero_add, ← pow_add]; exact h)

/-- A quotient or root cut off to an integer stands, with its sticky bit, for its exact value. -/
theorem stands_sticky {q : ℕ} {exact : Bool} {e : ℤ} {v x : ℝ} (hv : v = x * (2 : ℝ) ^ (e + 1)) (hq : 2 ^ 24 ≤ q)
    (hx : (exact = true → x = q) ∧ (exact = false → q < x ∧ x < q + 1)) : Stands (sticky q exact) e v := by
  have he : (0 : ℝ) < 2 ^ e := by positivity
  rw [zpow_add_one₀ two_ne_zero] at hv
  cases exact
  · obtain ⟨h1, h2⟩ := hx.2 rfl
    right
    simp only [sticky, Bool.false_eq_true, if_false]
    refine ⟨by omega, by omega, ?_⟩
    rw [hv, abs_lt]
    push_cast
    constructor <;> nlinarith
  · left
    rw [hv, hx.1 rfl]
    simp only [sticky, if_true]
    push_cast
    ring

section

variable {m : ℕ} {e : ℤ}

theorem stands_recipX (hm : m ≠ 0) (hlt : m < 2 ^ 24) : Stands (recipX m e).1 (recipX m e).2 (1 / (m * (2 : ℝ) ^ e)) := by
  have hm0 : (0 : ℝ) < m := by exact_mod_cast Nat.pos_of_ne_zero hm
  refine stands_sticky (x := 2 ^ 64 / m) ?_ ?_ ⟨fun h => ?_, fun h => ?_⟩
  · change 1 / (m * (2 : ℝ) ^ e) = 2 ^ 64 / m * (2 : ℝ) ^ (-64 - e - 1 + 1)
    rw [sub_add_cancel, zpow_sub₀ two_ne_zero]
    field_simp
  · rw [Nat.le_div_iff_mul_le (Nat.pos_of_ne_zero hm)]
    nlinarith
  · rw [div_eq_iff hm0.ne']
    exact_mod_cast (beq_iff_eq.1 h).symm
  · have hne := beq_eq_false_iff_ne.1 h
    have hle : 2 ^ 64 / m * m < 2 ^ 64 := lt_of_le_of_ne (Nat.div_mul_le_self _ _) hne
    have hup : 2 ^ 64 < (2 ^ 64 / m + 1) * m := by
      rw [mul_comm]
      exact Nat.lt_mul_div_succ _ (Nat.pos_of_ne_zero hm)
    rw [lt_div_iff₀ hm0, div_lt_iff₀ hm0]
    exact ⟨by exact_mod_cast hle, by exact_mod_cast hup⟩

/-- An integer square root with its sticky bit, of a real whose floor it is taken of. -/
theorem sticky_sqrt {q : ℕ} {exact : Bool} {y : ℝ} (hlow : (q : ℝ) * q ≤ y) (hup : y < (q + 1 : ℝ) * (q + 1))
    (hexact : exact = true ↔ (q : ℝ) * q = y) :
    (exact = true → Real.sqrt y = q) ∧ (exact = false → q < Real.sqrt y ∧ Real.sqrt y < q + 1) := by
  refine ⟨fun h => ?_, fun h => ⟨?_, ?_⟩⟩
  · rw [← hexact.1 h, Real.sqrt_mul_self (by positivity)]
  · refine Real.lt_sqrt_of_sq_lt ?_
    rw [pow_two]
    refine lt_of_le_of_ne hlow fun he => ?_
    rw [hexact.2 he] at h
    cases h
  · rw [Real.sqrt_lt' (by positivity), pow_two]
    exact hup

/-- m × 2^e with an even exponent, as the roots take it. -/
def evenForm (m : ℕ) (e : ℤ) : ℕ × ℤ := if e % 2 = 0 then (m, e) else (2 * m, e - 1)

theorem evenForm_spec (m : ℕ) (e : ℤ) : ∃ n h, evenForm m e = (n, 2 * h) ∧ (m ≠ 0 → n ≠ 0) ∧ n ≤ 2 * m ∧
    (m : ℝ) * (2 : ℝ) ^ e = n * ((2 : ℝ) ^ h * (2 : ℝ) ^ h) := by
  unfold evenForm
  split
  case isTrue he =>
    obtain ⟨h, rfl⟩ : ∃ h, e = 2 * h := ⟨e / 2, by omega⟩
    exact ⟨m, h, rfl, id, by omega, by rw [two_mul, zpow_add₀ two_ne_zero]⟩
  case isFalse he =>
    obtain ⟨h, rfl⟩ : ∃ h, e = 2 * h + 1 := ⟨e / 2, by omega⟩
    refine ⟨2 * m, h, by simp, by omega, le_rfl, ?_⟩
    rw [zpow_add_one₀ two_ne_zero, two_mul, zpow_add₀ two_ne_zero]
    push_cast
    ring

theorem sqrt_mul_sq {n : ℕ} (h : ℤ) : Real.sqrt (n * ((2 : ℝ) ^ h * (2 : ℝ) ^ h)) = Real.sqrt n * (2 : ℝ) ^ h := by
  rw [Real.sqrt_mul (by positivity), Real.sqrt_mul_self (by positivity)]

theorem stands_sqrtX (hm : m ≠ 0) (hlt : m < 2 ^ 24) : Stands (sqrtX m e).1 (sqrtX m e).2 (Real.sqrt (m * (2 : ℝ) ^ e)) := by
  obtain ⟨n, h, hform, hn, hle, hv⟩ := evenForm_spec m e
  have hX : sqrtX m e = (sticky (isqrt (n * 2 ^ 60)) (isqrt (n * 2 ^ 60) * isqrt (n * 2 ^ 60) == n * 2 ^ 60), h - 30 - 1) := by
    have : sqrtX m e = (let p := evenForm m e
      (sticky (isqrt (p.1 * 2 ^ 60)) (isqrt (p.1 * 2 ^ 60) * isqrt (p.1 * 2 ^ 60) == p.1 * 2 ^ 60), p.2 / 2 - 30 - 1)) := by
      unfold sqrtX evenForm; by_cases h : e % 2 = 0 <;> simp only [h, if_true, if_false]
    rw [this, hform]
    simp
  obtain ⟨hlow, hup⟩ := isqrt_spec (x := n * 2 ^ 60)
    ((Nat.mul_lt_mul_of_pos_right (show n < 2 ^ 25 by omega) (by positivity)).trans (by norm_num))
  rw [hX, hv, sqrt_mul_sq]
  generalize isqrt (n * 2 ^ 60) = q at hlow hup
  have hpow : ((n * 2 ^ 60 : ℕ) : ℝ) = (n : ℝ) * (2 ^ 30 * 2 ^ 30) := by push_cast; ring
  refine stands_sticky (x := Real.sqrt ((n * 2 ^ 60 : ℕ) : ℝ)) ?_ ?_
    (sticky_sqrt (by exact_mod_cast hlow) (by exact_mod_cast hup) (by rw [beq_iff_eq]; norm_cast))
  · rw [hpow, Real.sqrt_mul (by positivity), Real.sqrt_mul_self (by positivity), sub_add_cancel, zpow_sub₀ two_ne_zero]
    field_simp
  · have := Nat.pos_of_ne_zero (hn hm)
    nlinarith

theorem stands_rsqX (hm : m ≠ 0) (hlt : m < 2 ^ 24) : Stands (rsqX m e).1 (rsqX m e).2 (1 / Real.sqrt (m * (2 : ℝ) ^ e)) := by
  obtain ⟨n, h, hform, hn, hle, hv⟩ := evenForm_spec m e
  have hn0 := Nat.pos_of_ne_zero (hn hm)
  have hX : rsqX m e = (sticky (isqrt (2 ^ 120 / n)) (isqrt (2 ^ 120 / n) * isqrt (2 ^ 120 / n) * n == 2 ^ 120), -h - 60 - 1) := by
    have : rsqX m e = (let p := evenForm m e
      (sticky (isqrt (2 ^ 120 / p.1)) (isqrt (2 ^ 120 / p.1) * isqrt (2 ^ 120 / p.1) * p.1 == 2 ^ 120), -(p.2 / 2) - 60 - 1)) := by
      unfold rsqX evenForm; by_cases h : e % 2 = 0 <;> simp only [h, if_true, if_false]
    rw [this, hform]
    simp
  obtain ⟨hlow, hup⟩ := isqrt_spec (x := 2 ^ 120 / n) ((Nat.div_le_self _ _).trans_lt (by norm_num))
  rw [hX, hv, sqrt_mul_sq]
  have hbig : 2 ^ 95 ≤ 2 ^ 120 / n := by rw [Nat.le_div_iff_mul_le hn0]; omega
  generalize isqrt (2 ^ 120 / n) = q at hlow hup
  rw [Nat.le_div_iff_mul_le hn0] at hlow
  have hup' : 2 ^ 120 < (q + 1) * (q + 1) * n := (Nat.div_lt_iff_lt_mul hn0).1 hup
  have hnr : (0 : ℝ) < n := by exact_mod_cast hn0
  refine stands_sticky (x := Real.sqrt (2 ^ 120 / n)) ?_ ?_ (sticky_sqrt ?_ ?_ ?_)
  · rw [Real.sqrt_div (by positivity), show (2 : ℝ) ^ 120 = 2 ^ 60 * 2 ^ 60 by norm_num, Real.sqrt_mul_self (by positivity),
      sub_add_cancel, zpow_sub₀ two_ne_zero, zpow_neg]
    field_simp
  · nlinarith
  · rw [le_div_iff₀ hnr]; exact_mod_cast hlow
  · rw [div_lt_iff₀ hnr]; exact_mod_cast hup'
  · rw [beq_iff_eq, eq_div_iff hnr.ne']; norm_cast

end

end Sys2Proof.Machine

/-! ### Exact and special results (R43, R44, R208) -/

namespace Sys2Proof.Machine

open Sys2Proof.Laws

/-- Every number of 24 bits at or above the least exponent is a finite f32 magnitude. -/
theorem exists_mag {a : ℕ} {d : ℤ} (ha : a < 2 ^ 24) (hd : -149 ≤ d) (hbig : a * (2 : ℝ) ^ d < 2 ^ (128 : ℤ)) :
    ∃ k, k ≤ Fmt.f32.maxCode ∧ a * (2 : ℝ) ^ d = Fmt.f32.mag k := by
  have hany (E : ℕ) : ∀ a : ℕ, a < 2 ^ 24 → ∃ k, a * (2 : ℝ) ^ (-149 + E : ℤ) = Fmt.f32.mag k := by
    induction E with
    | zero => exact fun a ha => ⟨_, (mag_units .f32 (E := 0) (n := a) ha.le (.inl rfl)).symm⟩
    | succ E ih =>
      intro a ha
      rcases Nat.lt_or_ge a (2 ^ 23) with h | h
      · obtain ⟨k, hk⟩ := ih (2 * a) (by omega)
        refine ⟨k, hk ▸ ?_⟩
        push_cast
        rw [show (-149 + ((E : ℤ) + 1)) = (-149 + E) + 1 by ring, zpow_add_one₀ two_ne_zero]
        ring
      · exact ⟨_, (mag_units .f32 (E := E + 1) (n := a) ha.le (.inr h)).symm⟩
  obtain ⟨k, hk⟩ := hany (d + 149).toNat a ha
  rw [show (-149 + ((d + 149).toNat : ℤ)) = d by omega] at hk
  refine ⟨k, ?_, hk⟩
  have htop : Fmt.f32.mag (Fmt.f32.maxCode + 1) = 2 ^ (128 : ℤ) := by
    norm_num [Fmt.mag, Fmt.maxCode, Fmt.mbits, Fmt.qmin, Fmt.bias]
  rw [hk, ← htop, (mag_strictMono .f32).lt_iff_lt] at hbig
  exact Nat.lt_succ_iff.1 hbig

/-- A value that f32 holds is its own rounding. -/
theorem realOf_wordX {neg : Bool} {m : ℕ} {e : ℤ} {k : ℕ} (hk : k ≤ Fmt.f32.maxCode) (h : m * (2 : ℝ) ^ e = Fmt.f32.mag k) :
    Spec.realOf (decodeF .f32 (wordX (.fin neg m e)).toNat) = Spec.realOf (.fin neg m e) := by
  obtain ⟨n, d, hd, hv, -⟩ := decodeF_code .f32 neg hk
  rw [wordX_toNat, roundF_of_mag neg hk h, hd, realOf_fin, realOf_fin, mul_assoc, mul_assoc, hv, h]

section

variable {w : Word} {neg : Bool} {m : ℕ} {e : ℤ} (hd : decodeF .f32 w.toNat = .fin neg m e) (hm : m ≠ 0)

include hd hm

theorem specialFn_rcp : specialFn 0 w = wordX (.fin neg (recipX m e).1 (recipX m e).2) := by
  simp only [specialFn, hd, if_neg hm]

theorem specialFn_rsq : specialFn 1 w = if neg then wordX xDefault else wordX (.fin false (rsqX m e).1 (rsqX m e).2) := by
  simp only [specialFn, hd, if_neg hm]

theorem specialFn_sqrt : specialFn 2 w = if neg then wordX xDefault else wordX (.fin false (sqrtX m e).1 (sqrtX m e).2) := by
  simp only [specialFn, hd, if_neg hm]

theorem specialFn_exp2 : specialFn 3 w =
    if !neg && !xlt (.fin false m e) (.fin false 128 0) then wordX (.inf false)
    else if neg && !xlt (.fin false m e) (.fin false 150 0) then 0
    else if toFx m e % fx = 0 then wordX (exp2X neg m e) else boundedWord 3 w (exp2X neg m e) := by
  simp only [specialFn, hd, if_neg hm]

theorem specialFn_log2 : specialFn 4 w =
    if neg then wordX xDefault
    else if m = 2 ^ Nat.log2 m then wordX (log2X m e) else boundedWord 4 w (log2X m e) := by
  simp only [specialFn, hd, if_neg hm]

theorem specialFn_tanh : specialFn 7 w =
    if xlt (.fin false m e) (.fin false 10 0) then boundedWord 7 w (.fin neg (tanhX m e) (-320)) else wordX (.fin neg 1 0) := by
  simp only [specialFn, hd, if_neg hm]

end

/-- A magnitude against a number. -/
theorem xlt_mag_iff (m : ℕ) (e : ℤ) (n : ℕ) : xlt (.fin false m e) (.fin false n 0) = true ↔ m * (2 : ℝ) ^ e < n := by
  rw [xlt_fin]
  simp

/-- A fixed-point number of an exponent within the fraction bits is exact. -/
theorem toFx_eq {m : ℕ} {e : ℤ} (he : -320 ≤ e) : (toFx m e : ℝ) = m * (2 : ℝ) ^ e * fx := by
  obtain ⟨n, rfl⟩ : ∃ n : ℕ, e = n - 320 := ⟨(e + 320).toNat, by omega⟩
  rw [toFx, show ((n : ℤ) - 320 + 320).toNat = n by omega, show (-((n : ℤ) - 320 + 320)).toNat = 0 by omega, pow_zero,
    Nat.div_one, zpow_sub₀ two_ne_zero, fx, Nat.cast_mul, Nat.cast_pow, Nat.cast_pow, Nat.cast_ofNat,
    zpow_natCast, show (320 : ℤ) = ((320 : ℕ) : ℤ) from rfl, zpow_natCast]
  field_simp

theorem toFx_of_nat {m : ℕ} {e : ℤ} {n : ℕ} (he : -320 ≤ e) (h : m * (2 : ℝ) ^ e = n) : toFx m e = n * fx := by
  have := toFx_eq (m := m) he
  rw [h] at this
  exact_mod_cast this

theorem expTerms_zero (t n k : ℕ) : expTerms t n k 0 = 0 := by
  induction n generalizing k with
  | zero => rfl
  | succ n ih => simp [expTerms, ih]

theorem fxExp_zero : fxExp 0 = fx := by
  rw [fxExp, expTerms, mul_zero, Nat.zero_div, Nat.zero_div, expTerms_zero, add_zero]

theorem log2Bits_one (n : ℕ) : log2Bits n fx 0 = 0 := by
  induction n with
  | zero => rfl
  | succ n ih =>
    have hpos : 0 < fx := by unfold fx; positivity
    rw [log2Bits, Nat.mul_div_cancel _ hpos, if_neg (by omega), ih]

section

variable {w : Word} {neg : Bool} {m : ℕ} {e : ℤ} (hd : decodeF .f32 w.toNat = .fin neg m e) (hm : m ≠ 0)

include hd hm

theorem rounds_rcp : Spec.Rounds .f32 neg |1 / Spec.realOf (.fin neg m e)| (specialFn 0 w).toNat := by
  have habs : |1 / Spec.realOf (.fin neg m e)| = 1 / (m * (2 : ℝ) ^ e) := by
    rw [abs_div, abs_one, ← realOf_xabs, xabs, realOf_fin]
    simp
  rw [specialFn_rcp hd hm, wordX_toNat, habs]
  exact roundF_rounds .f32 neg (stands_recipX hm (fin_of_word hd).1)

theorem roots_of_negative (hneg : neg = true) :
    specialFn 1 w = 0x7FC00000 ∧ specialFn 2 w = 0x7FC00000 ∧ specialFn 4 w = 0x7FC00000 := by
  rw [specialFn_rsq hd hm, specialFn_sqrt hd hm, specialFn_log2 hd hm, if_pos hneg, if_pos hneg, if_pos hneg]
  exact ⟨rfl, rfl, rfl⟩

theorem rounds_roots (hneg : neg = false) :
    Spec.Rounds .f32 false (1 / Real.sqrt (Spec.realOf (.fin neg m e))) (specialFn 1 w).toNat ∧
    Spec.Rounds .f32 false (Real.sqrt (Spec.realOf (.fin neg m e))) (specialFn 2 w).toNat := by
  subst hneg
  have hlt := (fin_of_word hd).1
  rw [specialFn_rsq hd hm, specialFn_sqrt hd hm, if_neg Bool.false_ne_true, if_neg Bool.false_ne_true, wordX_toNat, wordX_toNat]
  simp only [realOf_fin, Bool.false_eq_true, if_false, one_mul]
  exact ⟨roundF_rounds .f32 false (stands_rsqX hm hlt), roundF_rounds .f32 false (stands_sqrtX hm hlt)⟩

theorem exp2_of_large (h : 128 ≤ Spec.realOf (.fin neg m e)) : specialFn 3 w = 0x7F800000 := by
  have hpos : 0 ≤ (m : ℝ) * (2 : ℝ) ^ e := by positivity
  cases neg
  · have hlt : xlt (.fin false m e) (.fin false 128 0) = false := by
      rw [← Bool.not_eq_true, xlt_mag_iff]
      simpa using h
    rw [specialFn_exp2 hd hm, hlt]
    rfl
  · simp only [realOf_fin, if_true, neg_mul, one_mul] at h
    linarith

theorem exp2_of_small (h : Spec.realOf (.fin neg m e) ≤ -150) : specialFn 3 w = 0 := by
  have hpos : 0 ≤ (m : ℝ) * (2 : ℝ) ^ e := by positivity
  cases neg
  · simp only [realOf_fin, Bool.false_eq_true, if_false, one_mul] at h
    linarith
  · simp only [realOf_fin, if_true, neg_mul, one_mul] at h
    have hlt : xlt (.fin false m e) (.fin false 150 0) = false := by
      rw [← Bool.not_eq_true, xlt_mag_iff]
      push_cast
      linarith
    rw [specialFn_exp2 hd hm, hlt]
    rfl

theorem tanh_of_large : (10 ≤ Spec.realOf (.fin neg m e) → specialFn 7 w = 0x3F800000) ∧
    (Spec.realOf (.fin neg m e) ≤ -10 → specialFn 7 w = 0xBF800000) := by
  have hpos : 0 ≤ (m : ℝ) * (2 : ℝ) ^ e := by positivity
  have hbig (h : 10 ≤ (m : ℝ) * (2 : ℝ) ^ e) : specialFn 7 w = wordX (.fin neg 1 0) := by
    rw [specialFn_tanh hd hm, if_neg]
    rw [xlt_mag_iff]
    push_cast
    linarith
  cases neg <;> simp only [realOf_fin, Bool.false_eq_true, if_false, if_true, neg_mul, one_mul] at hbig ⊢
  · exact ⟨fun h => (hbig h).trans rfl, fun h => by linarith⟩
  · exact ⟨fun h => by linarith, fun h => (hbig (by linarith)).trans rfl⟩

/-- EXP2 of an integer is exact (R43). -/
theorem exp2_of_int {n : ℤ} (h1 : -149 ≤ n) (h2 : n ≤ 127) (hv : Spec.realOf (.fin neg m e) = n) :
    Spec.realOf (decodeF .f32 (specialFn 3 w).toNat) = (2 : ℝ) ^ n := by
  obtain ⟨-, he, -⟩ := fin_of_word hd
  obtain ⟨k, hk, hmag⟩ := exists_mag (a := 1) (d := n) (by norm_num) h1
    (by rw [Nat.cast_one, one_mul]; exact zpow_lt_zpow_right₀ one_lt_two (by omega))
  have hfx : 0 < fx := by unfold fx; positivity
  have hfxr : (fx : ℝ) = (2 : ℝ) ^ (320 : ℤ) := by unfold fx; rw [Nat.cast_pow]; rfl
  cases neg
  case false =>
    obtain ⟨a, rfl⟩ : ∃ a : ℕ, n = a := by
      refine ⟨n.toNat, (Int.toNat_of_nonneg ?_).symm⟩
      have : (0 : ℝ) ≤ n := by rw [← hv]; simp only [realOf_fin, Bool.false_eq_true, if_false, one_mul]; positivity
      exact_mod_cast this
    have hva : (m : ℝ) * (2 : ℝ) ^ e = a := by simpa using hv
    have hlt : xlt (.fin false m e) (.fin false 128 0) = true := by
      rw [xlt_mag_iff, hva]
      exact_mod_cast (by omega : a < 128)
    have hX : exp2X false m e = .fin false fx ((a : ℤ) - 320) := by
      simp only [exp2X, toFx_of_nat (by omega) hva, Nat.mul_div_cancel _ hfx, Nat.mul_mod_left, Nat.zero_mul, Nat.zero_div,
        fxExp_zero, Bool.false_eq_true, if_false]
    have hvalue : (fx : ℝ) * (2 : ℝ) ^ ((a : ℤ) - 320) = (2 : ℝ) ^ (a : ℤ) := by
      rw [hfxr, ← zpow_add₀ two_ne_zero]
      congr 1
      ring
    rw [specialFn_exp2 hd hm, hlt, hX, if_neg (by decide), if_neg (by simp), if_pos (by rw [toFx_of_nat (by omega) hva, Nat.mul_mod_left]),
      realOf_wordX hk (by rw [hvalue, ← hmag, Nat.cast_one, one_mul])]
    simpa using hvalue
  case true =>
    obtain ⟨a, rfl⟩ : ∃ a : ℕ, n = -(a : ℤ) := by
      refine ⟨(-n).toNat, ?_⟩
      have : (n : ℝ) ≤ 0 := by
        rw [← hv]
        simp only [realOf_fin, if_true, neg_mul, one_mul, Left.neg_nonpos_iff]
        positivity
      have : n ≤ 0 := by exact_mod_cast this
      omega
    have hva : (m : ℝ) * (2 : ℝ) ^ e = a := by simpa using hv
    have hlt : xlt (.fin false m e) (.fin false 150 0) = true := by
      rw [xlt_mag_iff, hva]
      exact_mod_cast (by omega : a < 150)
    have hX : exp2X true m e = .fin false 1 (-(a : ℤ)) := by
      simp only [exp2X, toFx_of_nat (by omega) hva, Nat.mul_div_cancel _ hfx, Nat.mul_mod_left, if_true]
    rw [specialFn_exp2 hd hm, hlt, hX, if_neg (by simp), if_neg (by simp), if_pos (by rw [toFx_of_nat (by omega) hva, Nat.mul_mod_left]),
      realOf_wordX hk hmag]
    simp

/-- LOG2 of a power of two is exact (R43). -/
theorem log2_of_pow {n : ℤ} (h1 : -149 ≤ n) (h2 : n ≤ 127) (hv : Spec.realOf (.fin neg m e) = (2 : ℝ) ^ n) :
    Spec.realOf (decodeF .f32 (specialFn 4 w).toNat) = n := by
  have hfx : 0 < fx := by unfold fx; positivity
  cases neg
  case true =>
    have h1 : 0 ≤ (m : ℝ) * (2 : ℝ) ^ e := by positivity
    have h2 : (0 : ℝ) < (2 : ℝ) ^ n := by positivity
    simp only [realOf_fin, if_true, neg_mul, one_mul] at hv
    linarith
  have hv : (m : ℝ) * (2 : ℝ) ^ e = (2 : ℝ) ^ n := by simpa using hv
  have hmz : (m : ℝ) = (2 : ℝ) ^ (n - e) := by rw [zpow_sub₀ two_ne_zero, ← hv, mul_div_assoc, div_self (by positivity), mul_one]
  have hle : 0 ≤ n - e := by
    by_contra hlt
    have h1 : (1 : ℝ) ≤ m := by exact_mod_cast Nat.pos_of_ne_zero hm
    have h2 : (2 : ℝ) ^ (n - e) < 1 := zpow_lt_one_of_neg₀ one_lt_two (not_le.1 hlt)
    linarith
  obtain ⟨j, hj⟩ : ∃ j : ℕ, n - e = j := ⟨(n - e).toNat, (Int.toNat_of_nonneg hle).symm⟩
  obtain rfl : m = 2 ^ j := by
    rw [hj, zpow_natCast] at hmz
    exact_mod_cast hmz
  obtain rfl : n = e + j := by omega
  have hX : log2X (2 ^ j) e = xOfInt ((e + j) * 2 ^ 100) (-100) false := by
    simp only [log2X, Nat.log2_two_pow, Nat.mul_div_cancel_left _ (show 0 < 2 ^ j by positivity), log2Bits_one, Nat.cast_zero, add_zero]
  obtain ⟨k, hk, hmag⟩ := exists_mag (a := (e + j).natAbs) (d := 0) (by omega) (by norm_num) (by
    rw [zpow_zero, mul_one]
    refine lt_trans (b := ((2 ^ 24 : ℕ) : ℝ)) (by exact_mod_cast (by omega : (e + j).natAbs < 2 ^ 24)) (by norm_num))
  have hval := realOf_xOfInt ((e + j) * 2 ^ 100) (-100) false
  rw [specialFn_log2 hd hm, if_neg Bool.false_ne_true, if_pos (by rw [Nat.log2_two_pow]), hX]
  rw [xOfInt] at hval ⊢
  rw [realOf_wordX hk, hval]
  · push_cast
    rw [mul_assoc]
    norm_num
  · rw [← hmag, Int.natAbs_mul]
    push_cast
    rw [zpow_zero, mul_one, mul_assoc]
    norm_num

end

theorem specialFunctionResults : Spec.SpecialFunctionResults := by
  refine ⟨fun s y a i fn hi h => specialFn_ready hi h, fun fn w _ hnan => ?_, rfl, ?_⟩
  · cases hd : decodeF .f32 w.toNat with
    | nan s p =>
      rw [← nanOut_decodeF hd]
      simp only [specialFn, hd]
    | _ => rw [hd] at hnan; cases hnan
  · intro w neg m e hd hm v
    exact ⟨rounds_rcp hd hm, roots_of_negative hd hm, rounds_roots hd hm, fun n h1 h2 hv => exp2_of_int hd hm h1 h2 hv,
      fun n h1 h2 hv => log2_of_pow hd hm h1 h2 hv, exp2_of_large hd hm, exp2_of_small hd hm, (tanh_of_large hd hm).1,
      (tanh_of_large hd hm).2⟩

end Sys2Proof.Machine

/-! ### What a conversion gives (R35 to R37, R161, R202) -/

namespace Sys2Proof.Machine

open Sys2Proof.Laws

theorem numType_of_int {c n : Nat} {s : Bool} (h : (c, s, n) ∈ Spec.intTypes) :
    numType c = some (.int s n) ∧ n ∈ [8, 16, 32, 64] := by
  simp only [Spec.intTypes, List.mem_cons, Prod.mk.injEq, List.not_mem_nil, or_false] at h
  rcases h with ⟨rfl, rfl, rfl⟩ | ⟨rfl, rfl, rfl⟩ | ⟨rfl, rfl, rfl⟩ | ⟨rfl, rfl, rfl⟩ | ⟨rfl, rfl, rfl⟩ | ⟨rfl, rfl, rfl⟩ |
    ⟨rfl, rfl, rfl⟩ | ⟨rfl, rfl, rfl⟩ <;> exact ⟨rfl, by decide⟩

theorem numType_of_float {c : Nat} {f : Fmt} (h : (c, f) ∈ Spec.floatTypes) : numType c = some (.flt f) := by
  simp only [Spec.floatTypes, List.mem_cons, Prod.mk.injEq, List.not_mem_nil, or_false] at h
  rcases h with ⟨rfl, rfl⟩ | ⟨rfl, rfl⟩ | ⟨rfl, rfl⟩ | ⟨rfl, rfl⟩ | ⟨rfl, rfl⟩ | ⟨rfl, rfl⟩ <;> rfl

theorem cvtBits_eq {imm : Word} {src tgt : NumType} (hs : numType (imm.toNat / 256 % 256) = some src)
    (ht : numType (imm.toNat % 256) = some tgt) (x : Nat) : cvtBits imm x = convert src tgt x := by
  simp only [cvtBits, hs, ht]

/-- The integer of a type's low bits. -/
theorem intOf_eq (s : Bool) {n : Nat} (hn : n ∈ [8, 16, 32, 64]) (x : Nat) :
    intOf s n x = if s then (BitVec.ofNat n x).toInt else (BitVec.ofNat n x).toNat := by
  simp only [List.mem_cons, List.not_mem_nil, or_false] at hn
  cases s
  · simp [intOf]
  · simp only [intOf, Bool.true_and, decide_eq_true_eq, if_true, BitVec.toInt_eq_toNat_cond, BitVec.toNat_ofNat]
    rcases hn with rfl | rfl | rfl | rfl <;> norm_num <;> split <;> split <;> omega

theorem saturate_eq (t : Bool) (k : Nat) (i : Int) :
    saturate t k i = if i < intMin t k then intMin t k else if intMax t k < i then intMax t k else i := by
  have hpow : (0 : Int) < 2 ^ (k - 1) ∧ (0 : Int) < 2 ^ k := ⟨by positivity, by positivity⟩
  have hle : intMin t k ≤ intMax t k := by unfold intMin intMax; split <;> omega
  unfold saturate
  split <;> [skip; split] <;> omega

/-- A number that fits fewer bits reads the same in them. -/
theorem toNat_ofInt_of_fits {n : Nat} {r : Int} (h0 : 0 ≤ r) (h : r < 2 ^ n) : (BitVec.ofInt n r).toNat = r.toNat := by
  rw [BitVec.toNat_ofInt, Int.emod_eq_of_lt h0 (by exact_mod_cast h)]

/-- The register bits of a saturated integer (R36, R202). -/
theorem intBits_saturate (t : Bool) {k : Nat} (hk : k ∈ [8, 16, 32, 64]) (i : Int) :
    intBits t k (saturate t k i) = Spec.intWord t k i := by
  change _ = if k = 64 then (BitVec.ofInt 64 (if i < intMin t k then intMin t k else if intMax t k < i then intMax t k else i)).toNat
    else (BitVec.ofInt 32 (if i < intMin t k then intMin t k else if intMax t k < i then intMax t k else i)).toNat
  rw [← saturate_eq, intBits]
  split
  · rfl
  · cases t
    · have hk32 : k ≤ 32 := by simp only [List.mem_cons, List.not_mem_nil, or_false] at hk; omega
      have hpow : (2 : Int) ^ k ≤ 2 ^ 32 := pow_le_pow_right₀ one_le_two hk32
      have hpos : (0 : Int) < 2 ^ k := by positivity
      have hr : 0 ≤ saturate false k i ∧ saturate false k i < 2 ^ k := by
        simp only [saturate, intMin, intMax, Bool.false_eq_true, if_false]
        omega
      rw [if_neg Bool.false_ne_true, toNat_ofInt_of_fits hr.1 hr.2, toNat_ofInt_of_fits hr.1 (hr.2.trans_le hpow)]
    · rfl

theorem convert_int_float (f : Fmt) (i : Int) :
    Spec.Rounds f (decide (i < 0)) |(i : ℝ)| (roundF f (xOfInt i 0 false)) := by
  have habs : (|(i : ℝ)|) = (i.natAbs : ℝ) * (2 : ℝ) ^ (0 : ℤ) := by rw [Nat.cast_natAbs, Int.cast_abs, zpow_zero, mul_one]
  simpa [xOfInt] using roundF_rounds f (decide (i < 0)) (m := i.natAbs) (e := 0) (.inl habs)

/-- A rounding of a nonnegative number to an integer is nearer than every other integer, or as near and by the tie rule. -/
theorem RoundsInt.nearest {rna : Bool} {x : ℝ} {n : ℕ} (hx : 0 ≤ x) (h : RoundsInt rna x n) {j : ℤ} (hj : j ≠ n) :
    |(n : ℝ) - x| < |(j : ℝ) - x| ∨ |(n : ℝ) - x| = |(j : ℝ) - x| ∧ if rna then |j| < (n : ℤ) else n % 2 = 0 := by
  obtain ⟨hd, htie⟩ := h
  have hone : (1 : ℝ) ≤ |(j : ℝ) - n| := by
    have : 1 ≤ |j - n| := Int.one_le_abs (sub_ne_zero.2 hj)
    exact_mod_cast this
  have htri : |(j : ℝ) - n| ≤ |(j : ℝ) - x| + |x - n| := abs_sub_le _ _ _
  rw [abs_sub_comm (n : ℝ)]
  rcases (show |x - n| ≤ |(j : ℝ) - x| by linarith).lt_or_eq with h | h
  · exact .inl h
  · refine .inr ⟨h, ?_⟩
    have hhalf : |x - n| = 1 / 2 := by linarith
    have htie := htie hhalf
    split at htie
    case isFalse hr => rwa [if_neg hr]
    case isTrue hr =>
      rw [if_pos hr]
      have hxn : x = n - 1 / 2 := by rw [abs_of_neg (sub_neg.2 htie)] at hhalf; linarith
      rw [hhalf, hxn] at h
      have hjn : (j : ℝ) = (n - 1 : ℤ) := by
        have hne : (j : ℝ) ≠ n := by exact_mod_cast hj
        push_cast
        rcases abs_cases ((j : ℝ) - (n - 1 / 2)) with hc | hc
        · exact absurd (by linarith) hne
        · linarith
      have hjn : j = n - 1 := by exact_mod_cast hjn
      have hn : 0 < n := by
        have : (0 : ℝ) < n := by linarith
        exact_mod_cast this
      rw [hjn, abs_of_nonneg (by omega)]
      omega

/-- A finite value as an integer (R35, R202). -/
theorem roundInt_fin (rna neg : Bool) (m : ℕ) (e : ℤ) : ∃ i : ℤ, roundInt rna (.fin neg m e) = some i ∧ ∀ j : ℤ, j ≠ i →
    |(i : ℝ) - Spec.realOf (.fin neg m e)| < |(j : ℝ) - Spec.realOf (.fin neg m e)| ∨
    (|(i : ℝ) - Spec.realOf (.fin neg m e)| = |(j : ℝ) - Spec.realOf (.fin neg m e)| ∧ if rna then |j| < |i| else i % 2 = 0) := by
  have hround : RoundsInt rna (m * (2 : ℝ) ^ e) (roundTo rna m e 0) := by
    simpa using roundsInt_roundTo rna (q := 0) (.inl rfl : Stands m e _) (.inl rfl)
  have hx : 0 ≤ (m : ℝ) * (2 : ℝ) ^ e := by positivity
  refine ⟨_, rfl, fun j hj => ?_⟩
  generalize roundTo rna m e 0 = n at hround hj
  have heven : ((n : ℤ) % 2 = 0) = (n % 2 = 0) := by rw [eq_iff_iff]; omega
  cases neg
  · have h := hround.nearest hx (j := j) (by simpa [signed] using hj)
    simpa only [signed, realOf_fin, Bool.false_eq_true, if_false, one_mul, Int.cast_natCast, Nat.abs_cast, heven] using h
  · have h := hround.nearest hx (j := -j) (by simp only [signed, if_true] at hj; omega)
    have hflip (y : ℝ) : |-y - m * (2 : ℝ) ^ e| = |y + m * (2 : ℝ) ^ e| := by rw [← abs_neg]; congr 1; ring
    rw [Int.cast_neg, hflip, abs_neg] at h
    rw [abs_sub_comm (n : ℝ), sub_eq_add_neg, add_comm] at h
    simpa only [signed, realOf_fin, if_true, neg_mul, one_mul, sub_neg_eq_add, Int.cast_neg, Int.cast_natCast, abs_neg, Nat.abs_cast,
      Int.neg_emod_two, heven] using h

/-- A NaN's payload is its mantissa, left-aligned in 23 bits (R32). -/
theorem payload_lt {f : Fmt} {c : Nat} {s : Bool} {p : Nat} (h : decodeF f c = .nan s p) : p < 2 ^ 23 := by
  have hm : c % 2 ^ f.mbits < 2 ^ f.mbits := Nat.mod_lt _ (by positivity)
  unfold decodeF at h
  dsimp only at h
  split at h
  case isTrue hf =>
    simp only [Bool.and_eq_true, beq_iff_eq] at hf
    cases h
    omega
  case isFalse =>
    split at h
    · split at h
      · cases h
      · cases h
        cases f <;> simp only [Fmt.mbits] at hm ⊢ <;> omega
    · split at h <;> cases h

/-- The code of a NaN in a wide format: its leading payload bits, the quiet bit set (R37). -/
theorem nanOut_of_wide {g : Fmt} (h : g.narrow = false) (neg : Bool) {p : Nat} (hp : p < 2 ^ 23) :
    nanOut g neg p = g.code neg ((2 ^ g.ebits - 1) * 2 ^ g.mbits + (p / 2 ^ (23 - g.mbits) ||| 2 ^ (g.mbits - 1))) := by
  have hmod : p / 2 ^ (23 - g.mbits) % 2 ^ g.mbits = p / 2 ^ (23 - g.mbits) := by
    refine Nat.mod_eq_of_lt ?_
    rw [Nat.div_lt_iff_lt_mul (by positivity), ← pow_add]
    cases g <;> exact hp
  cases g with
  | e2m1 | e4m3 | e5m2 => cases h
  | f32 | f16 | bf16 => simp only [nanOut, hmod, or_two_pow]

/-- A value converted to its own format changes only where it is a NaN, by its quiet bit (R202). -/
theorem quietSame_eq (f : Fmt) (x : Nat) :
    ((decodeF f (x % 2 ^ (f.low + 1))).isNan = false → quietSame f x = x % 2 ^ (f.low + 1)) ∧
    ((decodeF f (x % 2 ^ (f.low + 1))).isNan = true → quietSame f x = x % 2 ^ (f.low + 1) ||| 2 ^ (f.mbits - 1)) := by
  unfold quietSame
  cases f with
  | e2m1 =>
    refine ⟨fun _ => rfl, fun h => ?_⟩
    generalize x % 2 ^ (Fmt.e2m1.low + 1) = c at h
    have : (decodeF .e2m1 c).isNan = false := by
      unfold decodeF
      dsimp only
      rw [if_neg (by simp), if_neg (by simp [Fmt.hasInf])]
      split <;> rfl
    rw [this] at h
    cases h
  | e4m3 =>
    refine ⟨fun _ => rfl, fun h => ?_⟩
    generalize x % 2 ^ (Fmt.e4m3.low + 1) = c at h
    have : c % 8 = 7 := by
      by_contra hne
      have : (decodeF .e4m3 c).isNan = false := by
        unfold decodeF
        dsimp only
        rw [if_neg (by simp [Fmt.mbits]; omega), if_neg (by simp [Fmt.hasInf])]
        split <;> rfl
      rw [this] at h
      cases h
    simp only [or_two_pow, Fmt.mbits]
    rw [if_pos (by omega)]
  | f32 | f16 | bf16 | e5m2 =>
    simp only [or_two_pow]
    refine ⟨fun h => by simp [h], fun h => ?_⟩
    simp only [h, Bool.true_and, decide_eq_true_eq]
    split <;> split <;> omega

theorem conversionValues : Spec.ConversionValues := by
  intro imm x
  refine ⟨fun s n t k hs ht => ?_, fun s n f hs ht => ?_, fun f hs => ⟨fun t k ht => ?_, fun g ht hne => ?_, fun htgt => ?_⟩⟩
  · obtain ⟨hs, hn⟩ := numType_of_int hs
    obtain ⟨ht, hk⟩ := numType_of_int ht
    rw [cvtBits_eq hs ht, convert, intBits_saturate t hk, intOf_eq s hn]
  · obtain ⟨hs, hn⟩ := numType_of_int hs
    rw [cvtBits_eq hs (numType_of_float ht), convert, intOf_eq s hn]
    exact convert_int_float f _
  · obtain ⟨ht, hk⟩ := numType_of_int ht
    rw [cvtBits_eq (numType_of_float hs) ht, convert]
    generalize decodeF f (x % 2 ^ (f.low + 1)) = X
    refine ⟨fun hnan => ?_, fun hX => ?_, fun hX => ?_, fun neg m e hX => ?_⟩
    · cases X with
      | nan => rfl
      | _ => cases hnan
    · subst hX; exact intBits_saturate t hk _
    · subst hX; exact intBits_saturate t hk _
    · subst hX
      obtain ⟨i, hi, hnear⟩ := roundInt_fin (k == 8) neg m e
      rw [hi]
      exact ⟨i, intBits_saturate t hk i, by simpa using hnear⟩
  · rw [cvtBits_eq (numType_of_float hs) (numType_of_float ht), convert, if_neg hne.symm]
    refine ⟨fun neg m e hX => ?_, fun neg hX => ?_, fun neg p hX => ?_⟩
    · rw [hX]
      exact roundF_fin_rounds g neg m e
    · rw [hX]
      cases g <;> rfl
    · rw [hX, roundF]
      cases g with
      | e2m1 | e4m3 | e5m2 => rfl
      | f32 | f16 | bf16 => exact nanOut_of_wide rfl neg (payload_lt hX)
  · have hs := numType_of_float hs
    rw [cvtBits_eq hs (htgt ▸ hs), convert, if_pos rfl]
    exact quietSame_eq f x

end Sys2Proof.Machine

/-! ### Quantised blocks (R41, R203): the largest magnitude, its scale byte, and the codes -/

namespace Sys2Proof.Machine

open Sys2Proof.Laws

/-! #### The scale byte -/

theorem leScaled_iff (m k : ℕ) (e c : ℤ) : leScaled m e k c = true ↔ m * (2 : ℝ) ^ e ≤ k * (2 : ℝ) ^ c := by
  have h := @scaled_mul_two_zpow
  have hle : leScaled m e k c = true ↔
      ((m * 2 ^ (e - min e c).toNat : ℤ) : ℝ) ≤ ((k * 2 ^ (c - min e c).toNat : ℤ) : ℝ) := by
    rw [Int.cast_le, leScaled, decide_eq_true_iff]
    rw [show (e - c).toNat = (e - min e c).toNat by omega, show (c - e).toNat = (c - min e c).toNat by omega]
    norm_cast
  rw [hle, ← mul_le_mul_iff_left₀ (show (0 : ℝ) < 2 ^ (min e c) by positivity), h (min_le_left _ _), h (min_le_right _ _)]
  norm_cast

/-- The ceiling of the logarithm of a quotient (R41). -/
theorem ceilLog2_spec {m k : ℕ} (hm : m ≠ 0) (hk : k ≠ 0) (e : ℤ) :
    (k : ℝ) * (2 : ℝ) ^ (ceilLog2 m e k - 1) < m * (2 : ℝ) ^ e ∧ m * (2 : ℝ) ^ e ≤ k * (2 : ℝ) ^ ceilLog2 m e k := by
  have hm1 : (2 : ℝ) ^ (Nat.log2 m : ℤ) ≤ m := by rw [zpow_natCast]; exact_mod_cast Nat.log2_self_le hm
  have hm2 : (m : ℝ) < (2 : ℝ) ^ ((Nat.log2 m : ℤ) + 1) := by
    rw [← Nat.cast_succ, zpow_natCast]; exact_mod_cast Nat.lt_log2_self
  have hk1 : (2 : ℝ) ^ (Nat.log2 k : ℤ) ≤ k := by rw [zpow_natCast]; exact_mod_cast Nat.log2_self_le hk
  have hk2 : (k : ℝ) < (2 : ℝ) ^ ((Nat.log2 k : ℤ) + 1) := by
    rw [← Nat.cast_succ, zpow_natCast]; exact_mod_cast Nat.lt_log2_self
  unfold ceilLog2
  generalize (Nat.log2 m : ℤ) = a at *
  generalize (Nat.log2 k : ℤ) = b at *
  have hlow : (k : ℝ) * (2 : ℝ) ^ (e + a - b - 1) < m * (2 : ℝ) ^ e := by
    calc (k : ℝ) * (2 : ℝ) ^ (e + a - b - 1) < (2 : ℝ) ^ (b + 1) * (2 : ℝ) ^ (e + a - b - 1) :=
          mul_lt_mul_of_pos_right hk2 (by positivity)
      _ = (2 : ℝ) ^ a * (2 : ℝ) ^ e := by rw [← zpow_add₀ two_ne_zero, ← zpow_add₀ two_ne_zero]; congr 1; ring
      _ ≤ m * (2 : ℝ) ^ e := mul_le_mul_of_nonneg_right hm1 (by positivity)
  have hup : m * (2 : ℝ) ^ e < k * (2 : ℝ) ^ (e + a - b - 1 + 2) := by
    calc m * (2 : ℝ) ^ e < (2 : ℝ) ^ (a + 1) * (2 : ℝ) ^ e := mul_lt_mul_of_pos_right hm2 (by positivity)
      _ = (2 : ℝ) ^ b * (2 : ℝ) ^ (e + a - b - 1 + 2) := by
          rw [← zpow_add₀ two_ne_zero, ← zpow_add₀ two_ne_zero]; congr 1; ring
      _ ≤ k * (2 : ℝ) ^ (e + a - b - 1 + 2) := mul_le_mul_of_nonneg_right hk1 (by positivity)
  dsimp only
  rw [if_neg (by rw [leScaled_iff]; exact hlow.not_ge)]
  split
  case isTrue h => exact ⟨by rwa [add_sub_cancel_right], (leScaled_iff ..).1 h⟩
  case isFalse h =>
    rw [leScaled_iff, not_le] at h
    exact ⟨by rwa [show e + a - b - 1 + 2 - 1 = e + a - b - 1 + 1 by ring], hup.le⟩

theorem ceilLog2_unique {v k : ℝ} (hk : 0 < k) {i j : ℤ} (hi1 : k * (2 : ℝ) ^ (i - 1) < v) (hi2 : v ≤ k * (2 : ℝ) ^ i)
    (hj1 : k * (2 : ℝ) ^ (j - 1) < v) (hj2 : v ≤ k * (2 : ℝ) ^ j) : i = j := by
  have h1 := lt_of_mul_lt_mul_left (hi1.trans_le hj2) hk.le
  have h2 := lt_of_mul_lt_mul_left (hj1.trans_le hi2) hk.le
  rw [zpow_lt_zpow_iff_right₀ one_lt_two] at h1 h2
  omega

theorem scaleByte_le (e : ℤ) : scaleByte e ≤ 254 := by unfold scaleByte; omega

theorem scaleByte_top : scaleByte 127 = 254 := rfl

/-- The scale byte of a magnitude (R41, R203). -/
theorem scaleOf_ceilLog2 {m : ℕ} (hm : m ≠ 0) (e : ℤ) {big : ℕ} (hbig : big ≠ 0) :
    Spec.ScaleOf (m * (2 : ℝ) ^ e) big (scaleByte (ceilLog2 m e big)) := by
  have hpos : 0 < (m : ℝ) * (2 : ℝ) ^ e := by have := Nat.pos_of_ne_zero hm; positivity
  refine ⟨fun h => absurd h hpos.ne', fun i h1 h2 => ?_⟩
  obtain ⟨hj1, hj2⟩ := ceilLog2_spec hm hbig e
  rw [ceilLog2_unique (by exact_mod_cast Nat.pos_of_ne_zero hbig) h1 h2 hj1 hj2]
  unfold scaleByte
  omega

theorem scaleOf_zero (big : ℕ) : Spec.ScaleOf 0 big (scaleByte 0) :=
  ⟨fun _ => rfl, fun i h _ => absurd h (by have : (0 : ℝ) ≤ big * (2 : ℝ) ^ (i - 1) := by positivity
                                           exact this.not_gt)⟩

/-- What a finite value's exponent gives. -/
theorem scaleOf_scaleExp (s : Bool) (m : ℕ) (e : ℤ) {big : ℕ} (hbig : big ≠ 0) :
    Spec.ScaleOf |Spec.realOf (.fin s m e)| big (scaleByte ((scaleExp (.fin s m e) big).getD 0)) := by
  have habs : |Spec.realOf (.fin s m e)| = m * (2 : ℝ) ^ e := by
    rw [← realOf_xabs, xabs, realOf_fin]
    simp
  rw [habs, scaleExp]
  by_cases hm : m = 0
  · subst hm
    rw [if_pos rfl, Nat.cast_zero, zero_mul]
    exact scaleOf_zero big
  · rw [if_neg hm]
    exact scaleOf_ceilLog2 hm e hbig

/-! #### The codes -/

/-- A scaled and rounded element is its code (R36, R41, R203). -/
theorem codeOf_roundF (f : Fmt) (s : ℕ) (x : XVal) {top : ℕ} (htop : ∀ neg, infOut f neg = f.code neg top) :
    Spec.CodeOf f s x top (roundF f (xscale x (127 - s))) := by
  refine ⟨fun neg m e hx => ?_, fun neg hx => ?_⟩
  · subst hx
    have h := roundF_fin_rounds f neg m (e + (127 - s))
    have hval : |Spec.realOf (.fin neg m (e + (127 - s)))| = |Spec.realOf (.fin neg m e)| / (2 : ℝ) ^ ((s : ℤ) - 127) := by
      have := realOf_xscale (.fin neg m e) (127 - s)
      rw [xscale] at this
      rw [this, abs_mul, abs_of_pos (show (0 : ℝ) < (2 : ℝ) ^ (127 - (s : ℤ)) by positivity), div_eq_mul_inv, ← zpow_neg, neg_sub]
    rwa [hval] at h
  · subst hx
    exact htop neg

/-! #### The largest magnitude -/

theorem isNan_xabs (x : XVal) : (xabs x).isNan = x.isNan := by cases x <;> rfl

theorem xeq_iff_line {x y : XVal} (hx : x.isNan = false) (hy : y.isNan = false) : xeq x y = true ↔ x.line = y.line := by
  simp only [xeq, hx, hy, Bool.not_false, Bool.true_and, Bool.and_eq_true, Bool.not_eq_true', ← Bool.not_eq_true,
    xlt_iff_line hx hy, xlt_iff_line hy hx]
  exact ⟨fun h => le_antisymm (not_lt.1 h.2) (not_lt.1 h.1), fun h => ⟨h.not_lt, h.symm.not_lt⟩⟩

theorem line_xabs_fin (s : Bool) (m : ℕ) (e : ℤ) : (xabs (.fin s m e)).line = (|Spec.realOf (.fin s m e)| : ℝ) := by
  rw [xabs, line_fin, ← realOf_xabs, xabs]

theorem line_xabs_nonneg (x : XVal) : 0 ≤ (xabs x).line := by
  cases x with
  | inf s => simp [xabs, XVal.line]
  | nan s p => simp [xabs, XVal.line]
  | fin s m e => rw [line_xabs_fin]; exact_mod_cast abs_nonneg _

/-- The order of magnitudes, infinities last. -/
theorem line_xabs_lt_iff {x y : XVal} (hx : x.isNan = false) (hy : y.isNan = false) :
    (xabs x).line < (xabs y).line ↔ (¬x.isInf = true ∧ y.isInf = true) ∨
      (¬x.isInf = true ∧ ¬y.isInf = true ∧ |Spec.realOf x| < |Spec.realOf y|) := by
  cases x with
  | nan => cases hx
  | inf s =>
    simp only [xabs, XVal.line, XVal.isInf, not_true, false_and, or_self, iff_false]
    exact le_top.not_gt
  | fin s m e =>
    cases y with
    | nan => cases hy
    | inf t =>
      rw [line_xabs_fin]
      simp only [xabs, XVal.line, XVal.isInf, Bool.false_eq_true, not_false_eq_true, true_and, true_or, iff_true]
      exact EReal.coe_lt_top _
    | fin t n d =>
      rw [line_xabs_fin, line_xabs_fin, EReal.coe_lt_coe_iff]
      simp [XVal.isInf]

section

variable {xs : List XVal} (h : ∀ x ∈ xs, x.isNan = false)

include h

/-- The largest magnitude of a list is zero or one of its own, and not below any. -/
theorem xmaxAbs_spec : (xmaxAbs xs = .fin false 0 0 ∨ ∃ x ∈ xs, xmaxAbs xs = xabs x) ∧ ∀ x ∈ xs, (xabs x).line ≤ (xmaxAbs xs).line := by
  have hfold : xmaxAbs xs = (xs.map xabs).foldl (fun a b => if xlt a b then b else a) (.fin false 0 0) := by
    rw [xmaxAbs, List.foldl_map]
  have hP : ∀ v ∈ XVal.fin false 0 0 :: xs.map xabs, v.isNan = false := by
    simp only [List.mem_cons, List.mem_map]
    rintro v (rfl | ⟨x, hx, rfl⟩)
    · rfl
    · rw [isNan_xabs, h x hx]
  obtain ⟨hmem, hle⟩ := foldl_least (op := fun a b => if xlt a b then b else a) (key := fun x : XVal => OrderDual.toDual x.line)
    (P := fun x => x.isNan = false) (fun a b => by split <;> simp)
    (fun a b ha hb => by
      simp only [xlt_iff_line ha hb]
      split
      case isTrue hlt => exact ⟨hlt.le, le_rfl⟩
      case isFalse hlt => exact ⟨le_rfl, not_lt.1 hlt⟩)
    (xs.map xabs) (.fin false 0 0) hP
  rw [← hfold] at hmem hle
  refine ⟨?_, fun x hx => hle _ (List.mem_cons_of_mem _ (List.mem_map_of_mem hx))⟩
  rcases List.mem_cons.1 hmem with h | h
  · exact .inl h
  · obtain ⟨x, hx, he⟩ := List.mem_map.1 h
    exact .inr ⟨x, hx, he.symm⟩

theorem isNan_xmaxAbs : (xmaxAbs xs).isNan = false := by
  rcases (xmaxAbs_spec h).1 with he | ⟨x, hx, he⟩
  · rw [he]; rfl
  · rw [he, isNan_xabs, h x hx]

/-- Where some element is greatest, the largest magnitude is its. -/
theorem line_xmaxAbs {y : XVal} (hy : y ∈ xs) (hmax : ∀ x ∈ xs, (xabs x).line ≤ (xabs y).line) :
    (xmaxAbs xs).line = (xabs y).line := by
  refine le_antisymm ?_ ((xmaxAbs_spec h).2 y hy)
  rcases (xmaxAbs_spec h).1 with he | ⟨x, hx, he⟩
  · rw [he]
    simpa [line_fin] using line_xabs_nonneg y
  · rw [he]
    exact hmax x hx

/-- An infinity is the largest magnitude. -/
theorem xmaxAbs_of_inf {x : XVal} (hx : x ∈ xs) (hinf : x.isInf = true) : xmaxAbs xs = .inf false := by
  have hle := (xmaxAbs_spec h).2 x hx
  have htop : (xabs x).line = ⊤ := by
    cases x with
    | inf s => rfl
    | _ => cases hinf
  rw [htop, top_le_iff] at hle
  rcases (xmaxAbs_spec h).1 with he | ⟨z, hz, he⟩
  · rw [he, line_fin] at hle
    cases hle
  · rw [he] at hle ⊢
    cases z with
    | nan => cases h _ hz
    | inf s => rfl
    | fin s m e => rw [line_xabs_fin] at hle; cases hle

/-- Of finite values the largest magnitude is finite. -/
theorem xmaxAbs_of_fin (hfin : ∀ x ∈ xs, ¬x.isInf = true) : ∃ m e, xmaxAbs xs = .fin false m e := by
  rcases (xmaxAbs_spec h).1 with he | ⟨x, hx, he⟩
  · exact ⟨0, 0, he⟩
  · cases x with
    | nan => cases h _ hx
    | inf s => exact absurd rfl (hfin _ hx)
    | fin s m e => exact ⟨m, e, he⟩

/-- The scale byte a list of finite values takes is that of its greatest. -/
theorem scaleOf_xmaxAbs (hfin : ∀ x ∈ xs, ¬x.isInf = true) {y : XVal} (hy : y ∈ xs)
    (hmax : ∀ x ∈ xs, |Spec.realOf x| ≤ |Spec.realOf y|) {big : ℕ} (hbig : big ≠ 0) :
    Spec.ScaleOf |Spec.realOf y| big (scaleByte ((scaleExp (xmaxAbs xs) big).getD 0)) := by
  have hcoe {x : XVal} (hx : x ∈ xs) : (xabs x).line = (|Spec.realOf x| : ℝ) := by
    cases x with
    | nan => cases h _ hx
    | inf s => exact absurd rfl (hfin _ hx)
    | fin s m e => exact line_xabs_fin s m e
  obtain ⟨m, e, he⟩ := xmaxAbs_of_fin h hfin
  have hline := line_xmaxAbs h hy fun x hx => by rw [hcoe hx, hcoe hy]; exact_mod_cast hmax x hx
  have hval : Spec.realOf (.fin false m e) = |Spec.realOf y| := by
    rw [he, line_fin, hcoe hy] at hline
    exact_mod_cast hline
  rw [he, ← hval, ← abs_of_nonneg (show 0 ≤ Spec.realOf (.fin false m e) by rw [hval]; exact abs_nonneg _)]
  exact scaleOf_scaleExp false m e hbig

end

end Sys2Proof.Machine

/-! ### What a block quantisation gives (R41, R203) -/

namespace Sys2Proof.Machine

open Sys2Proof.Laws

theorem any_isNan_iff {xs : List XVal} : xs.any (·.isNan) = true ↔ ∃ x ∈ xs, x.isNan = true := by simp

theorem any_isNan_false {xs : List XVal} (h : ∀ x ∈ xs, x.isNan = false) : xs.any (·.isNan) = false := by
  simpa [List.any_eq_false] using h

section

variable {xs : List XVal} (h : ∀ x ∈ xs, x.isNan = false)

include h

/-- A block of 8-bit elements (R203): one scale for all. -/
theorem quantE8_spec (f : Fmt) {big top : ℕ} (hbig : big ≠ 0) (htop : ∀ neg, infOut f neg = f.code neg top) :
    let q := quantE8 f big xs
    q.2 ≤ 254 ∧ q.1.length = xs.length ∧ ((∃ x ∈ xs, x.isInf = true) → q.2 = 254) ∧
    ((∀ x ∈ xs, ¬x.isInf = true) → ∀ y ∈ xs, (∀ x ∈ xs, |Spec.realOf x| ≤ |Spec.realOf y|) →
      Spec.ScaleOf |Spec.realOf y| big q.2) ∧
    ∀ (k : Nat) (x : XVal) (c : Nat), xs[k]? = some x → q.1[k]? = some c → Spec.CodeOf f q.2 x top c := by
  have hq : quantE8 f big xs = (xs.map fun x => roundF f (xscale x (127 - scaleByte ((scaleExp (xmaxAbs xs) big).getD 0))),
      scaleByte ((scaleExp (xmaxAbs xs) big).getD 0)) := by
    rw [quantE8, any_isNan_false h]
    rfl
  rw [hq]
  refine ⟨scaleByte_le _, List.length_map _, ?_, fun hfin y hy hmax => scaleOf_xmaxAbs h hfin hy hmax hbig, fun k x c hx hc => ?_⟩
  · rintro ⟨x, hx, hinf⟩
    rw [xmaxAbs_of_inf h hx hinf]
    rfl
  · simp only [List.getElem?_map, hx, Option.map_some, Option.some.injEq] at hc
    rw [← hc]
    exact codeOf_roundF f _ x htop

end

theorem isZero_iff {x : XVal} (hx : x.isNan = false) : x.isZero = true ↔ ¬x.isInf = true ∧ |Spec.realOf x| = 0 := by
  cases x with
  | nan => cases hx
  | inf s => simp [XVal.isZero, XVal.isInf]
  | fin s m e => rw [abs_eq_zero, realOf_eq_zero]; simp [XVal.isZero, XVal.isInf]

/-- The special element of a .kb4 block is the first of the greatest magnitude. -/
theorem maxIndex_eq {xs : List XVal} (h : ∀ x ∈ xs, x.isNan = false) {j : ℕ} {y : XVal} (hj : xs[j]? = some y)
    (hmax : ∀ x ∈ xs, (xabs x).line ≤ (xabs y).line) (hfirst : ∀ k x, k < j → xs[k]? = some x → (xabs x).line < (xabs y).line) :
    maxIndex xs = j := by
  have hy := List.mem_of_getElem? hj
  obtain ⟨hlt, hget⟩ := List.getElem?_eq_some_iff.1 hj
  have hline := line_xmaxAbs h hy hmax
  have heq {x : XVal} (hx : x ∈ xs) : xeq (xabs x) (xmaxAbs xs) = true ↔ (xabs x).line = (xabs y).line := by
    rw [xeq_iff_line (by rw [isNan_xabs, h x hx]) (isNan_xmaxAbs h), hline]
  have hfind : (xs.findIdx? fun x => xeq (xabs x) (xmaxAbs xs)) = some j := by
    rw [List.findIdx?_eq_some_iff_getElem]
    refine ⟨hlt, by rw [heq (List.getElem_mem _), hget], fun k hk => ?_⟩
    rw [heq (List.getElem_mem _)]
    exact (hfirst k _ hk (List.getElem?_eq_getElem _)).ne
  rw [maxIndex, hfind, Option.getD_some]

/-- The scale exponent of a .kb4 block whose special element is number `j` (R41). -/
def kb4Exp (xs : List XVal) (j : ℕ) (y : XVal) : ℤ := (scaleExp (xmaxAbs (xs.eraseIdx j)) 6).getD ((scaleExp y 448).getD 0)

theorem quantKb4_eq {xs : List XVal} (h : ∀ x ∈ xs, x.isNan = false) {j : ℕ} {y : XVal} (hj : xs[j]? = some y)
    (hidx : maxIndex xs = j) : quantKb4 xs = if y.isZero then (xs.map fun _ => 0, 127, 0)
      else ((List.range xs.length).map fun i => if i = j then 8 else
          if roundF .e2m1 (xscale (xs.getD i (.fin false 0 0)) (127 - scaleByte (kb4Exp xs j y))) = 8 then 0
          else roundF .e2m1 (xscale (xs.getD i (.fin false 0 0)) (127 - scaleByte (kb4Exp xs j y))),
        scaleByte (kb4Exp xs j y), roundF .e4m3 (xscale y (127 - scaleByte (kb4Exp xs j y)))) := by
  have hget : xs.getD j (.fin false 0 0) = y := by rw [List.getD_eq_getElem?_getD, hj, Option.getD_some]
  rw [quantKb4, any_isNan_false h, if_neg Bool.false_ne_true, hidx]
  unfold kb4Exp
  cases hscale : scaleExp (xmaxAbs (xs.eraseIdx j)) 6 <;> simp only [hget, hscale, Option.getD_none, Option.getD_some]

section

variable {xs : List XVal} (h : ∀ x ∈ xs, x.isNan = false) {j : ℕ} {y : XVal} (hj : xs[j]? = some y)

include h hj

/-- The scale byte of a .kb4 block (R41). -/
theorem kb4Exp_spec : let s := scaleByte (kb4Exp xs j y)
    let others := xs.eraseIdx j
    ((∃ x ∈ others, x.isInf = true) ∨ (y.isInf = true ∧ ∀ x ∈ others, |Spec.realOf x| = 0) → s = 254) ∧
    ((∀ x ∈ others, ¬x.isInf = true) → ∀ z ∈ others, (∀ x ∈ others, |Spec.realOf x| ≤ |Spec.realOf z|) →
      |Spec.realOf z| ≠ 0 → Spec.ScaleOf |Spec.realOf z| 6 s) ∧
    ((∀ x ∈ others, ¬x.isInf = true ∧ |Spec.realOf x| = 0) → ¬y.isInf = true → Spec.ScaleOf |Spec.realOf y| 448 s) := by
  intro s others
  have ho : ∀ x ∈ others, x.isNan = false := fun x hx => h x (List.mem_of_mem_eraseIdx hx)
  have hzero (hfin : ∀ x ∈ others, ¬x.isInf = true) (h0 : ∀ x ∈ others, |Spec.realOf x| = 0) :
      scaleExp (xmaxAbs others) 6 = none := by
    have hnone {x : XVal} (hx : x.isFin = true) (hx0 : |Spec.realOf x| = 0) : scaleExp (xabs x) 6 = none := by
      obtain ⟨t, m, e, rfl⟩ := XVal.isFin_iff.1 hx
      rw [abs_eq_zero, realOf_eq_zero] at hx0
      rw [xabs, scaleExp, if_pos hx0]
    rcases (xmaxAbs_spec ho).1 with he | ⟨x, hx, he⟩
    · rw [he]; rfl
    · rw [he]
      refine hnone ?_ (h0 x hx)
      cases hv : x with
      | nan => have := ho x hx; rw [hv] at this; cases this
      | inf t => exact absurd (by rw [hv]; rfl) (hfin x hx)
      | fin => rfl
  refine ⟨fun hinf => ?_, fun hfin z hz hmax hne => ?_, fun h0 hfin => ?_⟩
  · by_cases hsome : ∃ x ∈ others, x.isInf = true
    · obtain ⟨x, hx, hxi⟩ := hsome
      simp only [s, kb4Exp]
      rw [xmaxAbs_of_inf ho hx hxi]
      rfl
    · obtain ⟨hy, h0⟩ := hinf.resolve_left hsome
      simp only [s, kb4Exp]
      rw [hzero (fun x hx hxi => hsome ⟨x, hx, hxi⟩) h0]
      cases y with
      | inf t => rfl
      | _ => cases hy
  · obtain ⟨m, e, he⟩ := xmaxAbs_of_fin ho hfin
    have hscale := scaleOf_xmaxAbs ho hfin hz hmax (big := 6) (by decide)
    have hm : m ≠ 0 := by
      rintro rfl
      refine hne (le_antisymm ?_ (abs_nonneg _))
      have hle := (xmaxAbs_spec ho).2 z hz
      cases z with
      | fin t n d =>
        rw [he, line_xabs_fin, line_fin, EReal.coe_le_coe_iff] at hle
        simpa using hle
      | _ => simp
    have hsome : scaleExp (.fin false m e) 6 = some (ceilLog2 m e 6) := if_neg hm
    have hexp : kb4Exp xs j y = ceilLog2 m e 6 := by
      change (scaleExp (xmaxAbs others) 6).getD _ = _
      rw [he, hsome, Option.getD_some]
    rwa [he, hsome, Option.getD_some, ← hexp] at hscale
  · simp only [s, kb4Exp]
    rw [hzero (fun x hx => (h0 x hx).1) fun x hx => (h0 x hx).2, Option.getD_none]
    cases y with
    | nan => cases h _ (List.mem_of_getElem? hj)
    | inf t => exact absurd rfl hfin
    | fin t m e => exact scaleOf_scaleExp t m e (by decide)

/-- A .kb4 block (R41). -/
theorem quantKb4_spec (hmax : ∀ x ∈ xs, (xabs x).line ≤ (xabs y).line)
    (hfirst : ∀ k x, k < j → xs[k]? = some x → (xabs x).line < (xabs y).line) :
    let q := quantKb4 xs
    let s := scaleByte (kb4Exp xs j y)
    (¬y.isInf = true → |Spec.realOf y| = 0 → q = (xs.map fun _ => 0, 127, 0)) ∧
    (y.isInf = true ∨ |Spec.realOf y| ≠ 0 → q.2.1 = s ∧ Spec.CodeOf .e4m3 s y 0x7E q.2.2 ∧ q.1.length = xs.length ∧
      q.1[j]? = some 8 ∧ ∀ (k : Nat) (x : XVal) (c : Nat), k ≠ j → xs[k]? = some x → q.1[k]? = some c →
        ∃ d, Spec.CodeOf .e2m1 s x 7 d ∧ c = if d = 8 then 0 else d) := by
  have hyn := h y (List.mem_of_getElem? hj)
  have hjlt : j < xs.length := (List.getElem?_eq_some_iff.1 hj).1
  simp only [quantKb4_eq h hj (maxIndex_eq h hj hmax hfirst)]
  refine ⟨fun h1 h2 => by rw [if_pos ((isZero_iff hyn).2 ⟨h1, h2⟩)], fun hne => ?_⟩
  rw [if_neg fun hz => by have := (isZero_iff hyn).1 hz; tauto]
  refine ⟨rfl, codeOf_roundF _ _ _ fun neg => rfl, by simp, by simp [hjlt], fun k x c hk hx hc => ?_⟩
  have hget : xs.getD k (.fin false 0 0) = x := by rw [List.getD_eq_getElem?_getD, hx, Option.getD_some]
  rw [List.getElem?_map, List.getElem?_range (List.getElem?_eq_some_iff.1 hx).1, Option.map_some, if_neg hk, hget] at hc
  exact ⟨_, codeOf_roundF _ _ _ fun neg => rfl, (Option.some.inj hc).symm⟩

end

theorem blockValues : Spec.BlockValues := by
  intro tgt xs htgt _ q inf mag below
  refine ⟨fun hnan => ?_, fun h => ⟨fun f big top hf => ?_, fun htgt j y hj hmax hfirst => ?_⟩⟩
  · have hany := any_isNan_iff.2 hnan
    simp only [List.mem_cons, List.not_mem_nil, or_false] at htgt
    rcases htgt with rfl | rfl | rfl <;> simp [q, cvtqBlock, quantE8, quantKb4, hany]
  · simp only [List.mem_cons, Prod.mk.injEq, List.not_mem_nil, or_false] at hf
    rcases hf with ⟨rfl, rfl, rfl, rfl⟩ | ⟨rfl, rfl, rfl, rfl⟩
    · exact quantE8_spec h .e4m3 (by decide) fun neg => rfl
    · exact quantE8_spec h .e5m2 (by decide) fun neg => rfl
  · subst htgt
    have hyn := h y (List.mem_of_getElem? hj)
    have hmax' : ∀ x ∈ xs, (xabs x).line ≤ (xabs y).line := fun x hx =>
      not_lt.1 fun hlt => hmax x hx ((line_xabs_lt_iff hyn (h x hx)).1 hlt)
    have hfirst' : ∀ k x, k < j → xs[k]? = some x → (xabs x).line < (xabs y).line := fun k x hk hx =>
      (line_xabs_lt_iff (h x (List.mem_of_getElem? hx)) hyn).2 (hfirst k x hk hx)
    obtain ⟨hall, hspecial⟩ := quantKb4_spec h hj hmax' hfirst'
    obtain ⟨htop, hothers, honly⟩ := kb4Exp_spec h hj
    have hq : q = ((quantKb4 xs).1, (quantKb4 xs).2.2 * 256 + (quantKb4 xs).2.1) := rfl
    refine ⟨fun h1 h2 => by simp only [hq, hall h1 h2, Nat.zero_mul, Nat.zero_add], fun hne => ?_⟩
    obtain ⟨hs, hcode, hlen, h8, hcodes⟩ := hspecial hne
    exact ⟨_, _, by rw [hq, hs], scaleByte_le _, hcode, by rw [hq, hlen], by rw [hq, h8], htop, hothers, honly,
      fun k x c hk hx hc => hcodes k x c hk hx (by rwa [hq] at hc)⟩

theorem conversionResults : Spec.ConversionResults :=
  ⟨conversionValues, blockValues, fun _ _ _ => ⟨cvt_ready, cvtq_ready⟩⟩

/-- Settles O18: a number with a sticky bit rounds as the quotient or root it was cut off from, and conversions and blocks round
exact values once. -/
theorem specialFunctionsAndConversions : Obligations.SpecialFunctionsAndConversions :=
  ⟨specialFunctionResults, conversionResults⟩

end Sys2Proof.Machine

/-! ### Matrix sums (R45, R46, R233, R235) -/

namespace Sys2Proof.Machine

open Sys2Proof.Laws

theorem length_decodeRow (code ks nb : Nat) (side : Bool) (bs sides : List Byte) :
    (decodeRow code ks nb side bs sides).length = ks := by
  rw [decodeRow, List.length_map, List.length_range]

/-- A read of rows of A gives as many, each as long as the slice. -/
theorem readA_length {k : Core} {m : Team} {f : FmtBlk} {i n : Nat} {a : List (List XVal)} (h : readA k m f i n = .ok a) :
    a.length = n ∧ ∀ r ∈ a, r.length = f.ks := by
  induction n generalizing i a with
  | zero => cases h; simp
  | succ n ih =>
    rw [readA] at h
    split at h
    · cases h
    · cases h
    · split at h
      · cases h
      case h_2 rs hrs =>
        cases h
        obtain ⟨hlen, hrows⟩ := ih hrs
        simp [hlen, length_decodeRow]
        exact hrows

theorem readB_length {k : Core} {f : FmtBlk} {i n : Nat} {b : List (List XVal)} (h : readB k f i n = .ok b) :
    b.length = n ∧ ∀ c ∈ b, c.length = f.ks := by
  induction n generalizing i b with
  | zero => cases h; simp
  | succ n ih =>
    rw [readB] at h
    split at h
    · cases h
    · cases h
    · split at h
      · cases h
      case h_2 rs hrs =>
        cases h
        obtain ⟨hlen, hrows⟩ := ih hrs
        simp [hlen, length_decodeRow]
        exact hrows

theorem ks_pos (f : FmtBlk) : 0 < f.ks := by
  unfold FmtBlk.ks sliceOf
  split
  · decide
  · split <;> decide

/-- Without an outlier mode or a conversion the array multiplies a row as it was read (R235). -/
theorem rowOf_plain {f : FmtBlk} (hout : f.out = 0) (hsame : f.sfa = f.cfa) {row : List XVal} (hlen : row.length = f.ks) :
    rowOf f [] f.ks row = row := by
  have hsplit : splitRow [] row = row := by
    rw [splitRow, List.map_nil, List.append_nil]
    refine List.ext_getElem (by simp) fun n h1 h2 => ?_
    simp [List.getElem?_eq_getElem h2]
  rw [rowOf, hsplit, padTo, hlen, Nat.sub_self, List.replicate_zero, List.append_nil]
  simp [hout, hsame]

/-- Equal-length blocks laid end to end, read back. -/
theorem getD_flatMap {α β : Type} {g : α → List β} {n : Nat} (as : List α) (hg : ∀ a ∈ as, (g a).length = n) {r c : Nat} (hc : c < n)
    (d : β) : (as.flatMap g).getD (n * r + c) d = ((as[r]?).map fun a => (g a).getD c d).getD d := by
  induction as generalizing r with
  | nil => simp
  | cons a as ih =>
    have hlen := hg a List.mem_cons_self
    rw [List.flatMap_cons]
    cases r with
    | zero => rw [Nat.mul_zero, Nat.zero_add, List.getD_append _ _ _ _ (by omega)]; rfl
    | succ r =>
      rw [List.getD_append_right _ _ _ _ (by rw [hlen, Nat.mul_succ]; omega), hlen,
        show n * (r + 1) + c - n = n * r + c by rw [Nat.mul_succ]; omega, ih fun b hb => hg b (List.mem_cons_of_mem _ hb)]
      rfl

/-- Settles O28: with no channel split and no conversion the rows and columns are multiplied as they were read. -/
theorem matrixSumsAreExact : Obligations.MatrixSumsAreExact := by
  intro k m f a b hout hsame _ ha hb
  obtain ⟨halen, harows⟩ := readA_length ha
  obtain ⟨hblen, hbcols⟩ := readB_length hb
  have hhits : dupHits k f = [] := by rw [dupHits, if_neg (by omega)]
  have hpass : 1 + (0 + f.ks - 1) / f.ks = 1 := by rw [Nat.zero_add, Nat.div_eq_of_lt (Nat.sub_lt (ks_pos f) Nat.one_pos)]
  have hrows : a.map (rowOf f [] (1 * f.ks)) = a := by
    rw [one_mul]
    exact (List.map_congr_left fun r hr => rowOf_plain hout hsame (harows r hr)).trans (List.map_id _)
  have hsums : mmaSums k m f = .ok (a.flatMap fun r => b.map fun c => xsum (List.zipWith xmul r c), if f.red then 2 else 1) := by
    have hdots : (a.flatMap fun r => b.map fun c => dotOf (f.ks + 0) r c) =
        a.flatMap fun r => b.map fun c => xsum (List.zipWith xmul r c) :=
      List.flatMap_congr fun r hr => List.map_congr_left fun c hc => by
        rw [dotOf, add_zero, List.take_of_length_le (harows r hr).le, List.take_of_length_le (hbcols c hc).le]
    simp only [mmaSums, ha, hb, hhits, List.length_nil, hpass, hrows, List.map_nil, List.append_nil, List.map_id', mul_one, hdots]
  refine ⟨_, hsums, ?_, fun r c hr hc => ?_⟩
  · simp [List.length_flatMap, halen, hblen]
  · rw [getD_flatMap (n := 128) a (fun _ _ => by rw [List.length_map, hblen]) hc, List.getElem?_eq_getElem (by omega), Option.map_some,
      Option.getD_some, List.getD_eq_getElem _ _ (by rw [List.length_map]; omega), List.getElem_map, List.getD_eq_getElem _ _ (by omega),
      List.getD_eq_getElem _ _ (by omega)]

end Sys2Proof.Machine

/-! ### What a write by the hub depends on (R83, R89, R90, R93 to R99, R122) -/

namespace Sys2Proof.Machine

open Sys2Proof.Laws

/-- Two states in which the hub reads memory, translates and classes an address alike. -/
structure WritesAlike (s t : State) : Prop where
  reads : ReadsAlike s t
  adtCache : t.adtCache = s.adtCache
  stlb : t.stlb = s.stlb
  nfree : t.nfree = s.nfree

namespace ReadsAlike
variable {s t : State}

theorem firnDown (h : ReadsAlike s t) : t.firnDown = s.firnDown := by
  funext pa
  unfold State.firnDown
  rw [h.regs, h.fab]

theorem unitBad (h : ReadsAlike s t) : t.unitBad = s.unitBad := by
  funext u
  unfold State.unitBad
  rw [h.memBad, h.firnDown]

theorem populated (h : ReadsAlike s t) (pa : Nat) : t.populated pa = s.populated pa := by
  unfold State.populated
  rw [h.dramUp, h.regs]

theorem hasFeature (h : ReadsAlike s t) (n : Nat) : t.hasFeature n = s.hasFeature n := by
  unfold State.hasFeature
  rw [h.feat]

theorem checkEntry (h : ReadsAlike s t) (e : TlbEntry) (priv : Bool) (va : Nat) (acc : Access) :
    t.checkEntry e priv va acc = s.checkEntry e priv va acc := by
  unfold State.checkEntry
  simp only [h.populated]

theorem adtOf (h : ReadsAlike s t) (ws : List Nat) : t.adtOf ws = s.adtOf ws := by
  unfold State.adtOf
  simp only [h.hasFeature]

end ReadsAlike

namespace WritesAlike

theorem refl (s : State) : WritesAlike s s := ⟨⟨rfl, rfl, rfl, rfl, rfl, rfl, rfl⟩, rfl, rfl, rfl⟩

theorem trans {s t u : State} (h : WritesAlike s t) (g : WritesAlike t u) : WritesAlike s u := by
  obtain ⟨hreads, hadt, hstlb, hnfree⟩ := h
  obtain ⟨greads, gadt, gstlb, gnfree⟩ := g
  exact ⟨⟨greads.mem.trans hreads.mem, greads.memBad.trans hreads.memBad, greads.feat.trans hreads.feat,
    greads.boot.trans hreads.boot, greads.asCache.trans hreads.asCache, greads.regs.trans hreads.regs,
    greads.fab.trans hreads.fab⟩, gadt.trans hadt, gstlb.trans hstlb, gnfree.trans hnfree⟩

theorem unheard {s t : State} (h : WritesAlike s t) (pa : Nat) : WritesAlike (s.unheard pa) (t.unheard pa) := by
  unfold State.unheard
  rw [h.reads.firnDown]
  split
  · exact ⟨⟨h.reads.mem, h.reads.memBad, h.reads.feat, h.reads.boot, h.reads.asCache, h.reads.regs, h.reads.fab⟩,
      h.adtCache, h.stlb, h.nfree⟩
  · exact h

end WritesAlike

/-- From `s` to `t` only caches have filled, and accesses that were not heard are to be counted (R339). -/
def LooksUp (s t : State) : Prop :=
  t = { s with asCache := t.asCache, adtCache := t.adtCache, stlb := t.stlb, late := t.late, nfree := t.nfree }

theorem LooksUp.trans {s t u : State} (h : LooksUp s t) (g : LooksUp t u) : LooksUp s u :=
  Eq.trans g (by rw [show t = _ from h])

theorem LooksUp.unheard (s : State) (pa : Nat) : LooksUp s (s.unheard pa) := by
  unfold State.unheard
  split <;> rfl

/-- A step that looks up caches, and that states which read alike answer alike. -/
def HubStep {α : Type} (f : State → State × α) : Prop :=
  ∀ s t, WritesAlike s t → (f t).2 = (f s).2 ∧ WritesAlike (f s).1 (f t).1 ∧ LooksUp s (f s).1

namespace HubStep

theorem answer {α : Type} (a : α) : HubStep fun s => (s, a) := fun _ _ h => ⟨rfl, h, rfl⟩

/-- One step after another. -/
theorem bind {α β : Type} {f : State → State × α} {g : State → α → State × β} (hf : HubStep f)
    (hg : ∀ a, HubStep fun s => g s a) : HubStep fun s => g (f s).1 (f s).2 := fun s t h => by
  obtain ⟨hres, hstate, hlooks⟩ := hf s t h
  obtain ⟨hres', hstate', hlooks'⟩ := hg (f s).2 _ _ hstate
  dsimp only
  rw [hres]
  exact ⟨hres', hstate', hlooks.trans hlooks'⟩

theorem congr {α : Type} {f g : State → State × α} (hf : HubStep f) (h : ∀ s, g s = f s) : HubStep g :=
  (funext h : g = f) ▸ hf

theorem unheard {α : Type} (pa : Nat) (a : α) : HubStep fun s => (s.unheard pa, a) := fun s _ h =>
  ⟨rfl, h.unheard pa, LooksUp.unheard s pa⟩

/-- A step that goes by what the hub reads alike. -/
theorem read {α β : Type} {r : State → α} {g : α → State → State × β} (hr : ∀ s t, WritesAlike s t → r t = r s)
    (hg : ∀ a, HubStep (g a)) : HubStep fun s => g (r s) s := fun s t h => by
  dsimp only
  rw [hr s t h]
  exact hg _ s t h

theorem ite {α : Type} {c : Prop} [Decidable c] {f g : State → State × α} (hf : HubStep f) (hg : HubStep g) :
    HubStep fun s => if c then f s else g s := by
  by_cases h : c
  · exact hf.congr fun s => if_pos h
  · exact hg.congr fun s => if_neg h

theorem asEntry (st : Nat) (asid : Asid) : HubStep fun s => s.asEntry st asid := fun s t h => by
  obtain ⟨hreads, hadt, hstlb, hnfree⟩ := h
  unfold State.asEntry
  simp only [hreads.asCache, hreads.regs, hreads.dramUp, hreads.memBad, hreads.mem]
  split
  · exact ⟨rfl, ⟨hreads, hadt, hstlb, hnfree⟩, rfl⟩
  · split
    · exact ⟨rfl, ⟨hreads, hadt, hstlb, hnfree⟩, rfl⟩
    · split
      · exact ⟨rfl, ⟨hreads, hadt, hstlb, hnfree⟩, rfl⟩
      · exact ⟨rfl, ⟨⟨rfl, rfl, hreads.feat, hreads.boot, rfl, hreads.regs, hreads.fab⟩, hadt, hstlb, hnfree⟩, rfl⟩

/-- What a walk does with the address-space entry. -/
def walkOn (asid : Asid) (va : Nat) (s : State) : Except Cause (List Nat) → State × Except Cause TlbEntry
  | .error c => (s, .error c)
  | .ok ws =>
    if asEntryOk ws then (s, walkFrom s asid va 4 1 (ws.getD 0 0 / 2 ^ 14 % 2 ^ 38 * 2 ^ 14)) else (s, .error .protection)

theorem walk (st : Nat) (asid : Asid) (va : Nat) : HubStep fun s => s.walk st asid va := by
  have hon : HubStep fun s => walkOn asid va (s.asEntry st asid).1 (s.asEntry st asid).2 := by
    refine (asEntry st asid).bind fun r => ?_
    cases r with
    | error c => exact answer _
    | ok ws => exact ite (fun s t h => ⟨h.reads.walkFrom _ _ _ _ _, h, rfl⟩) (answer _)
  refine (ite (c := inAperture va = true) (answer (.error .outOfRange)) hon).congr fun s => ?_
  unfold State.walk
  split
  · rfl
  · rcases s.asEntry st asid with ⟨_, _ | _⟩ <;> rfl

theorem fillStack {α : Type} (st : Nat) (e : TlbEntry) {a : State → α} (ha : ∀ s t, WritesAlike s t → a t = a s) :
    HubStep fun s => (s.fillStack st e, a s) := fun s t h => by
  refine ⟨ha s t h, ?_⟩
  obtain ⟨hreads, hadt, hstlb, hnfree⟩ := h
  unfold State.fillStack
  dsimp only
  rw [hstlb, hnfree]
  split
  · exact ⟨⟨hreads, hadt, hstlb, hnfree⟩, rfl⟩
  · exact ⟨⟨⟨hreads.mem, hreads.memBad, hreads.feat, hreads.boot, hreads.asCache, hreads.regs, hreads.fab⟩, hadt, rfl, rfl⟩,
      rfl⟩

/-- What the adjoint unit of a stack does with the entry it has walked to. -/
def stackEntry (st : Nat) (priv : Bool) (va : Nat) (acc : Access) (s : State) :
    Except Cause TlbEntry → State × Except Cause Xlat
  | .error c => (s, .error c)
  | .ok e => (s.fillStack st e, s.checkEntry e priv va acc)

/-- The walk of the adjoint unit of a stack, for an address that its TLB does not hold. -/
def stackWalk (st : Nat) (asid : Asid) (priv : Bool) (va : Nat) (acc : Access) (s : State) : State × Except Cause Xlat :=
  stackEntry st priv va acc (s.walk st asid va).1 (s.walk st asid va).2

theorem stackWalk_hubStep (st : Nat) (asid : Asid) (priv : Bool) (va : Nat) (acc : Access) :
    HubStep (stackWalk st asid priv va acc) := by
  refine (walk st asid va).bind fun r => ?_
  cases r with
  | error c => exact answer _
  | ok e => exact fillStack st e fun s t h => h.reads.checkEntry _ _ _ _

/-- What the adjoint unit of a stack does with what its TLB holds. -/
def stackHit (st : Nat) (asid : Asid) (priv : Bool) (va : Nat) (acc : Access) :
    Option (Nat × TlbEntry) → State → State × Except Cause Xlat
  | some x => fun s => (s, s.checkEntry x.2 priv va acc)
  | none => stackWalk st asid priv va acc

theorem translateStack (st : Nat) (asid : Asid) (priv : Bool) (va : Nat) (acc : Access) :
    HubStep fun s => s.translateStack st asid priv va acc := by
  have hhit : HubStep fun s =>
      stackHit st asid priv va acc (s.stlb.find? fun x => x.1 == st && x.2.hits asid va) s := by
    refine read (fun s t h => by rw [h.stlb]) fun r => ?_
    cases r with
    | some x => exact fun s t h => ⟨h.reads.checkEntry _ _ _ _, h, rfl⟩
    | none => exact stackWalk_hubStep st asid priv va acc
  refine hhit.congr fun s => ?_
  unfold State.translateStack
  cases s.stlb.find? fun x => x.1 == st && x.2.hits asid va with
  | some x => rfl
  | none =>
    unfold stackHit stackWalk
    dsimp only
    rcases s.walk st asid va with ⟨_, _ | _⟩ <;> rfl

theorem adtWords (st : Nat) (asid : Asid) (base i : Nat) : HubStep fun s => s.adtWords st asid base i := fun s t h => by
  have hunheard := h.unheard (base + 64 * i)
  obtain ⟨hreads, hadt, hstlb, hnfree⟩ := h
  unfold State.adtWords
  simp only [hadt, hreads.populated, hreads.unitBad, hreads.mem, hreads.adtOf]
  split
  · exact ⟨rfl, ⟨hreads, hadt, hstlb, hnfree⟩, rfl⟩
  · split
    · exact ⟨rfl, ⟨hreads, hadt, hstlb, hnfree⟩, rfl⟩
    · split
      · exact ⟨rfl, hunheard, LooksUp.unheard _ _⟩
      · split
        · exact ⟨rfl, ⟨hreads, hadt, hstlb, hnfree⟩, rfl⟩
        · exact ⟨rfl, ⟨⟨rfl, hreads.memBad, hreads.feat, hreads.boot, hreads.asCache, hreads.regs, hreads.fab⟩, rfl, hstlb,
            hnfree⟩, rfl⟩

/-- What a scan of the ADT does with the class of entry i. -/
def scanClass (st : Nat) (asid : Asid) (base va n i : Nat) (c : AdtClass) (s : State) : State × Except Cause AdtClass :=
  if c = .none then s.adtScan st asid base va n (i + 1) else (s, .ok c)

/-- What a scan of the ADT does with the words of entry i. -/
def scanOn (st : Nat) (asid : Asid) (base va n i : Nat) (s : State) : Except Cause (List Nat) → State × Except Cause AdtClass
  | .error c => (s, .error c)
  | .ok ws => scanClass st asid base va n i (s.classWords ws va) s

theorem adtScan (st : Nat) (asid : Asid) (base va n : Nat) : ∀ i, HubStep fun s => s.adtScan st asid base va n i := by
  induction n with
  | zero => exact fun i => answer _
  | succ n ih =>
    intro i
    have hon : HubStep fun s => scanOn st asid base va n i (s.adtWords st asid base i).1 (s.adtWords st asid base i).2 := by
      refine (adtWords st asid base i).bind fun r => ?_
      cases r with
      | error c => exact answer _
      | ok ws =>
        exact read (r := fun s => s.classWords ws va) (fun s t h => by unfold State.classWords; rw [h.reads.adtOf])
          fun c => ite (ih (i + 1)) (answer _)
    refine hon.congr fun s => ?_
    obtain ⟨herr, hok⟩ := adtScan_succ s st asid base va n i
    rcases hw : s.adtWords st asid base i with ⟨u, c | ws⟩
    · exact herr u c hw
    · exact hok u ws hw

/-- What the class of an address follows from, once the address-space entry is read. -/
def classOn (st : Nat) (asid : Asid) (va : Nat) (s : State) : Except Cause (List Nat) → State × Except Cause AdtClass
  | .error c => (s, .error c)
  | .ok ws => s.adtScan st asid (asAdt ws).1 va (min (asAdt ws).2 4096) 0

theorem classify (st : Nat) (asid : Asid) (va : Nat) (cnt : Bool) : HubStep fun s => s.classify st asid va cnt := by
  have hon : HubStep fun s => classOn st asid va (s.asEntry st asid).1 (s.asEntry st asid).2 := by
    refine (asEntry st asid).bind fun r => ?_
    cases r with
    | error c => exact answer _
    | ok ws => exact adtScan st asid _ va _ 0
  refine (ite (c := cnt = true) hon (answer (.ok .none))).congr fun s => ?_
  unfold State.classify
  split
  · rcases s.asEntry st asid with ⟨_, _ | _⟩ <;> rfl
  · rfl

/-- What classing the words of a store does with the class of its first. -/
def storeOn (st : Nat) (asid : Asid) (p : Option (AdtEnt × Nat)) (a : Nat) (as : List Nat) (s : State) :
    Except Cause AdtClass → State × Except Cause (Option (AdtEnt × Nat))
  | .error c => (s, .error c)
  | .ok .none => s.classStore st asid p as
  | .ok (.twin _) | .ok (.shadow _) => (s, .error .protection)
  | .ok (.primary e) => s.classStore st asid (some (p.getD (e, a))) as

theorem classStore (st : Nat) (asid : Asid) (as : List Nat) : ∀ p, HubStep fun s => s.classStore st asid p as := by
  induction as with
  | nil => exact fun p => answer _
  | cons a as ih =>
    intro p
    have hon : HubStep fun s => storeOn st asid p a as (s.classify st asid a true).1 (s.classify st asid a true).2 := by
      refine (classify st asid a true).bind fun r => ?_
      rcases r with c | _ | e | e | e
      · exact answer _
      · exact ih p
      · exact ih _
      · exact answer _
      · exact answer _
    refine hon.congr fun s => ?_
    rw [State.classStore]
    rcases s.classify st asid a true with ⟨_, _ | _ | _ | _ | _⟩ <;> rfl

/-- What reading a count word does with its translation. -/
def countOn (s : State) : Except Cause Xlat → State × Except Cause (Nat × Nat)
  | .error c => (s, .error c)
  | .ok x =>
    match s.homeRead x.pa 4 with
    | .error c => (s.unheard x.pa, .error c)
    | .ok bs => (s, .ok (leNat bs, x.pa))

/-- What reading a count word does with the bytes read. -/
def countBytes (pa : Nat) : Except Cause (List Byte) → State → State × Except Cause (Nat × Nat)
  | .error c => fun s => (s.unheard pa, .error c)
  | .ok bs => fun s => (s, .ok (leNat bs, pa))

theorem countAt (st : Nat) (asid : Asid) (priv : Bool) (e : AdtEnt) (va : Nat) (acc : Access) :
    HubStep fun s => s.countAt st asid priv e va acc := by
  have hon : HubStep fun s => countOn (s.translateStack st asid priv (e.countVa va) acc).1
      (s.translateStack st asid priv (e.countVa va) acc).2 := by
    refine (translateStack st asid priv _ acc).bind fun r => ?_
    cases r with
    | error c => exact answer _
    | ok x =>
      refine (read (g := countBytes x.pa) (r := fun s => s.homeRead x.pa 4) (fun s t h => h.reads.homeRead _ _)
        fun c => ?_).congr fun s => ?_
      · cases c with
        | error c => exact unheard x.pa _
        | ok bs => exact answer _
      · unfold countOn
        dsimp only
        cases s.homeRead x.pa 4 <;> rfl
  refine hon.congr fun s => ?_
  unfold State.countAt
  rcases s.translateStack st asid priv (e.countVa va) acc with ⟨_, _ | _⟩ <;> rfl

/-- What the test of a store does with the count word of its granule. -/
def gateCount (va : Nat) (e : AdtEnt) (a : Nat) (s : State) : Except Cause (Nat × Nat) → State × Except (Cause × Nat) Unit
  | .error c => (s, .error (c, e.countVa a))
  | .ok (w, _) => if countOf w = 0 then (s, .ok ()) else (s, .error (.primaryPinned, va))

/-- What the test of a store does with the class of its words. -/
def gateOn (asid : Asid) (priv : Bool) (va : Nat) (x : Xlat) (n en : Nat) (test : Bool) (s : State) :
    Except Cause (Option (AdtEnt × Nat)) → State × Except (Cause × Nat) Unit
  | .error c => (s, .error (c, va))
  | .ok none => (s, .ok ())
  | .ok (some (e, a)) =>
    if test && en % 2 ^ n != 0 then
      gateCount va e a (s.countAt (homeOf x.pa).1 asid priv e a .read).1 (s.countAt (homeOf x.pa).1 asid priv e a .read).2
    else (s, .ok ())

theorem gateStore (asid : Asid) (priv : Bool) (va : Nat) (x : Xlat) (n en : Nat) (test : Bool) :
    HubStep fun s => s.gateStore asid priv va x n en test := by
  have hon : HubStep fun s => gateOn asid priv va x n en test
      (s.classStore (homeOf x.pa).1 asid none (storeWords va n en)).1
      (s.classStore (homeOf x.pa).1 asid none (storeWords va n en)).2 := by
    refine (classStore _ asid _ none).bind fun r => ?_
    rcases r with c | _ | ⟨e, a⟩
    · exact answer _
    · exact answer _
    · refine ite ?_ (answer _)
      refine (countAt _ asid priv e a .read).bind fun r => ?_
      rcases r with c | ⟨w, _⟩
      · exact answer _
      · exact ite (answer _) (answer _)
  refine (ite (c := (!x.cnt) = true) (answer (.ok ())) hon).congr fun s => ?_
  unfold State.gateStore
  dsimp only
  split
  · rfl
  · rcases s.classStore (homeOf x.pa).1 asid none (storeWords va n en) with ⟨u, _ | _ | ⟨e, a⟩⟩
    · rfl
    · rfl
    · unfold gateOn
      dsimp only
      split
      · rcases u.countAt (homeOf x.pa).1 asid priv e a .read with ⟨_, _ | ⟨_, _⟩⟩ <;> rfl
      · rfl

end HubStep

/-! #### Writes at home (R83, R89, R90, R122) -/

theorem noteStale_rest (s : State) (pa : Nat) : s.noteStale pa = { s with stale := (s.noteStale pa).stale } := by
  unfold State.noteStale
  split <;> rfl

theorem foldl_noteStale_rest (ps : List Nat) (s : State) :
    ps.foldl State.noteStale s = { s with stale := (ps.foldl State.noteStale s).stale } := by
  induction ps generalizing s with
  | nil => rfl
  | cons p ps ih => rw [List.foldl_cons, ih, noteStale_rest]

theorem foldl_bell_rest (bs : List (Nat × BteQ)) (s : State) :
    bs.foldl (fun s b => s.bell b.1) s = { s with bells := (bs.foldl (fun s b => s.bell b.1) s).bells } := by
  induction bs generalizing s with
  | nil => rfl
  | cons b bs ih =>
    rw [List.foldl_cons, ih]
    unfold State.bell
    split <;> rfl

theorem modSplit_cores (s : State) (x : Who) (f : Split → Split) : s.modSplit x f = { s with cores := (s.modSplit x f).cores } := by
  unfold State.modSplit State.modWarp
  split <;> rfl

theorem noteWatch_rest (s : State) (pa n : Nat) : s.noteWatch pa n = { s with cores := (s.noteWatch pa n).cores } := by
  unfold State.noteWatch
  generalize s.hits pa n = xs
  induction xs generalizing s with
  | nil => rfl
  | cons x xs ih => rw [List.foldl_cons, ih, modSplit_cores]

/-- A write of bytes at home changes memory, what is noted of it, and nothing else of the device but what its cores wait for. -/
theorem homeWrite_rest {s t : State} {pa : Nat} {bs : List Byte} (h : s.homeWrite pa bs = .ok t) :
    t = { s with mem := Memory.writeN s.mem pa bs, memBad := s.memBad.filter fun u => !(unitsOf pa bs.length).contains u
                 stale := t.stale, bells := t.bells, cores := t.cores } := by
  unfold State.homeWrite at h
  dsimp only at h
  split at h
  · cases h
  · cases h
    rw [noteWatch_rest, State.noteBell, foldl_bell_rest, foldl_noteStale_rest]

/-- A write of bytes at home is refused or performed by what the hub reads alone. -/
theorem WritesAlike.homeWrite {s t : State} (h : WritesAlike s t) (pa : Nat) (bs : List Byte) :
    (∃ c, s.homeWrite pa bs = .error c ∧ t.homeWrite pa bs = .error c) ∨
      ∃ s' t', s.homeWrite pa bs = .ok s' ∧ t.homeWrite pa bs = .ok t' ∧ WritesAlike s' t' ∧ s'.hub = s.hub := by
  obtain ⟨hreads, hadt, hstlb, hnfree⟩ := h
  by_cases hbad : ((unitsOf pa bs.length).any fun u =>
      s.firnDown (u * 8) || (s.memBad.contains u && !unitWhole pa bs.length u)) = true
  · refine .inl ⟨.memoryUncorrectable, if_pos hbad, ?_⟩
    unfold State.homeWrite
    rw [hreads.firnDown, hreads.memBad]
    exact if_pos hbad
  · have hs : ∃ s', s.homeWrite pa bs = .ok s' := ⟨_, if_neg hbad⟩
    have ht : ∃ t', t.homeWrite pa bs = .ok t' := by
      refine ⟨_, if_neg ?_⟩
      rwa [hreads.firnDown, hreads.memBad]
    obtain ⟨s', hs'⟩ := hs
    obtain ⟨t', ht'⟩ := ht
    refine .inr ⟨s', t', hs', ht', ?_, by rw [homeWrite_rest hs']⟩
    rw [homeWrite_rest hs', homeWrite_rest ht']
    exact ⟨⟨by dsimp only; rw [hreads.mem], by dsimp only; rw [hreads.memBad], hreads.feat, hreads.boot, hreads.asCache,
      hreads.regs, hreads.fab⟩, hadt, hstlb, hnfree⟩

/-- A check that ends in an answer was not refused. -/
theorem of_ite_error {ε α : Type} {c : Prop} [Decidable c] {e : ε} {r : Except ε α} {x : α}
    (h : (if c then .error e else r) = .ok x) : ¬c ∧ r = .ok x := by
  by_cases hc : c
  · rw [if_pos hc] at h
    cases h
  · exact ⟨hc, (if_neg hc).symm.trans h⟩

/-- A team that is not privileged reaches no register of the hub (R96). -/
theorem checkEntry_user {s : State} {e : TlbEntry} {va : Nat} {acc : Access} {x : Xlat}
    (h : s.checkEntry e false va acc = .ok x) : hubRange x.pa = false := by
  unfold State.checkEntry at h
  obtain ⟨hpriv, h⟩ := of_ite_error h
  obtain ⟨hhub, h⟩ := of_ite_error h
  obtain ⟨-, h⟩ := of_ite_error h
  obtain ⟨-, h⟩ := of_ite_error h
  obtain ⟨-, h⟩ := of_ite_error h
  cases h
  simp only [Bool.not_false, Bool.and_true, Bool.not_eq_true] at hpriv
  simpa [hpriv] using hhub

theorem translateHub_user {s : State} {a : Asid} {va : Nat} {acc : Access} {x : Xlat}
    (h : s.translateHub a false va acc = .ok x) : hubRange x.pa = false := by
  unfold State.translateHub at h
  split at h
  · cases h
  · exact checkEntry_user h

/-- What a BTE's write does with the test of its store. -/
def bteWriteOn (va : Nat) (x : Xlat) (bs : List Byte) (s : State) :
    Except (Cause × Nat) Unit → State × Except (Cause × Nat) Unit
  | .error e => (s, .error e)
  | .ok _ =>
    match s.homeWrite x.pa bs with
    | .error c => (s.unheard x.pa, .error (c, va))
    | .ok s => (s, .ok ())

theorem bteWriteOn_alike {s t : State} (h : WritesAlike s t) (va : Nat) (x : Xlat) (bs : List Byte)
    (r : Except (Cause × Nat) Unit) :
    (bteWriteOn va x bs t r).2 = (bteWriteOn va x bs s r).2 ∧
      WritesAlike (bteWriteOn va x bs s r).1 (bteWriteOn va x bs t r).1 ∧ (bteWriteOn va x bs s r).1.hub = s.hub := by
  cases r with
  | error e => exact ⟨rfl, h, rfl⟩
  | ok _ =>
    unfold bteWriteOn
    dsimp only
    obtain ⟨c, hs, ht⟩ | ⟨s', t', hs, ht, halike, hhub⟩ := h.homeWrite x.pa bs
    · rw [hs, ht]
      exact ⟨rfl, h.unheard x.pa, by rw [show s.unheard x.pa = _ from LooksUp.unheard s x.pa]⟩
    · rw [hs, ht]
      exact ⟨rfl, halike, hhub⟩

/-- A BTE's write of a translated address goes by way of the test of its store. -/
theorem bteWrite_ok {s : State} {a : Asid} {va : Nat} {x : Xlat} (h : s.translateHub a false va .write = .ok x)
    (bs : List Byte) : s.bteWrite a va bs =
      bteWriteOn va x bs (s.gateStore a false va x bs.length (allBytes bs.length) true).1
        (s.gateStore a false va x bs.length (allBytes bs.length) true).2 := by
  unfold State.bteWrite
  simp only [h, translateHub_user h]
  rcases s.gateStore a false va x bs.length (allBytes bs.length) true with ⟨_, _ | _⟩ <;> rfl

theorem bteWrite_error {s : State} {a : Asid} {va : Nat} {c : Cause} (h : s.translateHub a false va .write = .error c)
    (bs : List Byte) : s.bteWrite a va bs = (s, .error (c, va)) := by
  unfold State.bteWrite
  simp only [h]

/-- A BTE's write changes no register, queue or packet of the hub, and where the hub reads alike it writes alike. -/
theorem bteWrite_both {s t : State} (h : WritesAlike s t) (a : Asid) (va : Nat) (bs : List Byte) :
    (t.bteWrite a va bs).2 = (s.bteWrite a va bs).2 ∧ WritesAlike (s.bteWrite a va bs).1 (t.bteWrite a va bs).1 ∧
      (s.bteWrite a va bs).1.hub = s.hub := by
  cases hx : s.translateHub a false va .write with
  | error c =>
    rw [bteWrite_error hx, bteWrite_error ((h.reads.translateHub _ _ _ _).trans hx)]
    exact ⟨rfl, h, rfl⟩
  | ok x =>
    obtain ⟨hres, hstate, hlooks⟩ := HubStep.gateStore a false va x bs.length (allBytes bs.length) true s t h
    dsimp only at hres hstate hlooks
    rw [bteWrite_ok hx, bteWrite_ok ((h.reads.translateHub _ _ _ _).trans hx), hres]
    obtain ⟨hres', hstate', hhub⟩ := bteWriteOn_alike hstate va x bs
      (s.gateStore a false va x bs.length (allBytes bs.length) true).2
    exact ⟨hres', hstate', hhub.trans (by rw [show (s.gateStore _ _ _ _ _ _ _).1 = _ from hlooks])⟩

theorem bteWrite_hub {s u : State} {a : Asid} {va : Nat} {bs : List Byte} {r : Except (Cause × Nat) Unit}
    (h : s.bteWrite a va bs = (u, r)) : u.hub = s.hub := by
  obtain ⟨-, -, hhub⟩ := bteWrite_both (WritesAlike.refl s) a va bs
  rwa [h] at hhub

/-- A BTE's write that is performed is performed likewise where the hub reads alike. -/
theorem bteWrite_alike {s t u : State} {a : Asid} {va : Nat} {bs : List Byte} (h : WritesAlike s t)
    (hw : s.bteWrite a va bs = (u, .ok ())) : ∃ v, t.bteWrite a va bs = (v, .ok ()) ∧ WritesAlike u v ∧ v.hub = t.hub := by
  obtain ⟨hres, hstate, -⟩ := bteWrite_both h a va bs
  rw [hw] at hres hstate
  exact ⟨_, Prod.ext rfl hres, hstate, bteWrite_hub rfl⟩

end Sys2Proof.Machine

/-! ### Block transfers (R51, R119 to R122) -/

namespace Sys2Proof.Machine

open Sys2Proof.Laws

/-! #### The packet of a queue and its reads (R119, R121, R310) -/

theorem bteq_modBte (s : State) (q : Nat) (f : BteQ → BteQ) : (s.modBte q f).hub.bteq q = f (s.hub.bteq q) :=
  amGet_amPut_self _ _ _ _

theorem modBte_alike (s : State) (q : Nat) (f : BteQ → BteQ) : WritesAlike s (s.modBte q f) :=
  ⟨⟨rfl, rfl, rfl, rfl, rfl, rfl, rfl⟩, rfl, rfl, rfl⟩

theorem modPkt_alike (s : State) (q : Nat) (f : BtePkt → BtePkt) : WritesAlike s (s.modPkt q f) := modBte_alike _ _ _

/-- A change of the packet in progress changes it and leaves its queue's descriptor and address space. -/
theorem bteq_modPkt {s : State} {q : Nat} {p : BtePkt} (h : (s.hub.bteq q).cur = some p) (f : BtePkt → BtePkt) :
    (s.modPkt q f).hub.bteq q = { s.hub.bteq q with cur := some (f p) } := by
  rw [State.modPkt, bteq_modBte, h]
  rfl

theorem bteRead_user {s : State} {a : Asid} {va : Nat} {x : Xlat} (h : s.translateHub a false va .read = .ok x) (n : Nat) :
    s.bteRead a va n =
      if s.badLine x.pa then .error .memoryUncorrectable else (s.homeRead x.pa n).map fun bs => (x.pa, bs) := by
  unfold State.bteRead
  simp only [h, translateHub_user h, Bool.false_eq_true, if_false]
  cases s.homeRead x.pa n <;> rfl

theorem ReadsAlike.bteRead {s t : State} (h : ReadsAlike s t) (a : Asid) (va n : Nat) : t.bteRead a va n = s.bteRead a va n := by
  have htranslate := h.translateHub a false va .read
  cases hx : s.translateHub a false va .read with
  | error c =>
    unfold State.bteRead
    simp only [htranslate, hx]
  | ok x =>
    rw [bteRead_user hx, bteRead_user (htranslate.trans hx), h.homeRead]
    unfold State.badLine
    rw [h.unitBad]

/-- A BTE's read that is not refused gives as many bytes as it asks for. -/
theorem bteRead_length {s : State} {a : Asid} {va n : Nat} {r : Nat × List Byte} (h : s.bteRead a va n = .ok r) :
    r.2.length = n := by
  cases hx : s.translateHub a false va .read with
  | error c =>
    unfold State.bteRead at h
    rw [hx] at h
    cases h
  | ok x =>
    rw [bteRead_user hx] at h
    obtain ⟨-, h⟩ := of_ite_error h
    unfold State.homeRead at h
    split at h
    · cases h
    · cases h
      exact Memory.readN_length _ _ _

/-- Reads of other memory than the host's are not captured. -/
theorem bteSees_of_device (s : State) (a : Asid) {rs : List (Nat × List Byte)} (h : ∀ r ∈ rs, hostPa r.1 = false) :
    s.bteSees a rs = some s := by
  unfold State.bteSees
  rw [List.filter_eq_nil_iff.2 fun r hr => by simp [h r hr]]
  simp [State.captureWaitsAll]

/-- Nor are any where the address space is not captured. -/
theorem bteSees_of_uncaptured {s : State} {a : Asid} (h : s.captures a.toNat = false) (rs : List (Nat × List Byte)) :
    s.bteSees a rs = some s := by
  have hfold : ∀ hs : List (Nat × List Byte),
      hs.foldl (fun s r => s.capture a.toNat 3 (r.1 - 2 ^ 51) 0xFFFF 0 r.2) s = s := fun hs => by
    induction hs with
    | nil => rfl
    | cons r hs ih => rw [List.foldl_cons, State.capture, h]; exact ih
  unfold State.bteSees
  dsimp only
  rw [hfold]
  simp [State.captureWaitsAll, h]

/-! #### One access of a run (R121, R122) -/

/-- A packet whose run has read these bytes of its streams. -/
def BtePkt.having (p : BtePkt) (bufs : List (List Byte)) : BtePkt := { p with buf := bufs, sent := none }

namespace BtePkt
variable (p : BtePkt) (bufs : List (List Byte))

@[simp] theorem having_kind : (p.having bufs).kind = p.kind := rfl
@[simp] theorem having_mode : (p.having bufs).mode = p.mode := rfl
@[simp] theorem having_reads : (p.having bufs).reads = p.reads := rfl
@[simp] theorem having_writes : (p.having bufs).writes = p.writes := rfl
@[simp] theorem having_run : (p.having bufs).run = p.run := rfl
@[simp] theorem having_at (st : Nat × Nat) : (p.having bufs).at st = p.at st := rfl
@[simp] theorem having_got (j : Nat) : (p.having bufs).got j = (bufs.getD j []).length := rfl
@[simp] theorem having_buf : (p.having bufs).buf = bufs := rfl

end BtePkt

/-- A packet of a kind is in progress, not over, and waits for nothing. -/
structure Running (s : State) (q kind : Nat) (p : BtePkt) : Prop where
  served : s.bteServed q = true
  cur : (s.hub.bteq q).cur = some p
  kind : p.kind = kind
  words : p.words ≠ []
  result : p.result = none
  stall : p.stall = none
  sent : p.sent = none

theorem bteRun_running {s : State} {q kind : Nat} {p : BtePkt} (h : Running s q kind p) (n : Nat) :
    s.bteRun q kind (n + 1) = (s.bteAccess q p).bteRun q kind n := by
  obtain ⟨hserved, hcur, hkind, hwords, hresult, hstall, hsent⟩ := h
  rw [State.bteRun]
  simp only [hcur, hserved, hkind, hresult, hstall, hsent]
  simp [hwords]

theorem bteRun_over {s : State} {q kind : Nat} {p : BtePkt} (hcur : (s.hub.bteq q).cur = some p)
    (hresult : p.result.isSome = true) (n : Nat) : s.bteRun q kind n = s := by
  cases n with
  | zero => rfl
  | succ n =>
    rw [State.bteRun]
    simp [hcur, hresult]

/-- A read of the run keeps its packet in progress, with the bytes read. -/
theorem bteAccess_reads {s : State} {q kind j va n : Nat} {p : BtePkt} {r : Nat × List Byte} (h : Running s q kind p)
    (hnext : p.nextRead = some (j, va, n)) (hnear : inAperture va = false)
    (hread : s.bteRead (s.hub.bteq q).asid va n = .ok r) (hhost : hostPa r.1 = false) :
    let t := s.bteAccess q p
    Running t q kind (p.having ((List.range p.reads.length).map fun i => p.buf.getD i [] ++ if i = j then r.2 else [])) ∧
      WritesAlike s t ∧ (t.hub.bteq q).asid = (s.hub.bteq q).asid := by
  intro t
  have ht : t = s.modPkt q fun _ =>
      p.having ((List.range p.reads.length).map fun i => p.buf.getD i [] ++ if i = j then r.2 else []) := by
    simp only [t, State.bteAccess, hnext, hnear, Bool.false_eq_true, if_false, hread,
      bteSees_of_device s _ (rs := [r]) (by simpa using hhost)]
    exact rfl
  have hq := bteq_modPkt h.cur fun _ =>
    p.having ((List.range p.reads.length).map fun i => p.buf.getD i [] ++ if i = j then r.2 else [])
  rw [← ht] at hq
  have hboot : t.boot = s.boot := by rw [ht]; rfl
  have hserved := h.served
  refine ⟨⟨?_, by rw [hq], h.kind, h.words, h.result, h.stall, rfl⟩, ?_, by rw [hq]⟩
  · unfold State.bteServed at hserved ⊢
    rwa [hq, hboot]
  · rw [ht]
    exact modPkt_alike _ _ _

/-- Noting a written line changes the packet's lines alone. -/
theorem bteLine_frame {s : State} {q : Nat} {p : BtePkt} (hcur : (s.hub.bteq q).cur = some p) (va : Nat) :
    ∃ ls, ((s.bteLine q va).hub.bteq q).cur = some { p with lines := ls } ∧ (s.bteLine q va).mem = s.mem := by
  unfold State.bteLine
  split
  · split
    · exact ⟨_, by rw [bteq_modPkt hcur], rfl⟩
    · exact ⟨p.lines, hcur, rfl⟩
  · exact ⟨p.lines, hcur, rfl⟩

theorem bteWrote_last {s : State} {q : Nat} {p : BtePkt} (h : ¬p.wr + 1 < p.writes.length) : s.bteWrote q p = s.bteStep q p :=
  if_neg h

/-- The only write of a run writes its bytes and advances the packet by the run. -/
theorem bteAccess_writes {s u : State} {q kind : Nat} {p : BtePkt} {st : Nat × Nat} (h : Running s q kind p)
    (hnext : p.nextRead = none) (hwrites : p.writes = [st]) (hwr : p.wr = 0) (hcut : p.cut = none)
    (hnear : inAperture (p.at st) = false)
    (hwrite : s.bteWrite (s.hub.bteq q).asid (p.at st) ((p.out p.run).getD 0 []) = (u, .ok ())) :
    (s.bteAccess q p).mem = u.mem ∧ ∃ ls, ((s.bteAccess q p).hub.bteq q).cur = some { p with
      pos := p.pos + p.run, bytes := p.bytes + p.run * st.2, buf := [], wr := 0, sent := none, lines := ls
      result := if p.total ≤ p.pos + p.run then some none else none } := by
  have hu : (u.hub.bteq q).cur = some p := by rw [bteWrite_hub hwrite]; exact h.cur
  obtain ⟨ls, hls, hmem⟩ := bteLine_frame hu (p.at st)
  have hline : BtePkt.writes { p with lines := ls } = [st] := hwrites
  have hlast : ¬p.wr + 1 < (BtePkt.writes { p with lines := ls }).length := by
    rw [hline, hwr]
    exact Nat.lt_irrefl 1
  have ht : s.bteAccess q p = (u.bteLine q (p.at st)).bteStep q { p with lines := ls } := by
    refine Eq.trans ?_ (bteWrote_last hlast)
    simp only [State.bteAccess, hnext, hwrites, hwr, List.getElem?_cons_zero, hnear, Bool.false_eq_true, if_false, hwrite, hls,
      Option.getD_some]
  rw [ht]
  refine ⟨hmem, ls, ?_⟩
  unfold State.bteStep
  dsimp only
  rw [bteq_modPkt hls, hline, show BtePkt.run { p with lines := ls } = p.run from rfl,
    show BtePkt.total { p with lines := ls } = p.total from rfl]
  simp only [hcut, List.headD_cons]

/-! #### The runs of a copy, a fill and a reduce-copy (R51, R121) -/

theorem at_lt (p : BtePkt) (st : Nat × Nat) : p.at st < 2 ^ 54 := Nat.mod_lt _ (by norm_num)

theorem foldl_min_le (f : Nat × Nat → Nat) (sts : List (Nat × Nat)) (n : Nat) :
    sts.foldl (fun n st => min n (f st)) n ≤ n ∧ ∀ st ∈ sts, sts.foldl (fun n st => min n (f st)) n ≤ f st := by
  induction sts generalizing n with
  | nil => exact ⟨le_rfl, fun _ h => absurd h List.not_mem_nil⟩
  | cons a sts ih =>
    obtain ⟨hle, hmem⟩ := ih (min n (f a))
    refine ⟨hle.trans (min_le_left _ _), fun st hst => ?_⟩
    obtain rfl | hst := List.mem_cons.1 hst
    · exact hle.trans (min_le_right _ _)
    · exact hmem st hst

/-- No stream that a run reads crosses a line in it, where it writes none through the aperture. -/
theorem run_within_line {p : BtePkt} {st : Nat × Nat} (hfar : (p.writes.any fun st => inAperture (p.at st)) = false)
    (hcut : p.cut = none) (hst : st ∈ p.reads) : p.run * st.2 ≤ 64 - p.at st % 64 := by
  have hrun : p.run ≤ (64 - p.at st % 64) / st.2 := by
    unfold BtePkt.run
    simp only [hfar, hcut]
    exact (foldl_min_le (fun st => (64 - p.at st % 64) / st.2) p.reads _).2 st hst
  exact (Nat.mul_le_mul_right _ hrun).trans (Nat.div_mul_le_self _ _)

/-- The end of a run of `b`-byte elements whose writes leave the memory `m` (R122). -/
def RunEnds (q b : Nat) (p : BtePkt) (m : List Host.Cell) (t : State) : Prop :=
  t.mem = m ∧ ∃ ls, (t.hub.bteq q).cur = some { p with
    pos := p.pos + p.run, bytes := p.bytes + p.run * b, buf := [], wr := 0, sent := none, lines := ls
    result := if p.total ≤ p.pos + p.run then some none else none }

/-- A run that was the packet's last is followed by no other. -/
theorem RunEnds.bteRun {q b : Nat} {p : BtePkt} {m : List Host.Cell} {t : State} (h : RunEnds q b p m t)
    (hlast : p.total ≤ p.pos + p.run) (kind n : Nat) : RunEnds q b p m (t.bteRun q kind n) := by
  obtain ⟨hmem, ls, hcur⟩ := h
  rw [bteRun_over hcur (by rw [if_pos hlast]; rfl)]
  exact ⟨hmem, ls, hcur⟩

/-- A run whose bytes have all been read makes its write and ends. -/
theorem bteAccess_ends {s r u : State} {q kind : Nat} {p : BtePkt} {st : Nat × Nat} (h : Running r q kind p)
    (halike : WritesAlike s r) (hasid : (r.hub.bteq q).asid = (s.hub.bteq q).asid) (hnext : p.nextRead = none)
    (hwrites : p.writes = [st]) (hwr : p.wr = 0) (hcut : p.cut = none) (hnear : inAperture (p.at st) = false)
    (hwrite : s.bteWrite (s.hub.bteq q).asid (p.at st) ((p.out p.run).getD 0 []) = (u, .ok ())) :
    RunEnds q st.2 p u.mem (r.bteAccess q p) := by
  obtain ⟨v, hv, hmem, -⟩ := bteWrite_alike halike hwrite
  rw [← hasid] at hv
  rw [← hmem.reads.mem]
  exact bteAccess_writes h hnext hwrites hwr hcut hnear hv

theorem nextRead_none {p : BtePkt} (h : ∀ x ∈ p.reads.zipIdx, p.run * x.1.2 ≤ p.got x.2) : p.nextRead = none := by
  unfold BtePkt.nextRead
  refine List.findSome?_eq_none_iff.2 fun x hx => ?_
  dsimp only
  rw [if_pos (Nat.sub_eq_zero_of_le (h x hx))]

/-- The next read is of the first stream of which bytes are still to be read. -/
theorem nextRead_first {p : BtePkt} {st : Nat × Nat} {sts : List (Nat × Nat)} (hreads : p.reads = st :: sts) (hgot : p.got 0 = 0)
    (hrun : p.run * st.2 ≠ 0) (hline : p.run * st.2 ≤ 64 - p.at st % 64) :
    p.nextRead = some (0, p.at st, p.run * st.2) := by
  unfold BtePkt.nextRead
  rw [hreads, List.zipIdx_cons, List.findSome?_cons]
  simp only [hgot, Nat.sub_zero, hrun, if_false, Nat.add_zero, Nat.mod_eq_of_lt (at_lt p st), Nat.min_eq_left hline]

theorem nextRead_second {p : BtePkt} {st st' : Nat × Nat} {sts : List (Nat × Nat)} (hreads : p.reads = st :: st' :: sts)
    (hfirst : p.run * st.2 ≤ p.got 0) (hgot : p.got 1 = 0) (hrun : p.run * st'.2 ≠ 0)
    (hline : p.run * st'.2 ≤ 64 - p.at st' % 64) : p.nextRead = some (1, p.at st', p.run * st'.2) := by
  unfold BtePkt.nextRead
  rw [hreads, List.zipIdx_cons, List.findSome?_cons, List.zipIdx_cons, List.findSome?_cons]
  simp only [hgot, Nat.sub_eq_zero_of_le hfirst, Nat.sub_zero, hrun, if_true, if_false, Nat.add_zero,
    Nat.mod_eq_of_lt (at_lt p st'), Nat.min_eq_left hline]

theorem out_copy {p : BtePkt} (h : p.kind = 1) (k : Nat) : p.out k = [p.buf.getD 0 []] := by simp only [BtePkt.out, h]

theorem out_fill {p : BtePkt} (h : p.kind = 3) (k : Nat) : p.out k = [(List.range k).flatMap fun _ => leBytes 8 (p.w 1)] := by
  simp only [BtePkt.out, h]

/-- Element i of a reduce-copy's sums, of the bytes of its two streams (R51, R121). -/
def reduceSum (xs ys : List Byte) (i : Nat) : Nat := fAdd .f32 (bfToF32 (elemAt xs 2 i)) (elemAt ys 4 i)

/-- The bytes that a reduce-copy of a mode writes of a sum (R51). -/
def reduceBytes (mode sum : Nat) : List Byte := if mode = 2 then leBytes 4 sum else leBytes 2 (f32ToBf sum)

theorem out_reduce {p : BtePkt} (h : p.kind = 2) (hmode : p.mode = 1 ∨ p.mode = 2) (k : Nat) : p.out k =
    [(List.range k).flatMap fun i => reduceBytes p.mode (reduceSum (p.buf.getD 0 []) (p.buf.getD 1 []) i)] := by
  obtain hm | hm := hmode <;> simp [BtePkt.out, h, hm, reduceBytes, reduceSum]

/-- One run of a copy. -/
theorem bteCopy_run {s u : State} {q : Nat} {p : BtePkt} {r : Nat × List Byte} (h : Running s q 1 p) (hbuf : p.buf = [])
    (hwr : p.wr = 0) (hcut : p.cut = none) (hrun : p.run ≠ 0) (hfrom : inAperture (p.at (p.w 1, 1)) = false)
    (hread : s.bteRead (s.hub.bteq q).asid (p.at (p.w 1, 1)) p.run = .ok r) (hhost : hostPa r.1 = false)
    (hto : inAperture (p.at (p.w 2, 1)) = false)
    (hwrite : s.bteWrite (s.hub.bteq q).asid (p.at (p.w 2, 1)) r.2 = (u, .ok ())) :
    RunEnds q 1 p u.mem (s.bteRun q 1 2) := by
  have hreads : p.reads = [(p.w 1, 1)] := by simp only [BtePkt.reads, h.kind]
  have hwrites : p.writes = [(p.w 2, 1)] := by simp only [BtePkt.writes, h.kind]
  have hline := run_within_line (by simp [hwrites, hto]) hcut (st := (p.w 1, 1)) (by simp [hreads])
  have hnext := nextRead_first hreads (by simp [BtePkt.got, hbuf]) (by simpa using hrun) hline
  rw [← Nat.mul_one p.run] at hread
  obtain ⟨hrunning, halike, hasid⟩ := bteAccess_reads h hnext hfrom hread hhost
  rw [bteRun_running h, bteRun_running hrunning]
  refine bteAccess_ends hrunning halike hasid (nextRead_none fun x hx => ?_) hwrites hwr hcut hto ?_
  · obtain rfl : x = ((p.w 1, 1), 0) := by simpa [hreads] using hx
    simp [hreads, hbuf, ← bteRead_length hread]
  · rw [out_copy hrunning.kind]
    simpa [hreads, hbuf] using hwrite

/-- One run of a fill. -/
theorem bteFill_run {s u : State} {q : Nat} {p : BtePkt} (h : Running s q 3 p) (hwr : p.wr = 0) (hcut : p.cut = none)
    (hto : inAperture (p.at (p.w 2, 8)) = false)
    (hwrite : s.bteWrite (s.hub.bteq q).asid (p.at (p.w 2, 8))
      ((List.range p.run).flatMap fun _ => leBytes 8 (p.w 1)) = (u, .ok ())) : RunEnds q 8 p u.mem (s.bteRun q 3 1) := by
  have hreads : p.reads = [] := by simp only [BtePkt.reads, h.kind]
  have hwrites : p.writes = [(p.w 2, 8)] := by simp only [BtePkt.writes, h.kind]
  rw [bteRun_running h]
  refine bteAccess_ends h (WritesAlike.refl s) rfl (nextRead_none fun x hx => ?_) hwrites hwr hcut hto ?_
  · rw [hreads] at hx
    exact absurd hx List.not_mem_nil
  · rw [out_fill h.kind]
    exact hwrite

/-- Bytes of an element of a reduce-copy's destination, in the modes that write no other (R121). -/
def BtePkt.reduceSize (p : BtePkt) : Nat := if p.mode = 2 then 4 else 2

/-- The last run of a reduce-copy that sums (R51). -/
theorem bteReduceCopy_run {s u : State} {q : Nat} {p : BtePkt} {x y : Nat × List Byte} (h : Running s q 2 p)
    (hbuf : p.buf = []) (hwr : p.wr = 0) (hcut : p.cut = none) (hrun : p.run ≠ 0) (hlast : p.total ≤ p.pos + p.run)
    (hmode : p.mode = 1 ∨ p.mode = 2) (hx : inAperture (p.at (p.w 1, 2)) = false)
    (hreadx : s.bteRead (s.hub.bteq q).asid (p.at (p.w 1, 2)) (p.run * 2) = .ok x) (hhostx : hostPa x.1 = false)
    (hy : inAperture (p.at (p.w 2, 4)) = false)
    (hready : s.bteRead (s.hub.bteq q).asid (p.at (p.w 2, 4)) (p.run * 4) = .ok y) (hhosty : hostPa y.1 = false)
    (hto : inAperture (p.at (p.w 3, p.reduceSize)) = false)
    (hwrite : s.bteWrite (s.hub.bteq q).asid (p.at (p.w 3, p.reduceSize))
      ((List.range p.run).flatMap fun i => reduceBytes p.mode (reduceSum x.2 y.2 i)) = (u, .ok ())) :
    RunEnds q p.reduceSize p u.mem (s.bteRun q 2 4) := by
  have hzero : p.mode ≠ 0 := by omega
  have hthree : p.mode ≠ 3 := by omega
  have hreads : p.reads = [(p.w 1, 2), (p.w 2, 4)] := by simp only [BtePkt.reads, h.kind, hzero, if_false]
  have hwrites : p.writes = [(p.w 3, p.reduceSize)] := by
    simp only [BtePkt.writes, h.kind, hthree, if_false, BtePkt.reduceSize]
  have hfar : (p.writes.any fun st => inAperture (p.at st)) = false := by simp [hwrites, hto]
  have hlinex := run_within_line hfar hcut (st := (p.w 1, 2)) (by simp [hreads])
  have hliney := run_within_line hfar hcut (st := (p.w 2, 4)) (by simp [hreads])
  have hlenx := bteRead_length hreadx
  obtain ⟨hr, halike, hasid⟩ := bteAccess_reads h
    (nextRead_first hreads (by simp [BtePkt.got, hbuf]) (by simpa using hrun) hlinex) hx hreadx hhostx
  rw [bteRun_running h]
  rw [show (List.range p.reads.length).map (fun i => p.buf.getD i [] ++ if i = 0 then x.2 else []) = [x.2, []] by
    simp [hreads, hbuf, List.range_succ]] at hr
  rw [← hasid, ← halike.reads.bteRead] at hready
  obtain ⟨hr', halike', hasid'⟩ := bteAccess_reads hr
    (nextRead_second (p := p.having [x.2, []]) hreads (by simp [hlenx]) (by simp) (by simpa using hrun) hliney) hy hready hhosty
  rw [bteRun_running hr, bteRun_running hr']
  refine RunEnds.bteRun (p := p) ?_ hlast 2 1
  refine bteAccess_ends hr' (halike.trans halike') (hasid'.trans hasid) (nextRead_none fun z hz => ?_) hwrites hwr hcut hto ?_
  · obtain rfl | rfl : z = ((p.w 1, 2), 0) ∨ z = ((p.w 2, 4), 1) := by simpa [hreads] using hz
    · simp [hreads, hlenx]
    · simp [hreads, ← bteRead_length hready]
  · rw [out_reduce hr'.kind hmode]
    simpa [hreads] using hwrite

end Sys2Proof.Machine

/-! ### Packets of a block transfer engine from the look to the completion (R119 to R122) -/

namespace Sys2Proof.Machine

open Sys2Proof.Laws

/-! #### Taking a packet (R120) -/

theorem bteWord_ok {s : State} {q i w : Nat} (h : s.bteWord q i = .ok w) : ∃ r, s.bteWordAt q i = .ok r ∧ leNat r.2 = w := by
  unfold State.bteWord at h
  split at h
  · cases h
  next r hr => exact ⟨r, hr, Except.ok.inj h⟩

theorem btePacket_ok {s : State} {q va n : Nat} {p : BtePkt} (h : s.btePacket q va n = .ok p) :
    ∃ r, s.bteRead (s.hub.bteq q).asid va 64 = .ok r ∧ s.packetOf n r.2 = p := by
  unfold State.btePacket at h
  split at h
  · cases h
  next r hr => exact ⟨r, hr, Except.ok.inj h⟩

/-- A packet that is taken has the sequence number of its slot, and nothing of it has been done. -/
theorem packetOf_start (s : State) (n : Nat) (bs : List Byte) :
    (s.packetOf n bs).seq = n % 2 ^ 32 ∧ (s.packetOf n bs).pos = 0 ∧ (s.packetOf n bs).bytes = 0 := by
  unfold State.packetOf
  dsimp only
  split <;> exact ⟨rfl, rfl, rfl⟩

theorem bteBell_unrung {s : State} {q : Nat} (h : q ∉ s.bells) : exec (.bteBell q) s = .next s := by
  change execBteBell q s = _
  unfold execBteBell
  simp [h]

/-- What the look at a slot does with a packet: it takes one whose RDY bit has the slot's parity (R120). -/
def State.bteTake (s : State) (q n log2 : Nat) (p : BtePkt) : State :=
  if bitAt (p.w 0) 63 == (n / 2 ^ log2 % 2 == 0) then
    ((s.looked q).modBte q fun b => { b with cur := some p }).modHub fun h =>
      { h with bteOrder := h.bteOrder.filter (· != (q, n)) }
  else s.looked q

theorem bteBell_looks {s : State} {q w0 n : Nat} {p : BtePkt} (hserved : s.bteServed q = true)
    (hcur : (s.hub.bteq q).cur = none) (hw0 : s.bteWord q 0 = .ok w0) (hn : s.bteWord q 2 = .ok n) (hlo : 4 ≤ w0 / 2 ^ 58)
    (hhi : w0 / 2 ^ 58 ≤ 16) (hres : w0 / 2 ^ 54 % 16 = 0) (hdet : s.det (s.hub.bteq q).asid = false)
    (hcapt : s.captures (s.hub.bteq q).asid.toNat = false)
    (hp : s.btePacket q ((w0 % 2 ^ 54 + n % 2 ^ (w0 / 2 ^ 58) * 64) % 2 ^ 54) n = .ok p) (hbell : q ∈ s.bells)
    (hrest : s.boot.rest = 0) : exec (.bteBell q) s = .next (s.bteTake q n (w0 / 2 ^ 58) p) := by
  obtain ⟨r0, hr0, rfl⟩ := bteWord_ok hw0
  obtain ⟨r2, hr2, rfl⟩ := bteWord_ok hn
  obtain ⟨r, hr, rfl⟩ := btePacket_ok hp
  have hbad : (decide (leNat r0.2 / 2 ^ 58 < 4) || decide (16 < leNat r0.2 / 2 ^ 58) || leNat r0.2 / 2 ^ 54 % 16 != 0) = false := by
    simp only [Bool.or_eq_false_iff, decide_eq_false_iff_not, not_lt, bne_eq_false_iff_eq]
    exact ⟨⟨hlo, hhi⟩, hres⟩
  have hturn : s.bteTurn q (leNat r2.2) = true := by
    unfold State.bteTurn
    simp only [hdet]
    rfl
  have hrung : s.bells.contains q = true := List.contains_iff_mem.2 hbell
  change execBteBell q s = _
  unfold execBteBell
  dsimp only
  simp only [hcur, hserved, hrung, hrest, hr0, hr2, hbad, hturn, hr, bteSees_of_uncaptured hcapt]
  exact rfl

theorem bteBellTakes (s : State) (q w0 n : Nat) (p : BtePkt) (hserved : s.bteServed q = true)
    (hcur : (s.hub.bteq q).cur = none) (hw0 : s.bteWord q 0 = .ok w0) (hn : s.bteWord q 2 = .ok n) (hlo : 4 ≤ w0 / 2 ^ 58)
    (hhi : w0 / 2 ^ 58 ≤ 16) (hres : w0 / 2 ^ 54 % 16 = 0) (hdet : s.det (s.hub.bteq q).asid = false)
    (hcapt : s.captures (s.hub.bteq q).asid.toNat = false)
    (hp : s.btePacket q ((w0 % 2 ^ 54 + n % 2 ^ (w0 / 2 ^ 58) * 64) % 2 ^ 54) n = .ok p) :
    let free : Prop := (p.w 0 / 2 ^ 63 % 2 = 1 ↔ n / 2 ^ (w0 / 2 ^ 58) % 2 = 0)
    (q ∉ s.bells → exec (.bteBell q) s = .next s) ∧
    (q ∈ s.bells → s.boot.rest = 0 → free → ∃ t, exec (.bteBell q) s = .next t ∧ t.bells = s.bells.filter (· != q) ∧
      t.hub.bteq q = { s.hub.bteq q with cur := some p } ∧ t.mem = s.mem ∧
      p.seq = n % 2 ^ 32 ∧ p.pos = 0 ∧ p.bytes = 0) ∧
    (q ∈ s.bells → s.boot.rest = 0 → ¬free →
      exec (.bteBell q) s = .next { s with bells := s.bells.filter (· != q) }) := by
  intro free
  have hfree : (bitAt (p.w 0) 63 == (n / 2 ^ (w0 / 2 ^ 58) % 2 == 0)) = true ↔ free := by
    unfold bitAt
    rw [beq_iff_eq, Bool.eq_iff_iff, beq_iff_eq, beq_iff_eq]
  refine ⟨bteBell_unrung, fun hbell hrest hf => ?_, fun hbell hrest hf => ?_⟩
  · refine ⟨_, bteBell_looks hserved hcur hw0 hn hlo hhi hres hdet hcapt hp hbell hrest, ?_⟩
    rw [State.bteTake, if_pos (hfree.2 hf)]
    obtain ⟨r, -, rfl⟩ := btePacket_ok hp
    exact ⟨rfl, bteq_modBte (s.looked q) q fun b => { b with cur := some (s.packetOf n r.2) }, rfl, packetOf_start s n r.2⟩
  · rw [bteBell_looks hserved hcur hw0 hn hlo hhi hres hdet hcapt hp hbell hrest, State.bteTake,
      if_neg fun h => hf (hfree.1 h)]
    rfl

/-! #### Writes and runs (R51, R121, R122) -/

theorem bteWriteLands (s : State) (a : Asid) (va : Nat) (bs : List Byte) (x : Xlat)
    (hx : s.translateHub a false va .write = .ok x) (_ : hubRange x.pa = false) (hcnt : x.cnt = false)
    (hgood : ∀ u ∈ unitsOf x.pa bs.length, s.unitBad u = false) :
    ∃ t, s.bteWrite a va bs = (t, .ok ()) ∧ t.mem = Memory.writeN s.mem x.pa bs := by
  obtain ⟨t, ht, hmem, -⟩ := homeWrite_good hgood
  refine ⟨t, ?_, hmem⟩
  have hgate : s.gateStore a false va x bs.length (allBytes bs.length) true = (s, .ok ()) := by
    unfold State.gateStore
    simp only [hcnt, Bool.not_false, if_true]
  rw [bteWrite_ok hx, hgate, bteWriteOn, ht]

/-- A run that ends a packet's access leaves it where the run began with nothing read or sent. -/
theorem RunEnds.of_fresh {q b : Nat} {p : BtePkt} {m : List Host.Cell} {t : State} (h : RunEnds q b p m t) (hbuf : p.buf = [])
    (hwr : p.wr = 0) (hsent : p.sent = none) : t.mem = m ∧ ∃ ls, (t.hub.bteq q).cur = some { p with
      pos := p.pos + p.run, bytes := p.bytes + p.run * b, lines := ls
      result := if p.total ≤ p.pos + p.run then some none else none } := by
  obtain ⟨hmem, ls, hcur⟩ := h
  exact ⟨hmem, ls, by rw [hcur, hbuf, hwr, hsent]⟩

/-! #### Fences and launches (R114, R121) -/

/-- The packet in progress is over, with nothing to report. -/
def State.bteDone (s : State) (q : Nat) : State := s.modPkt q fun p => { p with result := some none }

theorem bteDone_cur {s : State} {q : Nat} {p : BtePkt} (h : (s.hub.bteq q).cur = some p) :
    ((s.bteDone q).hub.bteq q).cur = some { p with result := some none } := by
  rw [State.bteDone, bteq_modPkt h]

/-- A fence whose pairs can all be read is over once all of them are. -/
theorem bteFence_reads {s : State} {q : Nat} {p : BtePkt} {b : Nat → Bool} (hcur : (s.hub.bteq q).cur = some p)
    (hwords : p.words ≠ []) (hresult : p.result = none) (hstall : p.stall = none) (hkind : p.kind = 4)
    (hcapt : s.captures (s.hub.bteq q).asid.toNat = false) (hpairs : ∀ i ∈ [1, 2, 3], s.fencePair q p i = .ok (b i)) :
    exec (.bteFence q) s = .next (if [1, 2, 3].all b then s.bteDone q else s) := by
  have h1 := hpairs 1 (by simp)
  have h2 := hpairs 2 (by simp)
  have h3 := hpairs 3 (by simp)
  change execBteFence q s = _
  unfold execBteFence
  simp only [hcur, hkind, hresult, hstall, List.map_cons, List.map_nil, h1, h2, h3, List.findSome?_cons, List.findSome?_nil,
    bteSees_of_uncaptured hcapt]
  simp [hwords, State.bteDone]

theorem bteFencePairs {s : State} {q : Nat} {p : BtePkt} (hcur : (s.hub.bteq q).cur = some p) (hwords : p.words ≠ [])
    (hresult : p.result = none) (hstall : p.stall = none) (hkind : p.kind = 4)
    (hcapt : s.captures (s.hub.bteq q).asid.toNat = false) :
    ((∀ i ∈ [1, 2, 3], s.fencePair q p i = .ok true) → ∃ t, exec (.bteFence q) s = .next t ∧ t.mem = s.mem ∧
      (t.hub.bteq q).cur = some { p with result := some none }) ∧
    ((∀ i ∈ [1, 2, 3], ∃ b, s.fencePair q p i = .ok b) → (∃ i ∈ [1, 2, 3], s.fencePair q p i = .ok false) →
      exec (.bteFence q) s = .next s) := by
  refine ⟨fun hall => ?_, fun hall hwait => ?_⟩
  · exact ⟨s.bteDone q, bteFence_reads (b := fun _ => true) hcur hwords hresult hstall hkind hcapt hall, rfl, bteDone_cur hcur⟩
  · have hread : ∀ i, ∃ b, i ∈ [1, 2, 3] → s.fencePair q p i = .ok b := fun i => by
      by_cases hi : i ∈ [1, 2, 3]
      · exact (hall i hi).imp fun _ h _ => h
      · exact ⟨true, fun h => absurd h hi⟩
    choose b hb using hread
    obtain ⟨i, hi, hfalse⟩ := hwait
    have hbi : b i = false := Except.ok.inj ((hb i hi).symm.trans hfalse)
    rw [bteFence_reads hcur hwords hresult hstall hkind hcapt hb,
      if_neg fun h => Bool.false_ne_true (hbi.symm.trans (List.all_eq_true.1 h i hi))]

/-- Appending a record leaves the packets of the BTE queues (R114). -/
theorem append_bteq (s : State) (t : Nat) (r : List Byte) (q : Nat) : (s.append t [r]).hub.bteq q = s.hub.bteq q := by
  have h : s.append t [r] = ((s.hubPut ((s.hub.queue t).slot (s.hub.queue t).tail.toNat) r).setQueue t
      { s.hub.queue t with tail := (s.hub.queue t).tail + 1 }).noteHead t := by
    simp only [State.append]
  rw [h, noteHead_rest]
  change (s.hubPut _ r).hub.bteq q = _
  rw [hubPut_hub]

theorem bteLaunchAppends {s : State} {q : Nat} {p : BtePkt} (hcur : (s.hub.bteq q).cur = some p) (hwords : p.words ≠ [])
    (hresult : p.result = none) (hstall : p.stall = none) (hkind : p.kind = 5) :
    let d := s.hub.queue (p.w 1 % 64)
    d.v = true → d.asid = (s.hub.bteq q).asid → s.hub.reservedAt (p.w 1 % 64) = false → d.room ≠ 0 →
    s.populated (d.slot d.tail.toNat) = true →
    ∃ t, exec (.bteLaunch q) s = .next t ∧ (t.hub.bteq q).cur = some { p with result := some none } ∧
      t.hub.queue (p.w 1 % 64) = { d with tail := d.tail + 1 } ∧
      t.mem = Memory.writeN s.mem (d.slot d.tail.toNat) ([4, 5, 6, 7].flatMap fun i => leBytes 8 (p.w i)) := by
  intro d hv hasid hres hroom hup
  obtain ⟨hmem, hqueue, -⟩ := append_single_frame s (p.w 1 % 64) ([4, 5, 6, 7].flatMap fun i => leBytes 8 (p.w i))
  have hbteq := append_bteq s (p.w 1 % 64) ([4, 5, 6, 7].flatMap fun i => leBytes 8 (p.w i)) q
  have hexec : exec (.bteLaunch q) s =
      .next ((s.append (p.w 1 % 64) [[4, 5, 6, 7].flatMap fun i => leBytes 8 (p.w i)]).bteDone q) := by
    simp only [d] at hv hasid hroom hup
    change execBteLaunch q s = _
    unfold execBteLaunch State.queueUp
    simp only [hcur, hkind, hresult, hstall]
    simp [hwords, hv, hasid, hres, hroom, hup, State.bteDone]
  generalize s.append (p.w 1 % 64) [[4, 5, 6, 7].flatMap fun i => leBytes 8 (p.w i)] = u at *
  exact ⟨u.bteDone q, hexec, bteDone_cur (hbteq ▸ hcur), hqueue, hmem⟩

/-! #### The completion record (R122) -/

theorem bteState_ok {s : State} {q : Nat} {r2 r3 r4 r5 : Nat × List Byte} (h2 : s.bteWordAt q 2 = .ok r2)
    (h3 : s.bteWordAt q 3 = .ok r3) (h4 : s.bteWordAt q 4 = .ok r4) (h5 : s.bteWordAt q 5 = .ok r5) :
    s.bteState q = .ok [r2, r3, r4, r5] := by
  unfold State.bteState
  simp only [List.foldl_cons, List.foldl_nil, h2, h3, h4, h5, List.nil_append, List.cons_append]

theorem ringWaits_false {ridx w3 c cr : Nat} (hlo : 4 ≤ w3 / 2 ^ 58) (hhi : w3 / 2 ^ 58 ≤ 16) (hres : w3 / 2 ^ 54 % 16 = 0)
    (hroom : c - cr ≠ 2 ^ (w3 / 2 ^ 58)) : ringWaits [ridx, w3, c, cr] = false := by
  unfold ringWaits
  simp only [List.getD_cons_succ, List.getD_cons_zero, Bool.or_eq_false_iff, decide_eq_false_iff_not, not_lt,
    bne_eq_false_iff_eq]
  exact ⟨⟨⟨hlo, hhi⟩, hres⟩, hroom⟩

/-- Where the ring has room and nothing is captured the record is written by words 2 to 5 of the descriptor. -/
theorem bteCompletionWrite_writes {s : State} {q ridx w3 c cr : Nat} {p : BtePkt} {st : Option Cause}
    (hcur : (s.hub.bteq q).cur = some p) (hresult : p.result = some st) (hstall : p.stall = none)
    (hcapt : s.captures (s.hub.bteq q).asid.toNat = false) (h2 : s.bteWord q 2 = .ok ridx) (h3 : s.bteWord q 3 = .ok w3)
    (h4 : s.bteWord q 4 = .ok c) (h5 : s.bteWord q 5 = .ok cr) (hring : ringWaits [ridx, w3, c, cr] = false) :
    exec (.bteCompletionWrite q) s = .next (s.bteComplete q p st [ridx, w3, c, cr]) := by
  obtain ⟨r2, hr2, rfl⟩ := bteWord_ok h2
  obtain ⟨r3, hr3, rfl⟩ := bteWord_ok h3
  obtain ⟨r4, hr4, rfl⟩ := bteWord_ok h4
  obtain ⟨r5, hr5, rfl⟩ := bteWord_ok h5
  change execBteCompletionWrite q s = _
  unfold execBteCompletionWrite
  simp only [hcur, hresult, hstall, bteState_ok hr2 hr3 hr4 hr5, bteSees_of_uncaptured hcapt, List.map_cons, List.map_nil,
    hring]
  simp

theorem noteRecord_rest (s : State) (pa : Nat) (ls : List Nat) :
    s.noteRecord pa ls = { s with records := (s.noteRecord pa ls).records } := by
  unfold State.noteRecord
  split <;> rfl

/-- The state in which a completion record has been written, once it is noted behind its packet's lines (R336). -/
def State.bteNoted (s : State) (a : Asid) (va : Nat) (p : BtePkt) : State :=
  match s.translateHub a false va .write with
  | .ok x => s.noteRecord x.pa p.lines
  | .error _ => s

theorem bteNoted_alike (s : State) (a : Asid) (va : Nat) (p : BtePkt) :
    WritesAlike s (s.bteNoted a va p) ∧ (s.bteNoted a va p).hub = s.hub := by
  unfold State.bteNoted
  split
  · rw [noteRecord_rest]
    exact ⟨⟨⟨rfl, rfl, rfl, rfl, rfl, rfl, rfl⟩, rfl, rfl, rfl⟩, rfl⟩
  · exact ⟨WritesAlike.refl s, rfl⟩

/-- Writing a word of a descriptor changes nothing of the hub, and is performed likewise where the hub reads alike. -/
theorem bteSetWord_alike {s t u : State} {q i v : Nat} (h : WritesAlike s t) (hhub : t.hub = s.hub)
    (hw : s.bteWrite (s.hub.bteq q).asid (((s.hub.bteq q).desc.toNat + 8 * i) % 2 ^ 54) (leBytes 8 v) = (u, .ok ())) :
    WritesAlike u (t.bteSetWord q i v) ∧ (t.bteSetWord q i v).hub = t.hub := by
  obtain ⟨w, hw', halike, hwhub⟩ := bteWrite_alike h hw
  have ht : t.bteSetWord q i v = w := by
    unfold State.bteSetWord
    rw [hhub]
    exact congrArg Prod.fst hw'
  rw [ht]
  exact ⟨halike, hwhub⟩

theorem mem_bells_bell (s : State) (q : Nat) : q ∈ (s.bell q).bells := by
  unfold State.bell
  split
  next h => exact List.contains_iff_mem.1 h
  next => exact List.mem_append_right _ (List.mem_singleton_self q)

theorem bell_mem (s : State) (q : Nat) : (s.bell q).mem = s.mem := by
  unfold State.bell
  split <;> rfl

/-- The packet is over: both indexes are written, and the BTE looks again. -/
theorem bteNext_frame {s t v w : State} {q ridx c : Nat} (h : WritesAlike s t) (hhub : t.hub = s.hub)
    (hc : s.bteWrite (s.hub.bteq q).asid (((s.hub.bteq q).desc.toNat + 8 * 4) % 2 ^ 54) (leBytes 8 (c + 1)) = (v, .ok ()))
    (hr : v.bteWrite (s.hub.bteq q).asid (((s.hub.bteq q).desc.toNat + 8 * 2) % 2 ^ 54) (leBytes 8 (ridx + 1)) =
      (w, .ok ())) :
    (t.bteNext q ridx c).mem = w.mem ∧ ((t.bteNext q ridx c).hub.bteq q).cur = none ∧ q ∈ (t.bteNext q ridx c).bells := by
  obtain ⟨halike, hhub'⟩ := bteSetWord_alike h hhub hc
  have hvhub : v.hub = s.hub := bteWrite_hub hc
  rw [← hvhub] at hr
  obtain ⟨halike', -⟩ := bteSetWord_alike halike (hhub'.trans (hhub.trans hvhub.symm)) hr
  unfold State.bteNext
  refine ⟨?_, ?_, mem_bells_bell _ _⟩
  · rw [bell_mem]
    exact halike'.reads.mem
  · rw [bell_hub, bteq_modBte]

theorem bteCompletes {s u v w : State} {q ridx w3 c cr : Nat} {p : BtePkt} {st : Option Cause}
    (hcur : (s.hub.bteq q).cur = some p) (hresult : p.result = some st) (hstall : p.stall = none)
    (hcapt : s.captures (s.hub.bteq q).asid.toNat = false) (h2 : s.bteWord q 2 = .ok ridx) (h3 : s.bteWord q 3 = .ok w3)
    (h4 : s.bteWord q 4 = .ok c) (h5 : s.bteWord q 5 = .ok cr) (hlo : 4 ≤ w3 / 2 ^ 58) (hhi : w3 / 2 ^ 58 ≤ 16)
    (hres : w3 / 2 ^ 54 % 16 = 0) (hroom : c - cr ≠ 2 ^ (w3 / 2 ^ 58))
    (hrec : s.bteWrite (s.hub.bteq q).asid ((w3 % 2 ^ 54 + c % 2 ^ (w3 / 2 ^ 58) * 16) % 2 ^ 54)
      (completionBytes (w3 / 2 ^ 58) c q p st) = (u, .ok ()))
    (hc : u.bteWrite (s.hub.bteq q).asid (((s.hub.bteq q).desc.toNat + 8 * 4) % 2 ^ 54) (leBytes 8 (c + 1)) = (v, .ok ()))
    (hr : v.bteWrite (s.hub.bteq q).asid (((s.hub.bteq q).desc.toNat + 8 * 2) % 2 ^ 54) (leBytes 8 (ridx + 1)) = (w, .ok ())) :
    ∃ t, exec (.bteCompletionWrite q) s = .next t ∧ t.mem = w.mem ∧ (t.hub.bteq q).cur = none ∧ q ∈ t.bells := by
  have hring := ringWaits_false (ridx := ridx) hlo hhi hres hroom
  refine ⟨_, bteCompletionWrite_writes hcur hresult hstall hcapt h2 h3 h4 h5 hring, ?_⟩
  have hnoted : s.bteComplete q p st [ridx, w3, c, cr] = (u.bteNoted (s.hub.bteq q).asid
      ((w3 % 2 ^ 54 + c % 2 ^ (w3 / 2 ^ 58) * 16) % 2 ^ 54) p).bteNext q ridx c := by
    unfold State.bteComplete
    simp only [List.getD_cons_succ, List.getD_cons_zero, hrec]
    unfold State.bteNoted
    cases u.translateHub (s.hub.bteq q).asid false ((w3 % 2 ^ 54 + c % 2 ^ (w3 / 2 ^ 58) * 16) % 2 ^ 54) .write <;> rfl
  rw [hnoted]
  have huhub : u.hub = s.hub := bteWrite_hub hrec
  obtain ⟨halike, hhub⟩ := bteNoted_alike u (s.hub.bteq q).asid ((w3 % 2 ^ 54 + c % 2 ^ (w3 / 2 ^ 58) * 16) % 2 ^ 54) p
  rw [← huhub] at hc hr
  exact bteNext_frame halike hhub hc hr

/-- Settles O40: a BTE's writes leave the hub's registers, queues and packets, so each access of a run starts from the packet that
the last one left, and the three writes of a completion stand one behind the other. -/
theorem blockTransfers : Obligations.BlockTransfers := by
  refine ⟨bteWriteLands, bteBellTakes, ?_, ?_, ?_⟩
  · intro s u q p hserved hcur hwords hresult hstall hsent hbuf hwr hcut hrun a k ends
    have running {kind : Nat} (h : p.kind = kind) : Running s q kind p := ⟨hserved, hcur, h, hwords, hresult, hstall, hsent⟩
    refine ⟨fun r hkind hfrom hread hhost hto hwrite => ?_, fun hkind hto hwrite => ?_, ?_⟩
    · have hends := bteCopy_run (running hkind) hbuf hwr hcut hrun hfrom hread hhost hto hwrite
      exact ⟨_, rfl, hends.of_fresh hbuf hwr hsent⟩
    · have hends := bteFill_run (running hkind) hwr hcut hto hwrite
      exact ⟨_, rfl, hends.of_fresh hbuf hwr hsent⟩
    · intro x y hkind hlast hmode sum d hx hreadx hhostx hy hready hhosty hto hwrite
      have hends := bteReduceCopy_run (running hkind) hbuf hwr hcut hrun hlast hmode hx hreadx hhostx hy hready hhosty hto hwrite
      exact ⟨_, rfl, hends.of_fresh hbuf hwr hsent⟩
  · intro s q p hcur hwords hresult hstall
    exact ⟨fun hkind hcapt => bteFencePairs hcur hwords hresult hstall hkind hcapt,
      fun hkind => bteLaunchAppends hcur hwords hresult hstall hkind⟩
  · intro s u v w q ridx w3 c cr p st hcur hresult hstall hcapt h2 h3 h4 h5 hlo hhi hres hroom a desc parity hrec hc hr
    refine bteCompletes hcur hresult hstall hcapt h2 h3 h4 h5 hlo hhi hres hroom ?_ hc hr
    rw [← hrec]
    cases st <;> rfl

end Sys2Proof.Machine

/-! ### The adjoint unit at home (R49, R50, R86 to R88, R222 to R226) -/

namespace Sys2Proof.Machine

open Sys2Proof.Laws

/-! #### What looking up leaves (R98, R104, R222) -/

theorem HubStep.classAdj (st : Nat) (asid : Asid) (va : Nat) (cnt : Bool) : HubStep fun s => s.classAdj st asid va cnt := by
  intro s t h
  obtain ⟨hres, hstate, hlooks⟩ := HubStep.classify st asid va cnt s t h
  have hdet : ∀ u u' : State, WritesAlike u u' → u'.det asid = u.det asid := fun u u' h => by
    unfold State.det
    rw [h.reads.hasFeature, h.reads.regs]
  unfold State.classAdj
  dsimp only at hres hstate hlooks ⊢
  generalize s.classify st asid va cnt = r at hres hstate hlooks
  generalize t.classify st asid va cnt = r' at hres hstate
  obtain ⟨u, r⟩ := r
  obtain ⟨u', r'⟩ := r'
  cases hres
  rcases r with c | _ | e | e | e
  · exact ⟨rfl, hstate, hlooks⟩
  · exact ⟨rfl, hstate, hlooks⟩
  · exact ⟨by dsimp only; rw [hdet u u' hstate], hstate, hlooks⟩
  · exact ⟨rfl, hstate, hlooks⟩
  · exact ⟨rfl, hstate, hlooks⟩

/-- A step that looks up caches does no more. -/
theorem HubStep.looksUp {α : Type} {f : State → State × α} (hf : HubStep f) {s u : State} {r : α} (h : f s = (u, r)) :
    LooksUp s u := by
  obtain ⟨-, -, hlooks⟩ := hf s s (WritesAlike.refl s)
  rwa [h] at hlooks

namespace LooksUp
variable {s t : State} (h : LooksUp s t)
include h

theorem mem : t.mem = s.mem := by rw [show t = _ from h]

theorem cores : t.cores = s.cores := by rw [show t = _ from h]

theorem clock : t.clock = s.clock := by rw [show t = _ from h]

theorem unitBad : t.unitBad = s.unitBad := by rw [show t = _ from h]; rfl

theorem warp (c w : Nat) : t.warp c w = s.warp c w := by rw [State.warp, State.core, h.cores]; rfl

theorem team (c k : Nat) : t.team c k = s.team c k := by rw [State.team, State.core, h.cores]; rfl

theorem findOp (c w id : Nat) : t.findOp c w id = s.findOp c w id := by
  unfold State.findOp
  simp only [h.warp, h.team]

theorem residents : ResidentsStay s t := ResidentsStay.of_cores h.cores

end LooksUp

/-- Where the core holds no copy of a line there is none to drop (R144). -/
theorem dropLine_of_none {s : State} {c pa : Nat} (h : (s.core c).line (pa / 64) = none) (drop : Bool) :
    s.dropLine c pa drop = s := by
  unfold State.dropLine State.evict
  rw [h]
  exact ite_self s

/-! #### The count word (R85, R222) -/

/-- A count word that is read lies in good units. -/
theorem countAt_good {s z : State} {st n cpa va : Nat} {asid : Asid} {priv : Bool} {e : AdtEnt} {acc : Access}
    (h : s.countAt st asid priv e va acc = (z, .ok (n, cpa))) : ∀ k ∈ unitsOf cpa 4, z.unitBad k = false := by
  unfold State.countAt at h
  split at h
  · cases h
  · split at h
    · cases h
    next hread =>
      cases h
      obtain ⟨hbad, -⟩ := of_ite_error hread
      simpa using hbad

/-- A write at home makes no unit bad. -/
theorem homeWrite_unitBad {s t : State} {pa : Nat} {bs : List Byte} (h : s.homeWrite pa bs = .ok t) {k : Nat}
    (hk : s.unitBad k = false) : t.unitBad k = false := by
  unfold State.unitBad at hk ⊢
  obtain ⟨hbad, hfirn⟩ := Bool.or_eq_false_iff.1 hk
  rw [homeWrite_rest h]
  refine Bool.or_eq_false_iff.2 ⟨?_, hfirn⟩
  rw [Bool.eq_false_iff] at hbad ⊢
  exact fun hc => hbad (List.contains_iff_mem.2 (List.mem_filter.1 (List.contains_iff_mem.1 hc)).1)

theorem putCount_good {s : State} {pa : Nat} (w : Nat) (h : ∀ k ∈ unitsOf pa 4, s.unitBad k = false) :
    (s.putCount pa w).mem = Memory.writeN s.mem pa (leBytes 4 w) ∧ ResidentsStay s (s.putCount pa w) := by
  obtain ⟨t, ht, hmem, hstay⟩ := homeWrite_good (s := s) (pa := pa) (bs := leBytes 4 w) (by rwa [leBytes_length])
  unfold State.putCount
  rw [ht]
  exact ⟨hmem, hstay⟩

/-! #### The three operations (R86 to R88) -/

/-- A counting load of a granule that is not full. -/
theorem countedLoad_counts {s u : State} {asid : Asid} {priv : Bool} {va pa k n cpa : Nat} {e : AdtEnt}
    (h : Spec.CountedAt s u asid priv va pa true .atomic e n cpa) (hgood : ∀ i ∈ unitsOf pa k, s.unitBad i = false)
    (hroom : countOf n ≠ 2 ^ 24 - 1) : ∃ t, s.countedLoad asid priv va pa true k = (t, .value (Memory.readNat s.mem pa k)) ∧
      t.mem = Memory.writeN s.mem cpa (leBytes 4 ((if countOf n = 0 then n - n / 2 ^ 24 % 2 * 2 ^ 24 else n) + 1)) ∧
      ResidentsStay s t := by
  obtain ⟨u', hclass, hcount⟩ := h
  have hlooks := ((HubStep.classAdj _ _ _ _).looksUp hclass).trans ((HubStep.countAt _ _ _ _ _ _).looksUp hcount)
  obtain ⟨hmem, hstay⟩ :=
    putCount_good ((if countOf n = 0 then n - n / 2 ^ 24 % 2 * 2 ^ 24 else n) + 1) (countAt_good hcount)
  refine ⟨_, ?_, by rw [hmem, hlooks.mem], hlooks.residents.trans hstay⟩
  unfold State.countedLoad
  simp only [hclass, hcount, hroom, if_false, homeRead_good (s := u) fun i hi => by rw [hlooks.unitBad]; exact hgood i hi,
    hlooks.mem]
  rfl

theorem countedLoad_overflows {s u : State} {asid : Asid} {priv : Bool} {va pa k n cpa : Nat} {e : AdtEnt}
    (h : Spec.CountedAt s u asid priv va pa true .atomic e n cpa) (hfull : countOf n = 2 ^ 24 - 1) :
    s.countedLoad asid priv va pa true k = (u, .fault .adjCountOverflow va) ∧ LooksUp s u := by
  obtain ⟨u', hclass, hcount⟩ := h
  refine ⟨?_, ((HubStep.classAdj _ _ _ _).looksUp hclass).trans ((HubStep.countAt _ _ _ _ _ _).looksUp hcount)⟩
  unfold State.countedLoad
  simp only [hclass, hcount, hfull, if_true]

/-- The granule and the twin element of a primary address, as an adjoint operation finds them at home (R222). -/
structure TwinAt (s z : State) (asid : Asid) (priv : Bool) (va pa : Nat) (acc : Access) (e : AdtEnt) (tw : Xlat)
    (n cpa : Nat) : Prop where
  found : ∃ u u', s.classAdj (homeOf pa).1 asid va true = (u, .ok (.primary e)) ∧
    u.translateStack (homeOf pa).1 asid priv (e.twinVa va) .atomic = (u', .ok tw) ∧
    u'.countAt (homeOf pa).1 asid priv e va acc = (z, .ok (n, cpa))
  aligned : (va - e.pbase) % 2 ^ e.esz = 0
  good : ∀ k ∈ unitsOf tw.pa e.tsize, s.unitBad k = false

theorem TwinAt.looksUp {s z : State} {asid : Asid} {priv : Bool} {va pa n cpa : Nat} {acc : Access} {e : AdtEnt} {tw : Xlat}
    (h : TwinAt s z asid priv va pa acc e tw n cpa) : LooksUp s z := by
  obtain ⟨u, u', hclass, htwin, hcount⟩ := h.found
  exact (((HubStep.classAdj _ _ _ _).looksUp hclass).trans ((HubStep.translateStack _ _ _ _ _).looksUp htwin)).trans
    ((HubStep.countAt _ _ _ _ _ _).looksUp hcount)

section
variable {s z : State} {asid : Asid} {priv : Bool} {va pa n cpa : Nat} {e : AdtEnt} {tw : Xlat}

theorem accumulate_adds (h : TwinAt s z asid priv va pa .atomic e tw n cpa) (hn : countOf n ≠ 0) (addend : Nat) :
    let r := e.accumulate (Memory.readNat s.mem tw.pa e.tsize) addend
    ∃ t, s.accumulate asid priv va pa true addend = (t, .value 0) ∧ ResidentsStay s t ∧
      t.mem = Memory.writeN (Memory.writeN s.mem tw.pa (leBytes e.tsize r.1)) cpa
        (leBytes 4 ((n - 1) ||| if r.2 then 2 ^ 24 else 0)) := by
  intro r
  have hlooks := h.looksUp
  obtain ⟨u, u', hclass, htwin, hcount⟩ := h.found
  have hgood : ∀ k ∈ unitsOf tw.pa e.tsize, z.unitBad k = false := fun k hk => by rw [hlooks.unitBad]; exact h.good k hk
  obtain ⟨t, ht, hmem, hstay⟩ := homeWrite_good (bs := leBytes e.tsize r.1) (by rwa [leBytes_length])
  obtain ⟨hmem', hstay'⟩ := putCount_good ((n - 1) ||| if r.2 then 2 ^ 24 else 0) fun k hk =>
    homeWrite_unitBad ht (countAt_good hcount k hk)
  refine ⟨_, ?_, (hlooks.residents.trans hstay).trans hstay', by rw [hmem', hmem, hlooks.mem]⟩
  have hr : e.accumulate (leNat (Memory.readN z.mem tw.pa e.tsize)) addend = r := by rw [hlooks.mem]; rfl
  unfold State.accumulate
  simp only [hclass, h.aligned, htwin, hcount, hn, if_false, homeRead_good hgood, hr, ht]
  simp

theorem accumulate_surplus (h : TwinAt s z asid priv va pa .atomic e tw n cpa) (hn : countOf n = 0) (addend : Nat) :
    s.accumulate asid priv va pa true addend = (z, .fault .adjSurplusStore va) := by
  obtain ⟨u, u', hclass, htwin, hcount⟩ := h.found
  unfold State.accumulate
  simp only [hclass, h.aligned, htwin, hcount, hn, if_true]
  simp

theorem adjRead_reads {wide : Bool} (h : TwinAt s z asid priv va pa .read e tw n cpa) (hwide : wide = true → e.tf = true)
    (hn : countOf n = 0) (wait : Bool) : ∃ t, s.adjRead asid priv va pa true wide wait =
        (t, .value (if e.tf && !wide then fxToF32 (Memory.readNat s.mem tw.pa e.tsize) e.scale
          else Memory.readNat s.mem tw.pa e.tsize)) ∧ ResidentsStay s t ∧
      t.mem = Memory.writeN s.mem tw.pa (List.replicate e.tsize 0) := by
  have hlooks := h.looksUp
  obtain ⟨u, u', hclass, htwin, hcount⟩ := h.found
  have hgood : ∀ k ∈ unitsOf tw.pa e.tsize, z.unitBad k = false := fun k hk => by rw [hlooks.unitBad]; exact h.good k hk
  have hnarrow : (wide && !e.tf) = false := by cases wide <;> simp_all
  obtain ⟨t, ht, hmem, hstay⟩ := homeWrite_good (bs := List.replicate e.tsize (0 : Byte)) (by rwa [List.length_replicate])
  refine ⟨t, ?_, hlooks.residents.trans hstay, by rw [hmem, hlooks.mem]⟩
  unfold State.adjRead
  simp only [hclass, h.aligned, hnarrow, htwin, hcount, hn, homeRead_good hgood, ht, hlooks.mem]
  simp [Memory.readNat]

theorem adjRead_early {wide : Bool} (h : TwinAt s z asid priv va pa .read e tw n cpa) (hwide : wide = true → e.tf = true)
    (hn : countOf n ≠ 0) (wait : Bool) : s.adjRead asid priv va pa true wide wait =
      (z, if wait || e.eblk then .early e.tmo else .fault .adjEarlyRead va) := by
  obtain ⟨u, u', hclass, htwin, hcount⟩ := h.found
  have hnarrow : (wide && !e.tf) = false := by cases wide <;> simp_all
  unfold State.adjRead
  simp only [hclass, h.aligned, hnarrow, htwin, hcount]
  simp [hn]

end

end Sys2Proof.Machine

/-! ### How the lane of an adjoint operation ends (R88, R171, R213, R222, R280) -/

namespace Sys2Proof.Machine

open Sys2Proof.Laws

/-! #### An operation after one of its lanes has changed -/

/-- Going on keeps an operation with a lane that is not over, and ends it where all are; memory and lane registers stay. -/
theorem updateOp_changes {s : State} {c w : Nat} {o : Op} {v : Warp} {as : List Acc} (h : OpStands s c w o v)
    (has : LocalAccs as) : let t := s.updateOp c w { o with accs := as }
    ∃ v', t.warp c w = some v' ∧ v'.v = v.v ∧ t.mem = s.mem ∧
      ((∃ b ∈ as, b.st.isOver = false) → v'.op o.id = some { o with accs := as }) ∧
      ((∀ b ∈ as, b.st.isOver = true) → v'.op o.id = none) := by
  have hiff := LocalAccs.isOver_iff (o := { o with accs := as }) has
  obtain ⟨hstands, hmem⟩ := h.setOp has
  unfold State.updateOp
  split
  next hover =>
    obtain ⟨v', hw, hv, hmem', hop, -⟩ := finishOp_ends hstands
    refine ⟨v', hw, hv, hmem'.trans hmem, fun ⟨b, hb, hst⟩ => ?_, fun _ => hop⟩
    exact absurd (hiff.1 hover b hb) (by simp [hst])
  next hover =>
    obtain ⟨v', m, hfo, hv, -, -⟩ := hstands
    obtain ⟨hw, hop, -⟩ := findOp_eq_some.1 hfo
    exact ⟨v', hw, hv, hmem, fun _ => hop, fun hall => absurd (hiff.2 hall) hover⟩

theorem LocalAccs.put {as : List Acc} (h : LocalAccs as) {b : Acc} (hheld : b.st.held = false) (hst : b.st ≠ .todo) :
    LocalAccs (putAccs [b] as) := by
  intro a ha
  rcases mem_putAccs_single ha with rfl | ⟨hmem, -⟩
  · exact ⟨hheld, fun h => absurd h hst⟩
  · exact h a hmem

theorem mem_putAccs_self {a b : Acc} {as : List Acc} (hb : b ∈ as) (hl : b.lane = a.lane) : a ∈ putAccs [a] as :=
  List.mem_map.2 ⟨b, hb, by simp [hl]⟩

/-- An event performs the one lane it names when its turn has come, and the operation goes on with what `f` makes of the lane. -/
theorem memEvent_puts {s u : State} {c w : Nat} {o : Op} {v v1 : Warp} {m : Team} {x : MemArgs} {sp : MemSpec} {a b : Acc}
    (ht : Spec.LaneTurn s c w o v m x sp a) {mine : Instr → Bool} (hmine : mine o.instr = true)
    {f : MemSpec → MemArgs → State → Team → Op → Acc → State × Acc} (hf : f sp x (s.laneStart c o a) m o a = (u, b))
    (hu : OpStands u c w o v1) (hheld : b.st.held = false) (hst : b.st ≠ .todo) :
    s.memEvent c w o.id (maskOf [a.lane]) mine f = u.updateOp c w { o with accs := putAccs [b] o.accs } := by
  have has : LocalAccs o.accs := ht.idle
  have hput := has.put hheld hst
  have hstands := OpStands.of_findOp ht.op
  have hnotOver : o.isOver = false := by
    refine Bool.eq_false_iff.2 fun h => ?_
    have := has.isOver_iff.1 h a (List.mem_of_find?_eq_some ht.lane)
    rw [ht.todo] at this
    cases this
  have hsettle : s.settle c w o = s := by
    rw [settle_of_local has, State.updateOp, hnotOver]
    exact hstands.setOp_self
  obtain ⟨hkept, -⟩ := hu.setOp hput
  obtain ⟨v', m', hfo, -⟩ := id hkept
  have hsettle' := settle_of_local (o := { o with accs := putAccs [b] o.accs }) hput
  have hself : (u.setOp c w { o with accs := putAccs [b] o.accs }).updateOp c w { o with accs := putAccs [b] o.accs } =
      u.updateOp c w { o with accs := putAccs [b] o.accs } := by
    unfold State.updateOp
    rw [hkept.setOp_self]
  rw [← hself]
  unfold State.memEvent
  simp only [ht.op, ht.spec, hmine, retryOp_of_local has, releaseStep_of_released ht.free, hsettle, has.not_blocked,
    ht.free, lanesOf_maskOf_single ht.low, performLanes_lane ht hf hu, Bool.not_true, Bool.or_self, Bool.false_eq_true,
    if_false, show (u.setOp c w _).findOp c w o.id = _ from hfo, hsettle']

/-! #### A lane that fails for good (R171, R280) -/

/-- A trap that the rest of a split's queue gives way to (R171). -/
def Split.discards (sp : Split) (t : PendTrap) : Split := { sp with cq := [], pend := sp.pend ++ [t], laneWait := .run }

theorem split_warp {s : State} {c w e : Nat} {v : Warp} (h : s.warp c w = some v) : s.split ⟨c, w, e⟩ = amFind v.splits e := by
  unfold State.split
  simp only [h]

theorem leaveLatches_warp (s : State) (x : Who) (c w : Nat) : (s.leaveLatches x).warp c w = s.warp c w := by
  unfold State.leaveLatches
  split
  · rfl
  · unfold State.warp
    rw [core_modCore]
    split
    next h => rw [h]
    next => rfl

/-- A fault of a lane of a live split is recorded against the split, whose queue is discarded. -/
theorem recordLaneFault_live {s : State} {c w e : Nat} {v : Warp} {sp : Split} (hw : s.warp c w = some v)
    (hsp : amFind v.splits e = some sp) (hlive : sp.live = true) (t : PendTrap) :
    (s.recordLaneFault ⟨c, w, e⟩ t).split ⟨c, w, e⟩ = some (sp.discards { t with held := !s.issuing c v.team }) := by
  have hrec : s.recordLaneFault ⟨c, w, e⟩ t =
      (s.leaveLatches ⟨c, w, e⟩).modSplit ⟨c, w, e⟩ fun sp => sp.discards { t with held := !s.issuing c v.team } := by
    unfold State.recordLaneFault
    simp only [hw, hsp, hlive, if_true]
    rfl
  have hw' : ((s.leaveLatches ⟨c, w, e⟩).modSplit ⟨c, w, e⟩ fun sp => sp.discards { t with held := !s.issuing c v.team }).warp
      c w = some (v.modSplit e fun sp => sp.discards { t with held := !s.issuing c v.team }) := by
    rw [State.modSplit, warp_modWarp, if_pos ⟨rfl, rfl⟩, leaveLatches_warp, hw, Option.map_some]
  rw [hrec, split_warp hw']
  unfold Warp.modSplit
  simp only [hsp]
  exact (amFind_amPut _ _ _ _).trans (if_pos rfl)

/-- Nothing of what the residents are has changed from `s` to `u`: a fault recorded since `u` is one recorded since `s`. -/
theorem faultRecorded_of_cores {s u t : State} {c w lane va : Nat} {o : Op} {v : Warp} {m : Team} {k : Cause}
    (h : u.cores = s.cores) (hu : Spec.FaultRecorded u t c w o v m lane va k) :
    Spec.FaultRecorded s t c w o v m lane va k := by
  have hsplit : ∀ x, u.split x = s.split x := fun x => by
    unfold State.split State.warp State.core
    rw [h]
  have hissuing : ∀ d j, u.issuing d j = s.issuing d j := fun d j => by
    unfold State.issuing State.team State.core
    rw [h]
  intro sp hsp hlive
  obtain ⟨sp', h1, h2, h3⟩ := hu sp ((hsplit _).trans hsp) hlive
  exact ⟨sp', h1, h2, by rw [h3, hissuing]⟩

/-- The operation with changed lanes, none of which waits for a replay, stands in its warp, whose splits and team stay. -/
theorem setOp_findOp {s : State} {c w : Nat} {o : Op} {v : Warp} {m : Team} {as : List Acc}
    (hop : s.findOp c w o.id = some (o, v, m)) (has : LocalAccs as) :
    let t := s.setOp c w { o with accs := as }
    ∃ v', t.findOp c w o.id = some ({ o with accs := as }, v', m) ∧ v'.splits = v.splits ∧ v'.team = v.team ∧
      ∀ d k, t.team d k = s.team d k := by
  obtain ⟨hw, ho, hm⟩ := findOp_eq_some.1 hop
  unfold State.setOp
  simp only [hw, has.no_held, Bool.and_false, Bool.false_eq_true, if_false]
  split
  next hsame => exact ⟨v, findOp_eq_some.2 ⟨hw, hsame, hm⟩, rfl, rfl, fun _ _ => rfl⟩
  next =>
    refine ⟨v.setOp { o with accs := as }, findOp_eq_some.2 ⟨?_, op_setOp ho, ?_⟩, rfl, rfl, fun _ _ => team_setWarp _ _ _ _ _ _⟩
    · rw [warp_setWarp, if_pos ⟨rfl, rfl⟩]
    · rw [team_setWarp]
      exact hm

/-- An operation whose first failed lane is known ends with the trap of that lane recorded against its split. -/
theorem finishOp_records {s : State} {c w lane va : Nat} {o : Op} {v : Warp} {m : Team} {k : Cause}
    {fs : List (Nat × Cause × Nat)} {r : MemArgs × MemSpec} (hop : s.findOp c w o.id = some (o, v, m))
    (hspec : memSpec o.instr = some r) (hfail : o.accs.filterMap Acc.failure = (lane, k, va) :: fs) {sp : Split}
    (hsp : amFind v.splits o.entry = some sp) (hlive : sp.live = true) :
    (s.finishOp c w o).split ⟨c, w, o.entry⟩ = some (sp.discards
      { laneTrap k lane (laneVa m o.unit) (BitVec.ofNat 54 va) with held := !s.issuing c v.team }) := by
  obtain ⟨hw, -, -⟩ := findOp_eq_some.1 hop
  have hfinish : s.finishOp c w o = (s.recordLaneFault ⟨c, w, o.entry⟩
      (laneTrap k lane (laneVa m o.unit) (BitVec.ofNat 54 va))).modWarp c w fun w => w.endOp o := by
    unfold State.finishOp
    simp only [hop, hfail]
    split
    next h => rw [h] at hspec; cases hspec
    next h => rw [h] at hspec; cases hspec
    next => rfl
  have hrec := recordLaneFault_live hw hsp hlive (laneTrap k lane (laneVa m o.unit) (BitVec.ofNat 54 va))
  obtain ⟨v', hw', -⟩ := (WarpRegsStay.recordLaneFault s c w o.entry
    (laneTrap k lane (laneVa m o.unit) (BitVec.ofNat 54 va))).warp v hw
  rw [split_warp hw'] at hrec
  have hend : (s.finishOp c w o).warp c w = some (v'.endOp o) := by
    rw [hfinish, warp_modWarp, if_pos ⟨rfl, rfl⟩, hw', Option.map_some]
  rw [split_warp hend, Warp.endOp, lower_rest]
  exact hrec

theorem filterMap_failure_putAccs {a : Acc} {as : List Acc} (k : Cause) (ha : a ∈ as) (hall : ∀ b ∈ as, b.lane = a.lane) :
    ∃ fs, (putAccs [{ a with st := .failed k }] as).filterMap Acc.failure = (a.lane, k, a.va) :: fs := by
  have hput : putAccs [{ a with st := .failed k }] as = as.map fun _ => { a with st := .failed k } :=
    List.map_congr_left fun b hb => by simp [hall b hb]
  cases as with
  | nil => exact absurd ha List.not_mem_nil
  | cons b bs =>
    rw [hput]
    exact ⟨(bs.map fun _ => ({ a with st := .failed k } : Acc)).filterMap Acc.failure, rfl⟩

/-- An operation whose only lane fails ends with its trap recorded. -/
theorem updateOp_records {s : State} {c w : Nat} {o : Op} {v : Warp} {m : Team} {a : Acc} {r : MemArgs × MemSpec} (k : Cause)
    (hop : s.findOp c w o.id = some (o, v, m)) (hspec : memSpec o.instr = some r) (ha : a ∈ o.accs)
    (hall : ∀ b ∈ o.accs, b.lane = a.lane) :
    Spec.FaultRecorded s (s.updateOp c w { o with accs := putAccs [{ a with st := .failed k }] o.accs }) c w o v m a.lane a.va
      k := by
  intro sp hsp hlive
  have hfailed : ∀ b ∈ putAccs [{ a with st := .failed k }] o.accs, b = { a with st := .failed k } := fun b hb =>
    (mem_putAccs_single hb).resolve_right fun ⟨hmem, hne⟩ => hne (hall b hmem)
  have has : LocalAccs (putAccs [{ a with st := .failed k }] o.accs) := fun b hb => by
    rw [hfailed b hb]
    exact ⟨rfl, nofun⟩
  have hover : Op.isOver { o with accs := putAccs [{ a with st := .failed k }] o.accs } = true :=
    (LocalAccs.isOver_iff (o := { o with accs := putAccs [{ a with st := .failed k }] o.accs }) has).2 fun b hb => by
      rw [hfailed b hb]
      rfl
  obtain ⟨hw, -, -⟩ := findOp_eq_some.1 hop
  obtain ⟨v', hop', hsplits, hteam, hteams⟩ := setOp_findOp hop has
  obtain ⟨fs, hfs⟩ := filterMap_failure_putAccs k ha hall
  rw [split_warp hw, ← hsplits] at hsp
  have hrec := finishOp_records (o := { o with accs := putAccs [{ a with st := .failed k }] o.accs }) hop' hspec hfs hsp hlive
  have hissuing : (s.setOp c w { o with accs := putAccs [{ a with st := .failed k }] o.accs }).issuing c v'.team =
      s.issuing c v.team := by
    unfold State.issuing
    rw [hteams, hteam]
  rw [hissuing] at hrec
  unfold State.updateOp
  rw [if_pos hover]
  exact ⟨_, hrec, rfl, rfl⟩

/-- A lane whose turn has come and which fails at its home leaves memory and lane registers (R171, R213). -/
theorem memEvent_fails {s u : State} {c w : Nat} {o : Op} {v : Warp} {m : Team} {x : MemArgs} {sp : MemSpec} {a : Acc}
    {k : Cause} (ht : Spec.LaneTurn s c w o v m x sp a) {mine : Instr → Bool} (hmine : mine o.instr = true)
    {f : MemSpec → MemArgs → State → Team → Op → Acc → State × Acc}
    (hf : f sp x (s.laneStart c o a) m o a = (u, { a with st := .failed k })) (hu : LooksUp s u) :
    let t := s.memEvent c w o.id (maskOf [a.lane]) mine f
    t.mem = s.mem ∧ Spec.LaneFails s t c w o v m a k := by
  intro t
  have hmem := List.mem_of_find?_eq_some ht.lane
  have hop : u.findOp c w o.id = some (o, v, m) := (hu.findOp _ _ _).trans ht.op
  have hevent : t = u.updateOp c w { o with accs := putAccs [{ a with st := .failed k }] o.accs } :=
    memEvent_puts ht hmine hf (OpStands.of_findOp hop) rfl nofun
  have hlocal : LocalAccs (putAccs [{ a with st := .failed k }] o.accs) := LocalAccs.put ht.idle rfl nofun
  obtain ⟨v', hw, hv, hm, hkept, hgone⟩ := updateOp_changes (OpStands.of_findOp hop) hlocal
  rw [hevent]
  refine ⟨hm.trans hu.mem, v', hw, hv, fun ⟨b, hb, hl, hst⟩ => hkept ⟨b, mem_putAccs_of_ne hb hl, hst⟩, fun hall => ⟨?_, ?_⟩⟩
  · refine hgone fun b hb => ?_
    obtain rfl | ⟨hb, hne⟩ := mem_putAccs_single hb
    · rfl
    · exact absurd (hall b hb) hne
  · exact faultRecorded_of_cores hu.cores (updateOp_records k hop ht.spec hmem hall)

/-! #### An adjoint operation's lane after its home (R88, R222) -/

/-- A value lands, and the team is past being run again (R290). -/
theorem adjLand_value {s : State} {c w val : Nat} {o : Op} {v : Warp} (h : OpStands s c w o v) (sp : MemSpec) (x : MemArgs)
    (m : Team) (a : Acc) (d : Option Nat → Option Nat) :
    ∃ u, s.adjLand c w sp x m o a (.value val) d = u.land c w o.instr x a val ∧ OpStands u c w o v ∧ u.mem = s.mem := by
  obtain ⟨v', m', hfo, -⟩ := id h
  obtain ⟨hw, -, -⟩ := findOp_eq_some.1 hfo
  refine ⟨s.irrevocable c v'.team, ?_, h.stay (ResidentsStay.irrevocable _ _ _), modTeam_mem _ _ _ _⟩
  unfold State.adjLand
  simp only [hw]

/-- A fault that is not replayable fails the lane. -/
theorem adjLand_fault {s : State} {o : Op} {k : Cause} (hk : k.replayable = false) (hi : ∀ y, o.instr = .gatherP y → False)
    (c w : Nat) (sp : MemSpec) (x : MemArgs) (m : Team) (a : Acc) (va : Nat) (d : Option Nat → Option Nat) :
    s.adjLand c w sp x m o a (.fault k va) d = (s, { a with st := .failed k }) := by
  unfold State.adjLand State.adjFault
  dsimp only
  split
  next y h => exact (hi y h).elim
  next => rw [State.homeFault, hk]; rfl

end Sys2Proof.Machine

/-! ### Counted loads, adjoint accumulates and adjoint reads (R49, R50, R86 to R88, R223 to R226) -/

namespace Sys2Proof.Machine

open Sys2Proof.Laws

/-! #### A lane at its home -/

theorem laneStart_home {a : Acc} (h : a.path = .home) (s : State) (c : Nat) (o : Op) : s.laneStart c o a = s :=
  if_neg (by rw [h]; exact nofun)

section
variable {s u : State} {c w : Nat} {o : Op} {v : Warp} {m : Team} {x : MemArgs} {sp : MemSpec} {a : Acc}
  {mine : Instr → Bool} {f : MemSpec → MemArgs → State → Team → Op → Acc → State × Acc} {d : Option Nat → Option Nat}

/-- A lane whose operation at home ends with a value lands it. -/
theorem memEvent_adjLand_value {val : Nat} (ht : Spec.LaneTurn s c w o v m x sp a) (hhome : a.path = .home)
    (hmine : mine o.instr = true) (hf : f sp x s m o a = u.adjLand c w sp x m o a (.value val) d) (hu : ResidentsStay s u) :
    let t := s.memEvent c w o.id (maskOf [a.lane]) mine f
    ∃ v', t.warp c w = some v' ∧ v'.v = (v.landed o.instr x a.lane val).v ∧ t.mem = u.mem := by
  obtain ⟨u', hland, hstands, hmem⟩ := adjLand_value ((OpStands.of_findOp ht.op).stay hu) sp x m a d (val := val)
  rw [hland] at hf
  rw [← laneStart_home hhome s c o] at hf
  obtain ⟨v', hw, hv, hm, -⟩ := memEvent_lane (b := { a with ret := val }) ht hmine hf (hstands.land o.instr x a val)
  exact ⟨v', hw, hv, hm.trans ((land_mem ..).trans hmem)⟩

/-- A lane whose operation at home ends with a fault that is not replayable fails. -/
theorem memEvent_adjLand_fault {k : Cause} {va : Nat} (ht : Spec.LaneTurn s c w o v m x sp a) (hhome : a.path = .home)
    (hmine : mine o.instr = true) (hk : k.replayable = false) (hi : ∀ y, o.instr = .gatherP y → False)
    (hf : f sp x s m o a = u.adjLand c w sp x m o a (.fault k va) d) (hu : LooksUp s u) :
    let t := s.memEvent c w o.id (maskOf [a.lane]) mine f
    t.mem = s.mem ∧ Spec.LaneFails s t c w o v m a k := by
  rw [adjLand_fault hk hi, ← laneStart_home hhome s c o] at hf
  exact memEvent_fails ht hmine hf hu

/-- A lane whose operation at home has to wait for COUNT waits, and the operation with it. -/
theorem memEvent_waits {d : Option Nat} (ht : Spec.LaneTurn s c w o v m x sp a) (hhome : a.path = .home)
    (hmine : mine o.instr = true) (hf : f sp x s m o a = (u, { a with st := .waiting d })) (hu : LooksUp s u) :
    let t := s.memEvent c w o.id (maskOf [a.lane]) mine f
    t.mem = s.mem ∧ ∃ v', t.warp c w = some v' ∧ v'.v = v.v ∧
      v'.op o.id = some { o with accs := putAccs [{ a with st := .waiting d }] o.accs } := by
  have hstands := (OpStands.of_findOp ht.op).stay hu.residents
  rw [← laneStart_home hhome s c o] at hf
  obtain ⟨v', hw, hv, hm, hkept, -⟩ := updateOp_changes hstands
    (LocalAccs.put ht.idle (b := { a with st := .waiting d }) rfl nofun)
  dsimp only
  rw [memEvent_puts ht hmine hf hstands rfl nofun]
  exact ⟨hm.trans hu.mem, v', hw, hv, hkept ⟨_, mem_putAccs_self (List.mem_of_find?_eq_some ht.lane) rfl, rfl⟩⟩

end

/-! #### Counted loads (R86, R223, R226) -/

/-- The operations that raise COUNT. -/
def isCountingLoad : Instr → Bool
  | .ldf _ => true
  | .gatherP x => x.imm == 1
  | _ => false

/-- One lane of a counting load at home. -/
def State.countedLane (s : State) (c w : Nat) (sp : MemSpec) (x : MemArgs) (m : Team) (o : Op) (a : Acc) : State × Acc :=
  let s := s.dropLine c a.pa a.drop
  let r := s.countedLoad m.asid m.priv a.va a.pa a.cnt sp.n
  r.1.adjLand c w sp x m o a r.2 id

theorem countedLoadAtHome_event (s : State) (c w id : Nat) (l : Lanes) : exec (.countedLoadAtHome c w id l) s =
    .next (s.memEvent c w id l isCountingLoad fun sp x s m o a => s.countedLane c w sp x m o a) := rfl

theorem loadDataLands_plain {s : State} {c w : Nat} {o : Op} {v : Warp} {m : Team} {x : MemArgs} {l : Lanes}
    (hop : s.findOp c w o.id = some (o, v, m)) (hi : o.instr = .ldfRc x ∨ o.instr = .adjq x) :
    exec (.loadDataLands c w o.id l) s = .next (s.loadEvent c w o.id l) := by
  change execLoadDataLands _ _ _ _ s = _
  unfold execLoadDataLands
  rcases hi with hi | hi <;> simp only [hop, hi]

theorem countedLoads : Spec.CountedLoads := by
  intro s u c w o v m x sp a e n cpa ht hhome hcnt hhub hline hgood
  have hdrop := dropLine_of_none hline a.drop
  refine ⟨fun hi hat => ?_, fun hi u' hclass => ?_, fun hi u' hclass hcount => ?_⟩
  · have hmine : isCountingLoad o.instr = true := by rw [hi]; rfl
    have hnot : ∀ y, o.instr = .gatherP y → False := fun y hy => by rw [hi] at hy; cases hy
    refine ⟨fun hroom => ?_, fun hfull => ?_⟩
    · obtain ⟨t, hload, hmem, hstay⟩ := countedLoad_counts hat hgood hroom
      have hlane : s.countedLane c w sp x m o a =
          t.adjLand c w sp x m o a (.value (Memory.readNat s.mem a.pa sp.n)) id := by
        unfold State.countedLane
        simp only [hdrop, hcnt, hload]
      obtain ⟨v', hw, hv, hm⟩ := memEvent_adjLand_value
        (f := fun sp x s m o a => s.countedLane c w sp x m o a) ht hhome hmine hlane hstay
      refine ⟨_, v', countedLoadAtHome_event .., hw, hm.trans hmem, v_of_v (hv.trans ?_)⟩
      rw [hi]
      rfl
    · obtain ⟨hload, hlooks⟩ := countedLoad_overflows (k := sp.n) hat hfull
      have hlane : s.countedLane c w sp x m o a = u.adjLand c w sp x m o a (.fault .adjCountOverflow a.va) id := by
        unfold State.countedLane
        simp only [hdrop, hcnt, hload]
      exact ⟨_, countedLoadAtHome_event .., memEvent_adjLand_fault
        (f := fun sp x s m o a => s.countedLane c w sp x m o a) ht hhome hmine rfl hnot hlane hlooks⟩
  · have hlooks := (HubStep.classAdj _ _ _ _).looksUp hclass
    have hline' : (u'.core c).line (a.pa / 64) = none := by
      rw [State.core, hlooks.cores]
      exact hline
    have hload : u'.loadAt c a.xlat sp.n a.drop = (u', .ok (Memory.readNat s.mem a.pa sp.n)) := by
      have hread := homeRead_good (s := u') fun k hk => by rw [hlooks.unitBad]; exact hgood k hk
      have hpath : pathOf a.xlat = .home := by simp [pathOf, Acc.xlat, hcnt]
      unfold State.loadAt
      simp only [show a.xlat.pa = a.pa from rfl, hhub, Bool.false_eq_true, if_false, hpath, dropLine_of_none hline', hread,
        hlooks.mem]
      rfl
    have hlane : s.loadLane c w sp x m o a = u'.land c w o.instr x a (Memory.readNat s.mem a.pa sp.n) := by
      unfold State.loadLane State.classRc
      simp only [hi, hcnt, if_true, hclass, hload]
    obtain ⟨v', hw, hm, hv, -⟩ := memEvent_lands (f := fun sp x s t o a => s.loadLane c w sp x t o a) ht
      (mine := isPlainLoad) (by rw [hi]; rfl) (by rw [laneStart_home hhome]; exact hlane) ((OpStands.of_findOp ht.op).stay hlooks.residents)
    refine ⟨_, v', loadDataLands_plain ht.op (.inl hi), hw, hm.trans hlooks.mem, fun r l => (hv r l).trans ?_⟩
    rw [hi]
    rfl
  · have hlooks := ((HubStep.classify _ _ _ _).looksUp hclass).trans ((HubStep.countAt _ _ _ _ _ _).looksUp hcount)
    have hlane : s.loadLane c w sp x m o a = u.land c w o.instr x a n := by
      unfold State.loadLane State.queryCount
      simp only [hi, hcnt, hdrop, hclass, hcount]
    obtain ⟨v', hw, hm, hv, -⟩ := memEvent_lands (f := fun sp x s t o a => s.loadLane c w sp x t o a) ht
      (mine := isPlainLoad) (by rw [hi]; rfl) (by rw [laneStart_home hhome]; exact hlane) ((OpStands.of_findOp ht.op).stay hlooks.residents)
    refine ⟨_, v', loadDataLands_plain ht.op (.inr hi), hw, hm.trans hlooks.mem, fun r l => (hv r l).trans ?_⟩
    rw [hi]
    rfl

/-! #### Adjoint accumulates (R49, R50, R87, R224) -/

def isAdja : Instr → Bool
  | .adja _ => true
  | _ => false

/-- One lane of ADJA at home. -/
def State.adjaLane (s : State) (c w : Nat) (sp : MemSpec) (x : MemArgs) (m : Team) (o : Op) (a : Acc) : State × Acc :=
  let s := s.dropLine c a.pa a.drop
  let r := s.accumulate m.asid m.priv a.va a.pa a.cnt a.data
  r.1.adjLand c w sp x m o a r.2 id

theorem adjaAtHome_event (s : State) (c w id : Nat) (l : Lanes) : exec (.adjaAtHome c w id l) s =
    .next (s.memEvent c w id l isAdja fun sp x s m o a => s.adjaLane c w sp x m o a) := rfl

theorem accumulate_value (e : AdtEnt) (old addend : Nat) : e.accumulate old addend =
    (if e.tf = true then (adjFx old (decodeF .f32 addend) e.scale).1 else fAdd .f32 old addend,
      decide (e.tf = true ∧ (adjFx old (decodeF .f32 addend) e.scale).2 = true)) := by
  unfold AdtEnt.accumulate
  cases e.tf <;> simp

theorem adjointAccumulates : Spec.AdjointAccumulates := by
  intro s u u' z c w o v m x sp a e n cpa tw ht hi hhome hcnt hline hclass haligned htwin hcount hgood old
  have hat : TwinAt s z m.asid m.priv a.va a.pa .atomic e tw n cpa := ⟨⟨u, u', hclass, htwin, hcount⟩, haligned, hgood⟩
  have hdrop := dropLine_of_none hline a.drop
  have hmine : isAdja o.instr = true := by rw [hi]; rfl
  have hnot : ∀ y, o.instr = .gatherP y → False := fun y hy => by rw [hi] at hy; cases hy
  refine ⟨fun hn => ?_, fun hn => ?_⟩
  · obtain ⟨t, hacc, hstay, hmem⟩ := accumulate_adds hat hn a.data
    have hlane : s.adjaLane c w sp x m o a = t.adjLand c w sp x m o a (.value 0) id := by
      unfold State.adjaLane
      simp only [hdrop, hcnt, hacc]
    obtain ⟨v', hw, hv, hm⟩ := memEvent_adjLand_value (f := fun sp x s m o a => s.adjaLane c w sp x m o a) ht hhome hmine hlane
      hstay
    refine ⟨_, v', adjaAtHome_event .., hw, hv.trans ?_, hm.trans (hmem.trans ?_)⟩
    · rw [hi]
      rfl
    · rw [accumulate_value]
      simp only [decide_eq_true_eq]
      rfl
  · have hlane : s.adjaLane c w sp x m o a = z.adjLand c w sp x m o a (.fault .adjSurplusStore a.va) id := by
      unfold State.adjaLane
      simp only [hdrop, hcnt, accumulate_surplus hat hn a.data]
    exact ⟨_, adjaAtHome_event .., memEvent_adjLand_fault (f := fun sp x s m o a => s.adjaLane c w sp x m o a) ht hhome hmine rfl
      hnot hlane hat.looksUp⟩

/-! #### Adjoint reads (R88, R225) -/

theorem adjrAtHome_event (s : State) (c w id : Nat) (l : Lanes) : exec (.adjrAtHome c w id l) s =
    .next (s.memEvent c w id l isAdjr fun sp x s m o a => s.adjrLane c w sp x m o a fun d => d) := rfl

/-- The one waiting lane that an event names goes on as `f` says. -/
theorem adjrWaiters_puts {s u : State} {c w : Nat} {o : Op} {v v1 : Warp} {m : Team} {x : MemArgs} {sp : MemSpec} {a b : Acc}
    {d : Option Nat} (hop : s.findOp c w o.id = some (o, v, m)) (hspec : memSpec o.instr = some (x, sp))
    (ha : o.accs.find? (·.lane == a.lane) = some a) (hlow : a.lane < 32) (hst : a.st = .waiting d)
    {f : State → Team → Op → MemSpec → MemArgs → Acc → Option Nat → State × Acc} (hf : f s m o sp x a d = (u, b))
    (hu : OpStands u c w o v1) (hlocal : LocalAccs (putAccs [b] o.accs)) :
    s.adjrWaiters c w o.id (maskOf [a.lane]) f = u.updateOp c w { o with accs := putAccs [b] o.accs } := by
  obtain ⟨v', m', hfo, -⟩ := hu
  unfold State.adjrWaiters
  rw [lanesOf_maskOf_single hlow, List.foldl_cons, List.foldl_nil]
  simp only [hop, hspec, ha, hst, hf, hfo]
  exact settle_of_local (o := { o with accs := putAccs [b] o.accs }) hlocal u c w

/-- What one lane of ADJR makes of a granule whose COUNT is 0, and of another. -/
theorem adjrLane_eq {s z : State} {c w n cpa : Nat} {m : Team} {x : MemArgs} {sp : MemSpec} {a : Acc} {e : AdtEnt}
    {tw : Xlat} (hcnt : a.cnt = true) (hline : (s.core c).line (a.pa / 64) = none)
    (hat : TwinAt s z m.asid m.priv a.va a.pa .read e tw n cpa) (hwide : x.w = .fx64 → e.tf = true) (o : Op)
    (d : Option Nat → Option Nat) :
    let el := Memory.readNat s.mem tw.pa e.tsize
    let val := if e.tf = true ∧ x.w ≠ .fx64 then fxToF32 el e.scale else el
    (countOf n = 0 → ∃ t, s.adjrLane c w sp x m o a d = t.adjLand c w sp x m o a (.value val) d ∧ ResidentsStay s t ∧
      t.mem = Memory.writeN s.mem tw.pa (List.replicate e.tsize 0)) ∧
    (countOf n ≠ 0 → s.adjrLane c w sp x m o a d =
      z.adjLand c w sp x m o a (if sp.op == 4 || e.eblk then .early e.tmo else .fault .adjEarlyRead a.va) d) := by
  intro el val
  have hdrop := dropLine_of_none hline a.drop
  have hwide' : (x.w == .fx64) = true → e.tf = true := fun h => hwide (eq_of_beq h)
  refine ⟨fun hn => ?_, fun hn => ?_⟩
  · obtain ⟨t, hread, hstay, hmem⟩ := adjRead_reads hat hwide' hn (sp.op == 4)
    refine ⟨t, ?_, hstay, hmem⟩
    have hval : (if (e.tf && !(x.w == .fx64)) = true then fxToF32 el e.scale else el) = val := by simp [val]
    unfold State.adjrLane
    simp only [hdrop, hcnt, hread]
    rw [hval]
  · unfold State.adjrLane
    simp only [hdrop, hcnt, adjRead_early hat hwide' hn (sp.op == 4)]

theorem adjr_op {i : Instr} {x y : MemArgs} {sp : MemSpec} (hi : i = .adjr x) (h : memSpec i = some (y, sp)) : sp.op = 3 := by
  subst hi
  cases h
  rfl

theorem adjrWait_op {i : Instr} {x y : MemArgs} {sp : MemSpec} (hi : i = .adjrWait x) (h : memSpec i = some (y, sp)) :
    sp.op = 4 := by
  subst hi
  cases h
  rfl

/-- A lane that finds COUNT not 0, and may wait, does so for up to the ADT's time limit. -/
theorem adjLand_early (s : State) (c w : Nat) (sp : MemSpec) (x : MemArgs) (m : Team) (o : Op) (a : Acc) (tmo : Nat) :
    s.adjLand c w sp x m o a (.early tmo) (fun d => d) =
      (s, { a with st := .waiting (if tmo = 0 then none else some (s.clock.toNat + tmo * 940)) }) := rfl

/-- A waiting lane as its time is over. -/
def State.adjrTimed (s : State) (a : Acc) (d : Option Nat) : State × Acc :=
  if (d.any fun n => n ≤ s.clock.toNat) = true then (s, { a with st := .failed .adjEarlyRead }) else (s, a)

theorem adjrWaitTimeout_event (s : State) (c w id : Nat) (l : Lanes) : exec (.adjrWaitTimeout c w id l) s =
    .next (s.adjrWaiters c w id l fun s _ _ _ _ a d => s.adjrTimed a d) := by
  change execAdjrWaitTimeout c w id l s = _
  unfold execAdjrWaitTimeout
  refine congrArg (fun f => Host.Outcome.next (s.adjrWaiters c w id l f)) ?_
  funext s _ _ _ _ a d
  cases d with
  | none => rfl
  | some n => simp [State.adjrTimed]

theorem adjointReads : Spec.AdjointReads := by
  refine ⟨?_, ?_⟩
  · intro s u u' z c w o v m x sp a e n cpa tw hop hspec hi ha hlow hhome hcnt hidle hline hclass haligned hwide htwin hcount
      hgood el val read
    have hat : TwinAt s z m.asid m.priv a.va a.pa .read e tw n cpa := ⟨⟨u, u', hclass, htwin, hcount⟩, haligned, hgood⟩
    have hmine : isAdjr o.instr = true := by obtain hi | hi := hi <;> rw [hi] <;> rfl
    have hnot : ∀ y, o.instr = .gatherP y → False := fun y hy => by obtain hi | hi := hi <;> rw [hi] at hy <;> cases hy
    have hlanded : v.landed o.instr x a.lane val = v.setVs x.vd.toNat a.lane (loadWords x.w val) := by
      obtain hi | hi := hi <;> rw [hi] <;> rfl
    refine ⟨fun ht => ⟨fun hn => ?_, fun hn => ?_⟩, fun d hst hn => ?_⟩
    · obtain ⟨t, hlane, hstay, hmem⟩ := (adjrLane_eq (c := c) (w := w) (sp := sp) hcnt hline hat hwide o fun d => d).1 hn
      obtain ⟨v', hw, hv, hm⟩ := memEvent_adjLand_value (f := fun sp x s m o a => s.adjrLane c w sp x m o a fun d => d) ht hhome
        hmine hlane hstay
      exact ⟨_, adjrAtHome_event .., v', hw, hm.trans hmem, v_of_v (hv.trans (by rw [hlanded]))⟩
    · have hlane := (adjrLane_eq (c := c) (w := w) (sp := sp) hcnt hline hat hwide o fun d => d).2 hn
      by_cases hwait : (sp.op == 4 || e.eblk) = true
      · rw [if_pos hwait, adjLand_early, hat.looksUp.clock] at hlane
        obtain ⟨hm, v', hw, hv, hop'⟩ := memEvent_waits (f := fun sp x s m o a => s.adjrLane c w sp x m o a fun d => d) ht hhome
          hmine hlane hat.looksUp
        refine ⟨_, v', adjrAtHome_event .., hm, hw, hv, fun _ => hop', fun hadjr heblk => ?_⟩
        rw [adjr_op hadjr hspec, heblk] at hwait
        cases hwait
      · rw [if_neg hwait] at hlane
        obtain ⟨hm, hfails⟩ := memEvent_adjLand_fault (f := fun sp x s m o a => s.adjrLane c w sp x m o a fun d => d) ht hhome
          hmine rfl hnot hlane hat.looksUp
        obtain ⟨v', hw, hv, -⟩ := id hfails
        refine ⟨_, v', adjrAtHome_event .., hm, hw, hv, fun hor => absurd ?_ hwait, fun _ _ => hfails⟩
        obtain hwaits | heblk := hor
        · rw [adjrWait_op hwaits hspec]
          rfl
        · rw [heblk, Bool.or_true]
    · obtain ⟨t, hlane, hstay, hmem⟩ := (adjrLane_eq (c := c) (w := w) (sp := sp) hcnt hline hat hwide o fun _ => d).1 hn
      obtain ⟨t', hland, hstands, hmem'⟩ :=
        adjLand_value ((OpStands.of_findOp hop).stay hstay) sp x m a (fun _ => d) (val := val)
      have hlocal : LocalAccs (putAccs [{ a with ret := val, st := .done }] o.accs) := LocalAccs.put hidle rfl nofun
      have hland' := hstands.land o.instr x a val
      obtain ⟨v', hw, hv, hm, -, -⟩ := updateOp_changes hland' hlocal
      have hevent := adjrWaiters_puts (f := fun s t o sp x a d => s.adjrLane c w sp x t o a fun _ => d) hop hspec ha hlow hst
        (hlane.trans hland) hland' hlocal
      refine ⟨_, rfl, v', ?_, ?_, v_of_v (hv.trans (by rw [hlanded]))⟩
      · rw [hevent]
        exact hw
      · rw [hevent]
        exact hm.trans ((land_mem ..).trans (hmem'.trans hmem))
  · intro s c w o v m x sp a d hop hspec ha hlow hst hd hall
    have hmem := List.mem_of_find?_eq_some ha
    have hfailed : ∀ b ∈ putAccs [{ a with st := .failed .adjEarlyRead }] o.accs, b = { a with st := .failed .adjEarlyRead } :=
      fun b hb => (mem_putAccs_single hb).resolve_right fun ⟨hmem, hne⟩ => hne (hall b hmem)
    have hlocal : LocalAccs (putAccs [{ a with st := .failed .adjEarlyRead }] o.accs) := fun b hb => by
      rw [hfailed b hb]
      exact ⟨rfl, nofun⟩
    obtain ⟨v', hw, hv, hm, -, hgone⟩ := updateOp_changes (OpStands.of_findOp hop) hlocal
    have htimed : s.adjrTimed a (some d) = (s, { a with st := .failed .adjEarlyRead }) := by simp [State.adjrTimed, hd]
    have hevent := adjrWaiters_puts (f := fun s _ _ _ _ a d => s.adjrTimed a d) hop hspec ha hlow hst htimed (OpStands.of_findOp hop) hlocal
    refine ⟨_, v', adjrWaitTimeout_event .., ?_⟩
    rw [hevent]
    exact ⟨hm, hw, hv, hgone fun b hb => by rw [hfailed b hb]; rfl, updateOp_records .adjEarlyRead hop hspec hmem hall⟩

/-- Settles O25: at home an adjoint operation looks up caches and then writes memory or faults, and neither touches the operation
it is performed for. -/
theorem adjointOperations : Obligations.AdjointOperations := ⟨countedLoads, adjointAccumulates, adjointReads⟩

end Sys2Proof.Machine

/-! ### Results within 2 units in the last place (R43) -/

namespace Sys2Proof.Machine

open Sys2Proof.Laws

/-- A word is a finite f32 value within 2 units of its last place, and a 2^40th of one, of a value. -/
def NearWord (w : Word) (x : ℝ) : Prop := ∃ t n d, decodeF .f32 w.toNat = .fin t n d ∧
  |Spec.realOf (.fin t n d) - x| ≤ (2 + (2 : ℝ) ^ (-40 : ℤ)) * (2 : ℝ) ^ d

/-- The model's reference value `y` is close enough to a value that the bound about the one is a bound about the other. -/
def Close (y x : ℝ) : Prop := |y - x| ≤ (2 : ℝ) ^ (-189 : ℤ) ∨ |y - x| ≤ (2 : ℝ) ^ (-66 : ℤ) * |y|

theorem Close.of_le {y x a : ℝ} (h : |y - x| ≤ a) (ha : a ≤ (2 : ℝ) ^ (-189 : ℤ)) : Close y x := .inl (h.trans ha)

/-- The largest magnitude that certainly rounds to a finite value. -/
noncomputable def wideLimit : ℝ := 2 ^ (128 : ℤ) - 2 ^ (104 : ℤ)

/-- A word within 2 units of the reference value is as near as R43 asks to a value close to that. -/
theorem NearWord.of_close {w : Word} {t : Bool} {n : ℕ} {d : ℤ} {y x : ℝ} (hd : decodeF .f32 w.toNat = .fin t n d)
    (h : |Spec.realOf (.fin t n d) - y| ≤ 2 * (2 : ℝ) ^ d) (hclose : Close y x) : NearWord w x := by
  obtain ⟨hn, hlow, -, -⟩ := fin_of_word hd
  have hu : (0 : ℝ) < (2 : ℝ) ^ d := by positivity
  refine ⟨t, n, d, hd, (abs_sub_le _ y _).trans ?_⟩
  rw [add_mul]
  refine add_le_add h ?_
  obtain hclose | hclose := hclose
  · refine hclose.trans ?_
    rw [← zpow_add₀ two_ne_zero]
    exact zpow_le_zpow_right₀ one_le_two (by omega)
  · refine hclose.trans ?_
    have hw : |Spec.realOf (.fin t n d)| ≤ 2 ^ 24 * (2 : ℝ) ^ d := by
      rw [← realOf_xabs, xabs, realOf_fin]
      have : (n : ℝ) ≤ 2 ^ 24 := by exact_mod_cast hn.le
      simpa using mul_le_mul_of_nonneg_right this hu.le
    have hy : |y| ≤ 2 ^ 26 * (2 : ℝ) ^ d := by
      have := abs_sub_abs_le_abs_sub y (Spec.realOf (.fin t n d))
      rw [abs_sub_comm] at h
      nlinarith
    calc (2 : ℝ) ^ (-66 : ℤ) * |y| ≤ 2 ^ (-66 : ℤ) * (2 ^ 26 * 2 ^ d) := mul_le_mul_of_nonneg_left hy (by positivity)
      _ = 2 ^ (-40 : ℤ) * 2 ^ d := by rw [← mul_assoc]; norm_num

/-- The rounding of a magnitude that does not overflow lies within a unit of its last place. -/
theorem roundF_within {neg : Bool} {m : ℕ} {e : ℤ} (hbig : m * (2 : ℝ) ^ e ≤ wideLimit) : ∃ n d,
    decodeF .f32 (roundF .f32 (.fin neg m e)) = .fin neg n d ∧ |n * (2 : ℝ) ^ d - m * (2 : ℝ) ^ e| ≤ (2 : ℝ) ^ d := by
  obtain ⟨k, hcode, -, hnear⟩ := roundF_rounds .f32 neg (.inl rfl : Stands m e (m * (2 : ℝ) ^ e))
  have hmax : Fmt.f32.mag Fmt.f32.maxCode = wideLimit := by
    norm_num [Fmt.mag, Fmt.maxCode, Fmt.mbits, Fmt.qmin, Fmt.bias, wideLimit]
  have hval {j : ℕ} (hj : j ≤ Fmt.f32.maxCode) : Spec.realOf (decodeF .f32 j) = Fmt.f32.mag j := realOf_decodeF hj
  have hgap : Fmt.f32.mag (Fmt.f32.maxCode - 1) < Fmt.f32.mag Fmt.f32.maxCode := mag_strictMono .f32 (by decide)
  rw [hmax] at hgap
  dsimp only at hnear
  rw [hval le_rfl, hval (Nat.sub_le _ _), hmax] at hnear
  obtain ⟨hk, hbest⟩ := hnear (.inr (by linarith))
  obtain ⟨n, d, hdec, hv, -, hrange⟩ := decodeF_code .f32 neg hk
  have hle {j : ℕ} (hj : j ≤ Fmt.f32.maxCode) : |n * (2 : ℝ) ^ d - m * (2 : ℝ) ^ e| ≤ |Fmt.f32.mag j - m * (2 : ℝ) ^ e| := by
    rw [hv, ← hval hk, ← hval hj]
    by_cases hne : j = k
    · rw [hne]
    · exact (hbest j hj hne).elim le_of_lt fun h => h.1.le
  have hn : n < 2 ^ 24 ∧ -149 ≤ d := by
    simp only [Fmt.mbits, Fmt.qmin, Fmt.bias] at hrange
    omega
  have hu : (0 : ℝ) < (2 : ℝ) ^ d := by positivity
  have hv0 : 0 ≤ m * (2 : ℝ) ^ e := by positivity
  refine ⟨n, d, hcode ▸ hdec, ?_⟩
  generalize m * (2 : ℝ) ^ e = v at *
  rw [abs_le]
  constructor
  · by_contra hlt
    have hup : (n + 1) * (2 : ℝ) ^ d < 2 ^ (128 : ℤ) := by
      unfold wideLimit at hbig
      have : (0 : ℝ) < 2 ^ (104 : ℤ) := by positivity
      linarith
    obtain ⟨j, hj, hmag⟩ : ∃ j, j ≤ Fmt.f32.maxCode ∧ (n + 1) * (2 : ℝ) ^ d = Fmt.f32.mag j := by
      by_cases hn1 : n + 1 < 2 ^ 24
      · exact_mod_cast exists_mag hn1 hn.2 (by exact_mod_cast hup)
      · have hn2 : ((n : ℝ) + 1) * 2 ^ d = ((2 ^ 23 : ℕ) : ℝ) * 2 ^ (d + 1) := by
          rw [zpow_add_one₀ two_ne_zero, show (n : ℝ) + 1 = 2 ^ 24 by exact_mod_cast (by omega : n + 1 = 2 ^ 24)]
          push_cast
          ring
        rw [hn2] at hup ⊢
        exact exists_mag (by norm_num) (by omega) hup
    have := hle hj
    rw [← hmag, abs_of_neg (by linarith), abs_of_neg (by linarith)] at this
    linarith
  · by_contra hlt
    obtain ⟨p, rfl⟩ : ∃ p, n = p + 1 := Nat.exists_eq_succ_of_ne_zero (by
      rintro rfl
      rw [Nat.cast_zero, zero_mul] at hlt
      linarith)
    push_cast at *
    have hdown : (p : ℝ) * 2 ^ d < 2 ^ (128 : ℤ) := by
      have htop : Fmt.f32.mag k ≤ wideLimit := hmax ▸ (mag_strictMono .f32).monotone hk
      have : (0 : ℝ) < 2 ^ (104 : ℤ) := by positivity
      unfold wideLimit at htop
      linarith
    obtain ⟨j, hj, hmag⟩ := exists_mag (by omega : p < 2 ^ 24) hn.2 hdown
    have := hle hj
    rw [← hmag, abs_of_pos (by linarith), abs_of_pos (by linarith)] at this
    linarith

/-- The exponent of the unit in the last place of a word is that of its value (R43). -/
theorem ulpExp_of_word {w : Word} {t : Bool} {n : ℕ} {d : ℤ} (hd : decodeF .f32 w.toNat = .fin t n d) :
    ulpExp (.fin t n d) = d := by
  obtain ⟨hn, hlow, -, hfull⟩ := fin_of_word hd
  unfold ulpExp
  simp only [Fmt.qmin, Fmt.bias, Fmt.mbits]
  by_cases hdl : d = -149
  · have hlog : n ≠ 0 → Nat.log2 n < 24 := fun h => (Nat.log2_lt h).2 hn
    split <;> omega
  · have hlog : Nat.log2 n = 23 := (Nat.log2_eq_iff (by have := hfull hdl; omega)).2 ⟨hfull hdl, hn⟩
    rw [if_neg (by have := hfull hdl; omega), hlog]
    omega

/-- A word that the model accepts lies within 2 of its own units of the reference value. -/
theorem within2_spec {w : Word} {X : XVal} (hX : X.isFin = true) (h : within2 w X = true) : ∃ t n d,
    decodeF .f32 w.toNat = .fin t n d ∧ |Spec.realOf (.fin t n d) - Spec.realOf X| ≤ 2 * (2 : ℝ) ^ d := by
  unfold within2 at h
  split at h
  next t n d hd =>
    refine ⟨t, n, d, hd, ?_⟩
    rw [Bool.not_eq_true', ← Bool.not_eq_true, xlt_iff rfl (by rw [isFin_xabs]; exact isFin_xadd rfl (by rwa [isFin_xneg])),
      realOf_xabs, realOf_xadd rfl (by rwa [isFin_xneg]), realOf_xneg, ulpExp_of_word hd, not_lt] at h
    simpa [sub_eq_add_neg] using h
  next => cases h

/-- The word of a reference value close to a value is near that. -/
theorem nearWord_wordX {X : XVal} {x : ℝ} (hX : X.isFin = true) (hbig : |Spec.realOf X| ≤ wideLimit)
    (hclose : Close (Spec.realOf X) x) : NearWord (wordX X) x := by
  obtain ⟨neg, m, e, rfl⟩ := XVal.isFin_iff.1 hX
  have habs : |Spec.realOf (.fin neg m e)| = m * (2 : ℝ) ^ e := by
    rw [← realOf_xabs, xabs, realOf_fin]
    simp
  obtain ⟨n, d, hd, hwithin⟩ := roundF_within (neg := neg) (habs ▸ hbig)
  rw [← wordX_toNat] at hd
  refine .of_close hd ?_ hclose
  have hu : (0 : ℝ) < (2 : ℝ) ^ d := by positivity
  rw [realOf_fin, realOf_fin, mul_assoc, mul_assoc, ← mul_sub, abs_mul]
  have hsign : |(if neg = true then (-1 : ℝ) else 1)| = 1 := by cases neg <;> simp
  rw [hsign, one_mul]
  linarith

/-- So is a result of which only the bound is known (log 7). -/
theorem nearWord_boundedWord (fn : ℕ) (w : Word) {X : XVal} {x : ℝ} (hX : X.isFin = true)
    (hbig : |Spec.realOf X| ≤ wideLimit) (hclose : Close (Spec.realOf X) x) : NearWord (boundedWord fn w X) x := by
  unfold boundedWord
  dsimp only
  split
  next h =>
    obtain ⟨t, n, d, hd, hwithin⟩ := within2_spec hX h
    exact .of_close hd hwithin hclose
  next => exact nearWord_wordX hX hbig hclose

end Sys2Proof.Machine

/-! ### The fixed-point series of the special functions (R43) -/

namespace Sys2Proof.Machine

open Sys2Proof.Laws

theorem fx_pos : 0 < fx := by unfold fx; positivity

theorem fx_real_pos : (0 : ℝ) < fx := by exact_mod_cast fx_pos

theorem fx_real : (fx : ℝ) = (2 : ℝ) ^ (320 : ℤ) := by
  unfold fx
  rw [Nat.cast_pow]
  rfl

/-- A quotient of naturals against that of the reals. -/
theorem nat_div_bounds (a : ℕ) {b : ℕ} (hb : 0 < b) : ((a / b : ℕ) : ℝ) ≤ (a : ℝ) / b ∧ (a : ℝ) / b ≤ (a / b : ℕ) + 1 := by
  refine ⟨Nat.cast_div_le, ?_⟩
  rw [div_le_iff₀ (by exact_mod_cast hb)]
  exact_mod_cast (Nat.lt_div_mul_add hb).le.trans (by rw [Nat.add_mul, one_mul])

/-- The term of a Taylor series, in fixed point. -/
noncomputable def taylor (z : ℝ) (k : ℕ) : ℝ := fx * z ^ k / k.factorial

theorem taylor_succ (z : ℝ) (k : ℕ) : taylor z (k + 1) = taylor z k * z / (k + 1) := by
  unfold taylor
  rw [pow_succ, Nat.factorial_succ]
  push_cast
  field_simp

theorem taylor_le {z : ℝ} (h0 : 0 ≤ z) (h1 : z ≤ 1) (k : ℕ) : taylor z k ≤ fx := by
  unfold taylor
  rw [div_le_iff₀ (by positivity)]
  exact mul_le_mul le_rfl ((pow_le_one₀ h0 h1).trans (by exact_mod_cast Nat.one_le_iff_ne_zero.2 k.factorial_ne_zero))
    (by positivity) (by positivity)

/-- A term in fixed point lies up to 4 units below the value it stands for. -/
def TermOf (term : ℕ) (a : ℝ) : Prop := term ≤ a ∧ a ≤ term + 4

/-- The next term, once more by a factor that is given in fixed point and divided. -/
theorem TermOf.next {term b c : ℕ} {a z : ℝ} (h : TermOf term a) (ha : a ≤ fx) (hz0 : 0 ≤ z) (hz1 : z ≤ 1)
    (hlo : b / fx ≤ z) (hhi : z ≤ b / fx + 1 / fx) (hc : 2 ≤ c) : TermOf (term * b / fx / c) (a * z / c) := by
  have hS := fx_real_pos
  have hc0 : (2 : ℝ) ≤ c := by exact_mod_cast hc
  have hcpos : 0 < c := by omega
  obtain ⟨h1, h2⟩ := h
  obtain ⟨hf1, hf2⟩ := nat_div_bounds (term * b) fx_pos
  obtain ⟨hg1, hg2⟩ := nat_div_bounds (term * b / fx) hcpos
  push_cast at hf1 hf2 hg1 hg2
  have hterm : (0 : ℝ) ≤ term := by positivity
  have heq : (term : ℝ) * b / fx = term * (b / fx) := by rw [mul_div_assoc]
  have hunit : (term : ℝ) * (1 / fx) ≤ 1 := by
    rw [mul_one_div, div_le_one hS]
    linarith
  have hup : (term : ℝ) * b / fx ≤ a * z := by
    rw [heq]
    exact mul_le_mul h1 hlo (by positivity) (by linarith)
  have hdown : a * z ≤ (term : ℝ) * b / fx + 5 := by
    have : a * z ≤ term * z + 4 := by nlinarith
    have : (term : ℝ) * z ≤ term * (b / fx + 1 / fx) := mul_le_mul_of_nonneg_left hhi hterm
    rw [heq]
    linarith
  refine ⟨hg1.trans (div_le_div_of_nonneg_right (hf1.trans hup) (by positivity)), ?_⟩
  have hsix : a * z / c ≤ ((term * b / fx : ℕ) + 6) / c := div_le_div_of_nonneg_right (by linarith) (by positivity)
  have hthree : (6 : ℝ) / c ≤ 3 := by
    rw [div_le_iff₀ (by linarith)]
    linarith
  rw [add_div] at hsix
  linarith

/-! #### The exponential -/

theorem expTerms_bounds {t : ℕ} (ht : t ≤ fx) (n : ℕ) : ∀ k term, 1 ≤ k → TermOf term (taylor (t / fx) k) →
    (expTerms t n k term : ℝ) ≤ ∑ j ∈ Finset.range n, taylor (t / fx) (k + j) ∧
      ∑ j ∈ Finset.range n, taylor (t / fx) (k + j) ≤ expTerms t n k term + 4 * n := by
  have hS := fx_real_pos
  have hz0 : (0 : ℝ) ≤ t / fx := by positivity
  have hz1 : (t : ℝ) / fx ≤ 1 := by
    rw [div_le_one hS]
    exact_mod_cast ht
  induction n with
  | zero => intro k term _ _; simp [expTerms]
  | succ n ih =>
    intro k term hk h
    have hnext : TermOf (term * t / fx / (k + 1)) (taylor (t / fx) (k + 1)) := by
      rw [taylor_succ]
      exact_mod_cast h.next (taylor_le hz0 hz1 k) hz0 hz1 le_rfl (by linarith [show (0 : ℝ) ≤ 1 / fx by positivity])
        (by omega : 2 ≤ k + 1)
    obtain ⟨h1, h2⟩ := ih (k + 1) _ (by omega) hnext
    rw [expTerms, Finset.sum_range_succ', add_zero]
    simp only [show ∀ j, k + 1 + j = k + (j + 1) by intro j; omega] at h1 h2
    obtain ⟨hlo, hhi⟩ := h
    push_cast
    constructor <;> linarith

/-- The tail of the exponential series from its `n`th term on, in units of the `S`th part. -/
theorem exp_between {S z : ℝ} (hS : 0 ≤ S) (h0 : 0 ≤ z) (h1 : z ≤ 1) {n : ℕ} (hn : 0 < n)
    (hfact : S * (n + 1) ≤ n.factorial * n) :
    S * ∑ j ∈ Finset.range n, z ^ j / j.factorial ≤ S * Real.exp z ∧
      S * Real.exp z ≤ S * ∑ j ∈ Finset.range n, z ^ j / j.factorial + 1 := by
  refine ⟨mul_le_mul_of_nonneg_left (Real.sum_le_exp_of_nonneg h0 n) hS, ?_⟩
  refine (mul_le_mul_of_nonneg_left (Real.exp_bound' h0 h1 hn) hS).trans ?_
  rw [mul_add]
  refine add_le_add le_rfl ?_
  have hn0 : (0 : ℝ) < n := by exact_mod_cast hn
  rw [mul_div_assoc', div_le_one (by positivity)]
  refine le_trans ?_ hfact
  exact mul_le_mul_of_nonneg_left (mul_le_of_le_one_left (by positivity) (pow_le_one₀ h0 h1)) hS

theorem fx_tail : (fx : ℝ) * ((70 : ℕ) + 1) ≤ ((70 : ℕ).factorial : ℝ) * (70 : ℕ) := by
  have h : fx * (70 + 1) ≤ Nat.factorial 70 * 70 := by decide +kernel
  calc (fx : ℝ) * ((70 : ℕ) + 1) = ((fx * (70 + 1) : ℕ) : ℝ) := by rw [Nat.cast_mul, Nat.cast_add 70 1, Nat.cast_one]
    _ ≤ ((Nat.factorial 70 * 70 : ℕ) : ℝ) := Nat.cast_le.2 h
    _ = _ := Nat.cast_mul ..

theorem taylor_sum (z : ℝ) (n : ℕ) :
    fx * ∑ j ∈ Finset.range n, z ^ j / j.factorial = ∑ j ∈ Finset.range n, taylor z j := by
  rw [Finset.mul_sum]
  exact Finset.sum_congr rfl fun j _ => by rw [taylor, mul_div_assoc]

theorem taylor_zero (z : ℝ) : taylor z 0 = fx := by
  rw [taylor, pow_zero, Nat.factorial_zero, Nat.cast_one, mul_one, div_one]

theorem taylor_one (t : ℕ) : taylor (t / fx) 1 = t := by
  rw [taylor, pow_one, Nat.factorial_one, Nat.cast_one, div_one, mul_div_cancel₀ _ fx_real_pos.ne']

/-- e^t for a fixed-point t up to 1, to 2^9 units. -/
theorem fxExp_bounds {t : ℕ} (ht : t ≤ fx) :
    (fxExp t : ℝ) ≤ fx * Real.exp (t / fx) ∧ fx * Real.exp (t / fx) ≤ fxExp t + 2 ^ 9 := by
  have hS := fx_real_pos
  have hz1 : (t : ℝ) / fx ≤ 1 := by
    rw [div_le_one hS]
    exact_mod_cast ht
  obtain ⟨hlow, hhigh⟩ := exp_between hS.le (by positivity) hz1 (by norm_num) fx_tail
  have hfirst : TermOf t (taylor (t / fx) 1) := by
    rw [taylor_one]
    exact ⟨le_rfl, by linarith⟩
  obtain ⟨h1, h2⟩ := expTerms_bounds ht 69 1 t le_rfl hfirst
  have hterms : (fxExp t : ℝ) = fx + expTerms t 69 1 t := by
    rw [fxExp, expTerms, Nat.mul_div_cancel_left _ fx_pos, zero_add, Nat.div_one, Nat.cast_add]
  rw [taylor_sum, Finset.sum_range_succ', taylor_zero] at hlow hhigh
  simp only [add_comm 1] at h1 h2
  rw [hterms]
  push_cast at h2
  constructor <;> linarith

end Sys2Proof.Machine

/-! ### EXP2, TANH and SIGM (R43) -/

namespace Sys2Proof.Machine

open Sys2Proof.Laws

theorem fx_inv : (1 : ℝ) / fx = (2 : ℝ) ^ (-320 : ℤ) := by rw [fx_real, one_div, zpow_neg]

theorem scaled_eq (a : ℝ) : a * (2 : ℝ) ^ (-320 : ℤ) = a / fx := by rw [← fx_inv, mul_one_div]

theorem two_pow_mul_zpow {a : ℕ} {k j : ℤ} (h : a + k = j) : (2 : ℝ) ^ a * (2 : ℝ) ^ k = (2 : ℝ) ^ j := by
  rw [← h, zpow_add₀ two_ne_zero, zpow_natCast]

theorem two_zpow_le {j k : ℤ} (h : j ≤ k) : (2 : ℝ) ^ j ≤ (2 : ℝ) ^ k := zpow_le_zpow_right₀ one_le_two h

/-- A quotient of fixed-point numbers is given to a unit. -/
theorem fixed_div (a : ℕ) {b : ℕ} (hb : 0 < b) : |((a / b : ℕ) : ℝ) / fx - a / b / fx| ≤ (2 : ℝ) ^ (-320 : ℤ) := by
  have hS := fx_real_pos
  obtain ⟨h1, h2⟩ := nat_div_bounds a hb
  rw [← fx_inv, ← sub_div, abs_div, abs_of_pos hS, div_le_div_iff_of_pos_right hS, abs_le]
  constructor <;> linarith

/-! #### The logarithm of 2, and the exponential of a value in fixed point -/

theorem fxLn2_le : fxLn2 ≤ fx := by decide +kernel

theorem fxLn2_pos : 0 < fxLn2 := by decide +kernel

/-- e to the given logarithm of 2 is 2 to 2^9 units, as the model's own series shows. -/
theorem exp_fxLn2 : |Real.exp (fxLn2 / fx) - 2| ≤ (2 : ℝ) ^ (-311 : ℤ) := by
  have hS := fx_real_pos
  obtain ⟨h1, h2⟩ := fxExp_bounds fxLn2_le
  have hlo : (2 * fx : ℝ) ≤ fxExp fxLn2 + 2 ^ 9 := by
    have : 2 * fx ≤ fxExp fxLn2 + 2 ^ 9 := by decide +kernel
    exact_mod_cast this
  have hhi : (fxExp fxLn2 : ℝ) ≤ 2 * fx := by
    have : fxExp fxLn2 ≤ 2 * fx := by decide +kernel
    exact_mod_cast this
  have hunit : (2 : ℝ) ^ 9 = fx * (2 : ℝ) ^ (-311 : ℤ) := by
    rw [fx_real, ← zpow_add₀ two_ne_zero, ← zpow_natCast]
    rfl
  rw [abs_le]
  constructor
  · refine le_of_mul_le_mul_left (a := (fx : ℝ)) ?_ hS
    linarith
  · refine le_of_mul_le_mul_left (a := (fx : ℝ)) ?_ hS
    linarith

/-- ln 2 is given to 2^-310. -/
theorem fxLn2_near : |(fxLn2 : ℝ) / fx - Real.log 2| ≤ (2 : ℝ) ^ (-310 : ℤ) := by
  have h := exp_fxLn2
  set z := (fxLn2 : ℝ) / fx
  have hdiv : z - Real.log 2 = Real.log (Real.exp z / 2) := by
    rw [Real.log_div (Real.exp_ne_zero _) two_ne_zero, Real.log_exp]
  obtain ⟨h1, h2⟩ := abs_le.1 h
  have hsmall : (2 : ℝ) ^ (-311 : ℤ) ≤ 1 := zpow_le_one_of_nonpos₀ one_le_two (by norm_num)
  have hdouble : (2 : ℝ) ^ (-310 : ℤ) = 2 ^ 1 * (2 : ℝ) ^ (-311 : ℤ) := (two_pow_mul_zpow (by norm_num)).symm
  have hup := Real.log_le_sub_one_of_pos (x := Real.exp z / 2) (by positivity)
  have hdown := Real.one_sub_inv_le_log_of_pos (x := Real.exp z / 2) (by positivity)
  have hinv : (Real.exp z / 2)⁻¹ ≤ 1 + 2 * (2 : ℝ) ^ (-311 : ℤ) := by
    rw [inv_div, div_le_iff₀ (Real.exp_pos _)]
    nlinarith
  rw [hdiv, hdouble, abs_le]
  have : 0 ≤ (2 : ℝ) ^ (-311 : ℤ) := by positivity
  constructor <;> linarith

/-- The series at a fixed-point number close to a value is as close to the value's exponential. -/
theorem fxExp_near {q : ℕ} {u ε : ℝ} (hq : q ≤ fx) (hε : ε ≤ 1 / 4) (h : |(q : ℝ) / fx - u| ≤ ε) :
    |(fxExp q : ℝ) / fx - Real.exp u| ≤ (2 * ε + (2 : ℝ) ^ (-310 : ℤ)) * Real.exp u := by
  have hS := fx_real_pos
  obtain ⟨h1, h2⟩ := fxExp_bounds hq
  have hunit : (2 : ℝ) ^ 9 / fx = (2 : ℝ) ^ (-311 : ℤ) := by
    rw [fx_real, ← zpow_natCast, ← zpow_sub₀ two_ne_zero]
    rfl
  have hq0 : 0 ≤ (q : ℝ) / fx := by positivity
  have hu : 1 / 2 ≤ Real.exp u := by
    have := Real.add_one_le_exp u
    have := (abs_le.1 h).2
    linarith
  have hseries : |(fxExp q : ℝ) / fx - Real.exp (q / fx)| ≤ (2 : ℝ) ^ (-311 : ℤ) := by
    have e1 : (fxExp q : ℝ) / fx ≤ Real.exp (q / fx) := by rw [div_le_iff₀' hS]; exact h1
    have e2 : Real.exp (q / fx) ≤ (fxExp q : ℝ) / fx + 2 ^ 9 / fx := by rw [← add_div, le_div_iff₀' hS]; exact h2
    rw [hunit] at e2
    rw [abs_le]
    have : 0 ≤ (2 : ℝ) ^ (-311 : ℤ) := by positivity
    constructor <;> linarith
  have hshift : |Real.exp (q / fx) - Real.exp u| ≤ 2 * ε * Real.exp u := by
    have hexp : Real.exp (q / fx) - Real.exp u = (Real.exp (q / fx - u) - 1) * Real.exp u := by
      rw [sub_mul, ← Real.exp_add, sub_add_cancel, one_mul]
    rw [hexp, abs_mul, abs_of_pos (Real.exp_pos u)]
    refine mul_le_mul_of_nonneg_right ?_ (Real.exp_pos u).le
    exact (Real.abs_exp_sub_one_le (by linarith)).trans (by linarith)
  have hdouble : (2 : ℝ) ^ (-310 : ℤ) = 2 ^ 1 * (2 : ℝ) ^ (-311 : ℤ) := (two_pow_mul_zpow (by norm_num)).symm
  have habs := abs_sub_le ((fxExp q : ℝ) / fx) (Real.exp (q / fx)) (Real.exp u)
  have : 0 ≤ (2 : ℝ) ^ (-311 : ℤ) := by positivity
  rw [hdouble, add_mul]
  nlinarith

/-- e^v for a v up to some hundreds, in fixed point. -/
theorem fxExpBig_near {m : ℕ} {e : ℤ} (he : -320 ≤ e) (hv : m * (2 : ℝ) ^ e ≤ 2 ^ 9) :
    |(fxExpBig m e : ℝ) / fx - Real.exp (m * (2 : ℝ) ^ e)| ≤ (2 : ℝ) ^ (-290 : ℤ) * Real.exp (m * (2 : ℝ) ^ e) := by
  have hS := fx_real_pos
  have hy : (toFx m e : ℝ) = m * (2 : ℝ) ^ e * fx := toFx_eq he
  set v := (m : ℝ) * (2 : ℝ) ^ e
  set n := toFx m e / fxLn2 with hn
  have hsplit : (toFx m e : ℝ) = (toFx m e - n * fxLn2 : ℕ) + n * fxLn2 := by
    have : n * fxLn2 ≤ toFx m e := Nat.div_mul_le_self ..
    exact_mod_cast (Nat.sub_add_cancel this).symm
  have hr : toFx m e - n * fxLn2 ≤ fx := by
    have : toFx m e < n * fxLn2 + fxLn2 := Nat.lt_div_mul_add fxLn2_pos
    have := fxLn2_le
    omega
  set r := toFx m e - n * fxLn2
  have hhalf : (fx : ℝ) ≤ 2 * fxLn2 := by
    have : fx ≤ 2 * fxLn2 := by decide +kernel
    exact_mod_cast this
  have hnle : (n : ℝ) ≤ 2 ^ 10 := by
    have h1 : (n : ℝ) * fxLn2 ≤ 2 ^ 9 * fx := by
      have : (0 : ℝ) ≤ r := by positivity
      nlinarith
    have : (0 : ℝ) < fxLn2 := by exact_mod_cast fxLn2_pos
    nlinarith
  have hexp : Real.exp v = 2 ^ n * Real.exp (v - n * Real.log 2) := by
    rw [Real.exp_sub, Real.exp_nat_mul _ n, Real.exp_log two_pos, mul_div_cancel₀ _ (by positivity)]
  have hu : (r : ℝ) / fx - (v - n * Real.log 2) = -(n * (fxLn2 / fx - Real.log 2)) := by
    have : v = (r + n * fxLn2) / fx := by rw [← hsplit, hy, mul_div_cancel_right₀ _ hS.ne']
    rw [this]
    ring
  have hε : |(r : ℝ) / fx - (v - n * Real.log 2)| ≤ (2 : ℝ) ^ (-300 : ℤ) := by
    rw [hu, abs_neg, abs_mul, Nat.abs_cast]
    calc (n : ℝ) * |(fxLn2 : ℝ) / fx - Real.log 2| ≤ 2 ^ 10 * (2 : ℝ) ^ (-310 : ℤ) :=
          mul_le_mul hnle fxLn2_near (abs_nonneg _) (by positivity)
      _ = (2 : ℝ) ^ (-300 : ℤ) := two_pow_mul_zpow (by norm_num)
  have h := fxExp_near hr ((two_zpow_le (by norm_num : (-300 : ℤ) ≤ -2)).trans (by norm_num)) hε
  have hbig : (fxExpBig m e : ℝ) / fx = 2 ^ n * (fxExp r / fx) := by
    rw [show fxExpBig m e = fxExp r * 2 ^ n from rfl]
    push_cast
    ring
  rw [hbig, hexp, ← mul_sub, abs_mul, abs_of_pos (by positivity : (0 : ℝ) < 2 ^ n), mul_left_comm]
  refine mul_le_mul_of_nonneg_left (h.trans (mul_le_mul_of_nonneg_right ?_ (Real.exp_pos _).le)) (by positivity)
  have h1 := two_zpow_le (by norm_num : (-310 : ℤ) ≤ -300)
  have h2 : (2 : ℝ) ^ (-290 : ℤ) = 2 ^ 10 * 2 ^ (-300 : ℤ) := (two_pow_mul_zpow (by norm_num)).symm
  have h3 : (0 : ℝ) < 2 ^ (-300 : ℤ) := by positivity
  rw [h2]
  linarith

/-! #### TANH and SIGM -/

/-- Values of magnitude up to 1 and close are in the range of f32. -/
theorem abs_le_wideLimit {y x : ℝ} (hx : |x| ≤ 1) (h : |y - x| ≤ 1) : |y| ≤ wideLimit := by
  have h1 := abs_sub_abs_le_abs_sub y x
  have h2 : (2 : ℝ) ≤ wideLimit := by norm_num [wideLimit]
  linarith

theorem xval_near (fn : ℕ) (w : Word) {X : XVal} {x : ℝ} (hX : X.isFin = true) (hx : |x| ≤ 1)
    (h : |Spec.realOf X - x| ≤ (2 : ℝ) ^ (-189 : ℤ)) : NearWord (boundedWord fn w X) x :=
  nearWord_boundedWord fn w hX
    (abs_le_wideLimit hx (h.trans (zpow_le_one_of_nonpos₀ one_le_two (by norm_num)))) (.inl h)

/-- The logistic function of e^v and of a number relatively close to it. -/
theorem logistic_near {E x δ : ℝ} (hE : 0 ≤ E) (hx : 0 < x) (h : |E - x| ≤ δ * x) :
    |1 / (E + 1) - 1 / (x + 1)| ≤ δ := by
  have hδ : 0 ≤ δ * x := (abs_nonneg _).trans h
  have hδ0 : 0 ≤ δ := nonneg_of_mul_nonneg_left hδ hx
  have hdiff : 1 / (E + 1) - 1 / (x + 1) = (x - E) / ((E + 1) * (x + 1)) := by
    field_simp
    ring
  rw [hdiff, abs_div, abs_sub_comm, abs_of_pos (by positivity : 0 < (E + 1) * (x + 1)), div_le_iff₀ (by positivity)]
  have : 0 ≤ E * x := by positivity
  nlinarith [mul_nonneg hδ0 hE, mul_nonneg hδ0 this]

/-- The exponential of a magnitude in fixed point. -/
theorem one_le_fxExpBig (m : ℕ) (e : ℤ) : fx ≤ fxExpBig m e := by
  have hexp (t : ℕ) : fx ≤ fxExp t := by
    rw [fxExp, expTerms]
    exact Nat.le_add_right ..
  exact (hexp _).trans (Nat.le_mul_of_pos_right _ (by positivity))

/-! The quotients of the two functions, in 1 / (E + 1) for e^v = E. -/

section

variable {x S : ℝ} (hx : 0 ≤ x) (hS : 0 < S)

include hx hS

theorem ratio_one : S * S / (x + S) / S = 0 + 1 * (1 / (x / S + 1)) := by
  field_simp
  ring

theorem ratio_exp : x * S / (x + S) / S = 1 + -1 * (1 / (x / S + 1)) := by
  field_simp
  ring

theorem ratio_tanh : (x - S) * S / (x + S) / S = 1 + -2 * (1 / (x / S + 1)) := by
  field_simp
  ring

end

theorem logistic_neg (v : ℝ) : 1 / (1 + Real.exp (-v)) = 1 + -1 * (1 / (Real.exp v + 1)) := by
  have := Real.exp_pos v
  rw [Real.exp_neg]
  field_simp
  ring

theorem tanh_eq (v : ℝ) : Real.tanh v = 1 + -2 * (1 / (Real.exp (2 * v) + 1)) := by
  have h := Real.exp_pos v
  rw [Real.tanh_eq, Real.exp_neg, two_mul, Real.exp_add]
  field_simp
  ring

section

variable {m : ℕ} {e : ℤ} (he : -320 ≤ e) (hv : m * (2 : ℝ) ^ e ≤ 2 ^ 9)

include he hv

/-- What follows from e^v through 1 / (e^v + 1), taken from the fixed-point e^v and given to a unit. -/
theorem logistic_fixed {y a b : ℝ} (hb : |b| ≤ 2)
    (hy : |y - (a + b * (1 / ((fxExpBig m e : ℝ) / fx + 1)))| ≤ (2 : ℝ) ^ (-320 : ℤ)) :
    |y - (a + b * (1 / (Real.exp (m * (2 : ℝ) ^ e) + 1)))| ≤ (2 : ℝ) ^ (-189 : ℤ) := by
  have h := logistic_near (by positivity) (Real.exp_pos _) (fxExpBig_near he hv)
  have h1 := two_zpow_le (by norm_num : (-320 : ℤ) ≤ -290)
  have h2 := two_zpow_le (by norm_num : (-288 : ℤ) ≤ -189)
  have h3 : (2 : ℝ) ^ (-288 : ℤ) = 2 ^ 2 * 2 ^ (-290 : ℤ) := (two_pow_mul_zpow (by norm_num)).symm
  have h4 : (0 : ℝ) < 2 ^ (-290 : ℤ) := by positivity
  refine (abs_sub_le _ _ _).trans ((add_le_add hy ?_).trans
    (by linarith : (2 : ℝ) ^ (-320 : ℤ) + 2 * 2 ^ (-290 : ℤ) ≤ 2 ^ (-189 : ℤ)))
  rw [add_sub_add_left_eq_sub, ← mul_sub, abs_mul]
  exact mul_le_mul hb h (abs_nonneg _) (by norm_num)

theorem sigm_neg_near : |((fx * fx / (fxExpBig m e + fx) : ℕ) : ℝ) / fx - 1 / (1 + Real.exp (m * (2 : ℝ) ^ e))| ≤
    (2 : ℝ) ^ (-189 : ℤ) := by
  have h := fixed_div (fx * fx) (Nat.add_pos_right (fxExpBig m e) fx_pos)
  rw [Nat.cast_mul, Nat.cast_add, ratio_one (Nat.cast_nonneg _) fx_real_pos] at h
  have hnear := logistic_fixed he hv (by norm_num) h
  rwa [zero_add, one_mul, add_comm (Real.exp _)] at hnear

theorem sigm_pos_near : |((fxExpBig m e * fx / (fxExpBig m e + fx) : ℕ) : ℝ) / fx -
    1 / (1 + Real.exp (-(m * (2 : ℝ) ^ e)))| ≤ (2 : ℝ) ^ (-189 : ℤ) := by
  have h := fixed_div (fxExpBig m e * fx) (Nat.add_pos_right (fxExpBig m e) fx_pos)
  rw [Nat.cast_mul, Nat.cast_add, ratio_exp (Nat.cast_nonneg _) fx_real_pos] at h
  rw [logistic_neg]
  exact logistic_fixed he hv (by norm_num) h

end

theorem tanhX_near {m : ℕ} {e : ℤ} (he : -320 ≤ e) (hv : m * (2 : ℝ) ^ e ≤ 2 ^ 8) :
    |(tanhX m e : ℝ) / fx - Real.tanh (m * (2 : ℝ) ^ e)| ≤ (2 : ℝ) ^ (-189 : ℤ) := by
  have hdouble : m * (2 : ℝ) ^ (e + 1) = 2 * (m * (2 : ℝ) ^ e) := by
    rw [zpow_add_one₀ two_ne_zero]
    ring
  have h := fixed_div ((fxExpBig m (e + 1) - fx) * fx) (Nat.add_pos_right (fxExpBig m (e + 1)) fx_pos)
  rw [Nat.cast_mul, Nat.cast_sub (one_le_fxExpBig m (e + 1)), Nat.cast_add, ratio_tanh (Nat.cast_nonneg _) fx_real_pos] at h
  rw [tanh_eq, ← hdouble]
  exact logistic_fixed (by omega) (by rw [hdouble]; linarith) (by norm_num) h

/-- The logistic function of a large magnitude. -/
theorem logistic_large {v : ℝ} (h : 200 ≤ v) : 1 / (1 + Real.exp v) ≤ (2 : ℝ) ^ (-200 : ℤ) := by
  have hexp : (2 : ℝ) ^ (200 : ℕ) ≤ Real.exp v := by
    calc (2 : ℝ) ^ (200 : ℕ) ≤ Real.exp 1 ^ (200 : ℕ) :=
          pow_le_pow_left₀ two_pos.le (by have := Real.add_one_le_exp 1; linarith) _
      _ = Real.exp 200 := by rw [← Real.exp_nat_mul]; norm_num
      _ ≤ Real.exp v := Real.exp_le_exp.2 h
  rw [zpow_neg, ← one_div]
  refine one_div_le_one_div_of_le (by positivity) ?_
  have : (2 : ℝ) ^ (200 : ℤ) = 2 ^ (200 : ℕ) := by norm_cast
  linarith

theorem sigmX_near (neg : Bool) {m : ℕ} {e : ℤ} (he : -320 ≤ e) : (sigmX neg m e).isFin = true ∧
    |Spec.realOf (sigmX neg m e) - 1 / (1 + Real.exp (-Spec.realOf (.fin neg m e)))| ≤ (2 : ℝ) ^ (-189 : ℤ) := by
  unfold sigmX
  split
  next hlt =>
    rw [xlt_fin] at hlt
    have hlt : 200 ≤ m * (2 : ℝ) ^ e := by simpa using hlt.le
    have hsmall := (logistic_large hlt).trans (two_zpow_le (by norm_num : (-200 : ℤ) ≤ -189))
    have hunit := two_zpow_le (by norm_num : (-288 : ℤ) ≤ -189)
    have hnear := abs_sub_le_of_nonneg_of_le (by positivity) hunit (by positivity) hsmall
    cases neg
    · refine ⟨rfl, ?_⟩
      have hnum : ((2 ^ 288 - 1 : ℕ) : ℝ) = 2 ^ 288 - 1 := by norm_num
      have hone : (2 : ℝ) ^ 288 * 2 ^ (-288 : ℤ) = 1 := two_pow_mul_zpow (k := -288) (j := 0) (by norm_num)
      simp only [realOf_fin, if_false, Bool.false_eq_true, one_mul, logistic_neg, hnum, sub_mul, hone]
      rwa [neg_one_mul, ← sub_eq_add_neg, sub_sub_sub_cancel_left, add_comm (Real.exp _), abs_sub_comm]
    · refine ⟨rfl, ?_⟩
      simpa only [if_true, realOf_fin, if_false, Bool.false_eq_true, one_mul, Nat.cast_one, neg_mul, neg_neg] using hnear
  next hlt =>
    rw [xlt_fin, not_lt] at hlt
    have hv : m * (2 : ℝ) ^ e ≤ 2 ^ 9 := by
      have : m * (2 : ℝ) ^ e ≤ 200 := by simpa using hlt
      linarith
    cases neg
    · refine ⟨rfl, ?_⟩
      simpa only [realOf_fin, if_false, Bool.false_eq_true, one_mul, scaled_eq] using sigm_pos_near he hv
    · refine ⟨rfl, ?_⟩
      simpa only [realOf_fin, if_true, if_false, Bool.false_eq_true, one_mul, scaled_eq, neg_mul, neg_neg] using sigm_neg_near he hv

end Sys2Proof.Machine

/-! ### EXP2, TANH and SIGM of every finite value (R43) -/

namespace Sys2Proof.Machine

open Sys2Proof.Laws

/-- A relative bound on the reference value's distance. -/
theorem Close.of_relative {y x : ℝ} (h : |y - x| ≤ (2 : ℝ) ^ (-70 : ℤ) * |x|) : Close y x := by
  refine .inr ?_
  have h1 := abs_sub_abs_le_abs_sub x y
  rw [abs_sub_comm] at h1
  have h2 : (2 : ℝ) ^ (-70 : ℤ) ≤ 1 / 2 := by norm_num
  have h3 : |x| ≤ 2 * |y| := by
    have := h1.trans (h.trans (mul_le_mul_of_nonneg_right h2 (abs_nonneg x)))
    linarith
  refine h.trans ?_
  have h4 : (2 : ℝ) ^ (-66 : ℤ) = 2 ^ 4 * 2 ^ (-70 : ℤ) := (two_pow_mul_zpow (by norm_num)).symm
  rw [h4]
  have : (0 : ℝ) < 2 ^ (-70 : ℤ) := by positivity
  nlinarith [abs_nonneg y]

/-- The series for 2^(f / fx): its argument is the fraction times ln 2, rounded down. -/
theorem exp2_fraction_near {f : ℕ} (hf : f ≤ fx) :
    |(fxExp (f * fxLn2 / fx) : ℝ) / fx - (2 : ℝ) ^ ((f : ℝ) / fx)| ≤ (2 : ℝ) ^ (-300 : ℤ) * (2 : ℝ) ^ ((f : ℝ) / fx) := by
  have hS := fx_real_pos
  have hq : f * fxLn2 / fx ≤ fx := by
    refine (Nat.div_le_div_right (Nat.mul_le_mul hf fxLn2_le)).trans ?_
    rw [Nat.mul_div_cancel _ fx_pos]
  have hf1 : (f : ℝ) / fx ≤ 1 := by
    rw [div_le_one hS]
    exact_mod_cast hf
  have hfloor := fixed_div (f * fxLn2) fx_pos
  have hln := fxLn2_near
  have hpow : (2 : ℝ) ^ ((f : ℝ) / fx) = Real.exp (f / fx * Real.log 2) := by
    rw [Real.rpow_def_of_pos two_pos, mul_comm]
  have hε : |((f * fxLn2 / fx : ℕ) : ℝ) / fx - f / fx * Real.log 2| ≤ (2 : ℝ) ^ (-309 : ℤ) := by
    have hmul : |((f * fxLn2 : ℕ) : ℝ) / fx / fx - f / fx * Real.log 2| ≤ (2 : ℝ) ^ (-310 : ℤ) := by
      rw [Nat.cast_mul, mul_div_right_comm, mul_div_assoc, ← mul_sub, abs_mul, abs_of_nonneg (by positivity)]
      exact (mul_le_of_le_one_left (abs_nonneg _) hf1).trans hln
    have h1 := two_zpow_le (by norm_num : (-320 : ℤ) ≤ -310)
    have h2 : (2 : ℝ) ^ (-309 : ℤ) = 2 ^ 1 * 2 ^ (-310 : ℤ) := (two_pow_mul_zpow (by norm_num)).symm
    refine (abs_sub_le _ _ _).trans ((add_le_add hfloor hmul).trans ?_)
    linarith
  have h := fxExp_near hq ((two_zpow_le (by norm_num : (-309 : ℤ) ≤ -2)).trans (by norm_num)) hε
  rw [hpow]
  refine h.trans (mul_le_mul_of_nonneg_right ?_ (Real.exp_pos _).le)
  have h1 := two_zpow_le (by norm_num : (-310 : ℤ) ≤ -309)
  have h2 : (2 : ℝ) ^ (-300 : ℤ) = 2 ^ 9 * 2 ^ (-309 : ℤ) := (two_pow_mul_zpow (by norm_num)).symm
  have h3 : (0 : ℝ) < 2 ^ (-309 : ℤ) := by positivity
  linarith

/-- A value known to a relative bound, times a power of two. -/
theorem scaled_near {y x δ : ℝ} (k : ℤ) (h : |y / fx - x| ≤ δ * x) :
    |y * (2 : ℝ) ^ (k - 320) - (2 : ℝ) ^ k * x| ≤ δ * (2 ^ k * x) := by
  have hk : (0 : ℝ) < 2 ^ k := by positivity
  have hy : y * (2 : ℝ) ^ (k - 320) = 2 ^ k * (y / fx) := by
    rw [sub_eq_add_neg, zpow_add₀ two_ne_zero, ← fx_inv]
    ring
  rw [hy, ← mul_sub, abs_mul, abs_of_pos hk, mul_left_comm]
  exact mul_le_mul_of_nonneg_left h hk.le

theorem rpow_int_add (k : ℤ) (a : ℝ) : (2 : ℝ) ^ ((k : ℝ) + a) = 2 ^ k * 2 ^ a := by
  rw [Real.rpow_add two_pos, Real.rpow_intCast]

/-- The reference value of EXP2. -/
theorem exp2X_near (neg : Bool) {m : ℕ} {e : ℤ} (he : -320 ≤ e) : (exp2X neg m e).isFin = true ∧
    |Spec.realOf (exp2X neg m e) - (2 : ℝ) ^ Spec.realOf (.fin neg m e)| ≤
      (2 : ℝ) ^ (-300 : ℤ) * (2 : ℝ) ^ Spec.realOf (.fin neg m e) := by
  have hS := fx_real_pos
  have hsplit : m * (2 : ℝ) ^ e = (toFx m e / fx : ℕ) + (toFx m e % fx : ℕ) / fx := by
    have h : (toFx m e : ℝ) = (toFx m e / fx : ℕ) * fx + (toFx m e % fx : ℕ) := by
      exact_mod_cast (Nat.div_add_mod' (toFx m e) fx).symm
    rw [toFx_eq he] at h
    field_simp
    linarith
  have hf := (Nat.mod_lt (toFx m e) fx_pos).le
  unfold exp2X
  dsimp only
  generalize toFx m e / fx = n at *
  generalize toFx m e % fx = f at *
  cases neg
  case false =>
    refine ⟨rfl, ?_⟩
    have hv : Spec.realOf (.fin false m e) = ((n : ℤ) : ℝ) + (f : ℝ) / fx := by simpa using hsplit
    rw [hv, rpow_int_add]
    simpa only [realOf_fin, if_false, Bool.false_eq_true, one_mul] using scaled_near n (exp2_fraction_near hf)
  case true =>
    by_cases h0 : f = 0
    · refine ⟨by rw [h0]; rfl, ?_⟩
      have hv : Spec.realOf (.fin true m e) = ((-(n : ℤ) : ℤ) : ℝ) := by
        rw [h0, Nat.cast_zero, zero_div, add_zero] at hsplit
        simpa using hsplit
      rw [hv, Real.rpow_intCast, if_pos rfl, if_pos h0]
      simp only [realOf_fin, if_false, Bool.false_eq_true, one_mul, Nat.cast_one, sub_self, abs_zero]
      positivity
    · refine ⟨by rw [if_pos rfl, if_neg h0]; rfl, ?_⟩
      have hv : Spec.realOf (.fin true m e) = ((-(n : ℤ) - 1 : ℤ) : ℝ) + ((fx - f : ℕ) : ℝ) / fx := by
        rw [Nat.cast_sub hf, sub_div, div_self hS.ne']
        push_cast
        simp only [realOf_fin, if_true, neg_mul, one_mul, hsplit]
        ring
      rw [hv, rpow_int_add, if_pos rfl, if_neg h0]
      simpa only [realOf_fin, if_false, Bool.false_eq_true, one_mul] using
        scaled_near (-(n : ℤ) - 1) (exp2_fraction_near (Nat.sub_le fx f))

section

variable {w : Word} {neg : Bool} {m : ℕ} {e : ℤ} (hd : decodeF .f32 w.toNat = .fin neg m e) (hm : m ≠ 0)

include hd hm

theorem specialFn_sigm : specialFn 8 w = boundedWord 8 w (sigmX neg m e) := by
  simp only [specialFn, hd, if_neg hm]

theorem specialFn_sin : specialFn 5 w =
    boundedWord 5 w (xOfInt (if neg then -(sinCosX m e).1 else (sinCosX m e).1) (-320) false) := by
  simp only [specialFn, hd, if_neg hm]

theorem specialFn_cos : specialFn 6 w = boundedWord 6 w (xOfInt (sinCosX m e).2 (-320) false) := by
  simp only [specialFn, hd, if_neg hm]

theorem sigm_near : NearWord (specialFn 8 w) (1 / (1 + Real.exp (-Spec.realOf (.fin neg m e)))) := by
  obtain ⟨-, he, -⟩ := fin_of_word hd
  obtain ⟨hfin, hnear⟩ := sigmX_near neg (m := m) (by omega : -320 ≤ e)
  rw [specialFn_sigm hd hm]
  refine xval_near 8 w hfin ?_ hnear
  have hexp := Real.exp_pos (-Spec.realOf (.fin neg m e))
  rw [abs_of_pos (by positivity), div_le_one (by positivity)]
  linarith

theorem tanh_near : NearWord (specialFn 7 w) (Real.tanh (Spec.realOf (.fin neg m e))) := by
  obtain ⟨-, he, -⟩ := fin_of_word hd
  set v := (m : ℝ) * (2 : ℝ) ^ e with hv
  have hv0 : 0 ≤ v := by positivity
  have hval : Real.tanh (Spec.realOf (.fin neg m e)) = (if neg then -1 else 1) * Real.tanh v := by
    cases neg <;> simp [← hv, Real.tanh_neg]
  have hsign : |(if neg = true then (-1 : ℝ) else 1)| = 1 := by cases neg <;> simp
  rw [specialFn_tanh hd hm, hval]
  split
  next hlt =>
    rw [xlt_mag_iff] at hlt
    refine xval_near 7 w rfl ?_ ?_
    · rw [abs_mul, hsign, one_mul]
      exact (Real.abs_tanh_lt_one v).le
    · rw [realOf_fin, mul_assoc, scaled_eq, ← mul_sub, abs_mul, hsign, one_mul]
      exact tanhX_near (by omega) (by push_cast at hlt; linarith)
  next hlt =>
    rw [xlt_mag_iff, not_lt] at hlt
    have hone : decodeF .f32 (wordX (.fin neg 1 0)).toNat = .fin neg (2 ^ 23) (-23) := by cases neg <;> rfl
    refine ⟨_, _, _, hone, ?_⟩
    have hword : Spec.realOf (.fin neg (2 ^ 23) (-23)) = (if neg then -1 else 1) * 1 := by
      rw [realOf_fin, mul_assoc]
      norm_num
    rw [hword, ← mul_sub, abs_mul, hsign, one_mul, tanh_eq]
    have hexp : (2 : ℝ) ^ 24 ≤ Real.exp (2 * v) := by
      calc (2 : ℝ) ^ 24 ≤ (27 / 10) ^ 20 := by norm_num
        _ ≤ Real.exp 1 ^ 20 := pow_le_pow_left₀ (by norm_num) (by linarith [Real.exp_one_gt_d9]) _
        _ = Real.exp 20 := by rw [← Real.exp_nat_mul]; norm_num
        _ ≤ Real.exp (2 * v) := Real.exp_le_exp.2 (by push_cast at hlt; linarith)
    have hsmall : 1 / (Real.exp (2 * v) + 1) ≤ 1 / (2 ^ 24 : ℝ) := one_div_le_one_div_of_le (by positivity) (by linarith)
    have hpos : 0 ≤ 1 / (Real.exp (2 * v) + 1) := by positivity
    rw [abs_of_nonneg (by linarith)]
    norm_num at hsmall ⊢
    linarith

/-- An f32 value below 128 is below it by a unit of the last place there. -/
theorem le_of_lt_128 (h : Spec.realOf (.fin neg m e) < 128) : Spec.realOf (.fin neg m e) ≤ 128 - 2 ^ (-17 : ℤ) := by
  obtain ⟨hlt, he, -⟩ := fin_of_word hd
  have hpos : 0 ≤ (m : ℝ) * 2 ^ e := by positivity
  cases neg
  case true =>
    simp only [realOf_fin, if_true, neg_mul, one_mul]
    norm_num
    linarith
  case false =>
    simp only [realOf_fin, if_false, Bool.false_eq_true, one_mul] at h ⊢
    rcases le_or_gt (-17) e with h17 | h17
    · obtain ⟨k, hk⟩ : ∃ k : ℕ, e = k - 17 := ⟨(e + 17).toNat, by omega⟩
      have hunits : (m : ℝ) * 2 ^ e = ((m * 2 ^ k : ℕ) : ℝ) * 2 ^ (-17 : ℤ) := by
        rw [hk, sub_eq_add_neg, zpow_add₀ two_ne_zero, zpow_natCast]
        push_cast
        ring
      have hint : m * 2 ^ k < 2 ^ 24 := by
        rw [hunits] at h
        have : ((m * 2 ^ k : ℕ) : ℝ) < ((2 ^ 24 : ℕ) : ℝ) := by
          norm_num at h ⊢
          linarith
        exact_mod_cast this
      have : ((m * 2 ^ k : ℕ) : ℝ) ≤ 2 ^ 24 - 1 := by
        have : ((m * 2 ^ k + 1 : ℕ) : ℝ) ≤ ((2 ^ 24 : ℕ) : ℝ) := by exact_mod_cast hint
        push_cast at this ⊢
        linarith
      rw [hunits]
      norm_num at this ⊢
      linarith
    · have h1 : (m : ℝ) ≤ 2 ^ 24 := by exact_mod_cast hlt.le
      have h2 := two_zpow_le (by omega : e ≤ -18)
      have h3 := mul_le_mul h1 h2 (by positivity) (by positivity)
      norm_num at h3 ⊢
      linarith

end

/-- 2^x below 128 stays so far below the top of f32 that the reference value rounds to a finite one. -/
theorem exp2_le_wideLimit {v y : ℝ} (hv : v ≤ 128 - 2 ^ (-17 : ℤ)) (h : |y - (2 : ℝ) ^ v| ≤ (2 : ℝ) ^ (-300 : ℤ) * (2 : ℝ) ^ v) :
    |y| ≤ wideLimit := by
  have hpow0 : (0 : ℝ) < (2 : ℝ) ^ v := by positivity
  have htop : (2 : ℝ) ^ v * (1 + 2 ^ (-18 : ℤ)) ≤ 2 ^ (128 : ℤ) := by
    have hlog := Real.log_two_gt_d9
    have hexp : 1 + (2 : ℝ) ^ (-18 : ℤ) ≤ (2 : ℝ) ^ (128 - v) := by
      rw [Real.rpow_def_of_pos two_pos]
      have h1 := Real.add_one_le_exp (Real.log 2 * (128 - v))
      have h2 : (1 / 2 : ℝ) * 2 ^ (-17 : ℤ) ≤ Real.log 2 * (128 - v) :=
        mul_le_mul (by linarith) (by linarith) (by positivity) (by linarith)
      norm_num at h2 ⊢
      linarith
    calc (2 : ℝ) ^ v * (1 + 2 ^ (-18 : ℤ)) ≤ (2 : ℝ) ^ v * (2 : ℝ) ^ (128 - v) := mul_le_mul_of_nonneg_left hexp hpow0.le
      _ = 2 ^ (128 : ℤ) := by rw [← Real.rpow_add two_pos, add_sub_cancel, ← Real.rpow_intCast]; norm_num
  replace h := h.trans (mul_le_mul_of_nonneg_right (two_zpow_le (by norm_num : (-300 : ℤ) ≤ -22)) hpow0.le)
  have habs := abs_sub_abs_le_abs_sub y ((2 : ℝ) ^ v)
  rw [abs_of_pos hpow0] at habs
  unfold wideLimit
  generalize (2 : ℝ) ^ v = p at *
  norm_num at *
  linarith

section

variable {w : Word} {neg : Bool} {m : ℕ} {e : ℤ} (hd : decodeF .f32 w.toNat = .fin neg m e) (hm : m ≠ 0)

include hd hm

theorem specialFn_exp2_between (h1 : -150 < Spec.realOf (.fin neg m e)) (h2 : Spec.realOf (.fin neg m e) < 128) :
    specialFn 3 w = if toFx m e % fx = 0 then wordX (exp2X neg m e) else boundedWord 3 w (exp2X neg m e) := by
  cases neg
  · have hlt : xlt (.fin false m e) (.fin false 128 0) = true := by
      rw [xlt_mag_iff]
      simpa using h2
    rw [specialFn_exp2 hd hm, hlt, if_neg (by decide), if_neg (by simp)]
  · have hlt : xlt (.fin false m e) (.fin false 150 0) = true := by
      rw [xlt_mag_iff]
      simpa using h1
    rw [specialFn_exp2 hd hm, hlt, if_neg (by simp), if_neg (by decide)]

theorem exp2_near (h : Spec.realOf (.fin neg m e) < 128) :
    NearWord (specialFn 3 w) ((2 : ℝ) ^ Spec.realOf (.fin neg m e)) := by
  obtain ⟨-, he, -⟩ := fin_of_word hd
  obtain ⟨hfin, hnear⟩ := exp2X_near neg (m := m) (by omega : -320 ≤ e)
  have hbig := exp2_le_wideLimit (le_of_lt_128 hd hm h) hnear
  have hpow0 : (0 : ℝ) < (2 : ℝ) ^ Spec.realOf (.fin neg m e) := by positivity
  have hclose : Close (Spec.realOf (exp2X neg m e)) ((2 : ℝ) ^ Spec.realOf (.fin neg m e)) := by
    refine .of_relative (hnear.trans ?_)
    rw [abs_of_pos hpow0]
    exact mul_le_mul_of_nonneg_right (two_zpow_le (by norm_num)) hpow0.le
  rcases le_or_gt (Spec.realOf (.fin neg m e)) (-150) with hlow | hlow
  · rw [exp2_of_small hd hm hlow]
    refine ⟨false, 0, -149, rfl, ?_⟩
    rw [realOf_fin, Nat.cast_zero, mul_zero, zero_mul, zero_sub, abs_neg, abs_of_pos hpow0]
    have h1 : (2 : ℝ) ^ Spec.realOf (.fin neg m e) ≤ (2 : ℝ) ^ (-150 : ℝ) := Real.rpow_le_rpow_of_exponent_le one_le_two hlow
    refine h1.trans ?_
    rw [show (-150 : ℝ) = ((-150 : ℤ) : ℝ) by norm_num, Real.rpow_intCast]
    norm_num
  · rw [specialFn_exp2_between hd hm hlow h]
    split
    · exact nearWord_wordX hfin hbig hclose
    · exact nearWord_boundedWord 3 w hfin hbig hclose

end

end Sys2Proof.Machine

/-! ### LOG2 of every positive value (R43) -/

namespace Sys2Proof.Machine

open Sys2Proof.Laws

/-- The logarithm of a fixed-point number. -/
noncomputable def fxLog (x : ℕ) : ℝ := Real.logb 2 (x / fx)

theorem logb_le_of_le {a b c : ℝ} (ha : 0 < a) (h : b ≤ a * (1 + c)) (hb : 0 < b) (hc : 0 ≤ c) :
    Real.logb 2 b ≤ Real.logb 2 a + 2 * c := by
  have h1 : Real.logb 2 b ≤ Real.logb 2 a + Real.logb 2 (1 + c) := by
    rw [← Real.logb_mul ha.ne' (by positivity)]
    exact Real.logb_le_logb_of_le one_lt_two hb h
  have h2 : Real.logb 2 (1 + c) ≤ 2 * c := by
    have hlog := Real.log_two_gt_d9
    have hle := Real.log_le_sub_one_of_pos (x := 1 + c) (by positivity)
    rw [Real.logb, div_le_iff₀ (by linarith)]
    nlinarith
  linarith

/-- A fixed-point number from 1 on loses little in its logarithm when it is rounded down. -/
theorem fxLog_floor {x : ℝ} {n : ℕ} (h1 : n ≤ x) (h2 : x ≤ n + 1) (hn : fx ≤ n) :
    fxLog n ≤ Real.logb 2 (x / fx) ∧ Real.logb 2 (x / fx) ≤ fxLog n + 2 * (2 : ℝ) ^ (-320 : ℤ) := by
  have hS := fx_real_pos
  have hone : (1 : ℝ) ≤ n / fx := by
    rw [one_le_div hS]
    exact_mod_cast hn
  have hle : x / fx ≤ n / fx + 1 / fx := by
    rw [← add_div]
    exact div_le_div_of_nonneg_right h2 hS.le
  have hge : (n : ℝ) / fx ≤ x / fx := div_le_div_of_nonneg_right h1 hS.le
  refine ⟨Real.logb_le_logb_of_le one_lt_two (by linarith) hge, ?_⟩
  refine logb_le_of_le (by linarith) ?_ (by linarith) (by positivity)
  rw [← fx_inv]
  have : 0 ≤ 1 / (fx : ℝ) := by positivity
  nlinarith

/-- Squaring doubles the logarithm. -/
theorem logb_square {x : ℕ} (hx : fx ≤ x) : Real.logb 2 ((x : ℝ) * x / fx / fx) = 2 * fxLog x := by
  have hS := fx_real_pos
  have hx0 : (0 : ℝ) < x := hS.trans_le (by exact_mod_cast hx)
  rw [fxLog, mul_div_assoc, mul_div_right_comm, Real.logb_mul (by positivity) (by positivity), two_mul]

theorem square_bounds {x : ℕ} (h1 : fx ≤ x) (h2 : x < 2 * fx) : fx ≤ x * x / fx ∧ x * x / fx < 4 * fx := by
  rw [Nat.le_div_iff_mul_le fx_pos, Nat.div_lt_iff_lt_mul fx_pos]
  constructor <;> nlinarith

/-- The logarithm of the square that a step takes. -/
theorem fxLog_square {x : ℕ} (h1 : fx ≤ x) (h2 : x < 2 * fx) :
    fxLog (x * x / fx) ≤ 2 * fxLog x ∧ 2 * fxLog x ≤ fxLog (x * x / fx) + 2 * (2 : ℝ) ^ (-320 : ℤ) := by
  obtain ⟨hlo, hhi⟩ := nat_div_bounds (x * x) fx_pos
  rw [Nat.cast_mul] at hlo hhi
  rw [← logb_square h1]
  exact fxLog_floor hlo hhi (square_bounds h1 h2).1

/-- Halving takes one off the logarithm. -/
theorem fxLog_half {y : ℕ} (h : 2 * fx ≤ y) :
    fxLog (y / 2) + 1 ≤ fxLog y ∧ fxLog y ≤ fxLog (y / 2) + 1 + 2 * (2 : ℝ) ^ (-320 : ℤ) := by
  have hS := fx_real_pos
  have hy0 : (0 : ℝ) < y := by exact_mod_cast (by have := fx_pos; omega : 0 < y)
  obtain ⟨hlo, hhi⟩ := nat_div_bounds y two_pos
  obtain ⟨h1, h2⟩ := fxLog_floor hlo hhi (by omega)
  have hhalf : Real.logb 2 ((y : ℝ) / (2 : ℕ) / fx) = fxLog y - 1 := by
    rw [Nat.cast_ofNat, div_right_comm, Real.logb_div (by positivity) two_ne_zero, Real.logb_self_eq_one one_lt_two, fxLog]
  rw [hhalf] at h1 h2
  constructor <;> linarith

theorem fxLog_mem {x : ℕ} (h1 : fx ≤ x) (h2 : x < 2 * fx) : 0 ≤ fxLog x ∧ fxLog x ≤ 1 := by
  have hS := fx_real_pos
  have hx1 : (1 : ℝ) ≤ x / fx := by
    rw [one_le_div hS]
    exact_mod_cast h1
  have hx2 : (x : ℝ) / fx ≤ 2 := by
    rw [div_le_iff₀ hS]
    exact_mod_cast h2.le
  refine ⟨Real.logb_nonneg one_lt_two hx1, ?_⟩
  rw [fxLog, Real.logb_le_iff_le_rpow one_lt_two (by linarith), Real.rpow_one]
  exact hx2

/-- The bits found, against the logarithm times their weight. -/
theorem log2Bits_bounds (n : ℕ) : ∀ x acc : ℕ, fx ≤ x → x < 2 * fx →
    (log2Bits n x acc : ℝ) ≤ 2 ^ n * (acc + fxLog x) ∧
      2 ^ n * (acc + fxLog x) ≤ log2Bits n x acc + 1 + (2 ^ n - 1) * (4 * (2 : ℝ) ^ (-320 : ℤ)) := by
  have hunit : (0 : ℝ) < 2 ^ (-320 : ℤ) := by positivity
  induction n with
  | zero =>
    intro x acc h1 h2
    obtain ⟨hlo, hhi⟩ := fxLog_mem h1 h2
    rw [log2Bits, pow_zero]
    constructor <;> linarith
  | succ n ih =>
    intro x acc h1 h2
    have hpow : (0 : ℝ) < 2 ^ n := by positivity
    obtain ⟨hsq, hsq'⟩ := square_bounds h1 h2
    obtain ⟨hlog, hlog'⟩ := fxLog_square h1 h2
    rw [log2Bits, pow_succ]
    split
    next hbig =>
      obtain ⟨hhalf, hhalf'⟩ := fxLog_half hbig
      obtain ⟨hlo, hhi⟩ := ih (x * x / fx / 2) (2 * acc + 1) (by omega) (by omega)
      push_cast at hlo hhi
      constructor <;> nlinarith
    next hsmall =>
      obtain ⟨hlo, hhi⟩ := ih (x * x / fx) (2 * acc) hsq (by omega)
      push_cast at hlo hhi
      constructor <;> nlinarith

/-- A magnitude scaled into [1, 2). -/
theorem log2_start {m : ℕ} (hm : m ≠ 0) (hlt : m < 2 ^ 24) :
    fx ≤ m * fx / 2 ^ Nat.log2 m ∧ m * fx / 2 ^ Nat.log2 m < 2 * fx ∧
      fxLog (m * fx / 2 ^ Nat.log2 m) = Real.logb 2 m - Nat.log2 m := by
  have hS := fx_real_pos
  have hk : Nat.log2 m < 24 := (Nat.log2_lt hm).2 hlt
  have hpow : 0 < 2 ^ Nat.log2 m := by positivity
  have hlo := Nat.log2_self_le hm
  have hhi := Nat.lt_log2_self (n := m)
  have hdvd : 2 ^ Nat.log2 m ∣ m * fx := (pow_dvd_pow 2 (by omega : Nat.log2 m ≤ 320)).mul_left m
  refine ⟨?_, ?_, ?_⟩
  · rw [Nat.le_div_iff_mul_le hpow, mul_comm]
    exact Nat.mul_le_mul_right fx hlo
  · rw [Nat.div_lt_iff_lt_mul hpow, mul_right_comm, ← pow_succ']
    exact Nat.mul_lt_mul_of_pos_right hhi fx_pos
  · have hval : ((m * fx / 2 ^ Nat.log2 m : ℕ) : ℝ) / fx = m / 2 ^ Nat.log2 m := by
      rw [Nat.cast_div hdvd (by positivity)]
      push_cast
      field_simp
    rw [fxLog, hval, Real.logb_div (by exact_mod_cast hm) (by positivity), Real.logb_pow, Real.logb_self_eq_one one_lt_two, mul_one]

theorem realOf_log2X (m : ℕ) (e : ℤ) : Spec.realOf (log2X m e) =
    e + Nat.log2 m + log2Bits 100 (m * fx / 2 ^ Nat.log2 m) 0 * (2 : ℝ) ^ (-100 : ℤ) := by
  rw [log2X, realOf_xOfInt]
  push_cast
  norm_num
  ring

section

variable {m : ℕ} {e : ℤ} (hm : m ≠ 0)

include hm

theorem logb_magnitude : Real.logb 2 (m * (2 : ℝ) ^ e) = Real.logb 2 m + e := by
  rw [Real.logb_mul (by exact_mod_cast hm) (by positivity), ← Real.rpow_intCast, Real.logb_rpow two_pos one_lt_two.ne']

/-- The reference value of LOG2. -/
theorem log2X_near (hlt : m < 2 ^ 24) : |Spec.realOf (log2X m e) - Real.logb 2 (m * (2 : ℝ) ^ e)| ≤ (2 : ℝ) ^ (-99 : ℤ) := by
  obtain ⟨h1, h2, hlog⟩ := log2_start hm hlt
  obtain ⟨hlo, hhi⟩ := log2Bits_bounds 100 _ 0 h1 h2
  rw [hlog, Nat.cast_zero, zero_add] at hlo hhi
  rw [realOf_log2X, logb_magnitude hm]
  generalize (log2Bits 100 (m * fx / 2 ^ Nat.log2 m) 0 : ℝ) = b at *
  have hunit : (2 ^ 100 - 1) * (4 * (2 : ℝ) ^ (-320 : ℤ)) ≤ 1 := by
    have h := two_zpow_le (by norm_num : (-320 : ℤ) ≤ -102)
    refine (mul_le_mul_of_nonneg_left (mul_le_mul_of_nonneg_left h (by norm_num)) (by norm_num)).trans ?_
    norm_num
  replace hhi := hhi.trans (add_le_add le_rfl hunit)
  rw [abs_le]
  norm_num at hlo hhi ⊢
  constructor <;> linarith

theorem log2X_of_pow (hpow : m = 2 ^ Nat.log2 m) : Spec.realOf (log2X m e) = Real.logb 2 (m * (2 : ℝ) ^ e) := by
  have hbits : m * fx / 2 ^ Nat.log2 m = fx := by
    rw [← hpow, Nat.mul_div_cancel_left _ (Nat.pos_of_ne_zero hm)]
  rw [realOf_log2X, logb_magnitude hm, hbits, log2Bits_one, Nat.cast_zero, zero_mul, add_zero]
  conv_rhs => rw [hpow]
  push_cast
  rw [Real.logb_pow, Real.logb_self_eq_one one_lt_two, mul_one, add_comm]

/-- An f32 value that is no power of two is 2^-24 away from 1. -/
theorem away_from_one (hlt : m < 2 ^ 24) (hpow : m ≠ 2 ^ Nat.log2 m) :
    m * (2 : ℝ) ^ e ≤ 1 - 2 ^ (-24 : ℤ) ∨ 1 + (2 : ℝ) ^ (-23 : ℤ) ≤ m * (2 : ℝ) ^ e := by
  have hone : (1 : ℝ) ≤ m := by exact_mod_cast Nat.pos_of_ne_zero hm
  rcases lt_or_ge 0 e with he | he
  · right
    have h := two_zpow_le (by omega : 1 ≤ e)
    norm_num at h ⊢
    nlinarith
  obtain ⟨k, rfl⟩ : ∃ k : ℕ, e = -k := ⟨(-e).toNat, by omega⟩
  have hunit : (0 : ℝ) < 2 ^ (-k : ℤ) := by positivity
  have hscale : (2 : ℝ) ^ k * 2 ^ (-k : ℤ) = 1 := two_pow_mul_zpow (k := -k) (j := 0) (by omega)
  have hne : m ≠ 2 ^ k := by
    rintro rfl
    rw [Nat.log2_two_pow] at hpow
    exact hpow rfl
  rcases Nat.lt_or_gt_of_ne hne with h | h
  · left
    rcases Nat.lt_or_ge 24 k with hk | hk
    · have h1 : (m : ℝ) ≤ 2 ^ 24 := by exact_mod_cast hlt.le
      have h2 := mul_le_mul h1 (two_zpow_le (by omega : (-k : ℤ) ≤ -25)) (by positivity) (by positivity)
      norm_num at h2 ⊢
      linarith
    · have h1 : (m : ℝ) + 1 ≤ 2 ^ k := by exact_mod_cast h
      have h2 := mul_le_mul_of_nonneg_right h1 hunit.le
      have h3 := two_zpow_le (by omega : (-24 : ℤ) ≤ -k)
      linarith
  · right
    have hk : k < 24 := (Nat.pow_lt_pow_iff_right one_lt_two).1 (h.trans hlt)
    have h1 : (2 : ℝ) ^ k + 1 ≤ m := by exact_mod_cast h
    have h2 := mul_le_mul_of_nonneg_right h1 hunit.le
    have h3 := two_zpow_le (by omega : (-23 : ℤ) ≤ -k)
    linarith

/-- So its logarithm is as far from 0. -/
theorem abs_logb_ge (hlt : m < 2 ^ 24) (hpow : m ≠ 2 ^ Nat.log2 m) : (2 : ℝ) ^ (-24 : ℤ) ≤ |Real.logb 2 (m * (2 : ℝ) ^ e)| := by
  have hv0 : 0 < m * (2 : ℝ) ^ e := by
    have : (0 : ℝ) < m := by exact_mod_cast Nat.pos_of_ne_zero hm
    positivity
  have hlog2 : 0 < Real.log 2 ∧ Real.log 2 ≤ 1 := ⟨Real.log_pos one_lt_two, by linarith [Real.log_two_lt_d9]⟩
  have hlog : (2 : ℝ) ^ (-24 : ℤ) ≤ |Real.log (m * (2 : ℝ) ^ e)| := by
    rcases away_from_one (e := e) hm hlt hpow with h | h
    · have := Real.log_le_sub_one_of_pos hv0
      have habs := neg_le_abs (Real.log (m * (2 : ℝ) ^ e))
      linarith
    · have hlow := Real.one_sub_inv_le_log_of_pos hv0
      have hinv : (m * (2 : ℝ) ^ e)⁻¹ ≤ (1 + (2 : ℝ) ^ (-23 : ℤ))⁻¹ := inv_anti₀ (by positivity) h
      have habs := le_abs_self (Real.log (m * (2 : ℝ) ^ e))
      generalize (m : ℝ) * (2 : ℝ) ^ e = v at *
      norm_num at hinv ⊢
      linarith
  rw [Real.logb, abs_div, abs_of_pos hlog2.1, le_div_iff₀ hlog2.1]
  exact (mul_le_of_le_one_right (by positivity) hlog2.2).trans hlog

end

section

variable {w : Word} {neg : Bool} {m : ℕ} {e : ℤ} (hd : decodeF .f32 w.toNat = .fin neg m e) (hm : m ≠ 0)

include hd hm

theorem log2_near (h : 0 < Spec.realOf (.fin neg m e)) :
    NearWord (specialFn 4 w) (Real.logb 2 (Spec.realOf (.fin neg m e))) := by
  obtain ⟨hlt, he1, he2, -⟩ := fin_of_word hd
  have hpos : 0 ≤ (m : ℝ) * 2 ^ e := by positivity
  cases neg
  case true =>
    simp only [realOf_fin, if_true, neg_mul, one_mul] at h
    linarith
  have hv : Spec.realOf (.fin false m e) = m * (2 : ℝ) ^ e := by simp
  have hnear := log2X_near (e := e) hm hlt
  have hbig : |Spec.realOf (log2X m e)| ≤ wideLimit := by
    have h0 : 0 ≤ Real.logb 2 m := Real.logb_nonneg one_lt_two (by exact_mod_cast Nat.pos_of_ne_zero hm)
    have h24 : Real.logb 2 m ≤ 24 := by
      rw [Real.logb_le_iff_le_rpow one_lt_two (by exact_mod_cast Nat.pos_of_ne_zero hm)]
      exact_mod_cast hlt.le
    have he1' : (-149 : ℝ) ≤ e := by exact_mod_cast he1
    have he2' : (e : ℝ) ≤ 104 := by exact_mod_cast he2
    have hlog : |Real.logb 2 (m * (2 : ℝ) ^ e)| ≤ 149 := by
      rw [logb_magnitude hm, abs_le]
      constructor <;> linarith
    have habs := abs_sub_abs_le_abs_sub (Spec.realOf (log2X m e)) (Real.logb 2 (m * (2 : ℝ) ^ e))
    rw [wideLimit]
    norm_num at hnear ⊢
    linarith
  rw [specialFn_log2 hd hm, if_neg Bool.false_ne_true, hv]
  split
  next hpow =>
    refine nearWord_wordX rfl hbig (.of_le (a := 0) ?_ (by positivity))
    rw [log2X_of_pow hm hpow, sub_self, abs_zero]
  next hpow =>
    refine nearWord_boundedWord 4 w rfl hbig (.inr (hnear.trans ?_))
    have h1 := abs_logb_ge (e := e) hm hlt hpow
    have h2 := abs_sub_abs_le_abs_sub (Real.logb 2 (m * (2 : ℝ) ^ e)) (Spec.realOf (log2X m e))
    rw [abs_sub_comm] at h2
    norm_num at *
    linarith

end

end Sys2Proof.Machine

/-! ### The series of sine and cosine -/

namespace Sys2Proof.Machine

open Sys2Proof.Laws

/-- Four terms of the exponential series of an imaginary number at a time: the pair a step of `sinTerms` takes. -/
noncomputable def taylorPair (z : ℝ) (k j : ℕ) : ℝ := taylor z (k + 4 * j) - taylor z (k + 4 * j + 2)

theorem taylor_step (z : ℝ) (k : ℕ) : taylor z (k + 2) = taylor z k * z ^ 2 / ((k + 1) * (k + 2) : ℕ) := by
  rw [taylor_succ, taylor_succ]
  push_cast
  field_simp
  ring

section

variable {t : ℕ} (ht : t ≤ fx)

include ht

theorem TermOf.step {term k : ℕ} (h : TermOf term (taylor (t / fx) k)) :
    TermOf (term * (t * t / fx) / fx / ((k + 1) * (k + 2))) (taylor (t / fx) (k + 2)) := by
  have hS := fx_real_pos
  have hz0 : (0 : ℝ) ≤ t / fx := by positivity
  have hz1 : (t : ℝ) / fx ≤ 1 := by
    rw [div_le_one hS]
    exact_mod_cast ht
  obtain ⟨hlo, hhi⟩ := nat_div_bounds (t * t) fx_pos
  have hsq : ((t * t : ℕ) : ℝ) / fx / fx = (t / fx) ^ 2 := by
    push_cast
    ring
  rw [taylor_step]
  refine h.next (taylor_le hz0 hz1 k) (by positivity) (pow_le_one₀ hz0 hz1) ?_ ?_ (by nlinarith)
  · rw [← hsq]
    exact div_le_div_of_nonneg_right hlo hS.le
  · rw [← hsq, ← add_div]
    exact div_le_div_of_nonneg_right hhi hS.le

theorem step_le (term k : ℕ) : term * (t * t / fx) / fx / ((k + 1) * (k + 2)) ≤ term := by
  have h1 : t * t / fx ≤ fx := (Nat.div_le_div_right (Nat.mul_le_mul ht ht)).trans (by rw [Nat.mul_div_cancel _ fx_pos])
  calc term * (t * t / fx) / fx / ((k + 1) * (k + 2)) ≤ term * (t * t / fx) / fx := Nat.div_le_self ..
    _ ≤ term * fx / fx := Nat.div_le_div_right (Nat.mul_le_mul_left _ h1)
    _ = term := Nat.mul_div_cancel _ fx_pos

theorem sinTerms_near (n : ℕ) : ∀ k term, TermOf term (taylor (t / fx) k) →
    |(sinTerms (t * t / fx) n k term : ℝ) - ∑ j ∈ Finset.range n, taylorPair (t / fx) k j| ≤ 4 * n := by
  induction n with
  | zero => intro k term _; simp [sinTerms]
  | succ n ih =>
    intro k term h
    have hnext := h.step ht
    have hle := step_le ht term k
    have hrest := ih (k + 4) _ (hnext.step ht)
    rw [sinTerms, Finset.sum_range_succ']
    have hshift (j : ℕ) : taylorPair (t / fx) k (j + 1) = taylorPair (t / fx) (k + 4) j := by
      rw [taylorPair, taylorPair, show k + 4 * (j + 1) = k + 4 + 4 * j by ring]
    simp only [hshift]
    generalize term * (t * t / fx) / fx / ((k + 1) * (k + 2)) = next at *
    have hfirst : taylorPair (t / fx) k 0 = taylor (t / fx) k - taylor (t / fx) (k + 2) := rfl
    rw [hfirst, Nat.cast_add, Nat.cast_sub hle]
    obtain ⟨h1, h2⟩ := h
    obtain ⟨h3, h4⟩ := hnext
    rw [abs_le] at hrest ⊢
    push_cast
    constructor <;> linarith

end

theorem taylor_mul_I (z : ℝ) (k : ℕ) :
    (fx : ℂ) * ((z * Complex.I) ^ k / (k.factorial : ℂ)) = taylor z k * Complex.I ^ k := by
  rw [taylor, mul_pow]
  push_cast
  ring

/-- The exponential series of an imaginary number, four terms at a time. -/
theorem exp_mul_I_sum (z : ℝ) (n : ℕ) :
    (fx : ℂ) * ∑ j ∈ Finset.range (4 * n), (z * Complex.I) ^ j / (j.factorial : ℂ) =
      (∑ j ∈ Finset.range n, taylorPair z 0 j : ℝ) + (∑ j ∈ Finset.range n, taylorPair z 1 j : ℝ) * Complex.I := by
  induction n with
  | zero => simp
  | succ n ih =>
    have h0 : Complex.I ^ (4 * n) = 1 := by rw [pow_mul, Complex.I_pow_four, one_pow]
    have h1 : Complex.I ^ (4 * n + 1) = Complex.I := by rw [pow_succ, h0, one_mul]
    have h2 : Complex.I ^ (4 * n + 2) = -1 := by rw [pow_succ, h1, Complex.I_mul_I]
    have h3 : Complex.I ^ (4 * n + 3) = -Complex.I := by rw [pow_succ, h2, neg_one_mul]
    have hpair (k : ℕ) : taylorPair z k n = taylor z (4 * n + k) - taylor z (4 * n + k + 2) := by
      rw [taylorPair, add_comm k]
    rw [show 4 * (n + 1) = 4 * n + 1 + 1 + 1 + 1 by ring]
    simp only [Finset.sum_range_succ, mul_add, ih, Complex.ofReal_add, taylor_mul_I, add_assoc, Nat.reduceAdd, h0, h1, h2, h3, hpair,
      Complex.ofReal_sub, add_zero]
    ring

/-- What `n` terms leave of the exponential of an imaginary number, in units of the fixed point. -/
theorem exp_mul_I_tail {z : ℝ} (h0 : 0 ≤ z) (h1 : z ≤ 1) {n : ℕ} (hn : 0 < n) (hfact : fx * n.succ ≤ n.factorial * n) :
    ‖(fx : ℂ) * Complex.exp (z * Complex.I) - (fx : ℂ) * ∑ j ∈ Finset.range n, (z * Complex.I) ^ j / (j.factorial : ℂ)‖ ≤ 1 := by
  have hS := fx_real_pos
  have hnorm : ‖(z : ℂ) * Complex.I‖ = z := by rw [norm_mul, Complex.norm_I, mul_one, Complex.norm_real, Real.norm_of_nonneg h0]
  have hbound := Complex.exp_bound (hnorm.trans_le h1) hn
  rw [hnorm, ← mul_assoc] at hbound
  have hden : (0 : ℝ) < n.factorial * n := by
    have : 0 < n.factorial * n := Nat.mul_pos n.factorial_pos hn
    exact_mod_cast this
  have hfact' : (fx : ℝ) * n.succ ≤ n.factorial * n := by exact_mod_cast hfact
  rw [← mul_sub, norm_mul, Complex.norm_natCast]
  refine (mul_le_mul_of_nonneg_left hbound hS.le).trans ?_
  rw [← mul_assoc, ← div_eq_mul_inv, div_le_one hden, mul_left_comm]
  exact (mul_le_of_le_one_left (by positivity) (pow_le_one₀ h0 h1)).trans hfact'

/-- So sine and cosine are their sums of 25 pairs, to a unit. -/
theorem pairs_near {z : ℝ} (h0 : 0 ≤ z) (h1 : z ≤ 1) :
    |fx * Real.cos z - ∑ j ∈ Finset.range 25, taylorPair z 0 j| ≤ 1 ∧
      |fx * Real.sin z - ∑ j ∈ Finset.range 25, taylorPair z 1 j| ≤ 1 := by
  have h := exp_mul_I_tail h0 h1 (n := 4 * 25) (by norm_num) (by decide +kernel)
  rw [exp_mul_I_sum] at h
  set w := (fx : ℂ) * Complex.exp (z * Complex.I) - ((∑ j ∈ Finset.range 25, taylorPair z 0 j : ℝ) +
    (∑ j ∈ Finset.range 25, taylorPair z 1 j : ℝ) * Complex.I) with hw
  have hre : w.re = fx * Real.cos z - ∑ j ∈ Finset.range 25, taylorPair z 0 j := by
    rw [hw, ← Complex.ofReal_natCast, Complex.sub_re, Complex.re_ofReal_mul, Complex.exp_ofReal_mul_I_re, Complex.add_re, Complex.ofReal_re, Complex.re_ofReal_mul,
      Complex.I_re, mul_zero, add_zero]
  have him : w.im = fx * Real.sin z - ∑ j ∈ Finset.range 25, taylorPair z 1 j := by
    rw [hw, ← Complex.ofReal_natCast, Complex.sub_im, Complex.im_ofReal_mul, Complex.exp_ofReal_mul_I_im, Complex.add_im, Complex.ofReal_im, Complex.im_ofReal_mul,
      Complex.I_im, mul_one, zero_add]
  exact ⟨hre ▸ (Complex.abs_re_le_norm w).trans h, him ▸ (Complex.abs_im_le_norm w).trans h⟩

theorem fxSinCos_near {t : ℕ} (ht : t ≤ fx) : |(fxCos t : ℝ) / fx - Real.cos (t / fx)| ≤ (2 : ℝ) ^ (-313 : ℤ) ∧
    |(fxSin t : ℝ) / fx - Real.sin (t / fx)| ≤ (2 : ℝ) ^ (-313 : ℤ) := by
  have hS := fx_real_pos
  have hz1 : (t : ℝ) / fx ≤ 1 := by
    rw [div_le_one hS]
    exact_mod_cast ht
  obtain ⟨hcos, hsin⟩ := pairs_near (by positivity) hz1
  have hunit : (2 : ℝ) ^ (-313 : ℤ) = 2 ^ 7 / fx := by
    rw [← mul_one_div, fx_inv]
    exact (two_pow_mul_zpow (by norm_num)).symm
  have hclose {a s x : ℝ} (h1 : |a - s| ≤ 4 * (25 : ℕ)) (h2 : |fx * x - s| ≤ 1) : |a / fx - x| ≤ (2 : ℝ) ^ (-313 : ℤ) := by
    have hdiv : a / fx - x = (a - fx * x) / fx := by rw [sub_div, mul_div_cancel_left₀ _ hS.ne']
    rw [hdiv, abs_div, abs_of_pos hS, hunit, div_le_div_iff_of_pos_right hS]
    rw [abs_sub_comm] at h2
    refine (abs_sub_le a s _).trans ((add_le_add h1 h2).trans ?_)
    norm_num
  constructor
  · refine hclose (sinTerms_near ht 25 0 fx ?_) hcos
    rw [taylor_zero]
    exact ⟨le_rfl, by linarith⟩
  · refine hclose (sinTerms_near ht 25 1 t ?_) hsin
    rw [taylor_one]
    exact ⟨le_rfl, by linarith⟩

end Sys2Proof.Machine

/-! ### The circle constant to 320 bits, by Machin's formula -/

namespace Sys2Proof.Machine

open Sys2Proof.Laws

/-- The first terms of the series of arctan (1 / q). -/
def atanSum (q : ℕ) : ℕ → ℚ
  | 0 => 0
  | n + 1 => atanSum q n + (if n % 2 = 0 then 1 else -1) / ((2 * n + 1) * q ^ (2 * n + 1) : ℕ)

/-- The magnitude of a term of that series. -/
noncomputable def atanTerm (q i : ℕ) : ℝ := 1 / ((2 * i + 1) * q ^ (2 * i + 1) : ℕ)

theorem atanSum_eq (q n : ℕ) : (atanSum q n : ℝ) = ∑ i ∈ Finset.range n, (-1) ^ i * atanTerm q i := by
  induction n with
  | zero => simp [atanSum]
  | succ n ih =>
    have hsign : (((if n % 2 = 0 then 1 else -1 : ℚ)) : ℝ) = (-1) ^ n := by
      split
      next h => rw [Even.neg_one_pow (Nat.even_iff.2 h), Rat.cast_one]
      next h => rw [Odd.neg_one_pow (Nat.odd_iff.2 (by omega))]; norm_num
    rw [Finset.sum_range_succ, ← ih, atanSum, Rat.cast_add, Rat.cast_div, hsign, Rat.cast_natCast, atanTerm, mul_one_div]

section

variable {q : ℕ} (hq : 1 < q)

include hq

theorem atanTerm_antitone : Antitone (atanTerm q) := by
  refine antitone_nat_of_succ_le fun i => ?_
  unfold atanTerm
  have hpos : 0 < (2 * i + 1) * q ^ (2 * i + 1) := by positivity
  have hle : (2 * i + 1) * q ^ (2 * i + 1) ≤ (2 * (i + 1) + 1) * q ^ (2 * (i + 1) + 1) :=
    Nat.mul_le_mul (by omega) (Nat.pow_le_pow_right (by omega) (by omega))
  exact one_div_le_one_div_of_le (by exact_mod_cast hpos) (by exact_mod_cast hle)

theorem tendsto_atanSum : Filter.Tendsto (fun n => ∑ i ∈ Finset.range n, (-1) ^ i * atanTerm q i) Filter.atTop
    (nhds (Real.arctan (q : ℝ)⁻¹)) := by
  have hq' : (1 : ℝ) < q := by exact_mod_cast hq
  have hlt : ‖((q : ℝ))⁻¹‖ < 1 := by
    rw [Real.norm_of_nonneg (by positivity)]
    exact inv_lt_one_of_one_lt₀ hq'
  have h := (Real.hasSum_arctan hlt).tendsto_sum_nat
  refine h.congr fun n => Finset.sum_congr rfl fun i _ => ?_
  rw [atanTerm]
  push_cast
  rw [inv_pow]
  field_simp

theorem atanSum_even_le (k : ℕ) : (atanSum q (2 * k) : ℝ) ≤ Real.arctan (q : ℝ)⁻¹ :=
  atanSum_eq q _ ▸ (atanTerm_antitone hq).alternating_series_le_tendsto (tendsto_atanSum hq) k

theorem le_atanSum_odd (k : ℕ) : Real.arctan (q : ℝ)⁻¹ ≤ atanSum q (2 * k + 1) :=
  atanSum_eq q _ ▸ (atanTerm_antitone hq).tendsto_le_alternating_series (tendsto_atanSum hq) k

end

theorem two_pi_eq : 2 * Real.pi = 32 * Real.arctan ((5 : ℕ) : ℝ)⁻¹ - 8 * Real.arctan ((239 : ℕ) : ℝ)⁻¹ := by
  have := Real.four_mul_arctan_inv_5_sub_arctan_inv_239
  push_cast
  linarith

theorem fxTwoPi_lower : (fxTwoPi : ℚ) ≤ (32 * atanSum 5 (2 * 36) - 8 * atanSum 239 (2 * 11 + 1)) * fx := by decide +kernel

theorem fxTwoPi_upper : (32 * atanSum 5 (2 * 36 + 1) - 8 * atanSum 239 (2 * 11)) * fx ≤ (fxTwoPi : ℚ) + 1 := by decide +kernel

/-- 2π is given to a unit. -/
theorem fxTwoPi_near : |2 * Real.pi - (fxTwoPi : ℝ) / fx| ≤ (2 : ℝ) ^ (-320 : ℤ) := by
  have hS := fx_real_pos
  have hlo : ((fxTwoPi : ℚ) : ℝ) ≤ ((32 * atanSum 5 (2 * 36) - 8 * atanSum 239 (2 * 11 + 1)) * fx : ℚ) :=
    Rat.cast_le.2 fxTwoPi_lower
  have hhi : (((32 * atanSum 5 (2 * 36 + 1) - 8 * atanSum 239 (2 * 11)) * fx : ℚ) : ℝ) ≤ ((fxTwoPi : ℚ) + 1 : ℚ) :=
    Rat.cast_le.2 fxTwoPi_upper
  rw [Rat.cast_mul, Rat.cast_sub, Rat.cast_mul, Rat.cast_mul, Rat.cast_natCast, Rat.cast_ofNat, Rat.cast_ofNat] at hlo hhi
  rw [Rat.cast_natCast, ← div_le_iff₀ hS] at hlo
  rw [Rat.cast_add, Rat.cast_natCast, Rat.cast_one, ← le_div_iff₀ hS, add_div, fx_inv] at hhi
  have h1 := atanSum_even_le (by norm_num : 1 < 5) 36
  have h2 := le_atanSum_odd (by norm_num : 1 < 5) 36
  have h3 := atanSum_even_le (by norm_num : 1 < 239) 11
  have h4 := le_atanSum_odd (by norm_num : 1 < 239) 11
  rw [two_pi_eq, abs_le]
  have : (0 : ℝ) ≤ 2 ^ (-320 : ℤ) := by positivity
  constructor <;> linarith

/-- So is its inverse, to little more than one. -/
theorem fxInvTwoPi_near : |(fxInvTwoPi : ℝ) / fx - 1 / (2 * Real.pi)| ≤ 9 / 8 * (2 : ℝ) ^ (-320 : ℤ) := by
  have hS := fx_real_pos
  have h := fxTwoPi_near
  have hpi := Real.pi_gt_d2
  have hprod1 : (fxInvTwoPi : ℝ) * fxTwoPi ≤ fx * fx := by
    have : fxInvTwoPi * fxTwoPi ≤ fx * fx := by decide +kernel
    exact_mod_cast this
  have hprod2 : 2 * (fx * fx : ℝ) ≤ 2 * (fxInvTwoPi * fxTwoPi) + 13 * fx := by
    have : 2 * (fx * fx) ≤ 2 * (fxInvTwoPi * fxTwoPi) + 13 * fx := by decide +kernel
    exact_mod_cast this
  have hquarter : (fxInvTwoPi : ℝ) / fx ≤ 1 / 4 := by
    have : 4 * fxInvTwoPi ≤ fx := by decide +kernel
    have : (4 * fxInvTwoPi : ℝ) ≤ fx := by exact_mod_cast this
    rw [div_le_iff₀ hS]
    linarith
  have hnonneg : (0 : ℝ) ≤ fxInvTwoPi / fx := by positivity
  have hmul1 : (fxInvTwoPi : ℝ) / fx * (fxTwoPi / fx) ≤ 1 := by
    rw [div_mul_div_comm, div_le_one (by positivity)]
    exact hprod1
  have hmul2 : 1 ≤ (fxInvTwoPi : ℝ) / fx * (fxTwoPi / fx) + 13 / 2 * (1 / fx) := by
    field_simp
    linarith
  rw [fx_inv] at hmul2
  have hdiff : (fxInvTwoPi : ℝ) / fx - 1 / (2 * Real.pi) = (fxInvTwoPi / fx * (2 * Real.pi) - 1) / (2 * Real.pi) := by
    field_simp
  rw [hdiff, abs_div, abs_of_pos (by linarith : 0 < 2 * Real.pi), div_le_iff₀ (by linarith)]
  generalize (fxInvTwoPi : ℝ) / fx = i at *
  generalize (fxTwoPi : ℝ) / fx = p at *
  generalize (2 : ℝ) ^ (-320 : ℤ) = u at *
  have hu : 0 ≤ u := (abs_nonneg _).trans h
  have herr : |i * (2 * Real.pi - p)| ≤ 1 / 4 * u := by
    rw [abs_mul, abs_of_nonneg hnonneg]
    exact mul_le_mul hquarter h (abs_nonneg _) (by norm_num)
  obtain ⟨h1, h2⟩ := abs_le.1 herr
  have hbound : |i * (2 * Real.pi) - 1| ≤ 27 / 4 * u := by
    rw [abs_le]
    constructor <;> linarith
  nlinarith

end Sys2Proof.Machine

/-! ### SIN and COS of every finite value (R43) -/

namespace Sys2Proof.Machine

open Sys2Proof.Laws

/-- The angle of a fixed-point part of a turn. -/
noncomputable def angle (r : ℕ) : ℝ := 2 * Real.pi * (r / fx)

/-- Sine and cosine, as fixed-point numbers, of an angle in the first quarter: past an eighth of a turn they change places. -/
def quarterPair (r : ℕ) : ℕ × ℕ :=
  if 8 * r ≤ fx then (fxSin (r * fxTwoPi / fx), fxCos (r * fxTwoPi / fx))
  else (fxCos ((fx / 4 - r) * fxTwoPi / fx), fxSin ((fx / 4 - r) * fxTwoPi / fx))

/-- The part of a turn that an angle is. -/
def turnOf (m : ℕ) (e : ℤ) : ℕ := m * fxInvTwoPi * 2 ^ e.toNat / 2 ^ (-e).toNat

/-- A pair of fixed-point numbers is the sine and cosine of an angle. -/
def SinCosOf (p : ℤ × ℤ) (θ : ℝ) : Prop := |(p.1 : ℝ) / fx - Real.sin θ| ≤ (2 : ℝ) ^ (-312 : ℤ) ∧
  |(p.2 : ℝ) / fx - Real.cos θ| ≤ (2 : ℝ) ^ (-312 : ℤ)

theorem eighth_near {r : ℕ} (hr : 8 * r ≤ fx) :
    SinCosOf ((fxSin (r * fxTwoPi / fx) : ℕ), (fxCos (r * fxTwoPi / fx) : ℕ)) (angle r) := by
  have hS := fx_real_pos
  have hq : r * fxTwoPi / fx ≤ fx := by
    have h8 : fxTwoPi ≤ 8 * fx := by decide +kernel
    rw [Nat.div_le_iff_le_mul_add_pred fx_pos]
    nlinarith
  have hr1 : (r : ℝ) / fx ≤ 1 := by
    rw [div_le_one hS]
    exact_mod_cast (by omega : r ≤ fx)
  have hangle : |((r * fxTwoPi / fx : ℕ) : ℝ) / fx - angle r| ≤ 2 * (2 : ℝ) ^ (-320 : ℤ) := by
    have hfloor := fixed_div (r * fxTwoPi) fx_pos
    have hpi : |((r * fxTwoPi : ℕ) : ℝ) / fx / fx - angle r| ≤ (2 : ℝ) ^ (-320 : ℤ) := by
      have heq : ((r * fxTwoPi : ℕ) : ℝ) / fx / fx - angle r = -(r / fx * (2 * Real.pi - fxTwoPi / fx)) := by
        rw [angle]
        push_cast
        ring
      rw [heq, abs_neg, abs_mul, abs_of_nonneg (by positivity)]
      exact (mul_le_of_le_one_left (abs_nonneg _) hr1).trans fxTwoPi_near
    refine (abs_sub_le _ _ _).trans ((add_le_add hfloor hpi).trans ?_)
    linarith
  obtain ⟨hcos, hsin⟩ := fxSinCos_near hq
  have h1 : (2 : ℝ) ^ (-313 : ℤ) + 2 * 2 ^ (-320 : ℤ) ≤ 2 ^ (-312 : ℤ) := by
    have h1 : (2 : ℝ) ^ (-313 : ℤ) = 2 ^ 7 * 2 ^ (-320 : ℤ) := (two_pow_mul_zpow (by norm_num)).symm
    have h2 : (2 : ℝ) ^ (-312 : ℤ) = 2 ^ 8 * 2 ^ (-320 : ℤ) := (two_pow_mul_zpow (by norm_num)).symm
    have h3 : (0 : ℝ) < 2 ^ (-320 : ℤ) := by positivity
    rw [h1, h2]
    linarith
  constructor
  · exact (abs_sub_le _ _ _).trans ((add_le_add hsin ((Real.abs_sin_sub_sin_le _ _).trans hangle)).trans h1)
  · exact (abs_sub_le _ _ _).trans ((add_le_add hcos ((Real.abs_cos_sub_cos_le _ _).trans hangle)).trans h1)

theorem fx_quarter : fx / 4 * 4 = fx := Nat.div_mul_cancel (by decide +kernel)

theorem angle_quarter : angle (fx / 4) = Real.pi / 2 := by
  have hS := fx_real_pos
  have h : ((fx / 4 : ℕ) : ℝ) * 4 = fx := by exact_mod_cast fx_quarter
  have : ((fx / 4 : ℕ) : ℝ) / fx = 1 / 4 := by
    rw [div_eq_iff hS.ne']
    linarith
  rw [angle, this]
  ring

theorem angle_sub {a b : ℕ} (h : b ≤ a) : angle (a - b) = angle a - angle b := by
  rw [angle, angle, angle, Nat.cast_sub h]
  ring

theorem quarter_near {r : ℕ} (hr : r ≤ fx / 4) : SinCosOf ((quarterPair r).1, (quarterPair r).2) (angle r) := by
  unfold quarterPair
  split
  next h => exact eighth_near h
  next h =>
    obtain ⟨hsin, hcos⟩ := eighth_near (r := fx / 4 - r) (by have := fx_quarter; omega)
    rw [angle_sub hr, angle_quarter] at hsin hcos
    rw [Real.sin_pi_div_two_sub] at hsin
    rw [Real.cos_pi_div_two_sub] at hcos
    exact ⟨hcos, hsin⟩

/-- A quarter of a turn on, the sine is the cosine, and the cosine the sine's negative. -/
theorem SinCosOf.turn {a b : ℤ} {θ : ℝ} (h : SinCosOf (a, b) θ) : SinCosOf (b, -a) (θ + Real.pi / 2) := by
  obtain ⟨h1, h2⟩ := h
  refine ⟨by rwa [Real.sin_add_pi_div_two], ?_⟩
  rw [Real.cos_add_pi_div_two]
  push_cast
  rwa [neg_div, neg_sub_neg, abs_sub_comm]

/-- The pair, `k` quarters of a turn on. -/
def turned : ℕ → ℤ × ℤ → ℤ × ℤ
  | 0, p => p
  | k + 1, p => ((turned k p).2, -(turned k p).1)

theorem SinCosOf.turned {p : ℤ × ℤ} {θ : ℝ} (h : SinCosOf p θ) (k : ℕ) : SinCosOf (turned k p) (θ + k * (Real.pi / 2)) := by
  induction k with
  | zero => simpa [Machine.turned] using h
  | succ k ih =>
    have hθ : θ + ((k + 1 : ℕ) : ℝ) * (Real.pi / 2) = θ + k * (Real.pi / 2) + Real.pi / 2 := by
      push_cast
      ring
    rw [hθ, Machine.turned]
    exact ih.turn

/-- The pair of a part of a turn: that of the rest within its quarter, turned by the quarters before. -/
def turnPair (t : ℕ) : ℤ × ℤ :=
  turned (4 * t / fx) ((quarterPair (t - 4 * t / fx * fx / 4)).1, (quarterPair (t - 4 * t / fx * fx / 4)).2)

theorem lt_four_cases {k : ℕ} (h : k < 4) : k = 0 ∨ k = 1 ∨ k = 2 ∨ k = 3 := by omega

/-- Stated of the functions, not of their values: the kernel unfolds the one to the other only where neither is applied. -/
theorem sinCosX_eq : sinCosX = fun m e => turnPair (turnOf m e % fx) := by
  delta sinCosX
  funext m e
  extract_lets +onlyGivenNames t k r
  have ht : t < fx := Nat.mod_lt _ fx_pos
  have hk : k < 4 := Nat.div_lt_of_lt_mul (mul_comm 4 t ▸ Nat.mul_lt_mul_of_pos_right ht (by norm_num))
  have hright : turnPair (turnOf m e % fx) = turned k ((quarterPair r).1, (quarterPair r).2) := rfl
  rw [hright, quarterPair]
  by_cases hr : 8 * r ≤ fx
  · rw [if_pos hr]
    rcases lt_four_cases hk with h | h | h | h <;> rw [h] <;> simp only [turned, neg_neg]
  · rw [if_neg hr]
    rcases lt_four_cases hk with h | h | h | h <;> rw [h] <;> simp only [turned, neg_neg]

theorem sinCosX_near (m : ℕ) (e : ℤ) : SinCosOf (sinCosX m e) (angle (turnOf m e % fx)) := by
  have hS := fx_real_pos
  have hfx := fx_quarter
  have hpos := fx_pos
  set t := turnOf m e % fx with ht
  have hlt : t < fx := Nat.mod_lt _ fx_pos
  set k := 4 * t / fx with hk
  have hk4 : k < 4 := (Nat.div_lt_iff_lt_mul fx_pos).2 (by omega)
  have hlow : k * fx ≤ 4 * t := Nat.div_mul_le_self ..
  have hhigh : 4 * t < k * fx + fx := Nat.lt_div_mul_add fx_pos
  have hquarters : k * fx / 4 = k * (fx / 4) := Nat.mul_div_assoc k (by decide +kernel)
  have hle : k * (fx / 4) ≤ t := by nlinarith
  have hrest : t - k * (fx / 4) ≤ fx / 4 := by
    rw [Nat.sub_le_iff_le_add]
    nlinarith
  have hangle : angle t = angle (t - k * (fx / 4)) + k * (Real.pi / 2) := by
    rw [angle_sub hle, ← angle_quarter, angle, angle, angle, Nat.cast_mul]
    ring
  rw [sinCosX_eq]
  dsimp only
  rw [turnPair, ← ht, ← hk, hquarters, hangle]
  exact (quarter_near hrest).turned k

/-- The angle, against the value: whole turns are dropped, and the part of a turn is given to 2^-192. -/
theorem angle_near {m : ℕ} {e : ℤ} (hm : m < 2 ^ 24) (he : e ≤ 104) : ∃ n : ℤ,
    |m * (2 : ℝ) ^ e - (angle (turnOf m e % fx) + n * (2 * Real.pi))| ≤ 29 / 4 * (2 : ℝ) ^ (-192 : ℤ) := by
  have hS := fx_real_pos
  have hpi := Real.pi_lt_d2
  have hpi0 := Real.pi_pos
  set v := (m : ℝ) * (2 : ℝ) ^ e with hv
  have hv0 : 0 ≤ v := by positivity
  have hvle : v ≤ 2 ^ 128 := by
    have h1 : (m : ℝ) ≤ 2 ^ 24 := by exact_mod_cast hm.le
    have h2 := mul_le_mul h1 (two_zpow_le he) (by positivity) (by positivity)
    refine h2.trans (le_of_eq ?_)
    norm_num
  have hturn : |(turnOf m e : ℝ) / fx - v * (fxInvTwoPi / fx)| ≤ (2 : ℝ) ^ (-320 : ℤ) := by
    have h := fixed_div (m * fxInvTwoPi * 2 ^ e.toNat) (show 0 < 2 ^ (-e).toNat by positivity)
    have hval : ((m * fxInvTwoPi * 2 ^ e.toNat : ℕ) : ℝ) / ((2 ^ (-e).toNat : ℕ) : ℝ) / fx = v * (fxInvTwoPi / fx) := by
      have hpow : (2 : ℝ) ^ e = 2 ^ e.toNat / 2 ^ (-e).toNat := by
        rw [← zpow_natCast, ← zpow_natCast, ← zpow_sub₀ two_ne_zero]
        congr 1
        omega
      rw [hv, hpow]
      push_cast
      ring
    rwa [hval] at h
  have hinv : |v * (fxInvTwoPi / fx) - v * (1 / (2 * Real.pi))| ≤ 9 / 8 * (2 : ℝ) ^ (-192 : ℤ) := by
    rw [← mul_sub, abs_mul, abs_of_nonneg hv0]
    have h := mul_le_mul hvle fxInvTwoPi_near (abs_nonneg _) (by positivity)
    have h1 : (2 : ℝ) ^ (-192 : ℤ) = 2 ^ 128 * 2 ^ (-320 : ℤ) := (two_pow_mul_zpow (by norm_num)).symm
    rw [h1]
    linarith
  have hsplit : (turnOf m e : ℝ) / fx = (turnOf m e / fx : ℕ) + (turnOf m e % fx : ℕ) / fx := by
    have h : (turnOf m e : ℝ) = (turnOf m e / fx : ℕ) * fx + (turnOf m e % fx : ℕ) := by
      exact_mod_cast (Nat.div_add_mod' (turnOf m e) fx).symm
    rw [h, add_div, mul_div_cancel_right₀ _ hS.ne']
  refine ⟨(turnOf m e / fx : ℕ), ?_⟩
  have hgoal : v - (angle (turnOf m e % fx) + ((turnOf m e / fx : ℕ) : ℤ) * (2 * Real.pi)) =
      -(2 * Real.pi * ((turnOf m e : ℝ) / fx - v * (1 / (2 * Real.pi)))) := by
    rw [hsplit, angle, Int.cast_natCast]
    field_simp
    ring
  have hsum := (abs_sub_le _ _ _).trans (add_le_add hturn hinv)
  have hunit := two_zpow_le (by norm_num : (-320 : ℤ) ≤ -202)
  have hscale : (2 : ℝ) ^ (-192 : ℤ) = 2 ^ 10 * 2 ^ (-202 : ℤ) := (two_pow_mul_zpow (by norm_num)).symm
  have hpos : (0 : ℝ) < 2 ^ (-202 : ℤ) := by positivity
  rw [hgoal, abs_neg, abs_mul, abs_of_pos (by positivity : 0 < 2 * Real.pi)]
  have h2pi : 2 * Real.pi ≤ 63 / 10 := by linarith
  refine (mul_le_mul h2pi (hsum.trans (add_le_add hunit le_rfl)) (abs_nonneg _) (by norm_num)).trans ?_
  rw [hscale]
  linarith

end Sys2Proof.Machine

/-! ### The accuracy of the special functions (R43) -/

namespace Sys2Proof.Machine

open Sys2Proof.Laws

/-- The model's pair is the sine and cosine of an f32 magnitude, to 2^-189. -/
theorem sinCosX_magnitude {m : ℕ} {e : ℤ} (hm : m < 2 ^ 24) (he : e ≤ 104) :
    |((sinCosX m e).1 : ℝ) / fx - Real.sin (m * (2 : ℝ) ^ e)| ≤ (2 : ℝ) ^ (-189 : ℤ) ∧
      |((sinCosX m e).2 : ℝ) / fx - Real.cos (m * (2 : ℝ) ^ e)| ≤ (2 : ℝ) ^ (-189 : ℤ) := by
  obtain ⟨n, hn⟩ := angle_near hm he
  obtain ⟨hsin, hcos⟩ := sinCosX_near m e
  have hsum : (2 : ℝ) ^ (-312 : ℤ) + 29 / 4 * 2 ^ (-192 : ℤ) ≤ 2 ^ (-189 : ℤ) := by
    have h1 := two_zpow_le (by norm_num : (-312 : ℤ) ≤ -194)
    refine (add_le_add h1 le_rfl).trans ?_
    norm_num
  rw [abs_sub_comm] at hn
  constructor
  · rw [← Real.sin_add_int_mul_two_pi _ n] at hsin
    exact (abs_sub_le _ _ _).trans ((add_le_add hsin ((Real.abs_sin_sub_sin_le _ _).trans hn)).trans hsum)
  · rw [← Real.cos_add_int_mul_two_pi _ n] at hcos
    exact (abs_sub_le _ _ _).trans ((add_le_add hcos ((Real.abs_cos_sub_cos_le _ _).trans hn)).trans hsum)

section

variable {w : Word} {neg : Bool} {m : ℕ} {e : ℤ} (hd : decodeF .f32 w.toNat = .fin neg m e) (hm : m ≠ 0)

include hd hm

theorem sin_near : NearWord (specialFn 5 w) (Real.sin (Spec.realOf (.fin neg m e))) := by
  obtain ⟨hlt, -, he, -⟩ := fin_of_word hd
  have h := (sinCosX_magnitude hlt he).1
  rw [specialFn_sin hd hm]
  refine xval_near 5 w rfl (Real.abs_sin_le_one _) ?_
  rw [realOf_xOfInt, scaled_eq]
  cases neg
  · simpa using h
  · simp only [realOf_fin, if_true, neg_mul, one_mul, Real.sin_neg]
    rwa [Int.cast_neg, neg_div, neg_sub_neg, abs_sub_comm]

theorem cos_near : NearWord (specialFn 6 w) (Real.cos (Spec.realOf (.fin neg m e))) := by
  obtain ⟨hlt, -, he, -⟩ := fin_of_word hd
  have h := (sinCosX_magnitude hlt he).2
  rw [specialFn_cos hd hm]
  refine xval_near 6 w rfl (Real.abs_cos_le_one _) ?_
  rw [realOf_xOfInt, scaled_eq]
  cases neg
  · simpa using h
  · simpa only [realOf_fin, if_true, neg_mul, one_mul, Real.cos_neg] using h

end

/-- Settles O7: each reference value lies far closer to the exact one than a 2^40th of an ulp (`Close`), by error bounds for the
fixed-point series of the exponential, of sine and cosine and for the bits of the logarithm, with ln 2 from the model's own series
and 2π by Machin's formula; and the model takes a word only within 2 ulp of its reference value. -/
theorem specialFunctionAccuracy : Obligations.SpecialFunctionAccuracy := by
  intro w neg m e hd hm
  exact ⟨fun h => exp2_near hd hm h, fun h => log2_near hd hm h, sin_near hd hm, cos_near hd hm, tanh_near hd hm, sigm_near hd hm⟩

end Sys2Proof.Machine

/-! ### Every step keeps the invariant (R64, R346, R361) -/

namespace Sys2Proof.Laws

open Sys2Proof.Machine

/-! #### Memory in canonical form -/

theorem Memory.wf_foldl_write {α : Type} (ks : List α) (addr : α → Nat) (byte : α → Byte) {m : List Host.Cell}
    (h : Memory.wf m = true) : Memory.wf (ks.foldl (fun m k => Memory.write m (addr k) (byte k)) m) = true := by
  induction ks generalizing m with
  | nil => exact h
  | cons k ks ih => exact ih (Memory.wf_write _ _ h)

theorem smWfFrom_filter {α : Type} [DecidableEq α] {d : α} (p : Nat × α → Bool) {m : SMap α} :
    ∀ {lo : Option Nat}, smWfFrom d lo m = true → smWfFrom d lo (m.filter p) = true := by
  induction m with
  | nil => exact fun h => h
  | cons e m ih =>
    obtain ⟨k, v⟩ := e
    intro lo h
    obtain ⟨hlo, hv, hm⟩ := (smWfFrom_cons d lo k v m).1 h
    rw [List.filter_cons]
    split
    · exact (smWfFrom_cons _ _ _ _ _).2 ⟨hlo, hv, ih hm⟩
    · cases lo with
      | none => exact ih (smWfFrom_none hm)
      | some l => exact ih (smWfFrom_mono (Nat.le_of_lt (hlo l rfl)) hm)

theorem Memory.wf_dropRange {m : List Host.Cell} (a n : Nat) (h : Memory.wf m = true) :
    Memory.wf (dropRange m a n) = true := smWfFrom_filter _ h

end Sys2Proof.Laws

namespace Sys2Proof.Machine

/-- Where a step answers a next state, the invariant holds of it. -/
def NextInv (o : Host.Outcome State Fault Refusal) : Prop := ∀ t, o = .next t → Spec.Inv t

theorem NextInv.next {t : State} (h : Spec.Inv t) : NextInv (.next t) := fun _ e => by cases e; exact h

theorem NextInv.fault {f : Fault} : NextInv (.fault f) := fun _ e => by cases e

end Sys2Proof.Machine

namespace Sys2Proof.Spec.Inv

open Sys2Proof.Machine Sys2Proof.Laws

-- Hundreds of short proofs in a row: one after the other, they do not hold a thread each.
set_option Elab.async false

variable {s : State}

/-! #### What the invariant depends on -/

theorem mem (h : Inv s) : Memory.wf s.mem = true := h.1

/-- Nothing but memory, the feature mask and STAGE matters. -/
theorem rest {t : State} (h : Inv s)
    (e : (t.mem, t.feat, t.boot.stage) = (s.mem, s.feat, s.boot.stage) := by rfl) : Inv t := by
  obtain ⟨hmem, hfeat, hstage⟩ := h
  obtain ⟨emem, efeat, estage⟩ : t.mem = s.mem ∧ t.feat = s.feat ∧ t.boot.stage = s.boot.stage := by
    simpa only [Prod.mk.injEq] using e
  exact ⟨emem ▸ hmem, efeat.trans hfeat, estage ▸ hstage⟩

theorem setFab (h : Inv s) (f : Fabric) : Inv { s with fab := f } := h.rest

theorem setFabHub (h : Inv s) (f : Fabric) (g : Hub) : Inv { s with fab := f, hub := g } := h.rest

theorem setMem {t : State} (h : Inv s) (hm : Memory.wf t.mem = true)
    (e : (t.feat, t.boot.stage) = (s.feat, s.boot.stage) := by rfl) : Inv t :=
  rest (s := { s with mem := t.mem }) ⟨hm, h.2⟩ (by rw [Prod.mk.injEq]; exact ⟨rfl, e⟩)

theorem writeMem {t : State} (h : Inv s) (a : Nat) (bs : List Byte)
    (e : (t.mem, t.feat, t.boot.stage) = (Memory.writeN s.mem a bs, s.feat, s.boot.stage) := by rfl) : Inv t :=
  rest (s := { s with mem := Memory.writeN s.mem a bs }) ⟨Memory.wf_writeN a bs h.mem, h.2⟩ e

theorem setStage {t : State} (h : Inv s) (hs : t.boot.stage.toNat ≤ 2)
    (e : (t.mem, t.feat) = (s.mem, s.feat) := by rfl) : Inv t := by
  obtain ⟨hmem, hfeat, -⟩ := h
  obtain ⟨emem, efeat⟩ : t.mem = s.mem ∧ t.feat = s.feat := by simpa only [Prod.mk.injEq] using e
  exact ⟨emem ▸ hmem, efeat.trans hfeat, hs⟩

theorem of_translationOnly {t : State} (h : Inv s) (ht : Spec.TranslationOnly s t) : Inv t := by
  rw [ht.rest]
  exact h

theorem of_hubStep {α : Type} {f : State → State × α} (h : Inv s) (hf : HubStep f) : Inv (f s).1 := by
  have hl : LooksUp s (f s).1 := (hf s s (WritesAlike.refl s)).2.2
  rw [hl]
  exact h

/-! #### The model's ways to put states together -/

theorem of_eq {α : Type} {p : State × α} {t : State} {a : α} (h : Inv p.1) (e : p = (t, a)) : Inv t := by
  rw [e] at h
  exact h

theorem of_eq_snd {α : Type} {p : α × State} {t : State} {a : α} (h : Inv p.2) (e : p = (a, t)) : Inv t := by
  rw [e] at h
  exact h

theorem ite {c : Prop} [Decidable c] {t u : State} (ht : Inv t) (hu : Inv u) : Inv (if c then t else u) := by
  split
  · exact ht
  · exact hu

theorem fst_ite {α : Type} {c : Prop} [Decidable c] {p q : State × α} (hp : Inv p.1) (hq : Inv q.1) :
    Inv (if c then p else q).1 := by
  split
  · exact hp
  · exact hq

theorem foldl {α : Type} {f : State → α → State} (h : Inv s) (hf : ∀ u a, Inv u → Inv (f u a)) (l : List α) :
    Inv (l.foldl f s) := by
  induction l generalizing s with
  | nil => exact h
  | cons a l ih => exact ih (hf _ _ h)

theorem foldl_fst {α β : Type} {f : State × β → α → State × β} (hf : ∀ r a, Inv r.1 → Inv (f r a).1) (l : List α)
    {r : State × β} (h : Inv r.1) : Inv (l.foldl f r).1 := by
  induction l generalizing r with
  | nil => exact h
  | cons a l ih => exact ih (hf _ _ h)


/-! #### Named operations on the state and trap entry (R4, R273) -/

theorem setCore (h : Inv s) (c : Nat) (k : Core) : Inv (s.setCore c k) := h.rest

theorem modCore (h : Inv s) (c : Nat) (f : Core → Core) : Inv (s.modCore c f) := h.setCore _ _

theorem setWarp (h : Inv s) (c w : Nat) (x : Warp) : Inv (s.setWarp c w x) := h.modCore _ _

theorem modWarp (h : Inv s) (c w : Nat) (f : Warp → Warp) : Inv (s.modWarp c w f) := by
  unfold State.modWarp
  split
  · exact h.setWarp _ _ _
  · exact h

theorem modTeam (h : Inv s) (c t : Nat) (f : Team → Team) : Inv (s.modTeam c t f) := by
  unfold State.modTeam
  split
  · exact h.modCore _ _
  · exact h

theorem modSplit (h : Inv s) (x : Who) (f : Split → Split) : Inv (s.modSplit x f) := h.modWarp _ _ _

theorem withCtx {k : Ctx → State} (hk : ∀ a, Inv (k a)) : NextInv (s.withCtx k) := by
  unfold State.withCtx
  split
  · exact .next (hk _)
  · exact .fault

theorem modHub (h : Inv s) (f : Hub → Hub) : Inv (s.modHub f) := h.rest

theorem modRegs (h : Inv s) (f : Regs → Regs) : Inv (s.modRegs f) := h.modHub _

theorem wake (h : Inv s) : Inv s.wake := h.rest

theorem stopTeam (h : Inv s) (c t src cause : Nat) : Inv (s.stopTeam c t src cause) := h.modTeam _ _ _

theorem enterTrap (h : Inv s) (x : Who) (t : PendTrap) : Inv (s.enterTrap x t) := by
  unfold State.enterTrap
  dsimp only
  split
  · exact h
  · split
    · exact (h.modWarp _ _ _).modSplit _ _
    · exact .ite (((h.modWarp _ _ _).stopTeam _ _ _ _).modSplit _ _) ((h.modWarp _ _ _).modSplit _ _)

theorem raiseTrap (h : Inv s) (x : Who) (t : PendTrap) : Inv (s.raiseTrap x t) := by
  unfold State.raiseTrap
  split
  · exact h
  · exact .ite (h.modSplit _ _) (.ite (h.modSplit _ _) (h.enterTrap _ _))

theorem scalarFault (h : Inv s) (x : Ctx) (c : Cause) (addr : VAddr) : Inv (s.scalarFault x c addr) := h.raiseTrap _ _

/-! #### Address translation (R93 to R100) -/

theorem asEntry (h : Inv s) (stack : Nat) (asid : Asid) : Inv (s.asEntry stack asid).1 :=
  h.of_translationOnly (translationOnly_asEntry _ _ _)

theorem walk (h : Inv s) (stack : Nat) (asid : Asid) (va : Nat) : Inv (s.walk stack asid va).1 :=
  h.of_translationOnly (translationOnly_walk _ _ _ _)

theorem fillMicro (h : Inv s) (core : Nat) (e : TlbEntry) : Inv (s.fillMicro core e) :=
  h.of_translationOnly (translationOnly_fillMicro _ _ _)

theorem fillCluster (h : Inv s) (cl : Nat) (e : TlbEntry) : Inv (s.fillCluster cl e) :=
  h.of_translationOnly (translationOnly_fillCluster _ _ _)

theorem fillStack (h : Inv s) (st : Nat) (e : TlbEntry) : Inv (s.fillStack st e) :=
  h.of_translationOnly (translationOnly_fillStack _ _ _)

theorem tlbLookup (h : Inv s) (core : Nat) (asid : Asid) (va : Nat) : Inv (s.tlbLookup core asid va).1 :=
  h.of_translationOnly (translationOnly_tlbLookup _ _ _ _)

theorem install (h : Inv s) (core : Nat) (e : TlbEntry) : Inv (s.install core e) :=
  h.of_translationOnly (translationOnly_install _ _ _)

theorem translate (h : Inv s) (core : Nat) (asid : Asid) (priv : Bool) (va : Nat) (acc : Access) :
    Inv (s.translate core asid priv va acc).1 :=
  h.of_translationOnly (translationOnly_translate _ _ _ _ _ _)

theorem translateStack (h : Inv s) (stack : Nat) (asid : Asid) (priv : Bool) (va : Nat) (acc : Access) :
    Inv (s.translateStack stack asid priv va acc).1 :=
  h.of_hubStep (HubStep.translateStack stack asid priv va acc)

theorem removeRange (h : Inv s) (asid : Asid) (start len : Nat) : Inv (s.removeRange asid start len) := h.rest

/-! #### Memory at its homes, the L1, LM and fault records (R74 to R84, R123) -/

theorem addFault (h : Inv s) (r : FaultRec) : Inv (s.addFault r).1 := h.rest

theorem unheard (h : Inv s) (pa : Nat) : Inv (s.unheard pa) := .ite h.rest h

theorem unheardAt (h : Inv s) (asid : Asid) (va : Nat) (c : Cause) : Inv (s.unheardAt asid va c) := by
  unfold State.unheardAt
  split
  · exact h
  · split
    · exact h.unheard _
    · exact h

theorem firnDrop (h : Inv s) (pa : Nat) : Inv (s.firnDrop pa) := by
  unfold State.firnDrop
  split
  · exact h
  · exact h.writeMem _ _

theorem writeBackOne (h : Inv s) (line : Nat) : Inv (s.writeBackOne line) := .ite ((h.firnDrop _).unheard _) h.rest

theorem writeBackLine (h : Inv s) (line : Nat) : Inv (s.writeBackLine line) := h.rest.writeBackOne _

theorem spillOne (h : Inv s) : Inv s.spillOne := by
  unfold State.spillOne
  split
  · exact h
  · exact h.writeBackLine _

theorem spill (h : Inv s) : Inv s.spill := h.foldl (fun _ _ g => g.spillOne) _

theorem noteStale (h : Inv s) (pa : Nat) : Inv (s.noteStale pa) := .ite h.rest h

theorem noteRecord (h : Inv s) (pa : Nat) (lines : List Nat) : Inv (s.noteRecord pa lines) := .ite h.rest h

theorem noteClaim (h : Inv s) (pa old new : Nat) : Inv (s.noteClaim pa old new) := by
  unfold State.noteClaim
  split
  · exact h.modHub _
  · exact h

theorem bell (h : Inv s) (q : Nat) : Inv (s.bell q) := .ite h h.rest

theorem noteBell (h : Inv s) (pa n : Nat) : Inv (s.noteBell pa n) := h.foldl (fun _ _ g => g.bell _) _

theorem noteWatch (h : Inv s) (pa n : Nat) : Inv (s.noteWatch pa n) := h.foldl (fun _ _ g => g.modSplit _ _) _

theorem homeWrite {t : State} (h : Inv s) (pa : Nat) (bs : List Byte) (e : s.homeWrite pa bs = .ok t) : Inv t := by
  unfold State.homeWrite at e
  dsimp only at e
  split at e
  · cases e
  · cases e
    have hn := h.foldl (fun _ pa g => g.noteStale pa) ((unitsOf pa bs.length).map (· * 8))
    exact ((hn.writeMem pa bs).noteBell _ _).noteWatch _ _

theorem homeWriteEn {t : State} (h : Inv s) (pa n data en : Nat) (e : s.homeWriteEn pa n data en = .ok t) : Inv t := by
  unfold State.homeWriteEn at e
  dsimp only at e
  split at e
  · cases e
  · cases e
    have hn (ps : List Nat) : Inv (ps.foldl State.noteStale s) := h.foldl (fun _ pa g => g.noteStale pa) ps
    refine .noteWatch (.foldl ((hn _).setMem ?_) (fun _ _ g => g.noteBell _ _) _) _ _
    exact Memory.wf_foldl_write _ _ _ (hn _).mem

theorem writeBack (h : Inv s) (x : L1Line) : Inv (s.writeBack x).1 := by
  unfold State.writeBack
  dsimp only
  generalize (List.range 64).filter _ = on
  have hn := (Inv.ite (c := on.isEmpty = true) h (h.noteStale (x.line * 64))).unheard (x.line * 64)
  refine .ite ?_ (.noteWatch ?_ _ _) <;> exact hn.setMem (Memory.wf_foldl_write _ _ _ hn.mem)

theorem writeBackReport (h : Inv s) (core : Nat) (x : L1Line) : Inv (s.writeBackReport core x) := by
  unfold State.writeBackReport
  split
  next e => exact ((h.writeBack _).of_eq e).addFault _
  next e => exact (h.writeBack _).of_eq e

theorem evict (h : Inv s) (core line : Nat) : Inv (s.evict core line) := by
  unfold State.evict
  split
  · exact h
  · exact (h.ite (h.writeBackReport _ _)).modCore _ _

theorem fetchLine (h : Inv s) (core line : Nat) : Inv (s.fetchLine core line).1 := by
  unfold State.fetchLine
  split
  · exact h
  · dsimp only
    refine .modCore ?_ _ _
    refine .unheard ?_ _
    split
    · exact h
    · split
      · exact h.evict _ _
      · exact h

theorem l1Read (h : Inv s) (core pa n : Nat) : Inv (s.l1Read core pa n).1 := by
  unfold State.l1Read
  dsimp only
  split <;> exact h.fetchLine _ _

theorem l1Write (h : Inv s) (core pa n data en : Nat) (asid : Asid) (va team : Nat) :
    Inv (s.l1Write core pa n data en asid va team).1 := by
  unfold State.l1Write
  dsimp only
  split
  · exact h.fetchLine _ _
  · split
    · exact h.fetchLine _ _
    · exact (h.fetchLine _ _).modCore _ _

theorem releaseLines (h : Inv s) (core : Nat) (team : Option Nat) (lines : List Nat) :
    Inv (s.releaseLines core team lines).1 := by
  induction lines generalizing s with
  | nil => exact h
  | cons line lines ih =>
    unfold State.releaseLines
    dsimp only
    split
    · exact ih h
    next x _ =>
      have hw := (h.writeBack x).modCore core (·.setLine { x with dirty := 0 })
      split
      · exact ih h
      · split
        · exact ih hw
        · exact ih ((hw.addFault _).ite hw)

theorem phaseRel (h : Inv s) (core : Nat) (team : Option Nat) : Inv (s.phaseRel core team).1 := by
  unfold State.phaseRel
  dsimp only
  split
  · exact h.releaseLines _ _ _
  · exact (h.releaseLines _ _ _).foldl (fun _ _ g => g.addFault _) _

theorem phaseAcq (h : Inv s) (core : Nat) : Inv (s.phaseAcq core) := h.modCore _ _

theorem fetchScalar (h : Inv s) (core : Nat) (t : Team) (pc : VAddr) : Inv (s.fetchScalar core t pc).1 := by
  unfold State.fetchScalar
  split
  · exact h
  · split
    next e => exact (h.translate _ _ _ _ _).of_eq e
    next e =>
      have h1 := (h.translate _ _ _ _ _).of_eq e
      split
      · exact h1.unheard _
      · exact h1

theorem fetchWord (h : Inv s) (core : Nat) (t : Team) (a : Nat) : Inv (s.fetchWord core t a).1 := by
  unfold State.fetchWord
  split
  · exact h
  · split
    next e => exact (h.translate _ _ _ _ _).of_eq e
    next e =>
      have h1 := (h.translate _ _ _ _ _).of_eq e
      split
      · exact h1.unheard _
      · exact h1

theorem fetchLane (h : Inv s) (core : Nat) (t : Team) (va : Nat) : Inv (s.fetchLane core t va).1 := by
  unfold State.fetchLane
  split
  next e => exact (h.fetchWord _ _ _).of_eq e
  next e =>
    have h1 := (h.fetchWord _ _ _).of_eq e
    split
    next e => exact (h1.fetchWord _ _ _).of_eq e
    next e =>
      have h2 := (h1.fetchWord _ _ _).of_eq e
      split
      next e => exact (h2.fetchWord _ _ _).of_eq e
      next e => exact (h2.fetchWord _ _ _).of_eq e

theorem fetchUnits (h : Inv s) (core : Nat) (t : Team) (unit n : Nat) : Inv (s.fetchUnits core t unit n).1 := by
  induction n generalizing s unit with
  | zero => exact h
  | succ n ih =>
    unfold State.fetchUnits
    split
    next e => exact (h.fetchLane _ _ _).of_eq e
    next e =>
      have hn := ih ((h.fetchLane _ _ _).of_eq e) (unit + 1)
      split
      next e1 => exact hn.of_eq e1
      next e1 => exact hn.of_eq e1

theorem regStore (h : Inv s) (pa n data en : Nat) : Inv (s.regStore pa n data en) := .ite h.rest h

/-! #### The adjoint descriptor table (R86 to R88) -/

theorem adtWords (h : Inv s) (stack : Nat) (asid : Asid) (base i : Nat) : Inv (s.adtWords stack asid base i).1 :=
  h.of_hubStep (HubStep.adtWords stack asid base i)

theorem classify (h : Inv s) (stack : Nat) (asid : Asid) (va : Nat) (cnt : Bool) : Inv
    (s.classify stack asid va cnt).1 :=
  h.of_hubStep (HubStep.classify stack asid va cnt)

theorem countAt (h : Inv s) (stack : Nat) (asid : Asid) (priv : Bool) (e : AdtEnt) (va : Nat) (acc : Access) :
    Inv (s.countAt stack asid priv e va acc).1 :=
  h.of_hubStep (HubStep.countAt stack asid priv e va acc)

theorem classStore (h : Inv s) (stack : Nat) (asid : Asid) (p : Option (AdtEnt × Nat)) (as : List Nat) :
    Inv (s.classStore stack asid p as).1 :=
  h.of_hubStep (HubStep.classStore stack asid as p)

theorem gateStore (h : Inv s) (asid : Asid) (priv : Bool) (va : Nat) (x : Xlat) (n en : Nat) (test : Bool) :
    Inv (s.gateStore asid priv va x n en test).1 :=
  h.of_hubStep (HubStep.gateStore asid priv va x n en test)

theorem classAdj (h : Inv s) (stack : Nat) (asid : Asid) (va : Nat) (cnt : Bool) :
    Inv (s.classAdj stack asid va cnt).1 := by
  unfold State.classAdj
  split
  next e => exact (h.classify _ _ _ _).of_eq e
  · exact h.classify _ _ _ _

/-! #### One translated access of a core (R79, R85, R141, R144) -/

theorem countWrite (h : Inv s) (core team va n en : Nat) : Inv (s.countWrite core team va n en) := by
  unfold State.countWrite
  split
  · exact h
  · split
    · exact h
    · exact h.modTeam _ _ _

theorem irrevocable (h : Inv s) (core team : Nat) : Inv (s.irrevocable core team) := h.modTeam _ _ _

theorem dropLine (h : Inv s) (core pa : Nat) (done : Bool) : Inv (s.dropLine core pa done) := .ite h (h.evict _ _)

theorem loadAt (h : Inv s) (core : Nat) (x : Xlat) (n : Nat) (drop : Bool) : Inv (s.loadAt core x n drop).1 := by
  unfold State.loadAt
  dsimp only
  split
  · exact h
  · split
    · split
      next e => exact (h.l1Read _ _ _).of_eq e
      next e => exact (h.l1Read _ _ _).of_eq e
    · split
      · exact h.dropLine _ _ _
      · exact (h.dropLine _ _ _).unheard _

theorem storeAt (h : Inv s) (core team : Nat) (asid : Asid) (priv : Bool) (va : Nat) (x : Xlat) (n data en : Nat)
    (drop : Bool) :
    Inv (s.storeAt core team asid priv va x n data en drop).1 := by
  unfold State.storeAt
  dsimp only
  split
  · exact h.regStore _ _ _ _
  · split
    · split
      next e => exact ((h.l1Write _ _ _ _ _ _ _ _).of_eq e).countWrite _ _ _ _ _
      next e => exact (h.l1Write _ _ _ _ _ _ _ _).of_eq e
    · split
      next e => exact ((h.dropLine _ _ _).gateStore _ _ _ _ _ _ _).of_eq e
      next e =>
        have h1 := ((h.dropLine _ _ _).gateStore _ _ _ _ _ _ _).of_eq e
        split
        · exact h1.unheard _
        next e => exact (h1.homeWriteEn _ _ _ _ e).countWrite _ _ _ _ _

/-! #### Sending a packet (R81, R108, R315) -/

theorem modPort (h : Inv s) (i : Nat) (g : Port → Port) : Inv (s.modPort i g) := h.rest

theorem enqueue (h : Inv s) (port : Nat) (p : Packet) : Inv (s.enqueue port p) := h.modPort _ _

theorem sendBy (h : Inv s) (p : Packet) (hop : Nat) : Inv (s.sendBy p hop) := by
  unfold State.sendBy
  dsimp only
  split
  · exact h.rest
  · split
    · exact h
    · exact h.enqueue _ _

theorem sendPacket (h : Inv s) (p : Packet) : Inv (s.sendPacket p) := h.sendBy _ _

theorem chooseRoute (h : Inv s) (p : Packet) (line : Nat) : Inv (s.chooseRoute p line).2 := by
  unfold State.chooseRoute
  dsimp only
  split
  · exact h
  · split
    · exact h
    · split
      · exact h
      · split <;> exact h.rest

theorem request (h : Inv s) (p : Packet) (who : Requester) (core : Nat) : Inv (s.request p who core).1 := by
  unfold State.request
  split
  · exact h
  · dsimp only
    refine .sendBy ?_ _ _
    split
    · exact h.rest
    · exact h.chooseRoute _ _

theorem answer (h : Inv s) (p : Packet) (status : Nat) (data : List Byte) : Inv (s.answer p status data) :=
  h.rest.sendPacket _

/-! #### What scalar instructions share (R172) -/

theorem spendFlip (h : Inv s) (who : Who) (a : VAddr) : Inv (s.spendFlip who a) := .ite (h.modWarp _ _ _) h

theorem hold (h : Inv s) (x : Ctx) (w : Wait) : Inv (s.hold x w) := h.modSplit _ _

theorem count (h : Inv s) (x : Ctx) : Inv (s.count x) := h.modTeam _ _ _

theorem goto (h : Inv s) (x : Ctx) (pc : VAddr) : Inv (s.goto x pc) := (h.count _).modSplit _ _

theorem advance (h : Inv s) (x : Ctx) : Inv (s.advance x) := h.goto _ _

theorem runScalar (h : Inv s) (i : Instr) {body : Ctx → State} (hbody : ∀ a, Inv (body a)) :
    NextInv (Machine.runScalar s i body) := by
  unfold Machine.runScalar
  refine Inv.withCtx (fun _ => ?_)
  split
  · exact h.scalarFault _ _ _
  · split
    · split
      · exact (h.spendFlip _ _).scalarFault _ _ _
      · exact hbody _
    · exact h.hold _ _

theorem result (h : Inv s) (x : Ctx) (d : GReg) (v : Word) : Inv (s.result x d v) := (h.modWarp _ _ _).advance _

theorem fetchDecode (h : Inv s) (x : Ctx) : Inv (Machine.fetchDecode s x).1 := by
  unfold Machine.fetchDecode
  split
  next e => exact (h.fetchScalar _ _ _).of_eq e
  next e => (repeat' split) <;> exact (h.fetchScalar _ _ _).of_eq e

theorem scalarStall (h : Inv s) (x : Ctx) (c : Cause) (va : Nat) (acc : Access) : Inv (s.scalarStall x c va acc) :=
  (h.addFault _).modSplit _ _

theorem scalarMemFault (h : Inv s) (x : Ctx) (c : Cause) (va : Nat) (acc : Access) :
    Inv (s.scalarMemFault x c va acc) := .ite (h.scalarStall _ _ _ _) (h.scalarFault _ _ _)

theorem scalarFetch (h : Inv s) (x : Ctx) : Inv (Machine.scalarFetch s x).1 := by
  unfold Machine.scalarFetch
  split
  · exact (h.modSplit _ _).raiseTrap _ _
  · split
    · exact h.scalarFault _ _ _
    · split
      next e => exact (h.fetchDecode _).of_eq e
      next e =>
        have h1 := (h.fetchDecode _).of_eq e
        split
        · exact h1.scalarStall _ _ _ _
        · exact h1.raiseTrap _ _

theorem issueRead (h : Inv s) (x : Ctx) (len unit : Nat) : Inv (Machine.issueRead s x len unit).1 := by
  unfold Machine.issueRead
  dsimp only
  split
  next e => exact (h.fetchUnits _ _ _ _).of_eq e
  next e => (repeat' split) <;> exact (h.fetchUnits _ _ _ _).of_eq e

theorem noteIssue (h : Inv s) (who : Who) (lane : Bool) : Inv (s.noteIssue who lane) := (h.modSplit _ _).modCore _ _

/-! #### What lane instructions share (R195) -/

theorem moveOn (h : Inv s) (y : LCtx) : Inv (s.moveOn y) := h.modWarp _ _ _

theorem countInstr (h : Inv s) (core team : Nat) : Inv (s.countInstr core team) := h.modTeam _ _ _

theorem dispatched (h : Inv s) (y : LCtx) : Inv (s.dispatched y) := (h.countInstr _ _).moveOn _

theorem laneHold (h : Inv s) (y : LCtx) (r : LaneWait) : Inv (s.laneHold y r) := h.modSplit _ _

theorem leaveLatches (h : Inv s) (who : Who) : Inv (s.leaveLatches who) := .ite h (h.modCore _ _)

theorem recordLaneFault (h : Inv s) (who : Who) (t : PendTrap) : Inv (s.recordLaneFault who t) := by
  unfold State.recordLaneFault
  split
  · exact h
  · split
    · exact (h.setWarp _ _ _).stopTeam _ _ _ _
    · exact .ite ((h.leaveLatches _).modSplit _ _) (((h.setWarp _ _ _).modWarp _ _ _).stopTeam _ _ _ _)

theorem takeHeld (h : Inv s) (core team : Nat) : Inv (s.takeHeld core team) := by
  unfold State.takeHeld
  split
  · exact h
  · exact (h.modWarp _ _ _).stopTeam _ _ _ _

theorem uncountInstr (h : Inv s) (core team : Nat) : Inv (s.uncountInstr core team) := h.modTeam _ _ _

theorem laneFault (h : Inv s) (y : LCtx) (c : Cause) (lane : Nat) (addr : VAddr) :
    Inv (s.laneFault y c lane addr) := h.recordLaneFault _ _

theorem runLane (h : Inv s) (i : Instr) {body : LCtx → State} (hbody : ∀ a, Inv (body a)) :
    NextInv (Machine.runLane s i body) := by
  unfold Machine.runLane
  split
  · exact .fault
  · refine .next ?_
    split
    · exact h.recordLaneFault _ _
    · split
      · exact h.laneFault _ _ _ _
      · split
        · split
          · exact (h.spendFlip _ _).laneFault _ _ _ _
          · exact .ite (h.dispatched _) (hbody _)
        · exact h.laneHold _ _

theorem laneFetch (h : Inv s) (x : Ctx) : Inv (Machine.laneFetch s x).1 := by
  unfold Machine.laneFetch
  dsimp only
  split
  · exact h
  · split
    · exact h.modSplit _ _
    · exact (h.modSplit _ _).recordLaneFault _ _
    · split <;> exact (h.modSplit _ _).recordLaneFault _ _

theorem launchOp (h : Inv s) (y : LCtx) (i : Instr) (accs : List Acc) (rel : RelSt) (aux : OpAux) :
    Inv (s.launchOp y i accs rel aux) :=
  .ite (((h.setCore _ _).modWarp _ _ _).moveOn _) (((h.setCore _ _).modWarp _ _ _).dispatched _)

theorem setOp (h : Inv s) (c w : Nat) (o : Op) : Inv (s.setOp c w o) := by
  unfold State.setOp
  split
  · exact .ite h (.ite ((h.setWarp _ _ _).uncountInstr _ _) (h.setWarp _ _ _))
  · exact h

theorem finishOp (h : Inv s) (c w : Nat) (o : Op) : Inv (s.finishOp c w o) := by
  unfold State.finishOp
  split
  · exact h
  · refine .modWarp ?_ _ _ _
    split
    · exact .ite ((h.ite (h.countInstr _ _)).phaseAcq _) (.ite h (h.countInstr _ _))
    · exact h.recordLaneFault _ _

theorem updateOp (h : Inv s) (c w : Nat) (o : Op) : Inv (s.updateOp c w o) :=
  .ite ((h.setOp _ _ _).finishOp _ _ _) (h.setOp _ _ _)

theorem writeV (h : Inv s) (c w : Nat) (v : VReg) (l : Nat) (ws : List Word) : Inv (s.writeV c w v l ws) :=
  h.modWarp _ _ _

/-! #### Lane memory operations from dispatch to completion (R171, R213) -/

theorem checkAcc (h : Inv s) (core : Nat) (t : Team) (sp : MemSpec) (a : Acc) : Inv (s.checkAcc core t sp a).1 := by
  unfold State.checkAcc
  dsimp only
  split
  · exact h
  · split
    · split <;> exact h
    · split
      next e => exact (h.translate _ _ _ _ _).of_eq e
      next e =>
        have h1 := (h.translate _ _ _ _ _).of_eq e
        split
        · split
          next e => exact (h1.gateStore _ _ _ _ _ _ _).of_eq e
          next e => exact (h1.gateStore _ _ _ _ _ _ _).of_eq e
        · exact h1

theorem checkAccs (h : Inv s) (core : Nat) (t : Team) (sp : MemSpec) (accs : List Acc) :
    Inv (s.checkAccs core t sp accs).1 := by
  induction accs generalizing s with
  | nil => exact h
  | cons a accs ih => exact ih (h.checkAcc _ _ _ _)

theorem stallAccs (h : Inv s) (core slot : Nat) (asid : Asid) (sp : MemSpec) (all accs : List Acc)
    (made : List (Cause × Nat × Nat)) : Inv (s.stallAccs core slot asid sp all accs made).1 := by
  induction accs generalizing s made with
  | nil => exact h
  | cons a accs ih =>
    unfold State.stallAccs
    split
    · exact ih h _
    · split
      · exact ih h _
      · exact ih (h.addFault _) _

theorem sendGroups (h : Inv s) (core slot id : Nat) (sp : MemSpec) (w : Nat) (gs : List (List Acc)) :
    Inv (s.sendGroups core slot id sp w gs).1 := by
  induction gs generalizing s with
  | nil => exact h
  | cons g gs ih => exact ih (h.request _ _ _)

theorem irrevWarp (h : Inv s) (core slot : Nat) : Inv (s.irrevWarp core slot) := by
  unfold State.irrevWarp
  split
  · exact h.irrevocable _ _
  · exact h

theorem countAcc (h : Inv s) (core slot : Nat) (sp : MemSpec) (a : Acc) : Inv (s.countAcc core slot sp a) := by
  unfold State.countAcc
  split
  · exact h.countWrite _ _ _ _ _
  · exact h

theorem sendLanes (h : Inv s) (core slot : Nat) (o : Op) : Inv (s.sendLanes core slot o).1 := by
  unfold State.sendLanes
  split
  · exact h
  · exact h
  · split
    · exact h
    · exact ((h.sendGroups _ _ _ _ _ _).irrevWarp _ _).ite (h.sendGroups _ _ _ _ _ _)

theorem settle (h : Inv s) (core slot : Nat) (o : Op) : Inv (s.settle core slot o) :=
  (h.sendLanes _ _ _).updateOp _ _ _

theorem memDispatch (h : Inv s) (i : Instr) : NextInv (Machine.memDispatch s i) := by
  unfold Machine.memDispatch
  dsimp only
  split
  · exact .next h
  · refine h.runLane _ (fun _ => ?_)
    split
    · exact (h.checkAccs _ _ _ _).laneFault _ _ _ _
    · split
      · exact ((h.checkAccs _ _ _ _).stallAccs _ _ _ _ _ _ _).launchOp _ _ _ _ _
      · exact (((h.checkAccs _ _ _ _).stallAccs _ _ _ _ _ _ _).launchOp _ _ _ _ _).settle _ _ _

theorem retryOp (h : Inv s) (core slot : Nat) (t : Team) (sp : MemSpec) (o : Op) :
    Inv (s.retryOp core slot t sp o).1 := by
  unfold State.retryOp
  dsimp only
  split
  · exact h
  · split
    · exact h.checkAccs _ _ _ _
    · exact (h.checkAccs _ _ _ _).stallAccs _ _ _ _ _ _ _

theorem releaseStep (h : Inv s) (core : Nat) (w : Warp) (o : Op) : Inv (s.releaseStep core w o).1 := by
  unfold State.releaseStep
  split
  · exact h
  · exact h
  · split
    · exact h
    · split
      · exact h
      · split
        next e => exact (h.phaseRel _ _).of_eq e
        next e => (repeat' split) <;> exact (h.phaseRel _ _).of_eq e
  · (repeat' split) <;> exact h

theorem dropEarlier (h : Inv s) (core : Nat) (o : Op) (line : Nat) : Inv (s.dropEarlier core o line) :=
  .ite h ((h.evict _ _).modCore _ _)

theorem stallLane (h : Inv s) (core slot : Nat) (asid : Asid) (sp : MemSpec) (a : Acc) (c : Cause) (va : Nat) :
    Inv (s.stallLane core slot asid sp a c va).1 := h.addFault _

theorem homeFault (h : Inv s) (core slot : Nat) (asid : Asid) (sp : MemSpec) (a : Acc) (c : Cause) (va : Nat) :
    Inv (s.homeFault core slot asid sp a c va).1 := by
  unfold State.homeFault
  split
  · exact h.stallLane _ _ _ _ _ _ _
  · exact h

theorem performLanes (h : Inv s) (core slot id n : Nat) {f : State → Team → Op → Acc → State × Acc}
    (hf : ∀ u t o a, Inv u → Inv (f u t o a).1) (ls : List Nat) : Inv (s.performLanes core slot id n f ls) := by
  induction ls generalizing s with
  | nil => exact h
  | cons l ls ih =>
    unfold State.performLanes
    split
    · exact h
    · split
      · exact ih h
      next o _ t _ _ a _ =>
        have hp := hf _ t o a (.ite (c := (a.path == .l1) = true) (h.dropEarlier core o (a.pa / 64)) h)
        refine .ite (ih ?_) (ih h)
        split
        · exact hp
        · exact hp.setOp _ _ _

theorem memEvent (h : Inv s) (core slot id : Nat) (lanes : Lanes) (mine : Instr → Bool)
    {f : MemSpec → MemArgs → State → Team → Op → Acc → State × Acc}
        (hf : ∀ a b u c d p, Inv u → Inv (f a b u c d p).1) :
    Inv (s.memEvent core slot id lanes mine f) := by
  unfold State.memEvent
  dsimp only
  split
  · exact h
  · split
    · exact h
    · split
      · exact h
      · split
        · exact ((h.retryOp _ _ _ _ _).releaseStep _ _ _).settle _ _ _
        · split
          · exact (((h.retryOp _ _ _ _ _).releaseStep _ _ _).settle _ _ _).performLanes _ _ _ _
              (fun _ _ _ _ g => hf _ _ _ _ _ _ g) _
          · exact ((((h.retryOp _ _ _ _ _).releaseStep _ _ _).settle _ _ _).performLanes _ _ _ _
              (fun _ _ _ _ g => hf _ _ _ _ _ _ g) _).settle _ _ _

/-! #### Loads and stores of lanes (R103, R211 to R222) -/

theorem land (h : Inv s) (core slot : Nat) (i : Instr) (x : MemArgs) (a : Acc) (ret : Nat) :
    Inv (s.land core slot i x a ret).1 := by
  unfold State.land
  split
  · exact (h.writeV _ _ _ _ _).writeV _ _ _ _ _
  · exact h.writeV _ _ _ _ _

theorem peekAcc (h : Inv s) (core : Nat) (t : Team) (sp : MemSpec) (a : Acc) : Inv (s.peekAcc core t sp a).1 := by
  unfold State.peekAcc
  split
  · exact h.checkAcc _ _ _ _
  · split
    next e => exact (h.tlbLookup _ _ _).of_eq e
    next e => (repeat' split) <;> exact (h.tlbLookup _ _ _).of_eq e

theorem peekAccs (h : Inv s) (core : Nat) (t : Team) (sp : MemSpec) (accs : List Acc) :
    Inv (s.peekAccs core t sp accs).1 := by
  induction accs generalizing s with
  | nil => exact h
  | cons a accs ih => exact ih (h.peekAcc _ _ _ _)

theorem startWalk (h : Inv s) (core slot : Nat) (asid : Asid) (va lane : Nat) :
    Inv (s.startWalk core slot asid va lane) := h.rest

theorem execGatherP (h : Inv s) (x : MemArgs) : NextInv (Machine.execGatherP x s) := by
  unfold Machine.execGatherP
  refine h.runLane _ (fun _ => ?_)
  dsimp only
  split
  · exact h
  · split
    · exact ((((h.peekAccs _ _ _ _).foldl (fun _ _ g => g.startWalk _ _ _ _ _) _).stallAccs _ _ _ _ _ _ _).launchOp
        _ _ _ _ _).foldl (fun _ _ g => g.writeV _ _ _ _ _) _
    · exact (((((h.peekAccs _ _ _ _).foldl (fun _ _ g => g.startWalk _ _ _ _ _) _).stallAccs _ _ _ _ _ _ _).launchOp
        _ _ _ _ _).foldl (fun _ _ g => g.writeV _ _ _ _ _) _).settle _ _ _

theorem execPref (h : Inv s) (x : MemArgs) : NextInv (Machine.execPref x s) := by
  unfold Machine.execPref
  refine h.runLane _ (fun _ => ?_)
  dsimp only
  refine .dispatched ?_ _
  refine h.foldl (fun _ x g => ?_) _
  split
  · exact g
  · split
    next e => exact (g.translate _ _ _ _ _).of_eq e
    next e =>
      have h1 := (g.translate _ _ _ _ _).of_eq e
      exact .ite (h1.fetchLine _ _) (.ite h1 (h1.unheard _))

theorem lmRun (h : Inv s) (y : LCtx) (va : VReg) (imm : Word) (n : Nat) {f : State → Nat → Nat → State × Option Cause}
    (hf : ∀ u a b, Inv u → Inv (f u a b).1) : Inv (s.lmRun y va imm n f) := by
  unfold State.lmRun
  dsimp only
  split
  · exact h.laneFault _ _ _ _
  · split <;> [refine .laneFault ?_ _ _ _ _; refine .dispatched ?_ _] <;>
    · refine foldl_fst (fun r p g => ?_) _ h
      split
      next e => exact (hf _ _ _ g).of_eq e
      next e => exact (hf _ _ _ g).of_eq e

theorem execLdl (h : Inv s) (x : MemArgs) : NextInv (Machine.execLdl x s) := by
  unfold Machine.execLdl
  refine h.runLane _ (fun _ => ?_)
  refine h.lmRun _ _ _ _ (fun _ _ _ g => ?_)
  split
  · exact g.writeV _ _ _ _ _
  · exact g

theorem execStl (h : Inv s) (x : MemArgs) : NextInv (Machine.execStl x s) := by
  unfold Machine.execStl
  refine h.runLane _ (fun _ => ?_)
  refine h.lmRun _ _ _ _ (fun _ _ _ g => ?_)
  split
  · exact g.setCore _ _
  · exact g

theorem execLdc (h : Inv s) (x : MemArgs) : NextInv (Machine.execLdc x s) := by
  unfold Machine.execLdc
  refine h.runLane _ (fun _ => ?_)
  dsimp only
  split
  · exact h.launchOp _ _ _ _ _
  · exact (h.launchOp _ _ _ _ _).updateOp _ _ _

theorem execStc (h : Inv s) (x : MemArgs) : NextInv (Machine.execStc x s) := by
  unfold Machine.execStc
  refine h.runLane _ (fun _ => ?_)
  dsimp only
  split
  · exact h.launchOp _ _ _ _ _
  · exact (h.launchOp _ _ _ _ _).updateOp _ _ _

theorem clusterLane (h : Inv s) (core slot : Nat) (t : Team) (i : Instr) (a : Acc) :
    Inv (s.clusterLane core slot t i a).1 := by
  unfold State.clusterLane
  dsimp only
  split
  · exact h
  · split
    · split
      · exact h.land _ _ _ _ _ _
      · exact h
    · split
      · exact h.setCore _ _
      · exact h
    · exact h

theorem clusterLanes (h : Inv s) (core slot id : Nat) (ls : List Nat) : Inv (s.clusterLanes core slot id ls) := by
  induction ls generalizing s with
  | nil => exact h
  | cons l ls ih =>
    unfold State.clusterLanes
    split
    · exact h
    · split
      · exact ih h
      · refine .ite (ih ?_) (ih h)
        split
        · exact h.clusterLane _ _ _ _ _
        · exact (h.clusterLane _ _ _ _ _).updateOp _ _ _

theorem execClusterLmAck (h : Inv s) (core slot op : Nat) (lanes : Lanes) :
    NextInv (Machine.execClusterLmAck core slot op lanes s) := by
  unfold Machine.execClusterLmAck
  refine .next ?_
  split
  · split
    · exact h.clusterLanes _ _ _ _
    · exact h
  · exact h

theorem classRc (h : Inv s) (core slot : Nat) (t : Team) (sp : MemSpec) (a : Acc) (x : MemArgs) (i : Instr) :
    Inv (s.classRc core slot t sp a x i).1 := by
  unfold State.classRc
  split
  next e => exact ((h.classAdj _ _ _ _).of_eq e).homeFault _ _ _ _ _ _ _
  next e => exact (h.classAdj _ _ _ _).of_eq e
  next e =>
    have h1 := (h.classAdj _ _ _ _).of_eq e
    split
    next e => exact ((h1.loadAt _ _ _ _).of_eq e).land _ _ _ _ _ _
    next e => exact (h1.loadAt _ _ _ _).of_eq e
  next e => exact (h.classAdj _ _ _ _).of_eq e

theorem queryCount (h : Inv s) (core slot : Nat) (t : Team) (sp : MemSpec) (a : Acc) (x : MemArgs) (i : Instr) :
    Inv (s.queryCount core slot t sp a x i).1 := by
  unfold State.queryCount
  dsimp only
  split
  next e => exact (((h.dropLine _ _ _).classify _ _ _ _).of_eq e).homeFault _ _ _ _ _ _ _
  next e => exact ((h.dropLine _ _ _).classify _ _ _ _).of_eq e
  next e =>
    have h1 := ((h.dropLine _ _ _).classify _ _ _ _).of_eq e
    split
    next e => exact ((h1.countAt _ _ _ _ _ _).of_eq e).homeFault _ _ _ _ _ _ _
    next e => exact ((h1.countAt _ _ _ _ _ _).of_eq e).land _ _ _ _ _ _
  next e => exact ((h.dropLine _ _ _).classify _ _ _ _).of_eq e

theorem loadLane (h : Inv s) (core slot : Nat) (sp : MemSpec) (x : MemArgs) (t : Team) (o : Op) (a : Acc) :
    Inv (s.loadLane core slot sp x t o a).1 := by
  unfold State.loadLane
  split
  · exact h.queryCount _ _ _ _ _ _ _
  · split
    · exact h.classRc _ _ _ _ _ _ _
    · split
      next e => exact ((h.loadAt _ _ _ _).of_eq e).land _ _ _ _ _ _
      next e => exact (h.loadAt _ _ _ _).of_eq e
  · split
    next e => exact ((h.loadAt _ _ _ _).of_eq e).land _ _ _ _ _ _
    next e => exact (h.loadAt _ _ _ _).of_eq e

theorem loadEvent (h : Inv s) (core slot op : Nat) (lanes : Lanes) : Inv (s.loadEvent core slot op lanes) :=
  h.memEvent _ _ _ _ _ (fun _ _ _ _ _ _ g => g.loadLane _ _ _ _ _ _ _)

theorem storeLane (h : Inv s) (core slot : Nat) (sp : MemSpec) (t : Team) (a : Acc) :
    Inv (s.storeLane core slot sp t a).1 := by
  unfold State.storeLane
  split
  · exact h
  · split
    next e => exact (h.storeAt _ _ _ _ _ _ _ _ _ _).of_eq e
    next e => exact ((h.storeAt _ _ _ _ _ _ _ _ _ _).of_eq e).homeFault _ _ _ _ _ _ _

theorem execStorePerformed (h : Inv s) (core slot op : Nat) (lanes : Lanes) :
    NextInv (Machine.execStorePerformed core slot op lanes s) :=
  .next (h.memEvent _ _ _ _ _ (fun _ _ _ _ _ _ g => g.storeLane _ _ _ _ _))

theorem execL1Writeback (h : Inv s) (core line : Nat) : NextInv (Machine.execL1Writeback core line s) := by
  unfold Machine.execL1Writeback
  refine .next ?_
  split
  · exact .ite h (h.evict _ _)
  · exact h

theorem execTagl (h : Inv s) (x : MemArgs) : NextInv (Machine.execTagl x s) :=
  h.runLane _ (fun _ => (h.laneFault _ _ _ _).ite ((h.foldl (fun _ _ g => g.writeV _ _ _ _ _) _).dispatched _))

theorem execTagset (h : Inv s) (x : MemArgs) : NextInv (Machine.execTagset x s) := by
  unfold Machine.execTagset
  refine h.runLane _ (fun _ => ?_)
  dsimp only
  split
  · exact h.laneFault _ _ _ _
  · split
    · exact (h.setCore _ _).laneFault _ _ _ _
    · exact (h.setCore _ _).dispatched _

theorem execTaginv (h : Inv s) (x : MemArgs) : NextInv (Machine.execTaginv x s) :=
  h.runLane _ (fun _ => (h.laneFault _ _ _ _).ite ((h.modCore _ _).dispatched _))

/-! #### Atomics, the adjoint unit and PHASE (R219 to R226) -/

theorem atomicLane (h : Inv s) (core slot : Nat) (sp : MemSpec) (x : MemArgs) (t : Team) (o : Op) (a : Acc) :
    Inv (s.atomicLane core slot sp x t o a).1 := by
  unfold State.atomicLane
  dsimp only
  split
  · exact h.land _ _ _ _ _ _
  · split
    next e => exact (((h.dropLine _ _ _).gateStore _ _ _ _ _ _ _).of_eq e).homeFault _ _ _ _ _ _ _
    next e =>
      have h1 := ((h.dropLine _ _ _).gateStore _ _ _ _ _ _ _).of_eq e
      split
      · exact h1.unheard _
      · split
        · exact h1.unheard _
        next e =>
          have h2 := h1.homeWrite _ _ e
          refine .land ?_ _ _ _ _ _ _
          split
          · exact (((h2.noteClaim _ _ _).ite h2).countWrite _ _ _ _ _).irrevocable _ _
          · exact .ite (h2.noteClaim _ _ _) h2

theorem atomicEvent (h : Inv s) (core slot op : Nat) (lanes : Lanes) : Inv (s.atomicEvent core slot op lanes) :=
  h.memEvent _ _ _ _ _ (fun _ _ _ _ _ _ g => g.atomicLane _ _ _ _ _ _ _)

theorem putCount (h : Inv s) (pa w : Nat) : Inv (s.putCount pa w) := by
  unfold State.putCount
  split
  next e => exact h.homeWrite _ _ e
  · exact h

theorem countedLoad (h : Inv s) (asid : Asid) (priv : Bool) (va pa : Nat) (cnt : Bool) (n : Nat) :
    Inv (s.countedLoad asid priv va pa cnt n).1 := by
  unfold State.countedLoad
  dsimp only
  split
  next e => exact (h.classAdj _ _ _ _).of_eq e
  next e => exact (h.classAdj _ _ _ _).of_eq e
  next e => exact (h.classAdj _ _ _ _).of_eq e
  next e => exact (h.classAdj _ _ _ _).of_eq e
  next e =>
    have h1 := (h.classAdj _ _ _ _).of_eq e
    split
    next e => exact (h1.countAt _ _ _ _ _ _).of_eq e
    next e =>
      have h2 := (h1.countAt _ _ _ _ _ _).of_eq e
      split
      · exact h2
      · split
        · exact h2.unheard _
        · exact h2.putCount _ _

theorem accumulate (h : Inv s) (asid : Asid) (priv : Bool) (va pa : Nat) (cnt : Bool) (addend : Nat) :
    Inv (s.accumulate asid priv va pa cnt addend).1 := by
  unfold State.accumulate
  dsimp only
  split
  next e => exact (h.classAdj _ _ _ _).of_eq e
  next e => exact (h.classAdj _ _ _ _).of_eq e
  next e => exact (h.classAdj _ _ _ _).of_eq e
  next e => exact (h.classAdj _ _ _ _).of_eq e
  next e =>
    have h1 := (h.classAdj _ _ _ _).of_eq e
    split
    · exact h1
    · split
      next e => exact (h1.translateStack _ _ _ _ _).of_eq e
      next e =>
        have h2 := (h1.translateStack _ _ _ _ _).of_eq e
        split
        next e => exact (h2.countAt _ _ _ _ _ _).of_eq e
        next e =>
          have h3 := (h2.countAt _ _ _ _ _ _).of_eq e
          split
          · exact h3
          · split
            · exact h3.unheard _
            · split
              · exact h3.unheard _
              next e => exact (h3.homeWrite _ _ e).putCount _ _

theorem adjRead (h : Inv s) (asid : Asid) (priv : Bool) (va pa : Nat) (cnt wide wait : Bool) :
    Inv (s.adjRead asid priv va pa cnt wide wait).1 := by
  unfold State.adjRead
  dsimp only
  split
  next e => exact (h.classAdj _ _ _ _).of_eq e
  next e => exact (h.classAdj _ _ _ _).of_eq e
  next e => exact (h.classAdj _ _ _ _).of_eq e
  next e => exact (h.classAdj _ _ _ _).of_eq e
  next e =>
    have h1 := (h.classAdj _ _ _ _).of_eq e
    split
    · exact h1
    · split
      · exact h1
      · split
        next e => exact (h1.translateStack _ _ _ _ _).of_eq e
        next e =>
          have h2 := (h1.translateStack _ _ _ _ _).of_eq e
          split
          next e => exact (h2.countAt _ _ _ _ _ _).of_eq e
          next e =>
            have h3 := (h2.countAt _ _ _ _ _ _).of_eq e
            split
            · exact h3
            · split
              · exact h3.unheard _
              · split
                · exact h3.unheard _
                next e => exact h3.homeWrite _ _ e

theorem adjFault (h : Inv s) (core slot : Nat) (sp : MemSpec) (x : MemArgs) (t : Team) (o : Op) (a : Acc)
    (c : Cause) (va : Nat) :
    Inv (s.adjFault core slot sp x t o a c va).1 := by
  unfold State.adjFault
  split
  · split
    · exact (h.stallLane _ _ _ _ _ _ _).writeV _ _ _ _ _
    · exact h
  · exact h.homeFault _ _ _ _ _ _ _

theorem adjLand (h : Inv s) (core slot : Nat) (sp : MemSpec) (x : MemArgs) (t : Team) (o : Op) (a : Acc)
    (r : AdjRes) (deadline : Option Nat → Option Nat) :
    Inv (s.adjLand core slot sp x t o a r deadline).1 := by
  unfold State.adjLand
  split
  · refine .land ?_ _ _ _ _ _ _
    split
    · exact h.irrevocable _ _
    · exact h
  · exact h
  · exact h.adjFault _ _ _ _ _ _ _ _ _

theorem execCountedLoadAtHome (h : Inv s) (core slot op : Nat) (lanes : Lanes) :
    NextInv (Machine.execCountedLoadAtHome core slot op lanes s) :=
  .next (h.memEvent _ _ _ _ _ (fun _ _ _ _ _ _ g => ((g.dropLine _ _ _).countedLoad _ _ _ _ _ _).adjLand _ _ _ _ _ _
    _ _ _))

theorem execAdjaAtHome (h : Inv s) (core slot op : Nat) (lanes : Lanes) :
    NextInv (Machine.execAdjaAtHome core slot op lanes s) :=
  .next (h.memEvent _ _ _ _ _ (fun _ _ _ _ _ _ g => ((g.dropLine _ _ _).accumulate _ _ _ _ _ _).adjLand _ _ _ _ _ _
    _ _ _))

theorem adjrLane (h : Inv s) (core slot : Nat) (sp : MemSpec) (x : MemArgs) (t : Team) (o : Op) (a : Acc)
    (deadline : Option Nat → Option Nat) :
    Inv (s.adjrLane core slot sp x t o a deadline).1 :=
  ((h.dropLine _ _ _).adjRead _ _ _ _ _ _ _).adjLand _ _ _ _ _ _ _ _ _

theorem execAdjrAtHome (h : Inv s) (core slot op : Nat) (lanes : Lanes) :
    NextInv (Machine.execAdjrAtHome core slot op lanes s) :=
  .next (h.memEvent _ _ _ _ _ (fun _ _ _ _ _ _ g => g.adjrLane _ _ _ _ _ _ _ _))

theorem adjrWaiters (h : Inv s) (core slot op : Nat) (lanes : Lanes)
    {f : State → Team → Op → MemSpec → MemArgs → Acc → Option Nat → State × Acc}
        (hf : ∀ u a b c d p q, Inv u → Inv (f u a b c d p q).1) :
    Inv (s.adjrWaiters core slot op lanes f) := by
  unfold State.adjrWaiters
  refine h.foldl (fun _ x g => ?_) _
  dsimp only
  split
  · exact g
  · split
    · split
      · split
        · exact hf _ _ _ _ _ _ _ g
        · exact (hf _ _ _ _ _ _ _ g).settle _ _ _
      · exact g
    · exact g

theorem execAdjrWaitRelease (h : Inv s) (core slot op : Nat) (lanes : Lanes) :
    NextInv (Machine.execAdjrWaitRelease core slot op lanes s) :=
  .next (h.adjrWaiters _ _ _ _ (fun _ _ _ _ _ _ _ g => g.adjrLane _ _ _ _ _ _ _ _))

theorem execAdjrWaitTimeout (h : Inv s) (core slot op : Nat) (lanes : Lanes) :
    NextInv (Machine.execAdjrWaitTimeout core slot op lanes s) := by
  unfold Machine.execAdjrWaitTimeout
  refine .next ?_
  refine h.adjrWaiters _ _ _ _ (fun _ _ _ _ _ _ _ g => ?_)
  (repeat' split) <;> exact g

theorem phaseLines (h : Inv s) (core team : Nat) (asid : Asid) (lines : List Nat) :
    Inv (s.phaseLines core team asid lines).1 := by
  unfold State.phaseLines
  split
  next e => exact (h.releaseLines _ _ _).of_eq e
  next e => exact ((h.releaseLines _ _ _).of_eq e).foldl (fun _ _ g2 => g2.addFault _) _

theorem acqLine (h : Inv s) (core line : Nat) : Inv (s.acqLine core line) := by
  unfold State.acqLine
  split
  · exact h
  · exact h.modCore _ _

theorem execPhaseComplete (h : Inv s) (core slot op : Nat) : NextInv (Machine.execPhaseComplete core slot op s) := by
  unfold Machine.execPhaseComplete
  refine .next ?_
  split
  · exact h
  · split
    · split
      next e => exact ((h.phaseLines _ _ _ _).of_eq e).finishOp _ _ _
      next e => exact ((h.phaseLines _ _ _ _).of_eq e).finishOp _ _ _
    · exact (h.foldl (fun _ _ g => g.acqLine _ _) _).finishOp _ _ _
    · exact h

/-! #### The matrix array (R234 to R244) -/

theorem launchMma (h : Inv s) (y : LCtx) (i : Instr) (f : FmtBlk) (r : List XVal × Nat) (joint : List (Nat × Nat)) :
    Inv (s.launchMma y i f r joint) := (h.launchOp _ _ _ _ _).modCore _ _

theorem execMma (h : Inv s) (x : EngArgs) : NextInv (Machine.execMma x s) := by
  unfold Machine.execMma
  refine h.runLane _ (fun _ => ?_)
  split
  · exact h.laneFault _ _ _ _
  · split
    · exact h.laneHold _ _
    · split
      · exact h.laneFault _ _ _ _
      · exact h.launchMma _ _ _ _ _

theorem execGangset (h : Inv s) (x : EngArgs) : NextInv (Machine.execGangset x s) :=
  h.runLane _ (fun _ => (h.laneFault _ _ _ _).ite (((h.modWarp _ _ _).dispatched _).ite
    ((h.laneFault _ _ _ _).ite ((h.modWarp _ _ _).dispatched _))))

theorem latchFault (h : Inv s) (core : Nat) (c : Cause) (addr : Nat) (p : Nat × Nat) :
    Inv (s.latchFault core c addr p) := by
  unfold State.latchFault
  split
  · exact h.laneFault _ _ _ _
  · exact h

theorem failLatches (h : Inv s) (core : Nat) (c : Cause) (addr : Nat) (bad : Latch → Bool) :
    Inv (s.failLatches core c addr bad) :=
  (h.modCore _ _).foldl (fun _ _ g => g.foldl (fun _ _ g2 => g2.latchFault _ _ _ _) _) _

theorem dispatchJoint (h : Inv s) (core : Nat) (l : Latch) : Inv (s.dispatchJoint core l) := by
  unfold State.dispatchJoint
  dsimp only
  split
  · split
    · exact h
    · split
      · exact h.failLatches _ _ _ _
      · split
        · exact h.modCore _ _
        · refine ((h.modCore _ _).launchMma _ _ _ _ _).foldl (fun _ x g => ?_) _
          split
          · exact g.launchOp _ _ _ _ _
          · exact g
  · exact h

theorem arriveLatch (h : Inv s) (y : LCtx) (imm : Word) : Inv (s.arriveLatch y imm) :=
  .ite ((h.failLatches _ _ _ _).latchFault _ _ _ _) (.ite ((h.failLatches _ _ _ _).latchFault _ _ _ _)
    (.ite ((h.failLatches _ _ _ _).latchFault _ _ _ _) (.ite (((h.modCore _ _).laneHold _ _).dispatchJoint _ _)
      ((h.modCore _ _).laneHold _ _))))

theorem execMmaJ (h : Inv s) (x : EngArgs) : NextInv (Machine.execMmaJ x s) := by
  unfold Machine.execMmaJ
  refine h.runLane _ (fun _ => ?_)
  split
  · exact h.laneFault _ _ _ _
  · split
    · exact .ite (h.dispatchJoint _ _) (h.laneHold _ _)
    · exact .ite (h.laneFault _ _ _ _) (h.arriveLatch _ _)

theorem latchRetire (h : Inv s) (core team widx : Nat) : Inv (s.latchRetire core team widx) := h.failLatches _ _ _ _

theorem execMmaDispatch (h : Inv s) (core slot op : Nat) : NextInv (Machine.execMmaDispatch core slot op s) := by
  unfold Machine.execMmaDispatch
  dsimp only
  split
  · exact .next h
  · split
    · exact .next h
    · split
      · split
        · exact .next h
        · exact ((h.noteIssue _ _).rest).execMma _
      · split
        · exact .next h
        · exact ((h.noteIssue _ _).rest).execMmaJ _
      · exact .next h

theorem endMatrix (h : Inv s) (core slot : Nat) (o : Op) (fault : Option (Cause × Nat)) :
    Inv (s.endMatrix core slot o fault) := (h.finishOp _ _ _).modCore _ _

theorem execMmaComplete (h : Inv s) (core slot op : Nat) : NextInv (Machine.execMmaComplete core slot op s) := by
  unfold Machine.execMmaComplete
  refine .next ?_
  dsimp only
  split
  · exact h
  · split
    · split
      · exact h
      · split
        · dsimp only
          refine (h.endMatrix _ _ _ _).foldl (fun _ x g => ?_) _
          split
          · exact g.endMatrix _ _ _ _
          · exact g
        · split
          · dsimp only
            refine ((h.modCore _ _).endMatrix _ _ _ _).foldl (fun _ x g => ?_) _
            split
            · exact g.endMatrix _ _ _ _
            · exact g
          · split
            · refine (h.endMatrix _ _ _ _).foldl (fun _ x g => ?_) _
              split
              · exact g.endMatrix _ _ _ _
              · exact g
            · refine ((h.modCore _ _).endMatrix _ _ _ _).foldl (fun _ x g => ?_) _
              split
              · exact g.endMatrix _ _ _ _
              · exact g
    · exact h

theorem execBld (h : Inv s) (x : EngArgs) : NextInv (Machine.execBld x s) := by
  unfold Machine.execBld
  refine h.runLane _ (fun _ => ?_)
  dsimp only
  split
  · exact h.laneFault _ _ _ _
  · split
    · exact h.laneFault _ _ _ _
    · split
      · exact h.launchOp _ _ _ _ _
      · exact (h.launchOp _ _ _ _ _).recordLaneFault _ _

theorem execBldComplete (h : Inv s) (core slot op : Nat) : NextInv (Machine.execBldComplete core slot op s) := by
  unfold Machine.execBldComplete
  refine .next ?_
  split
  · exact h
  · split
    · exact (h.modCore _ _).endMatrix _ _ _ _
    · exact h

theorem execLdacc (h : Inv s) (x : EngArgs) : NextInv (Machine.execLdacc x s) := by
  unfold Machine.execLdacc
  refine h.runLane _ (fun _ => ?_)
  dsimp only
  split
  · exact h.laneFault _ _ _ _
  · split
    · exact h.laneFault _ _ _ _
    · split
      · exact (h.foldl (fun _ _ g => g.writeV _ _ _ _ _) _).laneFault _ _ _ _
      · exact (h.foldl (fun _ _ g => g.writeV _ _ _ _ _) _).dispatched _

theorem execStacc (h : Inv s) (x : EngArgs) : NextInv (Machine.execStacc x s) := by
  unfold Machine.execStacc
  refine h.runLane _ (fun _ => ?_)
  dsimp only
  split
  · exact h.laneFault _ _ _ _
  · split
    · exact h.laneFault _ _ _ _
    · exact h.launchOp _ _ _ _ _

theorem execZacc (h : Inv s) (x : EngArgs) : NextInv (Machine.execZacc x s) := by
  unfold Machine.execZacc
  refine h.runLane _ (fun _ => ?_)
  split
  · exact h.laneFault _ _ _ _
  · split
    · exact h.laneFault _ _ _ _
    · exact h.launchOp _ _ _ _ _

theorem execAccWriteApplied (h : Inv s) (core slot op : Nat) :
    NextInv (Machine.execAccWriteApplied core slot op s) := by
  unfold Machine.execAccWriteApplied
  refine .next ?_
  dsimp only
  split
  · exact h
  · split
    · split
      · exact h
      · split <;> exact (h.setCore _ _).endMatrix _ _ _ _
    · exact h

theorem execDupmap (h : Inv s) (x : EngArgs) : NextInv (Machine.execDupmap x s) := by
  unfold Machine.execDupmap
  refine h.runLane _ (fun _ => ?_)
  dsimp only
  split
  · exact h.laneFault _ _ _ _
  · split
    · exact h.laneFault _ _ _ _
    · split
      · exact h.laneFault _ _ _ _
      · split
        · exact h.laneFault _ _ _ _
        · split
          · exact h.laneFault _ _ _ _
          · exact .ite ((h.modCore _ _).dispatched _) (h.laneFault _ _ _ _)

/-! #### Straggler records (R134, R135, R370) -/

theorem srecTouch (h : Inv s) {tr : Translator} (htr : ∀ u a, Inv u → Inv (tr u a).1) (va n : Nat) :
    Inv (Machine.srecTouch tr s va n).1 := by
  unfold Machine.srecTouch
  split
  next e => exact (htr _ _ h).of_eq e
  next e =>
    have h1 := (htr _ _ h).of_eq e
    split
    · exact h1.unheard _
    · exact h1

theorem homePut (h : Inv s) (pa : Nat) (bs : List Byte) : Inv (s.homePut pa bs) := by
  unfold State.homePut
  split
  next e => exact h.homeWrite _ _ e
  · exact h

theorem srecEntries (h : Inv s) {tr : Translator} (htr : ∀ u a, Inv u → Inv (tr u a).1) (srec i n : Nat) :
    Inv (Machine.srecEntries tr s srec i n).1 := by
  induction n generalizing s i with
  | zero => exact h
  | succ n ih =>
    unfold Machine.srecEntries
    split
    next e => exact (h.srecTouch htr _ _).of_eq e
    next e =>
      have hn := ih ((h.srecTouch htr _ _).of_eq e) (i + 1)
      split
      next e1 => exact hn.of_eq e1
      next e1 => exact hn.of_eq e1

theorem srecLoad (h : Inv s) {tr : Translator} (htr : ∀ u a, Inv u → Inv (tr u a).1) (srec : Nat) :
    Inv (Machine.srecLoad tr s srec).1 := by
  unfold Machine.srecLoad
  split
  next e => exact (h.srecTouch (fun _ _ g2 => htr _ _ g2) _ _).of_eq e
  next e =>
    have h1 := (h.srecTouch (fun _ _ g2 => htr _ _ g2) _ _).of_eq e
    split
    · exact h1
    · split
      next e => exact (h1.srecEntries (fun _ _ g3 => htr _ _ g3) _ _ _).of_eq e
      next e => split <;> exact (h1.srecEntries (fun _ _ g3 => htr _ _ g3) _ _ _).of_eq e

theorem srecCheck (h : Inv s) {tr : Translator} (htr : ∀ u a, Inv u → Inv (tr u a).1) (srec : Nat) :
    Inv (Machine.srecCheck tr s srec).1 := by
  unfold Machine.srecCheck
  split
  next e => exact (h.srecLoad (fun _ _ g2 => htr _ _ g2) _).of_eq e
  next e => exact (h.srecLoad (fun _ _ g2 => htr _ _ g2) _).of_eq e

theorem srecArrive (h : Inv s) {tr : Translator} (htr : ∀ u a, Inv u → Inv (tr u a).1) (srec m time : Nat) :
    Inv (Machine.srecArrive tr s srec m time).1 := by
  unfold Machine.srecArrive
  split
  next e => exact (h.srecLoad (fun _ _ g2 => htr _ _ g2) _).of_eq e
  next e =>
    have h1 := (h.srecLoad (fun _ _ g2 => htr _ _ g2) _).of_eq e
    split
    · exact h1
    · exact h1.homePut _ _

theorem srecUpdate (h : Inv s) {tr : Translator} (htr : ∀ u a, Inv u → Inv (tr u a).1) (srec : Nat) (dev : Bool) :
    Inv (Machine.srecUpdate tr s srec dev).1 := by
  unfold Machine.srecUpdate
  split
  next e => exact (h.srecLoad (fun _ _ g2 => htr _ _ g2) _).of_eq e
  next e => exact (((h.srecLoad (fun _ _ g2 => htr _ _ g2) _).of_eq e).foldl (fun _ _ g2 => g2.homePut _ _)
    _).homePut _ _

/-! #### Barrier objects (R131 to R133, R255) -/

theorem portTr (h : Inv s) (core : Nat) (t : Team) (x2 : Nat) : Inv (Machine.portTr core t s x2).1 := by
  unfold Machine.portTr
  split
  · exact h
  · split
    next e => exact (h.translate _ _ _ _ _).of_eq e
    next e => exact ((h.translate _ _ _ _ _).of_eq e).evict _ _

theorem putBar (h : Inv s) (core : Nat) (t : Team) (off : Nat) (f : Bar → Bar) : Inv (s.putBar core t off f) :=
  (h.modCore _ _).modTeam _ _ _

theorem modBar (h : Inv s) (core : Nat) (t : Team) (off : Nat) (f : Bar → Bar) : Inv (s.modBar core t off f) :=
  .ite h (h.putBar _ _ _ _)

theorem holdBar (h : Inv s) (core team off : Nat) (asid : Asid) (c : Cause) (va : Nat) (op : Option (Nat × Nat))
    (completing : Bool) :
    Inv (s.holdBar core team off asid c va op completing) := (h.addFault _).modCore _ _

theorem sendMessage (h : Inv s) (p : Packet) : Inv (s.sendMessage p) := h.sendPacket _

theorem memberReport (h : Inv s) (m : MemberRep) : Inv (s.memberReport m) := by
  unfold State.memberReport
  split
  · split
    · exact h.modBar _ _ _ _
    · exact h
  · exact h.sendMessage _

theorem fabReports (h : Inv s) : Inv s.fabReports := .ite h (h.rest.foldl (fun _ _ g => g.memberReport _) _)

theorem joinFabric (h : Inv s) (core team off root : Nat) (asid : Asid) (pcount : Nat) :
    Inv (s.joinFabric core team off root asid pcount) := ((h.phaseRel _ _).rest).fabReports

theorem barTest (h : Inv s) (core team : Nat) (t : Team) (off : Nat) (op : Option (Nat × Nat)) :
    Inv (s.barTest core team t off op).1 := by
  have hr (a : Nat) : Inv (Machine.srecUpdate (Machine.portTr core t) s a false).1 :=
    h.srecUpdate (fun _ _ g => g.portTr _ _ _) _ _
  unfold State.barTest
  refine .fst_ite h (.fst_ite (.fst_ite ?_ (h.modBar _ _ _ _)) (.fst_ite ?_ ((h.modBar _ _ _ _).modCore _ _)))
  · split
    next e => exact ((hr _).of_eq e).modBar _ _ _ _
    next e => exact ((hr _).of_eq e).modBar _ _ _ _
    next e => exact ((hr _).of_eq e).holdBar _ _ _ _ _ _ _ _
  · dsimp only
    have hb := h.modBar core t off fun b => { b with w0 := putField b.w0 60 1 1 }
    exact (hb.modCore _ _).joinFabric _ _ _ _ _ _

theorem barBytes (h : Inv s) (core team : Nat) (t : Team) (off n : Nat) : Inv (s.barBytes core team t off n) :=
  .ite h (.ite ((h.modBar _ _ _ _).barTest _ _ _ _ _) (h.modBar _ _ _ _))

theorem setGangBar (h : Inv s) (b : GangBar) : Inv (s.setGangBar b) := h.rest

theorem hubTr (h : Inv s) (asid : Asid) (priv : Bool) (x2 : Nat) : Inv (Machine.hubTr asid priv s x2).1 := by
  unfold Machine.hubTr
  split <;> exact h

theorem modGangBars (h : Inv s) (ts : List (Nat × Nat × Team)) (off : Nat) (f : Bar → Bar) :
    Inv (s.modGangBars ts off f) := h.foldl (fun _ _ g => g.modBar _ _ _ _) _

theorem dropGangBar (h : Inv s) (gang off : Nat) : Inv (s.dropGangBar gang off) := h.rest

theorem breakGangBar (h : Inv s) (gang off : Nat) : Inv (s.breakGangBar gang off) :=
  (h.modGangBars _ _ _).dropGangBar _ _

theorem reportGangBar (h : Inv s) (gang off teamId : Nat) : Inv (s.reportGangBar gang off teamId) := h.setGangBar _

theorem arrival (h : Inv s) (core slot : Nat) (w : Warp) (t : Team) (o : Op) (off : Nat) (bytes root : Option Nat) :
    Inv (s.arrival core slot w t o off bytes root).1 := by
  have hp : ∀ u a, Inv u → Inv (Machine.portTr core t u a).1 := fun _ _ g => g.portTr _ _ _
  unfold State.arrival
  dsimp only
  refine .fst_ite h (.fst_ite h (.fst_ite (h.modBar _ _ _ _) ?_))
  split
  next e =>
    exact (Inv.fst_ite (h.srecArrive hp _ _ _) (.fst_ite (h.srecArrive hp _ _ _)
      (.fst_ite (h.srecCheck hp _) h))).of_eq e
  next e =>
    refine .holdBar (.of_eq ?_ e) _ _ _ _ _ _ _ _
    exact .fst_ite (h.srecArrive hp _ _ _) (.fst_ite (h.srecArrive hp _ _ _) (.fst_ite (h.srecCheck hp _) h))
  next u e =>
    have hu : Inv u := .of_eq
      (.fst_ite (h.srecArrive hp _ _ _) (.fst_ite (h.srecArrive hp _ _ _) (.fst_ite (h.srecCheck hp _) h))) e
    refine .ite (.reportGangBar (.phaseRel ?_ _ _) _ _ _) ?_ <;>
    · refine .barTest (.modWarp ?_ _ _ _) _ _ _ _ _
      split
      · exact (hu.modBar _ _ _ _).modCore _ _
      · exact hu.modBar _ _ _ _

theorem endArrival (core slot : Nat) (o : Op) {r : State × ArrRes} (h : Inv r.1) :
    Inv (Machine.endArrival core slot o r) := by
  obtain ⟨u, _ | _ | c⟩ := r
  · exact h.finishOp _ _ _
  · exact h
  · exact h.finishOp _ _ _

theorem execArrivalPerformed (h : Inv s) (core slot op : Nat) :
    NextInv (Machine.execArrivalPerformed core slot op s) := by
  unfold Machine.execArrivalPerformed
  refine .next ?_
  split
  · exact h
  · split
    · exact .ite h (((h.modCore _ _).arrival _ _ _ _ _ _ _ _).endArrival _ _ _)
    · exact h

theorem arriveDispatch (h : Inv s) (i : Instr) (x : EngArgs) (bytes root : LCtx → Option Nat) :
    NextInv (Machine.arriveDispatch s i x bytes root) := by
  unfold Machine.arriveDispatch
  refine h.runLane _ (fun _ => ?_)
  split
  · exact h.laneFault _ _ _ _
  · split
    · exact .ite (h.laneFault _ _ _ _) (h.launchOp _ _ _ _ _)
    · exact h.launchOp _ _ _ _ _

theorem execBarinit (h : Inv s) (x : EngArgs) : NextInv (Machine.execBarinit x s) := by
  unfold Machine.execBarinit
  refine h.runLane _ (fun _ => ?_)
  split
  · exact h.laneFault _ _ _ _
  · exact .ite (h.laneHold _ _) ((h.putBar _ _ _ _).dispatched _)

theorem execBartry (h : Inv s) (x : EngArgs) : NextInv (Machine.execBartry x s) := by
  unfold Machine.execBartry
  refine h.runLane _ (fun _ => ?_)
  split
  · exact h.laneFault _ _ _ _
  · exact .ite (h.laneFault _ _ _ _) (.ite (h.laneFault _ _ _ _)
      ((h.foldl (fun _ _ g => g.writeV _ _ _ _ _) _).dispatched _))

theorem heldOp (h : Inv s) (core slot : Nat) (t : Team) (ho : HeldObj) (id : Nat) (failed : Bool) :
    Inv (s.heldOp core slot t ho id failed) := by
  unfold State.heldOp
  split
  · exact h
  · split
    · exact .ite (.ite ((h.modBar _ _ _ _).finishOp _ _ _) (.ite ((h.barTest _ _ _ _ _).finishOp _ _ _)
        (h.barTest _ _ _ _ _))) (.ite (h.finishOp _ _ _) ((h.arrival _ _ _ _ _ _ _ _).endArrival _ _ _))
    · exact h

theorem execStragglerRecordReplayed (h : Inv s) (core off : Nat) :
    NextInv (Machine.execStragglerRecordReplayed core off s) := by
  unfold Machine.execStragglerRecordReplayed
  refine .next ?_
  dsimp only
  split
  · exact h
  · split
    · exact h
    · split
      · exact h
      · split
        · exact (h.modCore _ _).heldOp _ _ _ _ _ _
        · exact .ite (.ite ((h.modCore _ _).modBar _ _ _ _) ((h.modCore _ _).barTest _ _ _ _ _))
            (.ite ((h.modCore _ _).breakGangBar _ _) (h.modCore _ _))

theorem execGangBarrierReport (h : Inv s) (core team off : Nat) :
    NextInv (Machine.execGangBarrierReport core team off s) := by
  unfold Machine.execGangBarrierReport
  refine .next ?_
  split
  · exact h
  next t _ =>
    have hr (a m n : Nat) (c : Bool) :
        Inv (if c then Machine.srecArrive (Machine.portTr core t) (s.phaseRel core none).1 a m n else
          ((s.phaseRel core none).1, SrecRes.ok)).1 :=
      .fst_ite ((h.phaseRel _ _).srecArrive (fun _ _ g => g.portTr _ _ _) _ _ _) (h.phaseRel _ _)
    dsimp only
    refine .ite h ?_
    split
    next e => exact ((hr _ _ _ _).of_eq e).breakGangBar _ _
    next e => exact ((hr _ _ _ _).of_eq e).holdBar _ _ _ _ _ _ _ _
    next e => exact ((hr _ _ _ _).of_eq e).reportGangBar _ _ _

theorem execGangBarrierComplete (h : Inv s) (gang off : Nat) : NextInv
    (Machine.execGangBarrierComplete gang off s) := by
  unfold Machine.execGangBarrierComplete
  refine .next ?_
  dsimp only
  split
  next t _ _ _ _ _ =>
    have hr (a : Nat) (c : Bool) :
        Inv (if c then Machine.srecUpdate (Machine.hubTr t.asid t.priv) s a false else (s, SrecRes.ok, [])).1 :=
      .fst_ite (h.srecUpdate (fun _ _ g => g.hubTr _ _ _) _ _) h
    refine .ite h (.ite ((h.modGangBars _ _ _).dropGangBar _ _) ?_)
    split
    next e => exact (((hr _ _).of_eq e).modGangBars _ _ _).dropGangBar _ _
    next e => exact (((hr _ _).of_eq e).addFault _).setGangBar _
    next e => exact ((((hr _ _).of_eq e).foldl (fun _ _ g => g.phaseAcq _) _).modGangBars _ _ _).dropGangBar _ _
  · exact h

/-! #### Copy channels (R62, R63, R115 to R118) -/

theorem execKick (h : Inv s) (x : EngArgs) : NextInv (Machine.execKick x s) := by
  unfold Machine.execKick
  refine h.runLane _ (fun _ => ?_)
  dsimp only
  split
  · exact h.laneFault _ _ _ _
  · split
    · exact h.dispatched _
    · split
      · exact (h.modCore _ _).dispatched _
      · exact h.laneHold _ _

theorem execWptr (h : Inv s) (x : EngArgs) : NextInv (Machine.execWptr x s) :=
  h.runLane _ (fun _ => (h.foldl (fun _ _ g => g.writeV _ _ _ _ _) _).dispatched _)

theorem modRec (h : Inv s) (core chan : Nat) (f : CopyRec → CopyRec) : Inv (s.modRec core chan f) := h.modCore _ _

theorem execCopyRecordBegin (h : Inv s) (core chan : Nat) : NextInv (Machine.execCopyRecordBegin core chan s) := by
  unfold Machine.execCopyRecordBegin
  refine .next ?_
  dsimp only
  split
  · split <;> exact h.modCore _ _
  · exact h

theorem copyBar (h : Inv s) (core : Nat) (r : CopyRec) (c n : Nat) : Inv (s.copyBar core r c n) := by
  unfold State.copyBar
  split
  · split
    · exact .ite (h.barBytes _ _ _ _ _) h
    · exact h
  · exact h

theorem copyMoved (h : Inv s) (core : Nat) (r : CopyRec) (n : Nat) : Inv (s.copyMoved core r n) := h.modTeam _ _ _

theorem copyMark (h : Inv s) (core : Nat) (r : CopyRec) (code : Nat) : Inv (s.copyMark core r code) := by
  unfold State.copyMark
  split
  · exact h
  · exact h.modCore _ _

theorem copyDone (h : Inv s) (core chan : Nat) (r : CopyRec) (run : CopyRun) (n : Nat) :
    Inv (s.copyDone core chan r run n) :=
  ((((h.modCore _ _).copyMark _ _ _).ite (h.modCore _ _)).copyMoved _ _ _).foldl (fun _ _ g => g.copyBar _ _ _ _) _

theorem copyFault (h : Inv s) (core chan : Nat) (t : Team) (r : CopyRec) (c : Cause) (va : Nat) :
    Inv (s.copyFault core chan t r c va) := .ite ((h.addFault _).modRec _ _ _) (h.modRec _ _ _)

theorem copyFill (h : Inv s) (core chan : Nat) (r : CopyRec) (run : CopyRun) (bs : List Byte) :
    Inv (s.copyFill core chan r run bs) := by
  unfold State.copyFill
  refine .copyDone ?_ _ _ _ _ _
  refine h.foldl (fun _ x g => ?_) _
  split
  · exact g.modCore _ _
  · exact g

theorem engineRead (h : Inv s) (core : Nat) (t : Team) (va : Nat) : Inv (s.engineRead core t va).1 := by
  unfold State.engineRead
  split
  next e => exact (h.translate _ _ _ _ _).of_eq e
  next e =>
    have h1 := (h.translate _ _ _ _ _).of_eq e
    split
    · exact h1
    · split
      · exact h1.unheard _
      · exact h1

theorem engineWrite (h : Inv s) (core team : Nat) (t : Team) (va : Nat) (bs : List Byte) :
    Inv (s.engineWrite core team t va bs).1 := by
  unfold State.engineWrite
  split
  next e => exact (h.translate _ _ _ _ _).of_eq e
  next e =>
    have h1 := (h.translate _ _ _ _ _).of_eq e
    split
    · exact h1
    · split
      next e => exact (h1.gateStore _ _ _ _ _ _ _).of_eq e
      next e =>
        have h2 := (h1.gateStore _ _ _ _ _ _ _).of_eq e
        split
        · exact h2.unheard _
        next e => exact (h2.homeWrite _ _ e).countWrite _ _ _ _ _

theorem copySend (h : Inv s) (core chan : Nat) (t : Team) (r : CopyRec) (run : CopyRun) (g : Nat) :
    Inv (s.copySend core chan t r run g) := by
  unfold State.copySend
  dsimp only
  split
  · exact h.copyFault _ _ _ _ _ _
  · split
    next e => exact ((h.request _ _ _).of_eq e).copyFault _ _ _ _ _ _
    next e => exact ((h.request _ _ _).of_eq e).modRec _ _ _

theorem copyUnit (h : Inv s) (core chan : Nat) (t : Team) (r : CopyRec) : Inv (s.copyUnit core chan t r) := by
  unfold State.copyUnit
  dsimp only
  split
  · exact h.copyFault _ _ _ _ _ _
  · split
    · exact h.copyFault _ _ _ _ _ _
    · split
      · exact h.copySend _ _ _ _ _ _
      · split
        · split
          · exact h.copyFault _ _ _ _ _ _
          · split
            next e => exact ((h.engineWrite _ _ _ _ _).of_eq e).copyFault _ _ _ _ _ _
            next e => exact ((h.engineWrite _ _ _ _ _).of_eq e).copyDone _ _ _ _ _
        · split
          next e => exact ((h.engineRead _ _ _).of_eq e).copyFault _ _ _ _ _ _
          next e => exact ((h.engineRead _ _ _).of_eq e).copyFill _ _ _ _ _

theorem copyTake (h : Inv s) (core chan : Nat) (t : Team) (r : CopyRec) (res : Option Cause × List Byte) :
    Inv (s.copyTake core chan t r res) := by
  unfold State.copyTake
  dsimp only
  split
  · exact (h.modRec _ _ _).copyFault _ _ _ _ _ _
  · exact h.modRec _ _ _
  · exact .ite (((h.modRec _ _ _).countWrite _ _ _ _ _).copyDone _ _ _ _ _) ((h.modRec _ _ _).copyFill _ _ _ _ _)

theorem copyNext (h : Inv s) (core chan : Nat) (t : Team) (r : CopyRec) : Inv (s.copyNext core chan t r) := by
  unfold State.copyNext
  split
  · exact h.copyTake _ _ _ _ _
  · exact h.copyUnit _ _ _ _

theorem copyUnits (h : Inv s) (core chan n : Nat) : Inv (s.copyUnits core chan n) := by
  induction n generalizing s with
  | zero => exact h
  | succ n ih =>
    unfold State.copyUnits
    split
    · exact h
    · split
      · exact h
      · split
        · exact h
        · exact ih (h.copyNext _ _ _ _)

theorem copyReply (h : Inv s) (core chan tag : Nat) (res : Except Cause (List Byte)) :
    Inv (s.copyReply core chan tag res) := by
  unfold State.copyReply
  split
  · exact h
  · exact .ite h ((h.modRec _ _ _).copyUnits _ _ _)

theorem freeParts (h : Inv s) : Inv s.freeParts := h.rest

theorem noteFinish (h : Inv s) (core chan : Nat) (r : CopyRec) (code : Nat) : Inv (s.noteFinish core chan r code) :=
  h.modTeam _ _ _

theorem execCopyRecordFinish (h : Inv s) (core chan : Nat) : NextInv (Machine.execCopyRecordFinish core chan s) := by
  unfold Machine.execCopyRecordFinish
  refine .next ?_
  split
  · exact h
  · split
    · exact .ite h (((((h.ite (h.copyMark _ _ _)).foldl (fun _ _ g => g.copyBar _ _ _ _) _).modCore _ _).noteFinish
        _ _ _ _).freeParts)
    · exact h

/-! #### Join objects and continuation queues (R9 to R12) -/

theorem setQueue (h : Inv s) (q : Nat) (c : CQueue) : Inv (s.setQueue q c) := h.rest

theorem hubPut (h : Inv s) (pa : Nat) (bs : List Byte) : Inv (s.hubPut pa bs) := by
  unfold State.hubPut
  split
  next e => exact h.homeWrite _ _ e
  · exact (h.writeMem pa bs).noteWatch _ _

theorem noteHead (h : Inv s) (q : Nat) : Inv (s.noteHead q) := .ite h h.rest

theorem append (h : Inv s) (q : Nat) (rs : List (List Byte)) : Inv (s.append q rs) := by
  induction rs generalizing s with
  | nil => exact h
  | cons r rs ih => exact ih (((h.hubPut _ _).setQueue _ _).noteHead _)

theorem queueInvalid (h : Inv s) (asid : Asid) (va source unit : Nat) : Inv (s.queueInvalid asid va source unit) :=
  h.addFault _

theorem removeRegions (h : Inv s) (asid : Asid) (join : Nat) : Inv (s.removeRegions asid join) := h.rest

theorem ackDec (h : Inv s) (a : DecAck) : Inv (s.ackDec a) := by
  unfold State.ackDec
  split
  · exact h
  · split
    · exact h.updateOp _ _ _
    · exact h
  · exact h.answer _ _ _

theorem pushDec (h : Inv s) (d : JoinDec) : Inv (s.pushDec d) := h.rest

theorem decOver (h : Inv s) (d : JoinDec) : Inv (s.decOver d) := by
  unfold State.decOver
  refine .ackDec ?_ _
  split
  · exact h.removeRegions _ _
  · exact h

theorem refuseDec (h : Inv s) (d : JoinDec) : Inv (s.refuseDec d) :=
  .ite ((h.addFault _).decOver _) ((h.addFault _).pushDec _)

theorem decrement (h : Inv s) (fuel : Nat) (d : JoinDec) : Inv (State.decrement fuel s d) := by
  induction fuel generalizing s d with
  | zero => exact h.pushDec _
  | succ fuel ih =>
    unfold State.decrement
    split
    · exact .ite ((h.addFault _).pushDec _) ((h.unheardAt _ _ _).refuseDec _)
    next j _ =>
      have hd := (h.hubPut j.pa (leBytes 4 (j.count - 1))).decOver d
      exact .ite (h.refuseDec _)
        (.ite hd (.ite (hd.refuseDec _) (.ite hd.rest (.ite (ih hd _) (hd.removeRegions _ _)))))

theorem joinDecrement (h : Inv s) (asid : Asid) (va : Nat) (ack : DecAck) : Inv (s.joinDecrement asid va ack) :=
  h.decrement _ _

theorem afterSucc (h : Inv s) (x : Successor) : Inv (s.afterSucc x) := .ite (h.decrement _ _) (h.removeRegions _ _)

theorem refuseSucc (h : Inv s) (x : Successor) : Inv (s.refuseSucc x) :=
  .ite ((h.rest.addFault _).afterSucc _) h.rest

theorem execSuccessorAppend (h : Inv s) (q : Nat) : NextInv (Machine.execSuccessorAppend q s) := by
  unfold Machine.execSuccessorAppend
  refine .next ?_
  split
  · exact h
  · split
    · exact .ite (h.rest.afterSucc _) h
    · exact .ite (h.refuseSucc _) (.ite h ((h.rest.append _ _).afterSucc _))

theorem execJoinDecrementReplayed (h : Inv s) (n : Nat) : NextInv (Machine.execJoinDecrementReplayed n s) := by
  unfold Machine.execJoinDecrementReplayed
  refine .next ?_
  split
  · exact h
  · split
    · exact .ite (h.rest.decOver _) h
    · exact h
    · exact h.rest.decrement _ _
    · exact h.rest.refuseDec _

theorem joinAdd {t : State} (h : Inv s) (asid : Asid) (va n : Nat) (e : s.joinAdd asid va n = .ok t) : Inv t := by
  unfold State.joinAdd at e
  split at e
  · cases e
  · split at e
    · cases e
    · cases e
      exact h.hubPut _ _

/-! #### What the hub writes for software (R123, R287) -/

theorem msix (h : Inv s) (v : Nat) : Inv (s.msix v) := h.modHub _

theorem msixUnmask (h : Inv s) : Inv s.msixUnmask := h.foldl (fun _ _ g => (g.modHub _).ite g) _

theorem ringPut (h : Inv s) (base size widx : Nat) (us : List (List Byte)) : Inv (s.ringPut base size widx us) := by
  induction us generalizing s widx with
  | nil => exact h
  | cons u us ih =>
    unfold State.ringPut
    refine ih ?_ _
    split
    next e => exact h.homeWrite _ _ e
    · exact (h.writeMem _ u).noteWatch _ _

theorem execFaultRecordWrite (h : Inv s) : NextInv (Machine.execFaultRecordWrite s) := by
  unfold Machine.execFaultRecordWrite
  refine .next ?_
  split
  · exact h
  · exact .ite h (.ite (((h.ringPut _ _ _ _).modHub _).msix _) ((h.ringPut _ _ _ _).modHub _))

theorem orphan (h : Inv s) (r : Remote) : Inv (s.orphan r) :=
  .ite h (.ite (.ite (((h.ringPut _ _ _ _).modHub _).msix _) ((h.ringPut _ _ _ _).modHub _)) (h.modHub _))

theorem capture (h : Inv s) (asid kind va peer inc : Nat) (payload : List Byte) :
    Inv (s.capture asid kind va peer inc payload) := .ite (h.modHub _) h

theorem noteWidx (h : Inv s) (before : State) (pa n : Nat) : Inv (s.noteWidx before pa n) :=
  h.foldl (fun _ _ g => g.ite (g.noteClaim _ _ _)) _

theorem hostPut (h : Inv s) (pa : Nat) (bs : List Byte) : Inv (s.hostPut pa bs) := by
  unfold State.hostPut
  dsimp only
  split
  next e => exact ((h.capture _ _ _ _ _ _).homeWrite _ _ e).noteWidx _ _ _
  · exact h.capture _ _ _ _ _ _

theorem drainPosted (h : Inv s) : Inv s.drainPosted := .ite h ((h.modHub _).foldl (fun _ _ g => g.hostPut _ _) _)

theorem hostIn (h : Inv s) {f : State → State} (hf : ∀ u, Inv u → Inv (f u)) : Inv (s.hostIn f) :=
  .ite h (hf _ h.wake.drainPosted)

theorem execCaptureRecordWrite (h : Inv s) : NextInv (Machine.execCaptureRecordWrite s) := by
  unfold Machine.execCaptureRecordWrite
  refine .next ?_
  split
  · exact h
  · exact .ite h (.ite (((h.ringPut _ _ _ _).modHub _).msix _) ((h.ringPut _ _ _ _).modHub _))

/-! #### Block transfer engines (R119 to R122) -/

theorem modBte (h : Inv s) (q : Nat) (f : BteQ → BteQ) : Inv (s.modBte q f) := h.modHub _

theorem modPkt (h : Inv s) (q : Nat) (f : BtePkt → BtePkt) : Inv (s.modPkt q f) := h.modBte _ _

theorem bteWrite (h : Inv s) (asid : Asid) (va : Nat) (bs : List Byte) : Inv (s.bteWrite asid va bs).1 := by
  unfold State.bteWrite
  split
  · exact h
  · split
    · exact h.regStore _ _ _ _
    · split
      next e => exact (h.gateStore _ _ _ _ _ _ _).of_eq e
      next e =>
        have h1 := (h.gateStore _ _ _ _ _ _ _).of_eq e
        split
        · exact h1.unheard _
        next e => exact h1.homeWrite _ _ e

theorem bteSees {t : State} (h : Inv s) (a : Asid) (rs : List (Nat × List Byte)) (e : s.bteSees a rs = some t) :
    Inv t := by
  unfold State.bteSees at e
  dsimp only at e
  split at e
  · cases e
  · cases e
    exact h.foldl (fun _ _ g => g.capture _ _ _ _ _ _) _

theorem bteStallIn (h : Inv s) (q : Nat) (a : Asid) (c : Cause) (va : Nat) (acc : Access) :
    Inv (s.bteStallIn q a c va acc) := (h.addFault _).modPkt _ _

theorem bteStall (h : Inv s) (q : Nat) (c : Cause) (va : Nat) (acc : Access) : Inv (s.bteStall q c va acc) :=
  h.bteStallIn _ _ _ _ _

theorem looked (h : Inv s) (q : Nat) : Inv (s.looked q) := h.rest

theorem bteLookFault (h : Inv s) (q n : Nat) (c : Cause) (va : Nat) : Inv (s.bteLookFault q n c va) :=
  .ite ((h.modBte _ _).bteStall _ _ _ _) (h.looked _)

theorem execBteBell (h : Inv s) (q : Nat) : NextInv (Machine.execBteBell q s) := by
  unfold Machine.execBteBell
  refine .next (.ite h ?_)
  split
  · exact (h.unheardAt _ _ _).bteLookFault _ _ _ _
  · exact (h.unheardAt _ _ _).bteLookFault _ _ _ _
  · refine .ite h ?_
    dsimp only
    split
    · exact h
    next e =>
      have h1 := h.bteSees _ _ e
      split
      · exact .ite (h1.looked _) ((h1.unheardAt _ _ _).bteLookFault _ _ _ _)
      · exact .ite (((h1.looked _).modBte _ _).modHub _) (h1.looked _)

theorem bteFault (h : Inv s) (q : Nat) (c : Cause) (va : Nat) (acc : Access) : Inv (s.bteFault q c va acc) :=
  .ite (h.bteStall _ _ _ _) (h.modPkt _ _)

theorem bteLine (h : Inv s) (q va : Nat) : Inv (s.bteLine q va) := by
  unfold State.bteLine
  split
  · exact .ite (h.modPkt _ _) h
  · exact h

theorem bteStep (h : Inv s) (q : Nat) (p : BtePkt) : Inv (s.bteStep q p) := h.modPkt _ _

theorem bteGot (h : Inv s) (q : Nat) (p : BtePkt) (j : Nat) (bs : List Byte) : Inv (s.bteGot q p j bs) := h.modPkt _ _

theorem bteCut (h : Inv s) (q : Nat) (p : BtePkt) (j : Nat) (c : Cause) : Inv (s.bteCut q p j c) := h.modPkt _ _

theorem bteWrote (h : Inv s) (q : Nat) (p : BtePkt) : Inv (s.bteWrote q p) := .ite (h.modPkt _ _) (h.bteStep _ _)

theorem bteAccess (h : Inv s) (q : Nat) (p : BtePkt) : Inv (s.bteAccess q p) := by
  unfold State.bteAccess
  dsimp only
  split
  · split
    · split
      next e => exact ((h.request _ _ _).of_eq e).bteCut _ _ _ _
      next e => exact ((h.request _ _ _).of_eq e).modPkt _ _
    · split
      · exact .ite (h.bteStall _ _ _ _) ((h.unheardAt _ _ _).bteCut _ _ _ _)
      · split
        · exact h
        next e => exact (h.bteSees _ _ e).bteGot _ _ _ _
  · split
    · exact h
    · split
      · split
        next e => exact ((h.request _ _ _).of_eq e).bteFault _ _ _ _
        next e => exact ((h.request _ _ _).of_eq e).modPkt _ _
      · split
        next e => exact ((h.bteWrite _ _ _).of_eq e).bteFault _ _ _ _
        next e => exact (((h.bteWrite _ _ _).of_eq e).bteLine _ _).bteWrote _ _

theorem bteRun (h : Inv s) (q kind n : Nat) : Inv (s.bteRun q kind n) := by
  induction n generalizing s with
  | zero => exact h
  | succ n ih =>
    unfold State.bteRun
    split
    · exact h
    · exact .ite h (ih (h.bteAccess _ _))

theorem bteReply (h : Inv s) (q tag : Nat) (res : Except Cause (List Byte)) : Inv (s.bteReply q tag res) := by
  unfold State.bteReply
  split
  · exact h
  · split
    · exact h
    · split
      · split
        · exact h.bteCut _ _ _ _
        · exact h.bteFault _ _ _ _
      · split
        · exact h.bteGot _ _ _ _
        · exact h.bteWrote _ _

theorem execBteFence (h : Inv s) (q : Nat) : NextInv (Machine.execBteFence q s) := by
  unfold Machine.execBteFence
  refine .next ?_
  dsimp only
  split
  · exact h
  · split
    · exact h
    · split
      · exact .ite (h.bteStallIn _ _ _ _ _) ((h.unheardAt _ _ _).modPkt _ _)
      · split
        · split
          · exact h
          next e => exact (h.bteSees _ _ e).modPkt _ _
        · exact h

theorem execBteLaunch (h : Inv s) (q : Nat) : NextInv (Machine.execBteLaunch q s) := by
  unfold Machine.execBteLaunch
  refine .next ?_
  split
  · exact h
  · exact .ite h (.ite (h.modPkt _ _) (.ite (h.modPkt _ _) (.ite h ((h.append _ _).modPkt _ _))))

theorem bteSetWord (h : Inv s) (q i v : Nat) : Inv (s.bteSetWord q i v) := h.bteWrite _ _ _

theorem bteNext (h : Inv s) (q ridx c : Nat) : Inv (s.bteNext q ridx c) :=
  (((h.bteSetWord _ _ _).bteSetWord _ _ _).modBte _ _).bell _

theorem bteComplete (h : Inv s) (q : Nat) (p : BtePkt) (st : Option Cause) (w : List Nat) :
    Inv (s.bteComplete q p st w) := by
  unfold State.bteComplete
  dsimp only
  split
  next e =>
    have h1 := (h.bteWrite _ _ _).of_eq e
    exact .ite (h1.bteStall _ _ _ _) (h1.bteNext _ _ _)
  next e =>
    have h1 := (h.bteWrite _ _ _).of_eq e
    refine .bteNext ?_ _ _ _
    split
    · exact h1.noteRecord _ _
    · exact h1

theorem execBteCompletionWrite (h : Inv s) (q : Nat) : NextInv (Machine.execBteCompletionWrite q s) := by
  unfold Machine.execBteCompletionWrite
  refine .next ?_
  split
  · exact h
  · split
    · split
      · exact .ite (h.bteStall _ _ _ _) (h.unheardAt _ _ _)
      · split
        · exact h
        next e => exact .ite h ((h.bteSees _ _ e).bteComplete _ _ _ _)
    · exact h

/-! #### Claims (R250 to R259) -/

theorem engHome (h : Inv s) (core : Nat) (t : Team) (write : Bool) (r : EngReq) :
    Inv (s.engHome core t write r).1 := by
  unfold State.engHome
  dsimp only
  split
  next e => exact (h.translate _ _ _ _ _).of_eq e
  next e =>
    have h1 := (h.translate _ _ _ _ _).of_eq e
    split
    · split
      · exact h1
      · exact h1.regStore _ _ _ _
      · exact h1
    · split
      · split
        · exact (h1.evict _ _).unheard _
        · exact h1.evict _ _
      · split
        next e => exact ((h1.evict _ _).gateStore _ _ _ _ _ _ _).of_eq e
        next e =>
          have h2 := ((h1.evict _ _).gateStore _ _ _ _ _ _ _).of_eq e
          split
          · exact h2.unheard _
          · split
            · exact h2.unheard _
            next e =>
              have h3 := h2.homeWrite _ _ e
              exact (h3.noteClaim _ _ _).ite h3
      · split
        next e => exact ((h1.evict _ _).gateStore _ _ _ _ _ _ _).of_eq e
        next e =>
          have h2 := ((h1.evict _ _).gateStore _ _ _ _ _ _ _).of_eq e
          split
          · exact h2.unheard _
          next e => exact h2.homeWrite _ _ e
      · exact h1.evict _ _

theorem pushLanes (h : Inv s) (core slot : Nat) (x : EngArgs) (o : Op) (log2 n0 ridx : Nat) :
    Inv (s.pushLanes core slot x o log2 n0 ridx).1 := h.foldl (fun _ _ g => (g.writeV _ _ _ _ _).ite g) _

theorem claimGot (h : Inv s) (core slot : Nat) (o : Op) (stage : Nat) (vals : List Nat) (r : Nat) :
    Inv (s.claimGot core slot o stage vals r) := by
  unfold State.claimGot
  dsimp only
  split
  · exact .ite ((((h.irrevWarp _ _).ite h).pushLanes _ _ _ _ _ _ _).updateOp _ _ _)
      (((h.irrevWarp _ _).ite h).updateOp _ _ _)
  · exact .ite (((h.irrevWarp _ _).ite h).updateOp _ _ _) (((h.irrevWarp _ _).ite h).updateOp _ _ _)
  · exact ((h.irrevWarp _ _).ite h).updateOp _ _ _

theorem claimDone (h : Inv s) (core slot : Nat) (o : Op) (vals : List Nat) : Inv (s.claimDone core slot o vals) := by
  unfold State.claimDone
  refine .updateOp ?_ _ _ _
  split
  · exact h.modWarp _ _ _
  · exact h

theorem claimAsk (h : Inv s) (core slot : Nat) (t : Team) (o : Op) (a : Acc) (stage : Nat) (vals : List Nat)
    (r : EngReq) :
    Inv (s.claimAsk core slot t o a stage vals r) := by
  unfold State.claimAsk
  split
  · split
    next e => exact ((h.request _ _ _).of_eq e).updateOp _ _ _
    next e => exact ((h.request _ _ _).of_eq e).setOp _ _ _
  · split
    · exact ((h.setOp _ _ _).setOp _ _ _).joinDecrement _ _ _
    · split
      next e => exact ((h.engHome _ _ _ _).of_eq e).claimGot _ _ _ _ _ _
      next e =>
        have h1 := (h.engHome _ _ _ _).of_eq e
        exact .ite ((h1.addFault _).setOp _ _ _) (h1.updateOp _ _ _)

theorem claimStep (h : Inv s) (core slot id : Nat) : Inv (s.claimStep core slot id) := by
  unfold State.claimStep
  dsimp only
  split
  · exact h
  · split
    · exact h
    · split
      · exact h.updateOp _ _ _
      · split
        · exact h
        · split
          · exact ((h.releaseStep _ _ _).setOp _ _ _).updateOp _ _ _
          · split
            · exact (h.releaseStep _ _ _).setOp _ _ _
            · split
              · split
                · exact .ite ((h.releaseStep _ _ _).setOp _ _ _)
                    (((h.releaseStep _ _ _).setOp _ _ _).claimAsk _ _ _ _ _ _ _ _)
                · exact ((h.releaseStep _ _ _).setOp _ _ _).claimDone _ _ _ _
                · exact ((h.releaseStep _ _ _).setOp _ _ _).updateOp _ _ _
              · exact (h.releaseStep _ _ _).setOp _ _ _

theorem claimReply (h : Inv s) (core slot id tag : Nat) (res : Except Cause (List Byte)) :
    Inv (s.claimReply core slot id tag res) := by
  unfold State.claimReply
  dsimp only
  split
  · exact h
  · split
    · split
      · exact ((h.irrevWarp _ _).ite h).updateOp _ _ _
      · split
        · exact h.claimGot _ _ _ _ _ _
        · exact h.claimGot _ _ _ _ _ _
        · exact h.claimGot _ _ _ _ _ _
        · exact h
    · exact h

theorem execQpush (h : Inv s) (x : EngArgs) : NextInv (Machine.execQpush x s) :=
  h.runLane _ (fun _ => (h.laneFault _ _ _ _).ite (h.launchOp _ _ _ _ _))

theorem execQfence (h : Inv s) (x : EngArgs) : NextInv (Machine.execQfence x s) :=
  h.runLane _ (fun _ => (h.laneFault _ _ _ _).ite (h.rest.launchOp _ _ _ _ _))

theorem execTqpop (h : Inv s) (x : EngArgs) : NextInv (Machine.execTqpop x s) :=
  h.runLane _ (fun _ => (h.laneFault _ _ _ _).ite (h.launchOp _ _ _ _ _))

theorem execTqsteal (h : Inv s) (x : EngArgs) : NextInv (Machine.execTqsteal x s) :=
  h.runLane _ (fun _ => (h.laneFault _ _ _ _).ite (h.launchOp _ _ _ _ _))

theorem execTqdone (h : Inv s) (x : EngArgs) : NextInv (Machine.execTqdone x s) :=
  h.runLane _ (fun _ => (h.laneFault _ _ _ _).ite (h.launchOp _ _ _ _ _))

theorem execStrag (h : Inv s) (x : EngArgs) : NextInv (Machine.execStrag x s) := by
  unfold Machine.execStrag
  refine h.runLane _ (fun _ => ?_)
  dsimp only
  split
  · exact h.laneFault _ _ _ _
  · split
    · exact h.laneFault _ _ _ _
    · exact .ite (h.laneFault _ _ _ _) (.ite (h.laneFault _ _ _ _) (h.launchOp _ _ _ _ _))

theorem stragRead (h : Inv s) (core : Nat) (t : Team) (va n : Nat) : Inv (s.stragRead core t va n).1 := by
  unfold State.stragRead
  dsimp only
  split
  · exact h
  · split
    next e => exact (h.translate _ _ _ _ _).of_eq e
    next e =>
      have h1 := (h.translate _ _ _ _ _).of_eq e
      split
      · exact (h1.evict _ _).unheard _
      · exact h1.evict _ _

theorem stragLane (h : Inv s) (core : Nat) (t : Team) (srec m : Nat) : Inv (s.stragLane core t srec m).1 := by
  unfold State.stragLane
  split
  next e => exact (h.stragRead _ _ _ _).of_eq e
  next e =>
    have h1 := (h.stragRead _ _ _ _).of_eq e
    split
    · exact h1
    · split
      · exact h1
      · split
        next e => exact (h1.stragRead _ _ _ _).of_eq e
        next e => split <;> exact (h1.stragRead _ _ _ _).of_eq e

theorem stragLanes (h : Inv s) (core slot id : Nat) (ls : List Nat) : Inv (s.stragLanes core slot id ls) := by
  induction ls generalizing s with
  | nil => exact h
  | cons l ls ih =>
    unfold State.stragLanes
    split
    · exact h
    · split
      · refine .ite (ih ?_) (ih h)
        split
        next e => exact (((h.stragLane _ _ _ _).of_eq e).writeV _ _ _ _ _).updateOp _ _ _
        next e =>
          have hl := (h.stragLane _ _ _ _).of_eq e
          exact .ite ((hl.addFault _).updateOp _ _ _) (hl.updateOp _ _ _)
      · exact h

theorem execLaunch (h : Inv s) (x : EngArgs) : NextInv (Machine.execLaunch x s) := by
  unfold Machine.execLaunch
  refine h.runLane _ (fun _ => ?_)
  dsimp only
  split
  · exact h.laneFault _ _ _ _
  · split
    · exact h.laneFault _ _ _ _
    · exact (h.modHub _).launchOp _ _ _ _ _

theorem launchSend (h : Inv s) (core slot : Nat) (o : Op) (accs : List Acc) : Inv
    (s.launchSend core slot o accs).1 := by
  induction accs generalizing s with
  | nil => exact h
  | cons a accs ih =>
    unfold State.launchSend
    refine ih (.fst_ite ?_ h)
    split
    next e => exact (h.request _ _ _).of_eq e
    next e => exact (h.request _ _ _).of_eq e

theorem launchFail (h : Inv s) (core slot : Nat) (o : Op) (c : Cause) (lane va : Nat) :
    Inv (s.launchFail core slot o c lane va) := h.updateOp _ _ _

theorem launchReserve (h : Inv s) (core slot : Nat) (t : Team) (o : Op) (q : Nat) :
    Inv (s.launchReserve core slot t o q) := by
  unfold State.launchReserve
  dsimp only
  split
  · exact h.launchFail _ _ _ _ _ _
  · split
    · exact h.setOp _ _ _
    · split
      · exact h.launchFail _ _ _ _ _ _
      · split
        · exact h.rest.setOp _ _ _
        · split
          next e => exact (h.joinAdd _ _ _ e).rest.setOp _ _ _
          · exact .ite ((h.addFault _).setOp _ _ _) (h.launchFail _ _ _ _ _ _)

theorem launchGather (h : Inv s) (core slot : Nat) (t : Team) (o : Op) (q : Nat) :
    Inv (s.launchGather core slot t o q) := by
  have hu (u : State) (a : Acc) (g : Inv u) : Inv (a.hard.elim u fun c => u.unheardAt t.asid a.va c) := by
    cases a.hard with
    | none => exact g
    | some c => exact g.unheardAt _ _ _
  have hs := (h.launchSend core slot o o.accs).foldl hu
  unfold State.launchGather
  dsimp only
  refine .ite h (.ite (h.setOp _ _ _) (.ite (h.launchReserve _ _ _ _ _) ?_))
  split
  · exact (hs _).launchFail _ _ _ _ _ _
  · exact .ite (((hs _).stallAccs _ _ _ _ _ _ _).setOp _ _ _)
      (.ite ((hs _).launchReserve _ _ _ _ _) ((hs _).setOp _ _ _))

theorem execLaunchAppend (h : Inv s) (core slot op : Nat) : NextInv (Machine.execLaunchAppend core slot op s) := by
  unfold Machine.execLaunchAppend
  refine .next ?_
  split
  · exact h
  · split
    · exact ((h.rest.append _ _).irrevWarp _ _).updateOp _ _ _
    · exact .ite (((h.releaseStep _ _ _).setOp _ _ _).updateOp _ _ _)
        (.ite ((h.releaseStep _ _ _).setOp _ _ _) (((h.releaseStep _ _ _).setOp _ _ _).launchGather _ _ _ _ _))
    · exact h

theorem launchReply (h : Inv s) (core slot id tag : Nat) (res : Except Cause (List Byte)) :
    Inv (s.launchReply core slot id tag res) := by
  unfold State.launchReply
  split
  · exact h
  · split
    · exact h
    · split
      · exact h.launchFail _ _ _ _ _ _
      · exact h.setOp _ _ _

theorem execQpushSlotFree (h : Inv s) (core slot op : Nat) (lanes : Lanes) :
    NextInv (Machine.execQpushSlotFree core slot op lanes s) := by
  unfold Machine.execQpushSlotFree
  refine .next ?_
  split
  · exact h
  · split
    · exact .ite h (h.claimStep _ _ _)
    · exact .ite h (h.claimStep _ _ _)
    · exact h

/-! #### Adaptor objects and iterators (R262 to R267) -/

theorem modIter (h : Inv s) (core n : Nat) (f : Iter → Iter) : Inv (s.modIter core n f) := h.modCore _ _

theorem pullRead (h : Inv s) (x : PullCtx) (va n : Nat) : Inv (s.pullRead x va n).1 := by
  unfold State.pullRead
  dsimp only
  split
  · split <;> exact h
  · split
    next e => exact (h.translate _ _ _ _ _).of_eq e
    next e =>
      have h1 := (h.translate _ _ _ _ _).of_eq e
      split
      · exact h1
      · split
        · exact (h1.evict _ _).unheard _
        · exact h1.evict _ _

theorem pullSource (h : Inv s) (x : PullCtx) (p : PullSt) (j : Nat) : Inv (s.pullSource x p j).1 := by
  unfold State.pullSource
  dsimp only
  split
  · split <;> exact h
  · split
    · exact h
    · split
      next e => exact (h.pullRead _ _ _).of_eq e
      next e => exact (h.pullRead _ _ _).of_eq e
  · split
    · exact h
    · split
      next e => exact (h.pullRead _ _ _).of_eq e
      next e =>
        have h1 := (h.pullRead _ _ _).of_eq e
        split
        next e => exact (h1.pullRead _ _ _).of_eq e
        next e => exact (h1.pullRead _ _ _).of_eq e

theorem pullThrough (h : Inv s) (x : PullCtx) (p : PullSt) (j : Nat) (v : Word) : Inv (s.pullThrough x p j v).1 := by
  unfold State.pullThrough
  dsimp only
  split
  · exact h
  · split
    · exact h
    · split
      next e => exact (h.pullRead _ _ _).of_eq e
      next e => exact (h.pullRead _ _ _).of_eq e
  · exact h
  · split <;> exact h
  · split <;> exact h
  · (repeat' split) <;> exact h

theorem pull (h : Inv s) (x : PullCtx) (fuel : Nat) (p : PullSt) (j : Nat) : Inv (State.pull x fuel s p j).1 := by
  induction fuel generalizing s p j with
  | zero => exact h
  | succ fuel ih =>
    have h1 := ih h p (j - 1)
    have h2 := ih h p (objSecond (x.obj p j))
    unfold State.pull
    dsimp only
    split
    · exact h
    · exact h.pullSource _ _ _
    · split
      next e => exact (h1.of_eq e).pullThrough _ _ _ _
      · exact h1
    · split
      · exact h
      · split
        next e =>
          split
          · exact h1.of_eq e
          · exact ih (h1.of_eq e) _ _
        · exact h1
    · split
      next u q _ e =>
        have h3 := ih (h1.of_eq e) q (objSecond (x.obj p j))
        split
        next e1 => exact h3.of_eq e1
        · exact h3
      · exact h1
    · split
      · split
        next e => exact h1.of_eq e
        · exact h1
      · split
        next e => exact h2.of_eq e
        next u q e =>
          split
          next e1 => exact (ih (h2.of_eq e) _ _).of_eq e1
          · exact ih (h2.of_eq e) _ _
        · exact h2

theorem commitPull (h : Inv s) (x : PullCtx) (n : Nat) (p : PullSt) : Inv (s.commitPull x n p) :=
  (h.modCore _ _).modIter _ _ _

theorem nextDispatch (h : Inv s) (i : Instr) (x : EngArgs) (bounded : Bool) :
    NextInv (Machine.nextDispatch i x bounded s) := by
  unfold Machine.nextDispatch
  refine h.runLane _ (fun _ => ?_)
  split
  · exact h.laneFault _ _ _ _
  · exact .ite (h.laneFault _ _ _ _) (.ite (h.laneHold _ _) ((h.modIter _ _ _).launchOp _ _ _ _ _))

theorem pullDone (h : Inv s) (core slot : Nat) (o : Op) (x : EngArgs) (pair : Bool) (out : List (Word × Word)) :
    Inv (s.pullDone core slot o x pair out) := by
  unfold State.pullDone
  refine .updateOp ?_ _ _ _
  refine .modWarp ?_ _ _ _
  refine h.foldl (fun _ x g => ?_) _
  split
  · exact (g.writeV _ _ _ _ _).writeV _ _ _ _ _
  · exact g.writeV _ _ _ _ _

theorem pullBreak (h : Inv s) (core slot n : Nat) (o : Op) (c : Cause) (va : Nat) :
    Inv (s.pullBreak core slot n o c va) := (h.modIter _ _ _).updateOp _ _ _

theorem pullKeep (h : Inv s) (core slot : Nat) (o : Op) (out : List (Word × Word)) (stop look : Bool)
    (got : List (Nat × Nat)) :
    Inv (s.pullKeep core slot o out stop look got) := h.setOp _ _ _

theorem pullEnd (h : Inv s) (core slot n : Nat) (o : Op) (x : EngArgs) (bounded pair : Bool)
    (out : List (Word × Word)) (stop : Bool) :
    Inv (s.pullEnd core slot n o x bounded pair out stop) := (h.modIter _ _ _).pullDone _ _ _ _ _ _

theorem pullStep (h : Inv s) (core slot n : Nat) (t : Team) (o : Op) (x : EngArgs) (bounded : Bool)
    (out : List (Word × Word)) (look : Bool) (got : List (Nat × Nat)) :
    Inv (s.pullStep core slot n t o x bounded out look got) := by
  have hend {u : State} (g : Inv u) (l : List (Word × Word)) (e : Bool) :
      Inv (u.pullEnd core slot n o x bounded ((s.core core).iter n).pair l e) := g.pullEnd _ _ _ _ _ _ _ _ _
  unfold State.pullStep
  refine .ite (h.pullBreak _ _ _ _ _ _) (.ite (hend h _ _) (.ite (hend h _ _) ?_))
  have hp := h.pull (s.pullCtx core t ((s.core core).iter n) got) pullFuel
    (s.pullCtx core t ((s.core core).iter n) got).start ((s.core core).iter n).dm1
  split
  next e =>
    have h1 := hp.of_eq e
    exact .ite (hend h1 _ _) (.ite (hend h1 _ _) ((h1.commitPull _ _ _).pullKeep _ _ _ _ _ _ _))
  next e =>
    have h1 := hp.of_eq e
    exact .ite (hend h1 _ _) ((h1.commitPull _ _ _).pullKeep _ _ _ _ _ _ _)
  next e => exact hend ((hp.of_eq e).modIter _ _ _) _ _
  next e =>
    have h1 := hp.of_eq e
    refine .ite (hend h1 _ _) ?_
    split
    next e => exact ((h1.request _ _ _).of_eq e).pullBreak _ _ _ _ _ _
    next e => exact ((h1.request _ _ _).of_eq e).setOp _ _ _
  next e =>
    have h1 := hp.of_eq e
    exact .ite (hend h1 _ _) (.ite ((h1.addFault _).setOp _ _ _) (h1.pullBreak _ _ _ _ _ _))

theorem pullEvent (h : Inv s) (core slot id : Nat) : Inv (s.pullEvent core slot id) := by
  unfold State.pullEvent
  split
  · exact h
  · split
    · split
      · exact h
      · split
        · exact h
        · split
          · split
            · exact h.pullBreak _ _ _ _ _ _
            · exact h
          · exact .ite h (.ite (h.pullBreak _ _ _ _ _ _) (.ite (h.pullEnd _ _ _ _ _ _ _ _ _)
              (h.pullStep _ _ _ _ _ _ _ _ _ _)))
    · exact h

theorem pullReply (h : Inv s) (core slot id tag : Nat) (res : Except Cause (List Byte)) :
    Inv (s.pullReply core slot id tag res) := by
  unfold State.pullReply
  split
  · exact h
  · split
    · split
      · exact h.pullBreak _ _ _ _ _ _
      · exact h.setOp _ _ _
      · exact h
    · exact h

theorem execItopen (h : Inv s) (x : EngArgs) : NextInv (Machine.execItopen x s) := by
  unfold Machine.execItopen
  refine h.runLane _ (fun _ => ?_)
  dsimp only
  split
  · exact h.laneFault _ _ _ _
  · exact h
  · exact ((h.modCore _ _).modIter _ _ _).dispatched _

theorem pullCut (h : Inv s) (core n : Nat) (r : Nat × Nat) : Inv (s.pullCut core n r) := by
  unfold State.pullCut
  split
  · exact h
  · split
    · exact h.pullEnd _ _ _ _ _ _ _ _ _
    · exact h

theorem execEnough (h : Inv s) (x : EngArgs) : NextInv (Machine.execEnough x s) := by
  unfold Machine.execEnough
  refine h.runLane _ (fun _ => ?_)
  split
  · exact h.laneFault _ _ _ _
  · exact .ite (h.dispatched _) (.ite (h.laneFault _ _ _ _) ((((h.modCore _ _).foldl (fun _ _ g => g.pullCut _ _ _)
      _).modIter _ _ _).dispatched _))

theorem execItsave (h : Inv s) (x : EngArgs) : NextInv (Machine.execItsave x s) := by
  unfold Machine.execItsave
  refine h.runLane _ (fun _ => ?_)
  split
  · exact h.laneFault _ _ _ _
  · exact .ite (h.laneFault _ _ _ _) ((h.modCore _ _).dispatched _)

theorem execItload (h : Inv s) (x : EngArgs) : NextInv (Machine.execItload x s) := by
  unfold Machine.execItload
  refine h.runLane _ (fun _ => ?_)
  dsimp only
  split
  · exact h.laneFault _ _ _ _
  · split
    · exact h.laneFault _ _ _ _
    · split
      · exact h.laneFault _ _ _ _
      · split
        · exact h.laneFault _ _ _ _
        · exact h
        · exact .ite (((h.modCore _ _).modIter _ _ _).dispatched _) (h.laneFault _ _ _ _)

theorem execItstat (h : Inv s) (x : EngArgs) : NextInv (Machine.execItstat x s) := by
  unfold Machine.execItstat
  refine h.runLane _ (fun _ => ?_)
  split
  · exact h.laneFault _ _ _ _
  · exact .ite (h.laneHold _ _) ((h.modWarp _ _ _).dispatched _)

theorem execLoadDataLands (h : Inv s) (core slot op : Nat) (lanes : Lanes) :
    NextInv (Machine.execLoadDataLands core slot op lanes s) := by
  unfold Machine.execLoadDataLands
  refine .next ?_
  split
  · split
    · exact h.clusterLanes _ _ _ _
    · exact h.stragLanes _ _ _ _
    · exact h.pullEvent _ _ _
    · exact h.pullEvent _ _ _
    · exact h.loadEvent _ _ _ _
  · exact h

theorem execAtomicAtHome (h : Inv s) (core slot op : Nat) (lanes : Lanes) :
    NextInv (Machine.execAtomicAtHome core slot op lanes s) := by
  unfold Machine.execAtomicAtHome
  refine .next ?_
  split
  · exact .ite (h.claimStep _ _ _) (h.atomicEvent _ _ _ _)
  · exact h

/-! #### One advance of CLOCK (R64, R190) -/

theorem tick (h : Inv s) : Inv s.tick := h.rest

theorem cycle (h : Inv s) : Inv s.cycle := h.rest

/-! #### Scalar loads and stores, moves, control flow (R175 to R193) -/

theorem scalarFabric (h : Inv s) (x : Ctx) (p : Packet) (va : VAddr) (w : Nat → Wait) :
    Inv (s.scalarFabric x p va w) := by
  unfold State.scalarFabric
  split
  next e => exact ((h.request _ _ _).of_eq e).scalarFault _ _ _
  next e => exact ((h.request _ _ _).of_eq e).hold _ _

theorem execLdg (h : Inv s) (d a : GReg) (i : BitVec 14) : NextInv (Machine.execLdg d a i s) := by
  unfold Machine.execLdg
  refine h.runScalar _ (fun _ => ?_)
  dsimp only
  split
  · exact h.scalarFault _ _ _
  · split
    · exact h.scalarFabric _ _ _ _
    · split
      next e => exact ((h.translate _ _ _ _ _).of_eq e).scalarMemFault _ _ _ _
      next e =>
        have h1 := (h.translate _ _ _ _ _).of_eq e
        split
        next e => exact ((h1.loadAt _ _ _ _).of_eq e).scalarFault _ _ _
        next e => exact ((h1.loadAt _ _ _ _).of_eq e).result _ _ _

theorem execStg (h : Inv s) (d a : GReg) (i : BitVec 14) : NextInv (Machine.execStg d a i s) := by
  unfold Machine.execStg
  refine h.runScalar _ (fun _ => ?_)
  dsimp only
  split
  · exact h.scalarFault _ _ _
  · split
    · exact h.scalarFabric _ _ _ _
    · split
      next e => exact ((h.translate _ _ _ _ _).of_eq e).scalarMemFault _ _ _ _
      next e =>
        have h1 := (h.translate _ _ _ _ _).of_eq e
        split
        next e => exact ((h1.storeAt _ _ _ _ _ _ _ _ _ _).of_eq e).scalarMemFault _ _ _ _
        next e => exact ((h1.storeAt _ _ _ _ _ _ _ _ _ _).of_eq e).advance _

theorem execWrx (h : Inv s) (a : GReg) : NextInv (Machine.execWrx a s) :=
  h.runScalar _ (fun _ => (h.scalarFault _ _ _).ite ((h.advance _).modSplit _ _))

theorem execLoop (h : Inv s) (g : GReg) (o : BitVec 14) : NextInv (Machine.execLoop g o s) :=
  h.runScalar _ (fun _ => ((h.modWarp _ _ _).advance _).ite ((h.modWarp _ _ _).goto _ _))

theorem execSplit (h : Inv s) (v : VReg) (o : BitVec 14) : NextInv (Machine.execSplit v o s) :=
  h.runScalar _ (fun _ => (h.goto _ _).ite ((h.advance _).ite ((h.advance _).modWarp _ _ _)))

theorem execJoinat (h : Inv s) (o : BitVec 14) : NextInv (Machine.execJoinat o s) :=
  h.runScalar _ (fun _ => (h.scalarFault _ _ _).ite ((h.advance _).modWarp _ _ _))

theorem execJoin (h : Inv s) : NextInv (Machine.execJoin s) :=
  h.runScalar _ (fun _ => ((h.scalarFault _ _ _).ite ((h.count _).modWarp _ _ _)).ite
    ((h.scalarFault _ _ _).ite ((h.count _).modWarp _ _ _)))

theorem execCall (h : Inv s) (i : BitVec 20) : NextInv (Machine.execCall i s) :=
  h.runScalar _ (fun _ => (h.scalarFault _ _ _).ite ((h.goto _ _).modSplit _ _))

theorem execCallr (h : Inv s) (a : GReg) : NextInv (Machine.execCallr a s) :=
  h.runScalar _ (fun _ => (h.scalarFault _ _ _).ite ((h.advance _).ite
    ((h.scalarFault _ _ _).ite ((h.goto _ _).modSplit _ _))))

theorem execRet (h : Inv s) : NextInv (Machine.execRet s) := by
  unfold Machine.execRet
  refine h.runScalar _ (fun _ => ?_)
  split
  · exact (h.count _).modWarp _ _ _
  · exact .ite (h.scalarFault _ _ _) (h.goto _ _)

theorem openSeq (h : Inv s) (x : Ctx) (kind : CallKind) (run : List (Nat × VAddr)) (back : VAddr) :
    Inv (s.openSeq x kind run back) := by
  unfold State.openSeq
  split
  · exact h.advance _
  · exact (h.goto _ _).modWarp _ _ _

theorem execCallv (h : Inv s) (v : VReg) : NextInv (Machine.execCallv v s) :=
  h.runScalar _ (fun _ => (h.scalarFault _ _ _).ite ((h.scalarFault _ _ _).ite (h.openSeq _ _ _ _)))

theorem execJmpv (h : Inv s) (v : VReg) : NextInv (Machine.execJmpv v s) :=
  h.runScalar _ (fun _ => (h.scalarFault _ _ _).ite ((h.scalarFault _ _ _).ite (h.openSeq _ _ _ _)))

theorem execIssue (h : Inv s) (n : BitVec 4) (o : BitVec 22) : NextInv (Machine.execIssue n o s) := by
  unfold Machine.execIssue
  refine h.runScalar _ (fun _ => ?_)
  dsimp only
  split
  next e => exact ((h.issueRead _ _ _).of_eq e).scalarMemFault _ _ _ _
  next e =>
    have h1 := (h.issueRead _ _ _).of_eq e
    split
    · exact h1.hold _ _
    · split
      · exact h1.scalarFault _ _ _
      · exact (h1.advance _).modWarp _ _ _

theorem execBarwait (h : Inv s) (o : BitVec 15) (p : Bool) : NextInv (Machine.execBarwait o p s) := by
  unfold Machine.execBarwait
  refine h.runScalar _ (fun _ => ?_)
  dsimp only
  split
  · exact h.scalarFault _ _ _
  · split
    · exact h.scalarFault _ _ _
    · exact .ite (h.scalarFault _ _ _) (h.advance _)

theorem execQwait (h : Inv s) (a b : GReg) (t : BitVec 8) : NextInv (Machine.execQwait a b t s) := by
  unfold Machine.execQwait
  refine h.runScalar _ (fun _ => ?_)
  dsimp only
  split
  · exact h.scalarFault _ _ _
  · split
    · exact h.scalarFabric _ _ _ _
    · split
      next e => exact ((h.translate _ _ _ _ _).of_eq e).scalarMemFault _ _ _ _
      next e =>
        have h1 := (h.translate _ _ _ _ _).of_eq e
        split
        · exact .ite ((h1.evict _ _).hold _ _) ((h1.evict _ _).advance _)
        · split
          · exact ((h1.evict _ _).unheard _).scalarFault _ _ _
          · exact .ite ((h1.evict _ _).hold _ _) ((h1.evict _ _).advance _)

theorem execQwaitWake (h : Inv s) (core slot entry : Nat) : NextInv (Machine.execQwaitWake core slot entry s) := by
  unfold Machine.execQwaitWake
  refine .next ?_
  split
  · exact h
  · split
    · split
      · exact (h.unheard _).scalarFault _ _ _
      · exact .ite h (h.advance _)
    · exact h

theorem wakeSplit (h : Inv s) (who : Who) : Inv (s.wakeSplit who) := by
  unfold State.wakeSplit
  split
  · exact h
  · split
    · exact (h.unheard _).scalarFault _ _ _
    · exact h.advance _

theorem wakeWatchers (h : Inv s) : Inv s.wakeWatchers := h.foldl (fun _ _ g => g.wakeSplit _) _

theorem execQwaitTimeout (h : Inv s) (core slot entry : Nat) :
    NextInv (Machine.execQwaitTimeout core slot entry s) := by
  unfold Machine.execQwaitTimeout
  refine .next ?_
  split
  · exact h
  · split
    · exact .ite (h.advance _) h
    · exact .ite (h.advance _) h
    · exact h

/-! #### System and trap instructions (R272 to R278) -/

theorem trapAfter (h : Inv s) (x : Ctx) (c : Cause) : Inv (s.trapAfter x c) := (h.advance _).raiseTrap _ _

theorem execBkpt (h : Inv s) (t : BitVec 20) : NextInv (Machine.execBkpt t s) :=
  h.runScalar _ (fun _ => (((h.advance _).modWarp _ _ _).stopTeam _ _ _ _).ite (h.trapAfter _ _))

theorem execRtt (h : Inv s) : NextInv (Machine.execRtt s) :=
  h.runScalar _ (fun _ => ((h.count _).modWarp _ _ _).ite ((h.scalarFault _ _ _).ite ((h.goto _ _).modWarp _ _ _)))

theorem execTrapEntry (h : Inv s) (core slot entry : Nat) : NextInv (Machine.execTrapEntry core slot entry s) := by
  unfold Machine.execTrapEntry
  refine .next ?_
  split
  · exact h
  · split
    · exact h
    · exact .ite ((h.modSplit _ _).enterTrap _ _) h

theorem execRdsr (h : Inv s) (d : GReg) (n : BitVec 8) : NextInv (Machine.execRdsr d n s) := by
  unfold Machine.execRdsr
  refine h.runScalar _ (fun _ => ?_)
  split
  · exact h.scalarFault _ _ _
  · exact h.result _ _ _

theorem sysWrite (h : Inv s) (x : Ctx) (n : Nat) (v : Word) : Inv (s.sysWrite x n v) := by
  unfold State.sysWrite
  split
  · exact h.modWarp _ _ _
  · exact h.modWarp _ _ _
  · exact h.modWarp _ _ _
  · exact h.modWarp _ _ _
  · exact h.modWarp _ _ _
  · exact h.modTeam _ _ _
  · exact h.modTeam _ _ _
  · exact h.modCore _ _

theorem execWrsr (h : Inv s) (a : GReg) (n : BitVec 8) : NextInv (Machine.execWrsr a n s) :=
  h.runScalar _ (fun _ => (h.scalarFault _ _ _).ite ((h.scalarFault _ _ _).ite
    ((h.scalarFault _ _ _).ite ((h.sysWrite _ _ _).advance _))))

theorem startInval (h : Inv s) (asid : Asid) (start len : Nat) (host : Bool) :
    Inv (s.startInval asid start len host).1 := (h.removeRange asid start (min len (2 ^ 54 - start))).rest

theorem execTlbinv (h : Inv s) (d a b : GReg) : NextInv (Machine.execTlbinv d a b s) :=
  h.runScalar _ (fun _ => (h.scalarFault _ _ _).ite ((h.advance _).ite ((h.startInval _ _ _ _).hold _ _)))

/-! #### The quadrant schedulers (R7, R22, R26) -/

theorem noteHold (h : Inv s) (who : Who) : Inv (s.noteHold who) := by
  unfold State.noteHold
  split
  · exact h
  · exact .ite h (h.modSplit _ _)

theorem ageSide (h : Inv s) (d : Side) : Inv (s.ageSide d) := h.foldl (fun _ _ g => g.ite (g.modSplit _ _)) _

theorem noteLate (h : Inv s) (d : Side) : Inv (s.noteLate d) := by
  unfold State.noteLate
  split
  · exact .ite (.ite (h.noteIssue _ _) h) (.ite (h.noteIssue _ _) h)
  · exact h

theorem issue (h : Inv s) : Inv s.issue :=
  ((h.rest.foldl (fun _ _ g => g.noteHold _) _).foldl (fun _ _ g => g.ageSide _) _).foldl (fun _ _ g => g.noteLate _) _

/-! #### Issue events, REPLAY and range invalidations (R99, R123) -/

theorem execClauseStart (h : Inv s) (core slot entry : Nat) : NextInv (Machine.execClauseStart core slot entry s) := by
  unfold Machine.execClauseStart
  refine .next ?_
  split
  · exact h
  · split
    · exact h
    · exact .ite (h.modSplit _ _) h

theorem endOn (h : Inv s) (f : Nat) (c : Option Cause) : Inv (s.endOn f c) := h.rest

theorem failOn (h : Inv s) (f : Nat) (c : Cause) (x : Nat × Nat × Nat) : Inv (s.failOn f c x) := by
  unfold State.failOn
  split
  · exact h
  · split
    · exact h
    · split
      · exact (h.setOp _ _ _).pullEvent _ _ _
      · split
        · exact h.updateOp _ _ _
        · split
          · exact h.launchFail _ _ _ _ _ _
          · exact .ite (h.updateOp _ _ _) (h.updateOp _ _ _)
          · exact h.updateOp _ _ _

theorem heldOn (h : Inv s) (f : Nat) (c : Option Cause) : Inv (s.heldOn f c) := by
  unfold State.heldOn
  split
  · exact h.rest
  · exact h.rest.foldl (fun _ _ g => g.answer _ _ _) _

theorem pruneUsers (h : Inv s) : Inv s.pruneUsers := h.modHub _

theorem replayWrite (h : Inv s) (v : BitVec 64) : Inv (s.replayWrite v) :=
  .ite h (((h.pruneUsers.foldl (fun _ _ g => g.modWarp _ _ _) _).endOn _ _).heldOn _ _)

theorem replayFailWrite (h : Inv s) (v : BitVec 64) : Inv (s.replayFailWrite v) := by
  unfold State.replayFailWrite
  split
  · exact h
  · exact .ite h (((h.foldl (fun _ _ g => g.failOn _ _ _) _).endOn _ _).heldOn _ _)

theorem execPageWalk (h : Inv s) (stack : Nat) : NextInv (Machine.execPageWalk stack s) := by
  unfold Machine.execPageWalk
  refine .next ?_
  dsimp only
  split
  · exact h
  · split
    · exact h
    · exact h.modHub _

theorem execPageWalkComplete (h : Inv s) (stack n : Nat) : NextInv (Machine.execPageWalkComplete stack n s) := by
  unfold Machine.execPageWalkComplete
  refine .next ?_
  dsimp only
  split
  · exact h
  · split
    next e => exact (((h.modHub _).walk _ _ _).of_eq e).install _ _
    next e => exact (((h.modHub _).walk _ _ _).of_eq e).addFault _
    next e => exact ((h.modHub _).walk _ _ _).of_eq e

theorem tlbiWrite (h : Inv s) : Inv s.tlbiWrite := by
  unfold State.tlbiWrite
  dsimp only
  split
  · exact h
  · exact .ite h ((h.startInval _ _ _ _).modRegs _)

theorem execTlbInvalidationComplete (h : Inv s) (n : Nat) : NextInv (Machine.execTlbInvalidationComplete n s) := by
  unfold Machine.execTlbInvalidationComplete
  refine .next ?_
  split
  · exact h
  · split
    · exact h
    · split
      · exact (h.modHub _).modRegs _
      · refine (h.modHub _).foldl (fun _ x g => ?_) _
        split
        · exact g.advance _
        · exact g

theorem pgrelWrite (h : Inv s) : Inv s.pgrelWrite := .ite h (h.modRegs _)

theorem releaseCore (h : Inv s) (core : Nat) : Inv (s.releaseCore core) := by
  unfold State.releaseCore
  refine .modCore ?_ _ _
  refine h.foldl (fun _ x g => ?_) _
  split
  · exact g
  · split
    next e => exact (((g.writeBack _).of_eq e).addFault _).modRegs _
    next e => exact (g.writeBack _).of_eq e

theorem execPgrelComplete (h : Inv s) : NextInv (Machine.execPgrelComplete s) :=
  .next (.ite h (((h.foldl (fun _ _ g => g.releaseCore _) _).foldl (fun _ _ g => g.writeBackLine _) _).modRegs _))

/-! #### What a new split, warp and team hold (R6, R52) -/

theorem placePlain (h : Inv s) (cq : List Clause) : Inv (s.placePlain cq) := h.rest

theorem placeWord (h : Inv s) (lane : Bool) (w : Nat) : Inv (s.placeWord lane w) :=
  .ite (h.placePlain [plainClause (BitVec.ofNat 96 w)]).rest ((h.placePlain []).writeMem _ _)

/-! #### The gang placer (R13 to R18) -/

theorem modHead (h : Inv s) (q : Nat) (f : Head → Head) : Inv (s.modHead q f) := h.modHub _

theorem popHead (h : Inv s) (q : Nat) : Inv (s.popHead q) := ((h.setQueue _ _).modHub _).noteHead _

theorem rejectHead (h : Inv s) (q : Nat) (ho : Head) (c : Cause) : Inv (s.rejectHead q ho c) :=
  .ite ((h.addFault _).popHead _) ((h.addFault _).modHead _ _)

theorem popGone (h : Inv s) : Inv s.popGone := h.foldl (fun _ _ g => g.popHead _) _

theorem checkHeads (h : Inv s) (fuel : Nat) : Inv (State.checkHeads fuel s) := by
  induction fuel generalizing s with
  | zero => exact h
  | succ fuel ih =>
    unfold State.checkHeads
    split
    · exact h
    · refine ih ?_
      split
      · exact h.modHead _ _
      · exact ((h.unheardAt _ _ _).ite h).rejectHead _ _ _

theorem enterUnit (h : Inv s) (hs : List (Nat × Head)) : Inv (s.enterUnit hs) := by
  induction hs generalizing s with
  | nil => exact h
  | cons e hs ih =>
    unfold State.enterUnit
    exact .ite (ih h) (.ite h (ih ((h.modHub _).modHead _ _)))

theorem startTeam (h : Inv s) (d : Desc) (g : Gang) (regions : List Region) (i c : Nat) (f : Fit) :
    Inv (s.startTeam d g regions i c f) := (h.phaseAcq _).modCore _ _

theorem startGang (h : Inv s) (d : Desc) (g : Gang) (regions : List Region) (fits : List (Nat × Fit)) :
    Inv (s.startGang d g regions fits) := (h.foldl (fun _ _ g => g.startTeam _ _ _ _ _ _) _).modHub _

theorem placeHead (h : Inv s) (q : Nat) (ho : Head) (d : Desc) (cl : Nat) (fits : List (Nat × Fit)) :
    Inv (s.placeHead q ho d cl fits) :=
  .ite h (.ite (((((h.capture _ _ _ _ _ _).ite ((h.capture _ _ _ _ _ _).modHub _)).modHub _).startGang _ _ _
    _).popHead _) (((((h.capture _ _ _ _ _ _).ite ((h.capture _ _ _ _ _ _).modHub _)).modHub _).startGang _ _ _
      _).modHead _ _))

theorem noteWaits (h : Inv s) : Inv s.noteWaits := h.modHub _

theorem execGangPlace (h : Inv s) : NextInv (Machine.execGangPlace s) := by
  unfold Machine.execGangPlace
  refine .next ?_
  dsimp only
  split
  · exact ((h.popGone.checkHeads _).enterUnit _).noteWaits
  · split
    · exact ((h.popGone.checkHeads _).enterUnit _).noteWaits
    · exact (((h.popGone.checkHeads _).enterUnit _).noteWaits).placeHead _ _ _ _ _

theorem execWarpRetire (h : Inv s) (core slot : Nat) : NextInv (Machine.execWarpRetire core slot s) := by
  unfold Machine.execWarpRetire
  refine .next ?_
  split
  · exact h
  · exact .ite h ((h.setWarp _ _ _).latchRetire _ _ _)

theorem leaveCores (h : Inv s) (g : Gang) : Inv (s.leaveCores g) := by
  unfold State.leaveCores
  refine .modHub ?_ _
  refine h.foldl (fun _ x g => ?_) _
  split
  · exact g
  · exact g.modCore _ _

theorem execGangJoinDecrement (h : Inv s) (gang : Nat) : NextInv (Machine.execGangJoinDecrement gang s) := by
  unfold Machine.execGangJoinDecrement
  refine .next ?_
  split
  · exact h
  · exact .ite h (((((h.foldl (fun _ _ g => g.phaseRel _ _) _).leaveCores _).modHub _).freeParts).joinDecrement _ _ _)

/-! #### Pre-emption and restoring (R289 to R299) -/

theorem setGang (h : Inv s) (g : Gang) (x : GangState) : Inv (s.setGang g x) := h.modHub _

theorem applyChoice (h : Inv s) (g : Gang) (q deadline : Nat) (drain : Bool) :
    Inv (s.applyChoice g q deadline drain) := .ite (h.setGang _ _) (.ite ((h.modHub _).setGang _ _) (h.setGang _ _))

theorem preemptGang (h : Inv s) (key q us : Nat) : Inv (s.preemptGang key q us) := by
  unfold State.preemptGang
  split
  · exact h
  · split
    · exact h.applyChoice _ _ _ _
    · exact h.applyChoice _ _ _ _
    · exact h

theorem preemptWrite (h : Inv s) (v : BitVec 64) : Inv (s.preemptWrite v) :=
  (h.modRegs _).foldl (fun _ _ g => g.preemptGang _ _ _) _

theorem execPlacerPreemptRequest (h : Inv s) (q : Nat) : NextInv (Machine.execPlacerPreemptRequest q s) := by
  unfold Machine.execPlacerPreemptRequest
  refine .next ?_
  dsimp only
  split
  · exact h.noteWaits
  · split
    · split
      · exact h.noteWaits
      · split
        · exact h.noteWaits
        · exact (h.noteWaits.modHead _ _).foldl (fun _ _ g => g.preemptGang _ _ _) _
    · exact h.noteWaits

theorem execDrainDeadlineExpire (h : Inv s) (gang : Nat) : NextInv (Machine.execDrainDeadlineExpire gang s) := by
  unfold Machine.execDrainDeadlineExpire
  refine .next ?_
  split
  · exact h
  · split
    · exact .ite h (.ite (h.applyChoice _ _ _ _) h)
    · exact h

theorem beginLeave (h : Inv s) (g : Gang) : Inv (s.beginLeave g) := h.foldl (fun _ _ g => g.modTeam _ _ _) _

theorem markBegun (h : Inv s) (g : Gang) : Inv (s.markBegun g) := by
  unfold State.markBegun
  split
  · exact (h.setGang _ _).beginLeave _
  · exact (h.setGang _ _).beginLeave _
  · exact h.beginLeave _

theorem releaseGang (h : Inv s) (g : Gang) : Inv (s.releaseGang g) := h.foldl (fun _ _ g => g.phaseRel _ _) _

theorem spoil (h : Inv s) (us : List Nat) : Inv (s.spoil us) := h.rest

theorem writeSlot (h : Inv s) (slot : Nat) (ps : List (Nat × List Byte)) : Inv (s.writeSlot slot ps) :=
  .foldl (h.setMem (Memory.wf_dropRange _ _ h.mem)) (fun _ _ g => g.hubPut _ _) _

theorem setSlotState (h : Inv s) (slot code : Nat) : Inv (s.setSlotState slot code) := h.hubPut _ _

theorem withdraw (h : Inv s) (g : Gang) : Inv (s.withdraw g) := h.rest

theorem endGathers (h : Inv s) (g : Gang) : Inv (s.endGathers g) := by
  unfold State.endGathers
  refine h.foldl (fun _ x g => ?_) _
  split
  · exact (g.foldl (fun _ _ g2 => g2.writeV _ _ _ _ _) _).updateOp _ _ _
  · exact g

theorem saveGang (h : Inv s) (g : Gang) (kind : LeaveKind) : Inv (s.saveGang g kind) :=
  (((((h.withdraw _).endGathers _).releaseGang _).foldl (fun _ _ g => (g.writeSlot _ _).spoil _) _).modHub
    _).leaveCores _

theorem execGangSave (h : Inv s) (gang : Nat) : NextInv (Machine.execGangSave gang s) := by
  unfold Machine.execGangSave
  refine .next ?_
  dsimp only
  split
  · exact h
  · split
    · exact h
    · exact .ite h (.ite ((h.markBegun _).saveGang _ _) (h.markBegun _))

theorem dropParts (h : Inv s) (gang : Nat) : Inv (s.dropParts gang) := h.rest

theorem execGangDiscard (h : Inv s) (gang : Nat) : NextInv (Machine.execGangDiscard gang s) := by
  unfold Machine.execGangDiscard
  refine .next ?_
  split
  · exact h
  · split
    · exact .ite h (.ite (h.markBegun _) (.ite ((h.markBegun _).setGang _ _)
        (((((((h.markBegun _).withdraw _).releaseGang _).foldl (fun _ _ g => g.hubPut _ _) _).leaveCores _).modHub
          _).freeParts)))
    · exact .ite (h.beginLeave _) ((((((h.beginLeave _).withdraw _).releaseGang _).leaveCores _).modHub _).freeParts)
    · exact h

theorem restoreTeam (h : Inv s) (v : SavedTeam) (c : Nat) (f : Fit) : Inv (s.restoreTeam v c f) :=
  (h.phaseAcq _).modCore _ _

theorem applyFabric (h : Inv s) (v : SavedTeam) (c : Nat) : Inv (s.applyFabric v c) := by
  unfold State.applyFabric
  refine h.foldl (fun _ x g => ?_) _
  split
  · exact (g.phaseAcq _).modBar _ _ _ _
  · exact g

theorem restoreGang (h : Inv s) (v : SavedGang) (cl : Nat) (fits : List (Nat × Fit)) :
    Inv (s.restoreGang v cl fits) :=
  (((h.foldl (fun _ _ g => (g.restoreTeam _ _ _).applyFabric _ _) _).modHub _).foldl
    (fun _ _ g => g.setSlotState _ _) _).foldl (fun _ _ g => (g.takeHeld _ _).ite g) _

theorem restartGang (h : Inv s) (v : SavedGang) (cl : Nat) (fits : List (Nat × Fit)) :
    Inv (s.restartGang v cl fits) := by
  unfold State.restartGang
  split
  · exact h
  · exact ((h.modHub _).startGang _ _ _ _).foldl (fun _ _ g => g.setSlotState _ _) _

theorem resumeGang (h : Inv s) (v : SavedGang) (cl : Nat) (fits : List (Nat × Fit)) :
    Inv (s.resumeGang v cl fits) := .ite (h.restartGang _ _ _) (h.restoreGang _ _ _)

theorem execGangRestore (h : Inv s) (level : Nat) : NextInv (Machine.execGangRestore level s) := by
  unfold Machine.execGangRestore
  refine .next ?_
  dsimp only
  split
  · exact h
  · split
    · exact h.noteWaits
    · split
      · exact h.noteWaits
      · exact (h.noteWaits.resumeGang _ _ _).modHub _

theorem execCodeGoneRetire (h : Inv s) (level : Nat) : NextInv (Machine.execCodeGoneRetire level s) := by
  unfold Machine.execCodeGoneRetire
  refine .next ?_
  split
  · exact h
  · exact .ite h (((h.foldl (fun _ _ g => g.setSlotState _ _) _).modHub _).addFault _)

theorem unloadHead (h : Inv s) (q : Nat) : Inv (s.unloadHead q) := by
  unfold State.unloadHead
  split
  · exact h
  · exact .ite h (h.rejectHead _ _ _)

theorem execThermalMigrate (h : Inv s) (gang : Nat) : NextInv (Machine.execThermalMigrate gang s) := by
  unfold Machine.execThermalMigrate
  refine .next ?_
  split
  · exact h
  · split
    · exact h
    · exact .ite h ((h.modHub _).setGang _ _)

theorem execSaveLmWrite (h : Inv s) (gang : Nat) : NextInv (Machine.execSaveLmWrite gang s) := by
  unfold Machine.execSaveLmWrite
  refine .next ?_
  dsimp only
  split
  · exact h
  · split
    · exact h
    · split
      · exact ((((h.foldl (fun _ _ g => (((g.hubPut _ _).spoil _).hubPut _ _).setSlotState _ _) _).dropParts
          _).modHub _).noteWaits).restoreGang _ _ _
      · exact (((h.foldl (fun _ _ g => (((g.hubPut _ _).spoil _).hubPut _ _).setSlotState _ _) _).dropParts
          _).modHub _).noteWaits

/-! #### The fabric side of the device (R317 to R329) -/

theorem linkIn {t : State} (h : Inv s) (e : s.linkIn = some t) : Inv t := by
  unfold State.linkIn at e
  split at e
  · cases e
  · cases e
    exact h.wake.ite h

theorem take {t : State} (h : Inv s) (p : Packet) (e : s.take p = some t) : Inv t := by
  unfold State.take at e
  split at e
  · split at e
    · cases e
      exact h.rest
    · cases e
  · split at e
    · exact h.linkIn e
    · cases e

theorem fabRead (h : Inv s) (p : Packet) (asid : Asid) (va : Nat) : Inv (s.fabRead p asid va).1 := by
  unfold State.fabRead
  dsimp only
  split
  · exact h
  · split
    · exact h.unheard _
    · exact h

theorem fabParts (h : Inv s) (p : Packet) (asid : Asid) (va : Nat) (x : Xlat) (ps : List (Nat × Nat)) :
    Inv (s.fabParts p asid va x ps).1 := by
  induction ps generalizing s with
  | nil => exact h
  | cons r ps ih =>
    unfold State.fabParts
    dsimp only
    split
    next e => exact (h.gateStore _ _ _ _ _ _ _).of_eq e
    next e =>
      have hg := (h.gateStore _ _ _ _ _ _ _).of_eq e
      split
      · exact hg.unheard _
      next e1 => exact ih (hg.homeWriteEn _ _ _ _ e1)

theorem fabWrite (h : Inv s) (p : Packet) (asid : Asid) (va : Nat) : Inv (s.fabWrite p asid va).1 := by
  unfold State.fabWrite
  split
  · exact h
  · split
    · exact h
    · exact h.fabParts _ _ _ _ _

theorem fabAtomics (h : Inv s) (p : Packet) (asid : Asid) (va n : Nat) (x : Xlat) (os : List Nat) (out : List Byte) :
    Inv (s.fabAtomics p asid va n x os out).1 := by
  induction os generalizing s out with
  | nil => exact h
  | cons o os ih =>
    unfold State.fabAtomics
    dsimp only
    split
    next e => exact (h.gateStore _ _ _ _ _ _ _).of_eq e
    next e =>
      have hg := (h.gateStore _ _ _ _ _ _ _).of_eq e
      split
      · exact hg.unheard _
      · split
        · exact hg.unheard _
        next e1 => exact ih (.ite ((hg.homeWrite _ _ e1).noteClaim _ _ _) (hg.homeWrite _ _ e1)) _

theorem fabAtomic (h : Inv s) (p : Packet) (asid : Asid) (va : Nat) : Inv (s.fabAtomic p asid va).1 := by
  unfold State.fabAtomic
  split
  · exact h
  · split
    · exact h
    · exact h.fabAtomics _ _ _ _ _ _ _

theorem noteRemote {t : State} (h : Inv s) (p : Packet) (pa : Nat) (d : Int) (e : s.noteRemote p pa d = some t) :
    Inv t := by
  unfold State.noteRemote at e
  split at e
  · cases e
    exact h
  · obtain ⟨f, -, rfl⟩ := Option.map_eq_some_iff.1 e
    exact h.rest

theorem fabQuery (h : Inv s) (asid : Asid) (va pa : Nat) (cnt : Bool) : Inv (s.fabQuery asid va pa cnt).1 := by
  unfold State.fabQuery
  dsimp only
  split
  next e => exact (h.classify _ _ _ _).of_eq e
  next e => exact (h.classify _ _ _ _).of_eq e
  next e =>
    have h1 := (h.classify _ _ _ _).of_eq e
    split
    next e => exact (h1.countAt _ _ _ _ _ _).of_eq e
    next e => exact (h1.countAt _ _ _ _ _ _).of_eq e
  next e => exact (h.classify _ _ _ _).of_eq e

theorem fabRc (h : Inv s) (asid : Asid) (va pa n : Nat) (cnt : Bool) : Inv (s.fabRc asid va pa n cnt).1 := by
  unfold State.fabRc
  dsimp only
  split
  · split
    next e => exact (h.classAdj _ _ _ _).of_eq e
    next e => exact (h.classAdj _ _ _ _).of_eq e
    next e =>
      have h1 := (h.classAdj _ _ _ _).of_eq e
      split
      · exact h1.unheard _
      · exact h1
    next e => exact (h.classAdj _ _ _ _).of_eq e
  · split
    · exact h.unheard _
    · exact h

theorem fabAdjLane (h : Inv s) (p : Packet) (asid : Asid) (va pa : Nat) (cnt : Bool) (o : Nat) :
    Inv (s.fabAdjLane p asid va pa cnt o).1 := by
  unfold State.fabAdjLane
  split
  · exact h.countedLoad _ _ _ _ _ _
  · exact h.fabRc _ _ _ _ _
  · exact h.accumulate _ _ _ _ _ _
  · exact h.adjRead _ _ _ _ _ _ _
  · exact h.adjRead _ _ _ _ _ _ _
  · exact h.fabQuery _ _ _ _

theorem fabAdjoints (h : Inv s) (p : Packet) (asid : Asid) (va : Nat) (x : Xlat) (os : List Nat) (out : List Byte) :
    Inv (s.fabAdjoints p asid va x os out).1 := by
  induction os generalizing s out with
  | nil => exact h
  | cons o os ih =>
    unfold State.fabAdjoints
    split
    next e => exact (h.fabAdjLane _ _ _ _ _ _).of_eq e
    next e => exact (h.fabAdjLane _ _ _ _ _ _).of_eq e
    next e =>
      have ha := (h.fabAdjLane _ _ _ _ _ _).of_eq e
      split
      · split
        · exact ha
        next e1 => exact ih (ha.noteRemote _ _ _ e1) _
      · refine ih ?_ _
        cases e1 : State.noteRemote _ p (x.pa + o) (-1) with
        | none => exact ha
        | some u => exact ha.noteRemote _ _ _ e1
      · exact ih ha _

theorem fabAdjoint (h : Inv s) (p : Packet) (asid : Asid) (va : Nat) : Inv (s.fabAdjoint p asid va).1 := by
  unfold State.fabAdjoint
  split
  · exact h
  · split
    · exact h
    · split
      · exact h
      · exact h.fabAdjoints _ _ _ _ _ _

theorem captureRequest (h : Inv s) (p : Packet) (asid : Asid) : Inv (s.captureRequest p asid) :=
  .ite (h.capture _ _ _ _ _ _) h

theorem fabEnd (h : Inv s) (p : Packet) (asid : Asid) {r : State × FabRes} (hr : Inv r.1) : Inv
    (s.fabEnd p asid r) := by
  unfold State.fabEnd
  split
  · exact ((hr.captureRequest _ _).rest).answer _ _ _
  · exact hr.rest.answer _ _ _
  · exact ((hr.captureRequest _ _).rest).answer _ _ _
  · exact h.answer _ _ _
  · exact h.rest
  · split
    · exact .ite (h.rest.answer _ _ _) (.ite h.rest h)
    · exact h.rest

theorem fabServe (h : Inv s) (p : Packet)
    {f : State → Packet → Asid → Nat → State × FabRes} (hf : ∀ u a b c, Inv u → Inv (f u a b c).1) :
    Inv (s.fabServe p f) := by
  unfold State.fabServe
  split
  · exact h.answer _ _ _
  · exact .ite (h.answer _ _ _) (h.fabEnd _ _ (hf _ _ _ _ h))

theorem fabRequest (h : Inv s) (kind : Nat) (p : Packet) {f : State → State} (hf : ∀ u, Inv u → Inv (f u)) :
    Inv (s.fabRequest kind p f) := by
  unfold State.fabRequest
  split
  · exact h
  · split
    · exact hf _ h
    · split
      · exact h
      next e => exact hf _ (h.take _ e)

theorem execFabricRead (h : Inv s) (p : Packet) : NextInv (Machine.execFabricRead p s) :=
  .next (h.fabRequest _ _ (fun _ g => ((g.answer _ _ _).ite (g.answer _ _ _)).ite
    (g.fabServe _ (fun _ _ _ _ g2 => g2.fabRead _ _ _))))

theorem castSweep (h : Inv s) : Inv s.castSweep := h.rest.foldl (fun _ _ g => g.answer _ _ _) _

theorem castFail (h : Inv s) (src tag code : Nat) : Inv (s.castFail src tag code) := h.rest

theorem castPort (h : Inv s) (p : Packet) (tree port : Nat) : Inv (s.castPort p tree port) := by
  unfold State.castPort
  split
  · exact h.castFail _ _ _
  · exact .ite (h.castFail _ _ _) (h.rest.enqueue _ _)

theorem castStart (h : Inv s) (p : Packet) (tree entry : Nat) : Inv (s.castStart p tree entry) :=
  .ite (h.answer _ _ _) (.ite ((((h.rest.foldl (fun _ _ g => g.castPort _ _ _) _).request _ _ _).ite
    (h.rest.foldl (fun _ _ g => g.castPort _ _ _) _)).castSweep) (h.answer _ _ _))

theorem execFabricWrite (h : Inv s) (p : Packet) : NextInv (Machine.execFabricWrite p s) :=
  .next (h.fabRequest _ _ (fun _ g => (g.answer _ _ _).ite ((g.castStart _ _ _).ite
    (g.fabServe _ (fun _ _ _ _ g2 => g2.fabWrite _ _ _)))))

theorem execMulticastWrite (h : Inv s) (port : Nat) (p : Packet) : NextInv (Machine.execMulticastWrite port p s) :=
  .next (h.fabRequest _ _ (fun _ g => (g.fabServe _ (fun _ _ _ _ g2 => g2.fabWrite _ _ _)).ite (g.castStart _ _ _)))

theorem fabDecrement (h : Inv s) (p : Packet) (asid : Asid) (va : Nat) : Inv (s.fabDecrement p asid va) := by
  unfold State.fabDecrement
  split
  · exact h.fabEnd _ _ h
  · split
    · exact (h.unheard _).fabEnd _ _ h
    · exact (h.captureRequest _ _).joinDecrement _ _ _

theorem execFabricAtomic (h : Inv s) (p : Packet) : NextInv (Machine.execFabricAtomic p s) := by
  unfold Machine.execFabricAtomic
  refine .next ?_
  refine h.fabRequest _ _ (fun _ g => ?_)
  split
  · exact g.answer _ _ _
  · split
    · split
      · exact g.fabDecrement _ _ _
      · exact g.answer _ _ _
    · exact g.fabServe _ (fun _ _ _ _ g2 => g2.fabAtomic _ _ _)

theorem execFabricAdjoint (h : Inv s) (p : Packet) : NextInv (Machine.execFabricAdjoint p s) :=
  .next (h.fabRequest _ _ (fun _ g => (g.answer _ _ _).ite (g.fabServe _ (fun _ _ _ _ g2 => g2.fabAdjoint _ _ _))))

theorem execPacketForward (h : Inv s) (p : Packet) : NextInv (Machine.execPacketForward p s) := by
  unfold Machine.execPacketForward
  refine .next ?_
  split
  · exact h
  · split
    · exact h
    · split
      · exact h
      next e => exact (h.linkIn e).sendPacket _

theorem noteTagFail (h : Inv s) (tag : Nat) (c : Cause) : Inv (s.noteTagFail tag c) := h.rest

theorem laneReply (h : Inv s) (core slot id tag : Nat) (res : Except Cause (List Byte)) :
    Inv (s.laneReply core slot id tag res) := by
  unfold State.laneReply
  split
  · exact h
  refine .ite (h.pullReply _ _ _ _ _) (.ite (h.claimReply _ _ _ _ _) ?_)
  split
  · exact h.launchReply _ _ _ _ _
  · exact h
  next i x sp _ _ =>
    dsimp only
    generalize hr : List.foldl _ (_, []) _ = r
    have hi : Inv r.1 := by
      rw [← hr]
      refine foldl_fst (fun r a g => ?_) _ ?_
      · cases res with
        | ok bs => exact g.land _ _ _ _ _ _
        | error c => exact g
      · cases res with
        | ok bs => exact (h.foldl (fun _ _ g => g.countAcc _ _ _ _) _).ite h
        | error c => exact h
    split
    · exact hi
    · exact hi.settle _ _ _

theorem scalarReply (h : Inv s) (who : Who) (o : Outstanding) (res : Except Cause (List Byte)) :
    Inv (s.scalarReply who o res) := by
  unfold State.scalarReply
  split
  · exact h
  · split
    · split
      · exact h
      · split
        · exact h.result _ _ _
        · exact (h.countWrite _ _ _ _ _).advance _
    · exact .ite h (.ite (h.scalarFabric _ _ _ _) (h.advance _))
    · exact .ite h (h.scalarFault _ _ _)
    · exact .ite h (h.scalarFault _ _ _)
    · exact h

theorem finishRequest (h : Inv s) (o : Outstanding) (res : Except Cause (List Byte)) :
    Inv (s.finishRequest o res) := by
  unfold State.finishRequest
  refine .fabReports ?_
  refine .castSweep ?_
  split
  · refine .laneReply ?_ _ _ _ _ _
    split
    · exact .ite (h.rest.noteTagFail _ _) h.rest
    · exact h.rest
  · refine .scalarReply ?_ _ _ _
    split
    · exact .ite (h.rest.noteTagFail _ _) h.rest
    · exact h.rest
  · refine .copyReply ?_ _ _ _ _
    split
    · exact .ite (h.rest.noteTagFail _ _) h.rest
    · exact h.rest
  · refine .bteReply ?_ _ _ _
    split
    · exact .ite (h.rest.noteTagFail _ _) h.rest
    · exact h.rest
  · split
    · refine .castFail ?_ _ _ _
      exact .ite (h.rest.noteTagFail _ _) h.rest
    · dsimp only
      exact h.rest

theorem fabReply (h : Inv s) (kind : Nat) (p : Packet) : Inv (s.fabReply kind p) := by
  unfold State.fabReply
  dsimp only
  split
  · exact h
  · split
    · exact h.rest
    · split
      · split
        · exact h
        · split
          · exact h
          next e =>
            have h1 := h.take _ e
            split
            · exact (h1.capture _ _ _ _ _ _).finishRequest _ _
            · split
              · exact h1.capture _ _ _ _ _ _
              · split
                · exact (h1.capture _ _ _ _ _ _).finishRequest _ _
                · exact h1.capture _ _ _ _ _ _
      · split
        · exact h
        · split
          · exact h
          next e =>
            have h1 := h.take _ e
            split
            · exact h1.finishRequest _ _
            · split
              · exact h1.rest
              · split
                · exact h1.finishRequest _ _
                · exact h1

theorem execFabricTimeoutExpire (h : Inv s) (n : Nat) : NextInv (Machine.execFabricTimeoutExpire n s) := by
  unfold Machine.execFabricTimeoutExpire
  refine .next ?_
  split
  · exact h
  · exact .ite h (h.rest.finishRequest _ _)

theorem execRemoteCountRetry (h : Inv s) (n : Nat) : NextInv (Machine.execRemoteCountRetry n s) := by
  unfold Machine.execRemoteCountRetry
  refine .next ?_
  split
  · exact h
  · split
    · exact h
    · exact .ite h (h.rest.sendBy _ _)

theorem setFabBar (h : Inv s) (i : Nat) (b : FabBar) : Inv (s.setFabBar i b) := h.rest

theorem abortBar (h : Inv s) (i : Nat) (b : FabBar) (list : List Nat) : Inv (s.abortBar i b list) :=
  (h.setFabBar _ _).foldl (fun _ _ g => g.sendMessage _) _

theorem refuseReport (h : Inv s) (p : Packet) : Inv (s.refuseReport p) := h.sendMessage _

theorem refuseHeld (h : Inv s) (b : FabBar) : Inv (s.refuseHeld b) := h.rest.foldl (fun _ _ g => g.refuseReport _) _

theorem holdReport (h : Inv s) (i : Nat) (b : FabBar) (p : Packet) (c : Cause) (va : Nat) :
    Inv (s.holdReport i b p c va) := h.rest

theorem completeBar (h : Inv s) (i : Nat) (b : FabBar) (list : List Nat) (p : Packet) :
    Inv (s.completeBar i b list p) := by
  have hr := h.srecUpdate (tr := Machine.hubTr b.asid true) (fun _ _ g => g.hubTr _ _ _) b.srec.toNat true
  unfold State.completeBar
  split
  next e => exact (hr.of_eq e).abortBar _ _ _
  next e => exact (hr.of_eq e).holdReport _ _ _ _ _
  next e => exact ((hr.of_eq e).setFabBar _ _).foldl (fun _ _ g => g.sendMessage _) _

theorem takeReport (h : Inv s) (i : Nat) (b : FabBar) (list : List Nat) (rank : Nat) (p : Packet) :
    Inv (s.takeReport i b list rank p) := by
  unfold State.takeReport
  dsimp only
  split
  · exact .ite (h.completeBar _ _ _ _) h
  · split
    next e => exact ((h.srecArrive (fun _ _ g2 => g2.hubTr _ _ _) _ _ _).of_eq e).abortBar _ _ _
    next e => exact ((h.srecArrive (fun _ _ g2 => g2.hubTr _ _ _) _ _ _).of_eq e).holdReport _ _ _ _ _
    next e =>
      have h1 := (h.srecArrive (fun _ _ g2 => g2.hubTr _ _ _) _ _ _).of_eq e
      exact .ite (h1.completeBar _ _ _ _) (h1.setFabBar _ _)

theorem execBarrierReport (h : Inv s) (p : Packet) : NextInv (Machine.execBarrierReport p s) := by
  unfold Machine.execBarrierReport
  refine .next (.ite h ?_)
  split
  · split
    · exact h
    next e => exact (h.take _ e).refuseReport _
  refine .ite h ?_
  split
  · exact h
  next e =>
    have h1 := h.take _ e
    have habort (i : Nat) (b : FabBar) (l : List Nat) := (h1.abortBar i b l).refuseReport p
    dsimp only
    split
    · exact .ite (habort _ _ _) (.ite (h1.holdReport _ _ _ _ _) ((h1.unheardAt _ _ _).refuseReport _))
    · refine .ite (habort _ _ _) ?_
      split
      · exact h1.refuseReport _
      · exact .ite (h1.refuseReport _) (.ite (habort _ _ _) (h1.takeReport _ _ _ _ _))

theorem keepFabric (h : Inv s) (v : SavedTeam) (off : Nat) : Inv (s.keepFabric v off) := .ite (h.hubPut _ _) h

theorem completeSaved (h : Inv s) (asid : Asid) (off : Nat) : Inv (s.completeSaved asid off) :=
  (h.foldl (fun _ _ g => g.keepFabric _ _) _).modHub _

theorem writePage (h : Inv s) (p : Packet) : Inv (s.writePage p) := h.setFab _

theorem execBarrierComplete (h : Inv s) (p : Packet) : NextInv (Machine.execBarrierComplete p s) := by
  unfold Machine.execBarrierComplete
  refine .next ?_
  split
  · exact h
  · split
    · exact h
    next e => exact (((h.take _ e).completeSaved _ _).foldl (fun _ _ g2 => (g2.phaseAcq _).modBar _ _ _ _)
      _).writePage _

theorem breakSaved (h : Inv s) (asid : Asid) (off : Nat) : Inv (s.breakSaved asid off) :=
  (h.foldl (fun _ _ g => g.modCore _ _) _).foldl (fun _ _ g => g.hubPut _ _) _

theorem execBarrierAbort (h : Inv s) (p : Packet) : NextInv (Machine.execBarrierAbort p s) := by
  unfold Machine.execBarrierAbort
  refine .next ?_
  split
  · exact h
  · split
    · exact h
    next e => exact ((h.take _ e).breakSaved _ _).foldl (fun _ _ g2 => g2.modBar _ _ _ _) _

theorem abortBars (h : Inv s) (peer : Nat) : Inv (s.abortBars peer) :=
  h.foldl (fun _ _ g => ((g.abortBar _ _ _).refuseHeld _).ite ((g.setFabBar _ _).ite g)) _

theorem leaveUp (h : Inv s) (peer : Nat) : Inv (s.leaveUp peer) :=
  ((h.rest.foldl (fun _ _ g => g.ite (g.orphan _)) _).foldl (fun _ _ g => g.finishRequest _ _) _).abortBars _

theorem setPeer (h : Inv s) (peer : Nat) (e : PeerEntry) : Inv (s.setPeer peer e) :=
  .ite h (.ite (h.rest.leaveUp _) h.rest)

theorem writeRoute (h : Inv s) (d : Nat) (v : BitVec 64) : Inv (s.writeRoute d v) :=
  .ite ((h.rest.modPort _ _).modPort _ _) h.rest

theorem execFabricTableWrite (h : Inv s) (off : Nat) (v : BitVec 64) :
    NextInv (Machine.execFabricTableWrite off v s) :=
  .next (.ite h (.ite (h.writeRoute _ _) (.ite h.rest (.ite h.rest (.ite (h.setPeer _ _) h)))))

/-! #### Floe ports, the firn tier and the loss of cache entries (R68, R79, R322) -/

theorem firnLog (h : Inv s) (port kind dpa : Nat) : Inv (s.firnLog port kind dpa) :=
  .ite ((h.modRegs _).msix _) (h.modRegs _)

theorem firnBad (h : Inv s) (pa : Nat) : Inv (s.firnBad pa) := .ite h h.rest

theorem execFirnError (h : Inv s) (port kind pa : Nat) : NextInv (Machine.execFirnError port kind pa s) :=
  .next (.ite (h.rest.firnLog _ _ _) (.ite (.ite ((h.firnBad _).firnLog _ _ _)
    (.ite ((h.firnDrop _).firnLog _ _ _) h)) h))

theorem firnUnheard (h : Inv s) (pa : Nat) : Inv (s.firnUnheard pa) := h.firnLog _ _ _

theorem forget (h : Inv s) (level index : Nat) : Inv (s.forget level index) := by
  unfold State.forget
  split
  · exact h.modCore _ _
  · exact h.rest
  · exact h.rest
  · exact h.rest
  · exact h.rest
  · split
    · exact .ite (h.modCore _ _) h
    · exact h
  · split
    · exact h
    · exact h.writeBackLine _

theorem upset (h : Inv s) (what index : Nat) : Inv (s.upset what index) := by
  unfold State.upset
  split
  · exact .ite h.rest h
  · exact h.modCore _ _
  · exact h.modCore _ _
  · exact h.modCore _ _
  · exact h.modCore _ _
  · exact h.modWarp _ _ _
  · exact h.modWarp _ _ _
  · exact h.modTeam _ _ _
  · exact h.modWarp _ _ _
  · exact h.modWarp _ _ _

/-! #### Reset, the start sequence and SPDM (R361 to R369) -/

theorem execDeviceReset (h : Inv s) : NextInv (Machine.execDeviceReset s) :=
  .next ⟨h.mem, rfl, show (0#2).toNat ≤ 2 by decide⟩

theorem joinFabric2 (h : Inv s) : Inv s.joinFabric2 := by
  unfold State.joinFabric2
  exact (h.foldl (fun _ _ g => g.modPort _ _) _).setFabHub _ _

theorem execStageAdvance (h : Inv s) : NextInv (Machine.execStageAdvance s) := by
  unfold Machine.execStageAdvance
  refine .next (.ite h ?_)
  split
  · refine .ite ((Inv.foldl (h.setStage ?_) (fun _ _ g => g.noteHead _) _).msix _) h.rest
    show (1#2).toNat ≤ 2
    decide
  · exact (h.joinFabric2.setStage (show (2#2).toNat ≤ 2 by decide)).msix _
  · exact h

theorem enterRest (h : Inv s) (n : Nat) : Inv (s.enterRest n) :=
  ((h.rest.ite h).foldl (fun _ _ g => g.writeBackLine _) _).ite (h.rest.ite h)

theorem latTolSet (h : Inv s) (v : BitVec 64) : Inv (s.latTolSet v) := .ite h.rest.wake h.rest

theorem recover (h : Inv s) (keep : Bool) : Inv (s.recover keep) := by
  unfold State.recover
  refine .ite h.rest ?_
  split
  · exact h.rest
  · exact .ite (h.setStage (show (0#2).toNat ≤ 2 by decide)) h.rest

theorem rcvGoWrite (h : Inv s) (v : BitVec 64) : Inv (s.rcvGoWrite v) := .ite h.rest h

theorem recoveryEnd (h : Inv s) : Inv s.recoveryEnd := .ite (h.recover _) h

theorem spdm (h : Inv s) (bs : List Byte) : Inv (s.spdm bs) := h.rest

theorem spdmError (h : Inv s) (e : Nat) : Inv (s.spdmError e) := h.spdm _

theorem spdmSigned (h : Inv s) (req bs : List Byte) : Inv (s.spdmSigned req bs) := h.spdm _

theorem spdmNonce (h : Inv s) : Inv s.spdmNonce.2 := h.rest

theorem execGetMeasurements (h : Inv s) (req : List Byte) : NextInv (Machine.execGetMeasurements req s) :=
  .next (.ite (h.spdmError _) (.ite (h.spdmError _) (h.spdmNonce.spdmSigned _ _)))

/-! #### Sampling, stops and dumps (R300 to R309) -/

theorem putSample (h : Inv s) (r : List Byte) : Inv (s.putSample r) :=
  .ite (.ite (((h.ringPut _ _ _ _).modRegs _).msix _) ((h.ringPut _ _ _ _).modRegs _)) (h.modRegs _)

theorem execSampleTake (h : Inv s) (core quad : Nat) : NextInv (Machine.execSampleTake core quad s) := by
  unfold Machine.execSampleTake
  dsimp only
  refine .next (.ite h ?_)
  split
  · exact h.rest
  · split
    · exact h.rest
    · split
      · split
        · exact h.rest
        · exact h.rest.putSample _
      · split
        · exact h.rest.putSample _
        · exact h.rest

theorem stopWrite (h : Inv s) (v : BitVec 64) : Inv (s.stopWrite v) := by
  unfold State.stopWrite
  split
  · exact h.stopTeam _ _ _ _
  · exact h

theorem askDump (h : Inv s) (c key : Nat) : Inv (s.askDump c key) := h.modHub _

theorem execTeamStopped (h : Inv s) (core team : Nat) : NextInv (Machine.execTeamStopped core team s) := by
  unfold Machine.execTeamStopped
  refine .next ?_
  split
  · exact h
  · split
    · exact .ite (.ite (((h.modTeam _ _ _).msix _).askDump _ _) ((h.modTeam _ _ _).msix _)) h
    · exact h

theorem resumeWrite (h : Inv s) (v : BitVec 64) : Inv (s.resumeWrite v) := by
  unfold State.resumeWrite
  split
  · exact .ite ((h.modTeam _ _ _).takeHeld _ _) h
  · exact h

theorem discardWrite (h : Inv s) (v : BitVec 64) : Inv (s.discardWrite v) := by
  unfold State.discardWrite
  split
  · split
    · split
      · exact h.setGang _ _
      · exact h
    · exact h
  · exact h

theorem dumpReqWrite (h : Inv s) (v : BitVec 64) : Inv (s.dumpReqWrite v) := by
  unfold State.dumpReqWrite
  split
  · exact .ite (h.askDump _ _) h
  · exact h

theorem dumpCtlWrite (h : Inv s) (v : BitVec 64) : Inv (s.dumpCtlWrite v) := .ite h (h.modRegs _)

theorem writeDump (h : Inv s) (c key : Nat) (t : Team) : Inv (s.writeDump c key t) :=
  (((h.hubPut _ _).hubPut _ _).modRegs _).msix _

theorem execDumpWrite (h : Inv s) : NextInv (Machine.execDumpWrite s) := by
  unfold Machine.execDumpWrite
  refine .next ?_
  dsimp only
  split
  · exact h.modRegs _
  · split
    · exact h
    · split
      · exact h.modRegs _
      · split
        · exact (h.modHub _).writeDump _ _ _
        · exact (h.modHub _).modRegs _

/-! #### The host link (R113, R331 to R334) -/

theorem rereadHead (h : Inv s) (q : Nat) : Inv (s.rereadHead q) := by
  unfold State.rereadHead
  split
  · exact h.noteHead _
  · exact .ite h ((h.modHub _).noteHead _)

theorem queueWrite (h : Inv s) (q : Nat) (v : BitVec 64) : Inv (s.queueWrite q v) :=
  .ite (.ite h (h.setQueue _ _)) (.ite (.ite (h.setQueue _ _) ((h.setQueue _ _).rereadHead _)) h)

theorem bteTableWrite (h : Inv s) (q word : Nat) (v : BitVec 64) : Inv (s.bteTableWrite q word v) := h.modHub _

theorem exportWrite (h : Inv s) (i : Nat) (v : BitVec 64) : Inv (s.exportWrite i v) := h.rest

theorem barTableWrite (h : Inv s) (i word : Nat) (v : BitVec 64) : Inv (s.barTableWrite i word v) := h.setFabBar _ _

theorem msixWrite (h : Inv s) (i : Nat) (v : BitVec 64) : Inv (s.msixWrite i v) := (h.modHub _).msixUnmask

theorem tableWrite (h : Inv s) (off : Nat) (v : BitVec 64) : Inv (s.tableWrite off v) :=
  .ite (.ite (h.queueWrite _ _) h) (.ite (h.bteTableWrite _ _ _)
    (.ite (h.exportWrite _ _) (.ite (h.barTableWrite _ _ _) (.ite (h.msixWrite _ _) h))))

theorem rcvWrite (h : Inv s) (off : Nat) (v : BitVec 64) : Inv (s.rcvWrite off v) := .ite (.ite h.rest h.rest) h

theorem registerWrite (h : Inv s) (off : Nat) (v : BitVec 64) : Inv (s.registerWrite off v) := by
  unfold State.registerWrite
  split
  · exact h
  · split
    · exact h.tableWrite _ _
    · split
      · exact h.replayWrite _
      · exact h.replayFailWrite _
      · exact h.preemptWrite _
      · exact h.stopWrite _
      · exact h.resumeWrite _
      · exact h.discardWrite _
      · exact h.dumpCtlWrite _
      · exact h.dumpReqWrite _
      · exact h.tlbiWrite
      · exact h.pgrelWrite
      · exact h.latTolSet _
      · exact h.rcvWrite _ _
      · exact h.rcvWrite _ _
      · exact h.rcvGoWrite _
      · exact h.modRegs _

theorem refuseHost (h : Inv s) (bar off : Nat) : Inv (s.refuseHost bar off) :=
  .ite ((h.modRegs _).msix _) (h.modRegs _)

theorem execHostWindowRead (h : Inv s) (bar off len : Nat) : NextInv (Machine.execHostWindowRead bar off len s) :=
  .next (.ite (h.hostIn (fun _ g => g.ite (g.refuseHost _ _))) (.ite (h.hostIn (fun _ g => g)) h))

theorem hostWrite (h : Inv s) (pa : Nat) (data : List Byte) (first : Bool) : Inv (s.hostWrite pa data first) :=
  .ite h ((h.drainPosted.ite h).hostPut _ _)

theorem freeBit (h : Inv s) : Inv s.freeBit.1 := h.rest

theorem execHostWindowWrite (h : Inv s) (off : Nat) (data : List Byte) (requester : Nat) (relaxed : Bool) :
    NextInv (Machine.execHostWindowWrite off data requester relaxed s) := by
  unfold Machine.execHostWindowWrite
  refine .next ?_
  dsimp only
  split
  · split
    · exact h.wake
    · exact .ite h.wake ((h.wake.modHub _).hostPut _ _)
  · split
    · exact h.wake
    · split
      · exact h.wake.refuseHost _ _
      · exact .ite (h.wake.hostWrite _ _ _) (.ite (h.wake.freeBit.modHub _) (h.wake.freeBit.hostWrite _ _ _))

theorem execHostNotifyWrite (h : Inv s) (off : Nat) (data : List Byte) (_requester : Nat) :
    NextInv (Machine.execHostNotifyWrite off data _requester s) := by
  unfold Machine.execHostNotifyWrite
  refine .next ?_
  dsimp only
  split
  · exact h.wake
  · split
    · exact h.wake.refuseHost _ _
    · exact .ite (h.wake.hostWrite _ _ _) (h.wake.freeBit.hostWrite _ _ _)

theorem hostMemWrite (h : Inv s) (pa : Nat) (v : BitVec 64) : Inv (s.hostMemWrite pa v) := by
  unfold State.hostMemWrite
  refine .ite h ?_
  split
  · exact h.rest
  · exact (h.writeMem pa _).noteWatch _ _

/-! #### Lane arithmetic (R195 to R208) -/

theorem laneOp (h : Inv s) (i : Instr) (a : AluArgs) (f : LCtx → Nat → Word) : NextInv (Machine.laneOp s i a f) :=
  h.runLane _ (fun _ => (h.modWarp _ _ _).dispatched _)

theorem unitOp (h : Inv s) (i : Instr) (a : AluArgs) (f : LCtx → Nat → RWord) : NextInv (Machine.unitOp s i a f) :=
  h.runLane _ (fun _ => (h.modWarp _ _ _).dispatched _)

theorem lane2 (h : Inv s) (i : Instr) (x : AluArgs) (f : Word → Word → Word) : NextInv (Machine.lane2 s i x f) :=
  h.laneOp _ _ _

theorem lane1 (h : Inv s) (i : Instr) (x : AluArgs) (f : Word → Word) : NextInv (Machine.lane1 s i x f) :=
  h.laneOp _ _ _

theorem lane3 (h : Inv s) (i : Instr) (x : AluArgs) (f : Word → Word → Word → Word) :
    NextInv (Machine.lane3 s i x f) := h.laneOp _ _ _

/-! #### Integer operations on g registers (R173, R174) -/

theorem scalar2 (h : Inv s) (i : Instr) (d a b : GReg) (f : Word → Word → Word) :
    NextInv (Machine.scalar2 s i d a b f) := h.runScalar _ (fun _ => h.result _ _ _)

theorem scalarUnit (h : Inv s) (i : Instr) (d : GReg) (f : Warp → RWord) : NextInv (Machine.scalarUnit s i d f) :=
  h.runScalar _ (fun _ => (h.modWarp _ _ _).advance _)

theorem scalar1 (h : Inv s) (i : Instr) (d a : GReg) (f : Word → Word) : NextInv (Machine.scalar1 s i d a f) :=
  h.runScalar _ (fun _ => h.result _ _ _)

/-! #### Every instruction and event -/

theorem exec (h : Inv s) (i : Instr) : NextInv (Machine.exec i s) := by
  unfold Machine.exec
  cases i with
  | add | sub | mul | addi => exact h.scalarUnit _ _ _
  | mulhS32 | mulhN32 | and | or | xor | shl | shr | sar | minS32 | minN32 | maxS32 | maxN32 | cmpEq | cmpNe
  | cmpLtS32 | cmpLeS32 | cmpLtN32 | cmpLeN32 => exact h.scalar2 _ _ _ _ _
  | popc | clz | andi | ori | xori | shli | shri => exact h.scalar1 _ _ _ _
  | sel | lui | vote | rdt | rdx | feat => exact h.runScalar _ (fun _ => h.result _ _ _)
  | ldg => exact h.execLdg _ _ _
  | stg => exact h.execStg _ _ _
  | movg | clock => exact h.runScalar _ (fun _ => (h.modWarp _ _ _).advance _)
  | wrt => exact h.runScalar _ (fun _ => (h.modTeam _ _ _).advance _)
  | wrx => exact h.execWrx _
  | br | brl => exact h.runScalar _ (fun _ => (h.goto _ _).ite (h.advance _))
  | split => exact h.execSplit _ _
  | joinat => exact h.execJoinat _
  | join => exact h.execJoin
  | jmp => exact h.runScalar _ (fun _ => h.goto _ _)
  | jmpr => exact h.runScalar _ (fun _ => (h.scalarFault _ _ _).ite (h.goto _ _))
  | jmpv => exact h.execJmpv _
  | call => exact h.execCall _
  | callr => exact h.execCallr _
  | callv => exact h.execCallv _
  | ret => exact h.execRet
  | loop => exact h.execLoop _ _
  | exit => exact h.runScalar _ (fun _ => (h.count _).modWarp _ _ _)
  | issue => exact h.execIssue _ _
  | waitf | nop => exact h.runScalar _ (fun _ => h.advance _)
  | yield => exact h.runScalar _ (fun _ => (h.advance _).modSplit _ _)
  | barwait => exact h.execBarwait _ _
  | qwait => exact h.execQwait _ _ _
  | trap => exact h.runScalar _ (fun _ => h.trapAfter _ _)
  | rtt => exact h.execRtt
  | rdsr => exact h.execRdsr _ _
  | wrsr => exact h.execWrsr _ _
  | tlbinv => exact h.execTlbinv _ _ _
  | bkpt => exact h.execBkpt _
  | halt => exact h.runScalar _ (fun _ => (h.advance _).stopTeam _ _ _ _)
  | iadd | isub | imul | imad => exact h.unitOp _ _ _
  | imulh | imin | imax | lea | laneAnd | laneOr | laneXor | laneShl | laneShr | laneSar | icmp | fadd | fsub
  | fmul | fmin | fmax | fcmp | hadd2 | hmul2 => exact h.lane2 _ _ _
  | iabs | ineg | not | lanePopc | laneClz | rcp | rsq | sqrt | exp2 | log2 | sin | cos | tanh | sigm =>
    exact h.lane1 _ _ _
  | mov | movi | bfi | had | shfl | bfly | bcast | redux | scan | laneid => exact h.laneOp _ _ _
  | bfe | laneSel | ffma | hfma2 => exact h.lane3 _ _ _
  | cvt | cvtq => exact h.runLane _ (fun _ => (h.modWarp _ _ _).dispatched _)
  | ld | gather | st | scatter | atomAdd | atomMin | atomMax | atomAnd | atomOr | atomXor | atomExch | atomCas
  | redAdd | redMin | redMax | redAnd | redOr | redXor | ldf | ldfRc | adja | adjr | adjrWait | adjq =>
    exact h.memDispatch _
  | ldl => exact h.execLdl _
  | ldc => exact h.execLdc _
  | gatherP => exact h.execGatherP _
  | pref => exact h.execPref _
  | tagl => exact h.execTagl _
  | stl => exact h.execStl _
  | stc => exact h.execStc _
  | tagset => exact h.execTagset _
  | taginv => exact h.execTaginv _
  | phaseRel | phaseAcq => exact h.runLane _ (fun _ => (h.laneHold _ _).ite (h.launchOp _ _ _ _ _))
  | gangset => exact h.execGangset _
  | mma => exact h.execMma _
  | mmaJ => exact h.execMmaJ _
  | bld => exact h.execBld _
  | ldacc => exact h.execLdacc _
  | stacc => exact h.execStacc _
  | zacc => exact h.execZacc _
  | dupmap => exact h.execDupmap _
  | mwait => exact h.runLane _ (fun _ => (h.launchOp _ _ _ _ _).modCore _ _)
  | kick => exact h.execKick _
  | wptr => exact h.execWptr _
  | qpush => exact h.execQpush _
  | qfence => exact h.execQfence _
  | launch => exact h.execLaunch _
  | barinit => exact h.execBarinit _
  | barrive | barriveBytes | gbar | fbar => exact h.arriveDispatch _ _ _ _
  | bartry => exact h.execBartry _
  | strag => exact h.execStrag _
  | tqpop => exact h.execTqpop _
  | tqsteal => exact h.execTqsteal _
  | tqdone => exact h.execTqdone _
  | itopen => exact h.execItopen _
  | next | nextBounded => exact h.nextDispatch _ _ _
  | enough => exact h.execEnough _
  | itsave => exact h.execItsave _
  | itload => exact h.execItload _
  | itstat => exact h.execItstat _
  | clauseStart => exact h.execClauseStart _ _ _
  | waitCountAged | cxlPortTrain => exact .next (.ite h.rest h)
  | loadDataLands => exact h.execLoadDataLands _ _ _ _
  | storePerformed => exact h.execStorePerformed _ _ _ _
  | clusterLmAck => exact h.execClusterLmAck _ _ _ _
  | atomicAtHome => exact h.execAtomicAtHome _ _ _ _
  | countedLoadAtHome => exact h.execCountedLoadAtHome _ _ _ _
  | adjaAtHome => exact h.execAdjaAtHome _ _ _ _
  | adjrAtHome => exact h.execAdjrAtHome _ _ _ _
  | adjrWaitRelease => exact h.execAdjrWaitRelease _ _ _ _
  | adjrWaitTimeout => exact h.execAdjrWaitTimeout _ _ _ _
  | phaseComplete => exact h.execPhaseComplete _ _ _
  | l1Writeback => exact h.execL1Writeback _ _
  | arrivalPerformed => exact h.execArrivalPerformed _ _ _
  | stragglerRecordReplayed => exact h.execStragglerRecordReplayed _ _
  | gangBarrierReport => exact h.execGangBarrierReport _ _ _
  | gangBarrierComplete => exact h.execGangBarrierComplete _ _
  | mmaDispatch => exact h.execMmaDispatch _ _ _
  | mmaComplete => exact h.execMmaComplete _ _ _
  | bldComplete => exact h.execBldComplete _ _ _
  | accWriteApplied => exact h.execAccWriteApplied _ _ _
  | joinMerge => exact .next (h.modWarp _ _ _)
  | warpRetire => exact h.execWarpRetire _ _
  | gangJoinDecrement => exact h.execGangJoinDecrement _
  | successorAppend => exact h.execSuccessorAppend _
  | joinDecrementReplayed => exact h.execJoinDecrementReplayed _
  | launchAppend => exact h.execLaunchAppend _ _ _
  | gangPlace => exact h.execGangPlace
  | placerPreemptRequest => exact h.execPlacerPreemptRequest _
  | copyRecordBegin => exact h.execCopyRecordBegin _ _
  | copyBytesDelivered => exact .next (h.copyUnits _ _ _)
  | copyRecordFinish => exact h.execCopyRecordFinish _ _
  | bteBell => exact h.execBteBell _
  | bteCopy | bteReduceCopy | bteFill => exact .next (h.bteRun _ _ _)
  | bteFence => exact h.execBteFence _
  | bteLaunch => exact h.execBteLaunch _
  | bteCompletionWrite => exact h.execBteCompletionWrite _
  | qpushSlotFree => exact h.execQpushSlotFree _ _ _ _
  | faultRecordWrite => exact h.execFaultRecordWrite
  | replay => exact .next (h.hostIn (fun _ g => g.replayWrite _))
  | replayFail => exact .next (h.hostIn (fun _ g => g.replayFailWrite _))
  | trapEntry => exact h.execTrapEntry _ _ _
  | qwaitWake => exact h.execQwaitWake _ _ _
  | qwaitTimeout => exact h.execQwaitTimeout _ _ _
  | pageWalk => exact h.execPageWalk _
  | pageWalkComplete => exact h.execPageWalkComplete _ _
  | tlbiGo => exact .next (h.hostIn (fun _ g => g.tlbiWrite))
  | tlbInvalidationComplete => exact h.execTlbInvalidationComplete _
  | pgrelGo => exact .next (h.hostIn (fun _ g => g.pgrelWrite))
  | pgrelComplete => exact h.execPgrelComplete
  | preemptGang | preemptAsid | preemptCluster => exact .next (.ite (h.hostIn (fun _ g => g.preemptWrite _)) h)
  | drainDeadlineExpire => exact h.execDrainDeadlineExpire _
  | gangSave => exact h.execGangSave _
  | saveLmWrite => exact h.execSaveLmWrite _
  | gangDiscard => exact h.execGangDiscard _
  | gangRestore => exact h.execGangRestore _
  | codeGoneRetire => exact h.execCodeGoneRetire _
  | thermalSample => exact .next (h.modCore _ _)
  | thermalMigrate => exact h.execThermalMigrate _
  | sampleTake => exact h.execSampleTake _ _
  | stop => exact .next (h.hostIn (fun _ g => g.stopWrite _))
  | teamStopped => exact h.execTeamStopped _ _
  | resume => exact .next (h.hostIn (fun _ g => g.resumeWrite _))
  | discard => exact .next (h.hostIn (fun _ g => g.discardWrite _))
  | dumpReq => exact .next (h.hostIn (fun _ g => g.dumpReqWrite _))
  | dumpWrite => exact h.execDumpWrite
  | dumpCtlWrite => exact .next (h.hostIn (fun _ g => g.dumpCtlWrite _))
  | captureRecordWrite => exact h.execCaptureRecordWrite
  | registerWrite => exact .next (h.hostIn (fun _ g => g.registerWrite _ _))
  | cqDescriptorWrite => exact .next (.ite (h.hostIn (fun _ g => g.queueWrite _ _)) h)
  | hostWindowRead => exact h.execHostWindowRead _ _ _
  | hostWindowWrite => exact h.execHostWindowWrite _ _ _ _
  | hostNotifyWrite => exact h.execHostNotifyWrite _ _ _
  | latTolWrite => exact .next (h.hostIn (fun _ g => g.latTolSet _))
  | restEntry => exact .next (.ite (h.enterRest _) h)
  | restExit => exact .next (.ite h.wake h)
  | deviceReset => exact h.execDeviceReset
  | stageAdvance => exact h.execStageAdvance
  | recoveryAttempt => exact .next (h.hostIn (fun _ g => g.rcvGoWrite _))
  | getVersion | getDigests => exact .next (h.spdm _)
  | getCapabilities => exact .next (h.rest.spdm _)
  | negotiateAlgorithms => exact .next (.ite (h.spdm _) (h.spdmError _))
  | getCertificate => exact .next (.ite (h.spdmError _) (h.spdm _))
  | challenge => exact .next (.ite (h.spdmError _) (h.spdmNonce.spdmSigned _ _))
  | getMeasurements => exact h.execGetMeasurements _
  | spdmUnsupported => exact .next (h.spdmError _)
  | fabricRead => exact h.execFabricRead _
  | fabricWrite => exact h.execFabricWrite _
  | fabricAtomic => exact h.execFabricAtomic _
  | fabricAdjoint => exact h.execFabricAdjoint _
  | multicastWrite => exact h.execMulticastWrite _ _
  | fabricReply | writeAcknowledge => exact .next (h.fabReply _ _)
  | barrierReport => exact h.execBarrierReport _
  | barrierComplete => exact h.execBarrierComplete _
  | barrierAbort => exact h.execBarrierAbort _
  | packetForward => exact h.execPacketForward _
  | fabricTimeoutExpire => exact h.execFabricTimeoutExpire _
  | remoteCountRetry => exact h.execRemoteCountRetry _
  | peerReset => exact .next (.ite (h.setPeer _ _) h)
  | fabricTableWrite => exact h.execFabricTableWrite _ _
  | flitReceive => exact .next (.ite ((h.wake.ite h).modPort _ _) h)
  | acknowledgement | replayRequest | ackTimer | laneFail | portRetrain | portDown | portTrain | flitSend =>
    exact .next (.ite (h.modPort _ _) h)
  | firnTimeout => exact .next (.ite (((h.firnDrop _).ite (h.firnBad _)).firnLog _ _ _) h)
  | firnError => exact h.execFirnError _ _ _

/-! #### One step -/

theorem stepScalar (h : Inv s) (who : Who) : NextInv (Machine.stepScalar s who) := by
  unfold Machine.stepScalar
  dsimp only
  split
  · exact .next (h.noteIssue _ _)
  · split
    next e => exact .next ((((h.noteIssue _ _).rest).scalarFetch _).of_eq e)
    next e => exact ((((h.noteIssue _ _).rest).scalarFetch _).of_eq e).exec _

theorem stepLane (h : Inv s) (who : Who) : NextInv (Machine.stepLane s who) := by
  unfold Machine.stepLane
  dsimp only
  split
  · exact .next ((h.noteIssue _ _).ite h)
  · split
    next e => exact .next (((((h.noteIssue _ _).ite h).rest).laneFetch _).of_eq e)
    next e => exact (((((h.noteIssue _ _).ite h).rest).laneFetch _).of_eq e).exec _

theorem stepIssued (h : Inv s) (who : Who) : NextInv (Machine.stepIssued s who) := by
  unfold Machine.stepIssued
  dsimp only
  split
  · exact .next h.rest
  · split
    next e => exact ((h.rest.fetchDecode _).of_eq e).exec _
    next e => exact .next ((h.rest.fetchDecode _).of_eq e)

theorem stepAction (h : Inv s) (a : Machine.Action) : NextInv (Machine.stepAction a s) := by
  unfold Machine.stepAction
  split
  · exact h.stepScalar _
  · exact h.stepLane _
  · exact h.stepIssued _
  · exact .next h.cycle
  · exact .next h.tick.fabReports.spill
  · exact .next h.issue
  · split
    · exact h.exec _
    · exact .next h
  · exact h.execSampleTake _ _
  · exact .next (h.registerWrite _ _)
  · exact .next (h.hostMemWrite _ _)
  · exact .next (h.unloadHead _)
  · exact .next (h.firnUnheard _)
  · exact .next h.recoveryEnd
  · exact .next (h.forget _ _)
  · exact .next (h.upset _ _)

theorem step (h : Inv s) : NextInv (Machine.step s) := by
  unfold Machine.step
  dsimp only
  split
  · exact h.wakeWatchers.rest.stepAction _
  · exact h.wakeWatchers.rest.stepAction _

end Sys2Proof.Spec.Inv

namespace Sys2Proof.Machine

/-- Settles O56: every function of the model from state to state keeps the invariant, so every instruction, every event
and every action of a step does. -/
theorem stepKeepsInvariant : Obligations.StepKeepsInvariant := fun _ t h e => h.step t e

end Sys2Proof.Machine

/-! ### What device reset leaves (R361) -/

namespace Sys2Proof.Machine

theorem inv_reset : Spec.Inv State.reset := ⟨rfl, rfl, Nat.zero_le 2⟩

theorem core_reset (c : Nat) : State.reset.core c = Core.reset := rfl

theorem port_reset (p : Nat) : State.reset.fab.port p = Port.reset := rfl

theorem hasFeature_reset {i : Nat} (h : i < 512) : State.reset.hasFeature i = decide (i < 40) := by
  have hf : State.reset.feat = BitVec.ofNat 512 (2 ^ 40 - 1) := rfl
  rw [State.hasFeature, hf, BitVec.getLsbD_ofNat, Nat.testBit_two_pow_sub_one, decide_eq_true h, Bool.true_and]

/-- Settles O58: the values are those of `State.reset`; the mask holds the 40 low bits. -/
theorem resetState : Obligations.ResetState :=
  ⟨inv_reset, rfl, rfl, rfl, rfl, rfl, rfl, rfl,
    fun c n => by
      simp only [State.warp, State.team, core_reset]
      exact ⟨rfl, rfl, rfl, rfl, rfl⟩,
    fun i h => by rw [hasFeature_reset h, decide_eq_true_iff],
    rfl, rfl, rfl, rfl, rfl, rfl, rfl, rfl,
    fun p => by
      rw [port_reset]
      exact ⟨rfl, rfl⟩⟩

end Sys2Proof.Machine

/-! ### Scalar arithmetic (R55, R68, R173, R174) -/

namespace Sys2Proof.Machine

open Sys2Proof.Laws

/-! #### Writes of g registers -/

theorem setG_zero (w : Warp) (v : Word) : w.setG 0 v = w := by rw [Warp.setG, Warp.setGCell, if_pos rfl]

theorem g_setG {w : Warp} {d : GReg} (hd : d ≠ 0) (v : Word) : (w.setG d v).g_ d = cellOf v := by
  unfold Warp.setG Warp.setGCell Warp.g_
  rw [if_neg hd, if_neg hd]
  exact amGet_smPut_self _ _ _ _

theorem setGCell_rest (w : Warp) (d : GReg) (c : RWord) : w.setGCell d c = { w with g := (w.setGCell d c).g } := by
  unfold Warp.setGCell
  split <;> rfl

theorem groupRegisterWritesAndZero : Spec.GroupRegisterWritesAndZero := by
  intro w d v
  refine ⟨fun r => ?_, fun hd => ?_, setG_zero w v, setGCell_rest w d _⟩
  · rw [gv_setG]
    by_cases hr : r = 0
    · subst hr
      rw [if_pos rfl, if_neg fun h => h.2 h.1.symm]
      rfl
    · rw [if_neg hr]
      exact if_congr ⟨And.left, fun h => ⟨h, h ▸ hr⟩⟩ rfl rfl
  · rw [g_setG hd]
    exact beq_self_eq_true _

/-! #### The forms of scalar instructions: one result, the next address -/

theorem cellGood_of_badG {w : Warp} {rs : List GReg} (h : badG w rs = none) : ∀ r ∈ rs, cellGood (w.g_ r) = true := by
  simpa [badG] using h

section

variable {s : State} {x : Ctx} {i : Instr} {d a b : GReg} {v : Word}

theorem result_ready (h : ScalarReady s x i) {f : Ctx → Word} (he : exec i s = runScalar s i fun x => s.result x d (f x))
    (hv : f x = v) : ∃ t, exec i s = .next t ∧ Retires s t x (x.warp.setG d v) (x.split.spc + 4) := by
  subst hv
  exact ⟨_, he.trans (runScalar_ready h _), h.local.result d _⟩

theorem scalar2_ready (h : ScalarReady s x i) {f : Word → Word → Word} (he : exec i s = scalar2 s i d a b f)
    (hv : f (x.warp.gv a) (x.warp.gv b) = v) :
    ∃ t, exec i s = .next t ∧ Retires s t x (x.warp.setG d v) (x.split.spc + 4) := result_ready h he hv

theorem scalar1_ready (h : ScalarReady s x i) {f : Word → Word} (he : exec i s = scalar1 s i d a f)
    (hv : f (x.warp.gv a) = v) :
    ∃ t, exec i s = .next t ∧ Retires s t x (x.warp.setG d v) (x.split.spc + 4) := result_ready h he hv

/-- The forms whose residue is predicted: where the residues read are right, so is the one written (R68). -/
theorem scalarUnit_ready (h : ScalarReady s x i) (hp : predicts i = true) {f : Warp → RWord}
    (he : exec i s = scalarUnit s i d f)
    (hv : (∀ r ∈ (scalarNames i).rd, cellGood (x.warp.g_ r) = true) → f x.warp = cellOf v) :
    ∃ t, exec i s = .next t ∧ Retires s t x (x.warp.setG d v) (x.split.spc + 4) := by
  obtain ⟨hflip, hbad⟩ := h.unit hp
  have hw : x.warp.setG d v = { x.warp.setGCell d (f x.warp) with flip := none } := by
    rw [hv (cellGood_of_badG hbad), ← hflip, setGCell_rest]
    exact setGCell_rest _ _ _
  refine ⟨_, he.trans (runScalar_ready h _), ?_⟩
  have hm := h.local.modWarp fun w =>
    { w.setGCell d (match w.flip with | some (_, b) => upsetCell b (f x.warp) | none => f x.warp) with flip := none }
  rw [hflip, ← hw] at hm
  exact hm.goto _

end

/-! #### Words -/

theorem mul_eq_ofNat (a b : Word) : a * b = BitVec.ofNat 32 (a.toNat * b.toNat) := by
  rw [BitVec.ofNat_mul, BitVec.ofNat_toNat, BitVec.ofNat_toNat, BitVec.setWidth_eq, BitVec.setWidth_eq]

theorem add_signExtend (a : Word) (i : BitVec 14) : a + i.signExtend 32 = BitVec.ofInt 32 (a.toNat + i.toInt) := by
  rw [BitVec.ofInt_add, BitVec.signExtend, BitVec.ofInt_natCast, BitVec.ofNat_toNat, BitVec.setWidth_eq]

theorem setWidth_shiftLeft_twelve (u : BitVec 20) : u.setWidth 32 <<< 12 = BitVec.ofNat 32 (u.toNat * 2 ^ 12) := by
  refine BitVec.eq_of_toNat_eq ?_
  have := u.isLt
  rw [BitVec.toNat_shiftLeft, BitVec.toNat_setWidth, BitVec.toNat_ofNat, Nat.shiftLeft_eq]
  omega

theorem leadingZeros_of_ne {a : Word} (h : a ≠ 0) : (leadingZeros a).toNat = 31 - Nat.log2 a.toNat := by
  rw [leadingZeros, if_neg h, BitVec.toNat_ofNat]
  omega

theorem log2_lt_of_ne {a : Word} (h : a ≠ 0) : Nat.log2 a.toNat < 32 :=
  (Nat.log2_lt fun h0 => h (BitVec.eq_of_toNat_eq h0)).2 a.isLt

theorem leadingZeros_spec {a : Word} (h : a ≠ 0) :
    (leadingZeros a).toNat < 32 ∧ a.getLsbD (31 - (leadingZeros a).toNat) = true ∧
      ∀ k, k < (leadingZeros a).toNat → a.getLsbD (31 - k) = false := by
  have hlt := log2_lt_of_ne h
  have hn : a.toNat ≠ 0 := fun h0 => h (BitVec.eq_of_toNat_eq h0)
  rw [leadingZeros_of_ne h]
  refine ⟨by omega, ?_, fun k hk => ?_⟩
  · rw [show 31 - (31 - Nat.log2 a.toNat) = Nat.log2 a.toNat by omega]
    exact Nat.testBit_log2 hn
  · exact Nat.testBit_lt_two_pow (Nat.lt_log2_self.trans_le (Nat.pow_le_pow_right (by decide) (by omega)))

/-! #### The register forms -/

theorem scalarRegisterFormResults : Spec.ScalarRegisterFormResults := by
  refine ⟨fun s x d a b c i v hi h => ?_, rfl, fun A hA => leadingZeros_spec hA⟩
  simp only [Spec.registerForms, List.mem_cons, Prod.mk.injEq, List.not_mem_nil, or_false] at hi
  have hgood (hg : ∀ r ∈ [a, b], cellGood (x.warp.g_ r) = true) : cellGood (x.warp.g_ a) = true ∧ cellGood (x.warp.g_ b) = true :=
    ⟨hg a (by simp), hg b (by simp)⟩
  rcases hi with ⟨rfl, rfl⟩ | ⟨rfl, rfl⟩ | ⟨rfl, rfl⟩ | ⟨rfl, rfl⟩ | ⟨rfl, rfl⟩ | ⟨rfl, rfl⟩ | ⟨rfl, rfl⟩ | ⟨rfl, rfl⟩ |
    ⟨rfl, rfl⟩ | ⟨rfl, rfl⟩ | ⟨rfl, rfl⟩ | ⟨rfl, rfl⟩ | ⟨rfl, rfl⟩ | ⟨rfl, rfl⟩ | ⟨rfl, rfl⟩ | ⟨rfl, rfl⟩ | ⟨rfl, rfl⟩ |
    ⟨rfl, rfl⟩ | ⟨rfl, rfl⟩ | ⟨rfl, rfl⟩ | ⟨rfl, rfl⟩ | ⟨rfl, rfl⟩ | ⟨rfl, rfl⟩ | ⟨rfl, rfl⟩
  · exact scalarUnit_ready h rfl (show _ = execAdd d a b s from rfl) fun hg => addCell_of_good (hgood hg).1 (hgood hg).2
  · exact scalarUnit_ready h rfl (show _ = execSub d a b s from rfl) fun hg => subCell_of_good (hgood hg).1 (hgood hg).2
  · refine scalarUnit_ready h rfl (show _ = execMul d a b s from rfl) fun hg => ?_
    rw [mulCell_of_good (hgood hg).1 (hgood hg).2, mul_eq_ofNat]
    rfl
  · exact scalar2_ready h (show _ = execMulhS32 d a b s from rfl) rfl
  · exact scalar2_ready h (show _ = execMulhN32 d a b s from rfl) rfl
  · exact scalar2_ready h (show _ = execAnd d a b s from rfl) rfl
  · exact scalar2_ready h (show _ = execOr d a b s from rfl) rfl
  · exact scalar2_ready h (show _ = execXor d a b s from rfl) rfl
  · exact scalar2_ready h (show _ = execShl d a b s from rfl) rfl
  · exact scalar2_ready h (show _ = execShr d a b s from rfl) rfl
  · exact scalar2_ready h (show _ = execSar d a b s from rfl) rfl
  · exact scalar2_ready h (show _ = execMinS32 d a b s from rfl) (by simp only [minS, BitVec.slt_iff_toInt_lt])
  · exact scalar2_ready h (show _ = execMinN32 d a b s from rfl) (by simp only [minN, BitVec.ult_iff_lt, BitVec.lt_def])
  · exact scalar2_ready h (show _ = execMaxS32 d a b s from rfl) (by simp only [maxS, BitVec.slt_iff_toInt_lt])
  · exact scalar2_ready h (show _ = execMaxN32 d a b s from rfl) (by simp only [maxN, BitVec.ult_iff_lt, BitVec.lt_def])
  · exact scalar1_ready h (show _ = execPopc d a s from rfl) (by rw [popcount, List.countP_eq_length_filter])
  · exact scalar1_ready h (show _ = execClz d a s from rfl) rfl
  · exact scalar2_ready h (show _ = execCmpEq d a b s from rfl) rfl
  · exact scalar2_ready h (show _ = execCmpNe d a b s from rfl) (by simp [boolWord])
  · exact scalar2_ready h (show _ = execCmpLtS32 d a b s from rfl) rfl
  · exact scalar2_ready h (show _ = execCmpLeS32 d a b s from rfl) rfl
  · exact scalar2_ready h (show _ = execCmpLtN32 d a b s from rfl) rfl
  · exact scalar2_ready h (show _ = execCmpLeN32 d a b s from rfl) rfl
  · exact result_ready h (show _ = execSel d a b c s from rfl) (by simp)

/-! #### The immediate forms -/

theorem scalarImmediateFormResults : Spec.ScalarImmediateFormResults := by
  intro s x d a j n u i v hi h
  simp only [Spec.immediateForms, List.mem_cons, Prod.mk.injEq, List.not_mem_nil, or_false] at hi
  rcases hi with ⟨rfl, rfl⟩ | ⟨rfl, rfl⟩ | ⟨rfl, rfl⟩ | ⟨rfl, rfl⟩ | ⟨rfl, rfl⟩ | ⟨rfl, rfl⟩ | ⟨rfl, rfl⟩
  · refine scalarUnit_ready h rfl (show _ = execAddi d a j s from rfl) fun hg => ?_
    rw [addCell_of_good (hg a (by simp [scalarNames])) (beq_self_eq_true _), ← add_signExtend]
    rfl
  · exact scalar1_ready h (show _ = execAndi d a j s from rfl) (by rw [BitVec.ofNat_toNat])
  · exact scalar1_ready h (show _ = execOri d a j s from rfl) (by rw [BitVec.ofNat_toNat])
  · exact scalar1_ready h (show _ = execXori d a j s from rfl) (by rw [BitVec.ofNat_toNat])
  · exact scalar1_ready h (show _ = execShli d a n s from rfl) rfl
  · exact scalar1_ready h (show _ = execShri d a n s from rfl) rfl
  · exact result_ready h (show _ = execLui d u s from rfl) (setWidth_shiftLeft_twelve u)

/-- Settles O1: each form is one of four shapes; the predicted residues of add, subtract and multiply are right because
those read are. -/
theorem scalarArithmeticResults : Obligations.ScalarArithmeticResults :=
  ⟨scalarRegisterFormResults, scalarImmediateFormResults, groupRegisterWritesAndZero⟩

end Sys2Proof.Machine

/-! ### Scalar reads and moves (R60, R176 to R179, R189, R278) -/

namespace Sys2Proof.Machine

open Sys2Proof.Laws

/-! #### Votes -/

theorem voteLanes_eq (w : Warp) (v : Nat) (m : Lanes) :
    voteLanes w v m = (List.range 32).filter fun l => m.getLsbD l && (w.vv v l).getLsbD 0 := by
  unfold voteLanes lanesOf laneIn
  rw [List.filter_filter]
  exact List.filter_congr fun l _ => Bool.and_comm _ _

theorem votes_ne_zero_iff {w : Warp} {v : Nat} {m : Lanes} : (voteLanes w v m).length ≠ 0 ↔
    ∃ l, l < 32 ∧ m.getLsbD l = true ∧ (w.vv v l).getLsbD 0 = true := by
  rw [Ne, List.length_eq_zero_iff, voteLanes_eq, List.filter_eq_nil_iff]
  simp

/-- Every lane votes yes where none votes no. -/
theorem votes_eq_iff {w : Warp} {v : Nat} {m : Lanes} : (voteLanes w v m).length = (lanesOf m).length ↔
    ¬∃ l, l < 32 ∧ m.getLsbD l = true ∧ (w.vv v l).getLsbD 0 = false := by
  unfold voteLanes
  rw [List.length_filter_eq_length_iff]
  simp [mem_lanesOf]

theorem voteWord_any (w : Warp) (v : Nat) (m : Lanes) :
    voteWord .any w v m = if (List.range 32).any (fun l => m.getLsbD l && (w.vv v l).getLsbD 0) then 1 else 0 :=
  if_congr (by rw [bne_iff_ne, votes_ne_zero_iff]; simp) rfl rfl

theorem voteWord_all (w : Warp) (v : Nat) (m : Lanes) :
    voteWord .all w v m = if (List.range 32).any (fun l => m.getLsbD l && !(w.vv v l).getLsbD 0) then 0 else 1 := by
  rw [← ite_not]
  exact if_congr (by rw [beq_iff_eq, votes_eq_iff]; simp) rfl rfl

theorem voteWord_count (w : Warp) (v : Nat) (m : Lanes) :
    voteWord .count w v m =
      BitVec.ofNat 32 ((List.range 32).countP fun l => m.getLsbD l && (w.vv v l).getLsbD 0) := by
  unfold voteWord
  rw [voteLanes_eq, List.countP_eq_length_filter]

theorem voteWord_ballot (w : Warp) (v : Nat) (m : Lanes) {l : Nat} (hl : l < 32) :
    (voteWord .ballot w v m).getLsbD l = (m.getLsbD l && (w.vv v l).getLsbD 0) := by
  unfold voteWord
  rw [maskOf_getLsbD _ hl, voteLanes_eq, Bool.eq_iff_iff]
  simp [hl]

theorem scalarReadResults : Spec.ScalarReadResults := by
  refine ⟨fun s x d v r b i u hi h => ?_, fun s x d v h => ?_⟩
  · simp only [Spec.readForms, List.mem_cons, Prod.mk.injEq, List.not_mem_nil, or_false] at hi
    rcases hi with ⟨rfl, rfl⟩ | ⟨rfl, rfl⟩ | ⟨rfl, rfl⟩ | ⟨rfl, rfl⟩ | ⟨rfl, rfl⟩ | ⟨rfl, rfl⟩
    · exact result_ready h (show _ = execVote d v .any s from rfl) (voteWord_any _ _ _)
    · exact result_ready h (show _ = execVote d v .all s from rfl) (voteWord_all _ _ _)
    · exact result_ready h (show _ = execVote d v .count s from rfl) (voteWord_count _ _ _)
    · exact result_ready h (show _ = execRdt d r s from rfl) rfl
    · exact result_ready h (show _ = execRdx d s from rfl) rfl
    · exact result_ready h (show _ = execFeat d b s from rfl) rfl
  · obtain ⟨t, he, hr⟩ := result_ready h (show _ = execVote d v .ballot s from rfl) rfl
    exact ⟨t, _, he, hr, fun l hl => voteWord_ballot _ _ _ hl⟩

/-! #### Moves -/

section

variable {s t : State} {x : Ctx} {i : Instr} {w : Warp}

theorem exec_ready (h : ScalarReady s x i) {body : Ctx → State} (he : exec i s = runScalar s i body) :
    exec i s = .next (body x) := he.trans (runScalar_ready h body)

/-- A change of the split beside its next address and its hold. -/
theorem Local.goto_modSplit (h : Local s t x (s.core x.who.core) w x.team) (pc : VAddr) {f : Split → Split}
    (hf : ∀ sp q, f (Split.goOn sp q) = (f sp).goOn q) :
    Retires s ((t.goto x pc).modSplit x.who f) x (w.modSplit x.who.entry f) pc := by
  have hm := (h.goto pc).modSplit f
  rw [Warp.modSplit_modSplit] at hm
  unfold Retires
  rw [Warp.modSplit_modSplit]
  simpa only [hf] using hm

end

theorem ts_setTs (m : Team) (r : Nat) (v : Word) (k : Nat) :
    (m.setTs r v).ts_ k = if k = r then cellOf v else m.ts_ k := amGet_smPut _ _ _ _ _

theorem lo32_eq_mod {n : Nat} (c : BitVec n) : lo32 c = BitVec.ofNat 32 (c.toNat % 2 ^ 32) :=
  BitVec.eq_of_toNat_eq (by rw [lo32, BitVec.toNat_ofNat, BitVec.toNat_ofNat, Nat.mod_mod])

theorem scalarWriteResults : Spec.ScalarWriteResults := by
  intro s x d a b v r n m pc here
  refine ⟨fun h => ?_, ts_setTs _ _ _, fun h hne hsub => ?_, fun h => ?_, fun h => ?_, fun h => ?_, fun h => ?_⟩
  · exact ⟨_, exec_ready h (show _ = execWrt r a s from rfl),
      ((h.local.modTeam fun m => m.setTs r.toNat (x.warp.gv a)).modTeam Team.counted).modSplit _⟩
  · refine ⟨_, exec_ready h (show _ = execWrx a s from rfl), ?_⟩
    dsimp only
    rw [if_neg (by simp [show x.warp.gv a ≠ 0#32 from hne, hsub])]
    exact h.local.goto_modSplit pc fun _ _ => rfl
  · exact ⟨_, exec_ready h (show _ = execMovg d v r s from rfl), (h.local.modWarp _).goto pc⟩
  · rw [← lo32_eq_mod]
    exact ⟨_, exec_ready h (show _ = execClock d s from rfl), (h.local.modWarp _).goto pc⟩
  · exact ⟨_, exec_ready h (show _ = execNop s from rfl), h.local.goto pc⟩
  · exact ⟨_, exec_ready h (show _ = execWaitf m s from rfl), h.local.goto pc⟩

/-- Settles O2: what each scalar move reads and writes, and a vote as a count over the lanes of EXEC. -/
theorem scalarMoveResults : Obligations.ScalarMoveResults := ⟨scalarReadResults, scalarWriteResults⟩

end Sys2Proof.Machine

/-! ### System registers (R64 to R66, R275, R346) -/

namespace Sys2Proof.Machine

open Sys2Proof.Laws

/-! #### The list of R64 -/

section

variable {s : State} {x : Ctx} {n : Nat}

theorem mem_featureWords (F : Nat → Word) (v : Word) :
    (n, v) ∈ (List.range 16).map (fun k => (0x20 + k, F k)) ↔ (0x20 ≤ n ∧ n < 0x30) ∧ F (n - 0x20) = v := by
  simp only [List.mem_map, List.mem_range, Prod.mk.injEq]
  constructor
  · rintro ⟨k, hk, rfl, rfl⟩
    exact ⟨by omega, by rw [Nat.add_sub_cancel_left]⟩
  · rintro ⟨hn, rfl⟩
    exact ⟨n - 0x20, by omega, by omega, rfl⟩

/-- RDSR reads what R64 lists. -/
theorem sysRead_eq_some_iff {v : Word} : sysRead s x n = some v ↔ (n, v) ∈ Spec.systemRegisters s x := by
  unfold Spec.systemRegisters
  rw [List.mem_append, mem_featureWords fun k => BitVec.ofNat 32 (s.feat.toNat / 2 ^ (32 * k))]
  unfold sysRead
  split
  case h_18 =>
    simp only [List.mem_cons, Prod.mk.injEq, List.not_mem_nil, or_false]
    grind
  all_goals simp [lo32, hi32, eq_comm (a := v)]

theorem sysRead_eq_none_iff : sysRead s x n = none ↔
    ¬(n ≤ 0x08 ∨ (0x10 ≤ n ∧ n ≤ 0x16) ∨ n = 0x18 ∨ (0x20 ≤ n ∧ n < 0x30)) := by
  unfold sysRead
  split
  case h_18 =>
    split <;> grind
  all_goals simp

end

/-! #### Reads -/

theorem systemRegisterReads : Spec.SystemRegisterReads := by
  intro s x d n h
  have he := exec_ready h (show _ = execRdsr d n s from rfl)
  refine ⟨fun v hv => ?_, fun hno => ?_⟩
  · rw [he, sysRead_eq_some_iff.2 hv]
    exact ⟨_, rfl, h.local.result d v⟩
  · have hnone : sysRead s x n.toNat = none := Option.eq_none_iff_forall_ne_some.2 fun v hv => hno v (sysRead_eq_some_iff.1 hv)
    rw [he, hnone]

/-! #### Writes -/

section

variable {s : State} {x : Ctx} {a : GReg} {n : BitVec 8}

/-- What a WRSR does once its access and value checks pass. -/
theorem wrsr_writes (h : ScalarReady s x (.wrsr a n)) (hr : (sysRead s x n.toNat).isNone = false)
    (hw : sysWritable x.team n.toNat = true) (hv : sysValueOk n.toNat (x.warp.gv a) = true) :
    exec (.wrsr a n) s = .next ((s.sysWrite x n.toNat (x.warp.gv a)).advance x) := by
  rw [exec_ready h (show _ = execWrsr a n s from rfl)]
  simp only [hr, hw, hv, Bool.not_true, Bool.false_eq_true, if_false]

theorem wrsr_unlisted (h : ScalarReady s x (.wrsr a n)) (hr : sysRead s x n.toNat = none) :
    exec (.wrsr a n) s = .next (s.scalarFault x .reservedField 0) := by
  rw [exec_ready h (show _ = execWrsr a n s from rfl)]
  simp only [hr, Option.isNone_none, if_true]

theorem wrsr_privilege (h : ScalarReady s x (.wrsr a n)) (hr : sysRead s x n.toNat ≠ none)
    (hw : sysWritable x.team n.toNat = false) :
    exec (.wrsr a n) s = .next (s.scalarFault x .privilege 0) := by
  rw [exec_ready h (show _ = execWrsr a n s from rfl)]
  simp only [Option.isNone_iff_eq_none, hr, hw, Bool.not_false, if_false, if_true]

theorem wrsr_value (h : ScalarReady s x (.wrsr a n)) (hr : (sysRead s x n.toNat).isNone = false)
    (hw : sysWritable x.team n.toNat = true) (hv : sysValueOk n.toNat (x.warp.gv a) = false) :
    exec (.wrsr a n) s = .next (s.scalarFault x .reservedField 0) := by
  rw [exec_ready h (show _ = execWrsr a n s from rfl)]
  simp only [hr, hw, hv, Bool.not_true, Bool.not_false, Bool.false_eq_true, if_false, if_true]

end

theorem putHi_of_lt (r : VAddr) {v : Word} (h : v.toNat < 2 ^ 22) :
    putHi r v = BitVec.ofNat 54 (r.toNat % 2 ^ 32 + v.toNat * 2 ^ 32) := by rw [putHi, Nat.mod_eq_of_lt h]

theorem div_beq_zero {m k : Nat} (h : m < k) : (m / k == 0) = true := beq_iff_eq.2 (Nat.div_eq_of_lt h)

theorem systemRegisterWrites : Spec.SystemRegisterWrites := by
  intro s x a v done low high
  -- A write of the warp, of the team, and what then retires.
  have warp {n : BitVec 8} {f : Warp → Warp} (h : ScalarReady s x (.wrsr a n)) :=
    (h.local.modWarp f).goto (x.split.spc + 4)
  have team {n : BitVec 8} {f : Team → Team} (h : ScalarReady s x (.wrsr a n)) :=
    ((h.local.modTeam f).modTeam Team.counted).modSplit (Split.goOn · (x.split.spc + 4))
  refine ⟨fun hv h => ?_, fun hv h => ?_, fun hv h => ?_, fun h => ?_, fun hv h => ?_, fun hv h => ?_, fun hv h => ?_,
    fun hpriv hlt hres hexp h => ?_⟩
  · exact ⟨_, wrsr_writes h rfl rfl (div_beq_zero hv), warp h⟩
  · exact ⟨_, wrsr_writes h rfl rfl (beq_iff_eq.2 hv), warp h⟩
  · simp only [high, ← putHi_of_lt _ hv]
    exact ⟨_, wrsr_writes h rfl rfl (div_beq_zero hv), warp h⟩
  · exact ⟨_, wrsr_writes h rfl rfl rfl, warp h⟩
  · simp only [high, ← putHi_of_lt _ hv]
    exact ⟨_, wrsr_writes h rfl rfl (div_beq_zero hv), warp h⟩
  · exact ⟨_, wrsr_writes h rfl rfl (beq_iff_eq.2 hv), team h⟩
  · simp only [high, ← putHi_of_lt _ hv]
    exact ⟨_, wrsr_writes h rfl rfl (div_beq_zero hv), team h⟩
  · have hok : sysValueOk 0x18 v = true := by
      simp only [sysValueOk, div_beq_zero hlt, hres, decide_eq_true hexp, beq_self_eq_true, Bool.and_self]
    exact ⟨_, wrsr_writes h rfl hpriv hok,
      ((h.local.modCore (·.setSample v) fun _ _ _ => rfl).modTeam Team.counted).modSplit _⟩

theorem systemRegisterWriteFaults : Spec.SystemRegisterWriteFaults := by
  intro s x a n h v listed
  refine ⟨fun hn => wrsr_unlisted h (sysRead_eq_none_iff.2 hn), fun hn => ?_, fun hn hpriv => ?_, fun hn hv => ?_,
    fun hn hv => ?_, fun hn hv => ?_⟩
  · refine wrsr_privilege h (fun hnone => sysRead_eq_none_iff.1 hnone (by omega)) ?_
    simp only [sysWritable, Bool.or_eq_false_iff, Bool.and_eq_false_iff, decide_eq_false_iff_not, beq_eq_false_iff_ne]
    omega
  · subst hn
    exact wrsr_privilege h (fun hnone => by cases hnone) hpriv
  · subst hn
    exact wrsr_value h rfl rfl (beq_eq_false_iff_ne.2 (Nat.div_pos hv (by decide)).ne')
  · rcases hn with rfl | rfl <;> exact wrsr_value h rfl rfl (beq_eq_false_iff_ne.2 hv)
  · have hbad := beq_eq_false_iff_ne.2 (Nat.div_pos hv (by decide)).ne'
    rcases hn with rfl | rfl | rfl <;> exact wrsr_value h rfl rfl hbad

/-- Settles O3: RDSR reads the list of R64; a WRSR writes or traps by its number and its value. -/
theorem systemRegisterAccesses : Obligations.SystemRegisterAccesses :=
  ⟨systemRegisterReads, systemRegisterWrites, systemRegisterWriteFaults⟩

end Sys2Proof.Machine

/-! ### Branches, jumps, calls and returns (R60, R167, R179, R180, R182, R184 to R187) -/

namespace Sys2Proof.Machine

open Sys2Proof.Laws

/-! #### Conditions and targets -/

theorem wordTarget_eq_ofInt {n : Nat} (pc : VAddr) (o : BitVec n) :
    wordTarget pc o = BitVec.ofInt 54 (pc.toNat + 4 * o.toInt) := by
  have hfour : (4 : VAddr) = BitVec.ofInt 54 4 := rfl
  rw [wordTarget, BitVec.signExtend, hfour, BitVec.ofInt_add, BitVec.ofInt_mul, BitVec.mul_comm, BitVec.ofInt_natCast,
    BitVec.ofNat_toNat, BitVec.setWidth_eq]

theorem brTaken_iff (c : BrCond) (g : Word) : brTaken c g = true ↔ (match c with
    | .always => True | .z => g.toInt = 0 | .nz => g.toInt ≠ 0 | .ltz => g.toInt < 0 | .gez => 0 ≤ g.toInt
    | .gtz => 0 < g.toInt | .lez => g.toInt ≤ 0) := by
  have hz : g.toInt = 0 ↔ g = 0 := by rw [← BitVec.toInt_inj]; rfl
  have hslt (a b : Word) : a.slt b = true ↔ a.toInt < b.toInt := BitVec.slt_iff_toInt_lt
  have hsle (a b : Word) : a.slt b = false ↔ b.toInt ≤ a.toInt := by rw [← Bool.not_eq_true, hslt, Int.not_lt]
  cases c <;> simp [brTaken, hz, hslt, hsle]

theorem brlTaken_iff (c : BrlCond) (w : Warp) (v : Nat) (m : Lanes) : brlTaken c w v m = true ↔ (match c with
    | .any => ∃ l, l < 32 ∧ m.getLsbD l = true ∧ (w.vv v l).getLsbD 0 = true
    | .all => ¬∃ l, l < 32 ∧ m.getLsbD l = true ∧ (w.vv v l).getLsbD 0 = false
    | .none => ¬∃ l, l < 32 ∧ m.getLsbD l = true ∧ (w.vv v l).getLsbD 0 = true
    | .notall => ∃ l, l < 32 ∧ m.getLsbD l = true ∧ (w.vv v l).getLsbD 0 = false) := by
  cases c with
  | any => exact bne_iff_ne.trans votes_ne_zero_iff
  | all => exact beq_iff_eq.trans votes_eq_iff
  | none => exact beq_iff_eq.trans (not_iff_not.1 (by rw [not_not]; exact votes_ne_zero_iff))
  | notall => exact bne_iff_ne.trans (not_iff_not.1 (by rw [not_not]; exact votes_eq_iff))

section

variable {s : State} {x : Ctx} {i : Instr}

/-- An instruction that goes to `p` under a condition, and on otherwise. -/
theorem branch_ready (h : ScalarReady s x i) {b : Bool} {p : VAddr} {taken : Prop} (hb : b = true ↔ taken)
    (he : exec i s = .next (if b = true then s.goto x p else s.advance x)) :
    ∃ t, exec i s = .next t ∧ (taken → Retires s t x x.warp p) ∧ (¬taken → Retires s t x x.warp (x.split.spc + 4)) := by
  refine ⟨_, he, fun ht => ?_, fun hn => ?_⟩
  · rw [if_pos (hb.2 ht)]
    exact h.local.goto p
  · rw [if_neg (mt hb.1 hn)]
    exact h.local.goto _

/-- Control passes to `p` with LK the return address (R186). -/
theorem Local.called (h : ScalarReady s x i) (p : VAddr) :
    Retires s ((s.goto x p).modSplit x.who fun sp => { sp with lk := x.split.spc + 4 }) x
      (x.warp.modSplit x.who.entry fun sp => { sp with lk := x.split.spc + 4 }) p :=
  h.local.goto_modSplit p fun _ _ => rfl

end

/-! #### Where control goes -/

theorem branchAndCallTargets : Spec.BranchAndCallTargets := by
  intro s x pc go words called some1 some0
  refine ⟨fun c g o h => ?_, fun c v o h => ?_, fun i h => ?_, fun a h hal => ?_, fun i h hseq => ?_, fun a h hseq hal => ?_,
    fun h hseq hlk => ?_⟩
  · refine branch_ready h (brTaken_iff c _) ?_
    rw [exec_ready h (show _ = execBr c g o s from rfl), wordTarget_eq]
  · refine branch_ready h (brlTaken_iff c _ _ _) ?_
    rw [exec_ready h (show _ = execBrl c v o s from rfl), wordTarget_eq]
  · rw [exec_ready h (show _ = execJmp i s from rfl), wordTarget_eq_ofInt]
    exact ⟨_, rfl, h.local.goto _⟩
  · refine ⟨_, exec_ready h (show _ = execJmpr a s from rfl), ?_⟩
    dsimp only
    rw [if_neg (not_not.2 hal)]
    exact h.local.goto _
  · refine ⟨_, exec_ready h (show _ = execCall i s from rfl), ?_⟩
    rw [hseq, wordTarget_eq_ofInt]
    exact Local.called h _
  · refine ⟨_, exec_ready h (show _ = execCallr a s from rfl), fun hz => ?_, fun hnz => ?_⟩ <;> dsimp only <;> rw [hseq, Option.isSome_none, if_neg Bool.false_ne_true]
    · rw [if_pos hz]
      exact h.local.goto _
    · rw [if_neg hnz, if_neg (not_not.2 hal)]
      exact Local.called h _
  · refine ⟨_, exec_ready h (show _ = execRet s from rfl), ?_⟩
    rw [hseq]
    dsimp only
    rw [if_neg hlk]
    exact h.local.goto _

/-! #### Where control instructions trap -/

theorem controlFaults : Spec.ControlFaults := by
  intro s x refuses
  refine ⟨fun a h hal => ?_, fun a h hseq hal => ?_, fun o h hj => ?_, fun h hseq hj => ?_, fun h hseq hlk => ?_,
    fun i a v hseq => ?_, fun a h hv => ?_⟩
  · refine (exec_ready h (show _ = execJmpr a s from rfl)).trans (congrArg _ ?_)
    exact if_pos hal
  · refine (exec_ready h (show _ = execCallr a s from rfl)).trans (congrArg _ ?_)
    have hz : x.warp.gPair a ≠ 0 := fun hz => hal (by rw [hz]; rfl)
    dsimp only
    rw [hseq, Option.isSome_none, if_neg Bool.false_ne_true, if_neg hz, if_pos hal]
  · refine (exec_ready h (show _ = execJoinat o s from rfl)).trans (congrArg _ ?_)
    exact if_pos (bne_iff_ne.2 hj)
  · refine (exec_ready h (show _ = execJoin s from rfl)).trans (congrArg _ ?_)
    dsimp only
    rw [hseq]
    dsimp only
    rw [if_neg Bool.false_ne_true, if_pos (by simpa using hj)]
  · refine (exec_ready h (show _ = execRet s from rfl)).trans (congrArg _ ?_)
    rw [hseq]
    exact if_pos hlk
  · have hsome : x.split.seq.isSome = true := Option.isSome_iff_ne_none.2 hseq
    refine ⟨fun h => ?_, fun h => ?_, fun h => ?_, fun h => ?_⟩
    · exact (exec_ready h (show _ = execCall i s from rfl)).trans (congrArg _ (if_pos hsome))
    · exact (exec_ready h (show _ = execCallr a s from rfl)).trans (congrArg _ (if_pos hsome))
    · exact (exec_ready h (show _ = execCallv v s from rfl)).trans (congrArg _ (if_pos hsome))
    · exact (exec_ready h (show _ = execJmpv v s from rfl)).trans (congrArg _ (if_pos hsome))
  · refine (exec_ready h (show _ = execWrx a s from rfl)).trans (congrArg _ (if_pos ?_))
    simpa using hv

/-- Settles O4: each target is where `goto` goes, and a refused operand or split state traps before it. -/
theorem branchesAndCalls : Obligations.BranchesAndCalls := ⟨branchAndCallTargets, controlFaults⟩

end Sys2Proof.Machine

/-! ### KICK and WPTR (R62, R63, R149, R248, R249) -/

namespace Sys2Proof.Machine

open Sys2Proof.Laws

section

variable {s : State} {y : LCtx} {i : Instr} {x : EngArgs}

theorem LaneReady.core (h : LaneReady s y i) : y.x.core = s.core y.x.who.core := by
  obtain ⟨hwho, hcore, -⟩ := ctx_some (lctx_some h.ctx)
  rw [hcore, hwho]

theorem LaneReady.local (h : LaneReady s y i) : Local s s y.x (s.core y.x.who.core) y.x.warp y.x.team :=
  Local.of_lctx h.ctx

theorem laneExec_ready (h : LaneReady s y i) {body : LCtx → State} (he : exec i s = runLane s i body) :
    exec i s = .next (body y) := he.trans (runLane_ready h body)

/-! #### KICK -/

theorem writesLm_iff (i : Instr) : writesLm i = true ↔ (∃ z, i = .stc z) ∨ ∃ z, i ∈ Spec.lmWriters z := by
  unfold writesLm
  split
  case h_8 => simp_all [Spec.lmWriters]
  all_goals simp [Spec.lmWriters]

theorem kickFault_eq_none {v : Nat} (hv : v < 2 ^ 30) (hal : v / 4 % 8 = 0)
    (hlm : kickCount v ≠ 0 → kickFirst v + 32 * kickCount v ≤ y.x.team.lmSize) : kickFault y v = none := by
  unfold kickFault
  rw [if_neg (by rw [Nat.div_eq_of_lt hv]; decide), if_neg (by rw [hal]; decide), if_neg]
  simpa [Nat.not_lt] using hlm

/-- What a KICK does where its value passes the checks of R248. -/
theorem kick_ready (h : LaneReady s y (.kick x)) {v : Nat} (hv : (captured y.clause.gs x.g).toNat = v)
    (hf : kickFault y v = none) :
    exec (.kick x) s = .next (
      if kickCount v = 0 then s.dispatched y
      else if 8 ≤ ((s.core y.x.who.core).chan (v % 4)).kicks.length then s.laneHold y .kickFull
      else if y.x.warp.ops.any (fun o => writesLm o.instr) = true then s.laneHold y .operand
      else (s.modCore y.x.who.core fun c => c.modChan (v % 4) fun ch => { ch with kicks := ch.kicks ++
        [{ team := y.x.warp.team, gang := y.x.team.gang, first := kickFirst v, count := kickCount v }] }).dispatched y) := by
  refine (laneExec_ready h (show _ = execKick x s from rfl)).trans (congrArg _ ?_)
  dsimp only
  rw [hv, hf]
  dsimp only
  by_cases hc : kickCount v = 0
  · rw [if_pos hc, if_pos hc]
  · rw [if_neg hc, if_neg hc, kickWait, hv, hf, if_neg (by simpa using hc), h.core]
    by_cases hk : 8 ≤ ((s.core y.x.who.core).chan (v % 4)).kicks.length
    · rw [if_pos hk, if_pos hk]
    · rw [if_neg hk, if_neg hk]
      by_cases ho : y.x.warp.ops.any (fun o => writesLm o.instr) = true
      · rw [if_pos ho, if_pos ho]
      · rw [if_neg ho, if_neg ho]

theorem chan_modChan (k : Core) (c : Nat) (f : Chan → Chan) (j : Nat) :
    (k.modChan c f).chan j = if j = c then f (k.chan c) else k.chan j := amGet_amPut _ _ _ _ _

theorem kick_queues (h : LaneReady s y (.kick x)) :
    let v := (captured y.clause.gs x.g).toNat
    let chan := v % 4
    let first := v / 4 % 2 ^ 20 * 4
    let count := v / 2 ^ 22 % 256
    let k := s.core y.x.who.core
    v < 2 ^ 30 → v / 4 % 8 = 0 →
    (count = 0 → ∃ t, exec (.kick x) s = .next t ∧ Dispatches s t y k y.x.warp) ∧
    (count ≠ 0 → first + 32 * count ≤ y.x.team.lmSize →
      (8 ≤ (k.chan chan).kicks.length →
        exec (.kick x) s = .next (s.modSplit y.x.who fun sp => { sp with laneWait := .kickFull })) ∧
      ((k.chan chan).kicks.length < 8 → (∃ o ∈ y.x.warp.ops, (∃ z, o.instr = .stc z) ∨ ∃ z, o.instr ∈ Spec.lmWriters z) →
        exec (.kick x) s = .next (s.modSplit y.x.who fun sp => { sp with laneWait := .operand })) ∧
      ((k.chan chan).kicks.length < 8 →
        (∀ o ∈ y.x.warp.ops, (∀ z, o.instr ≠ .stc z) ∧ ∀ z, o.instr ∉ Spec.lmWriters z) →
        ∃ t k', exec (.kick x) s = .next t ∧ Dispatches s t y k' y.x.warp ∧ k' = { k with chans := k'.chans } ∧
          (k'.chan chan).kicks = (k.chan chan).kicks ++
            [{ team := y.x.warp.team, gang := y.x.team.gang, first := first, count := count }] ∧
          ∀ j, j ≠ chan → k'.chan j = k.chan j)) := by
  intro v chan first count k hv hal
  refine ⟨fun hc => ?_, fun hc hlm => ?_⟩
  · have he := kick_ready h rfl (kickFault_eq_none hv hal fun hne => absurd hc hne)
    rw [if_pos (show kickCount v = 0 from hc)] at he
    exact ⟨_, he, Local.dispatched h.local⟩
  · have he := kick_ready h rfl (kickFault_eq_none hv hal fun _ => hlm)
    rw [if_neg (show ¬kickCount v = 0 from hc)] at he
    refine ⟨fun hfull => ?_, fun hroom hlate => ?_, fun hroom hnone => ?_⟩
    · exact he.trans (congrArg _ (if_pos hfull))
    · rw [if_neg (Nat.not_le.2 hroom), if_pos] at he
      · exact he
      · obtain ⟨o, ho, hw⟩ := hlate
        exact List.any_eq_true.2 ⟨o, ho, (writesLm_iff _).2 hw⟩
    · rw [if_neg (Nat.not_le.2 hroom), if_neg] at he
      · refine ⟨_, _, he, Local.dispatched (h.local.modCore _ fun _ _ _ => rfl), rfl, ?_, fun j hj => ?_⟩
        · rw [chan_modChan, if_pos rfl]
          rfl
        · rw [chan_modChan, if_neg hj]
      · intro hany
        obtain ⟨o, ho, hw⟩ := List.any_eq_true.1 hany
        obtain ⟨hstc, hlms⟩ := hnone o ho
        rcases (writesLm_iff _).1 hw with ⟨z, hz⟩ | ⟨z, hz⟩
        · exact hstc z hz
        · exact hlms z hz

/-! #### WPTR -/

/-- A run of changes of the warp, one for each element of a list. -/
theorem Local.foldl_modWarp {α : Type} {t : State} {c : Ctx} {k : Core} {w : Warp} {m : Team} (f : α → Warp → Warp) (ls : List α)
    (h : Local s t c k w m) : Local s (ls.foldl (fun t a => t.modWarp c.who.core c.who.slot (f a)) t) c k
      (ls.foldl (fun w a => f a w) w) m := by
  induction ls generalizing t w with
  | nil => exact h
  | cons a ls ih => exact ih (h.modWarp (f a))

/-- One word into each of some lanes of a register. -/
theorem foldl_setVs_eq_setLanes (w : Warp) (r : Nat) (f : Nat → Word) (ls : List Nat) :
    ls.foldl (fun w l => w.setVs r l [f l]) w = w.setLanes r (ls.map fun l => (l, f l)) := by
  induction ls generalizing w with
  | nil => rfl
  | cons l ls ih => exact ih _

theorem wptr_ready (h : LaneReady s y (.wptr x)) : Spec.WritesLanes s y (.wptr x) x.vd fun _ =>
      BitVec.ofNat 32 (((s.core y.x.who.core).chan (x.imm.toNat % 4)).seq.toNat * 2 ^ 20 +
        ((s.core y.x.who.core).chan (x.imm.toNat % 4)).off.toNat) := by
  refine ⟨_, _, laneExec_ready h (show _ = execWptr x s from rfl),
    Local.dispatched (h.local.foldl_modWarp (fun l w => w.setVs x.vd.toNat l [_]) y.lanes), ?_, fun r l hl => ?_⟩
  · exact foldl_v_rest (fun w l => setVs_rest _ _ _ _) _ _
  · unfold LCtx.lanes
    rw [foldl_setVs_eq_setLanes _ _ fun _ => _, v_setLanes _ _ _ _ (fun m hm => (mem_lanesOf.1 hm).1) _ _ hl, h.core]
    exact if_congr (by simp [mem_lanesOf, hl]) rfl rfl

end

/-- Settles O30: a KICK that passes its checks is dispatched, held for room or for LM writes, or queued; WPTR writes one word
to each lane. -/
theorem kickAndWritePointer : Obligations.KickAndWritePointer :=
  ⟨fun _ _ _ h => kick_queues h, fun _ _ _ h => wptr_ready h⟩

end Sys2Proof.Machine

/-! ### Dispatch of global lane accesses (R58, R171, R209 to R219, R223 to R226) -/

namespace Sys2Proof.Machine

open Sys2Proof.Laws

/-! #### An operation that is launched (R7, R58) -/

theorem raise_rest (w : Warp) (m : BitVec 12) : w.raise m = { w with f := (w.raise m).f } := by
  unfold Warp.raise
  induction List.range 12 generalizing w with
  | nil => rfl
  | cons i is ih =>
    rw [List.foldl_cons, ih]
    split <;> rfl

theorem id_lt_freshOp {w : Warp} {o : Op} (h : o ∈ w.ops) : o.id < w.freshOp := by
  have hmax (os : List Op) (n : Nat) : n ≤ os.foldl (fun m o => max m (o.id + 1)) n ∧
      ∀ o ∈ os, o.id < os.foldl (fun m o => max m (o.id + 1)) n := by
    induction os generalizing n with
    | nil => exact ⟨le_rfl, fun _ ho => by cases ho⟩
    | cons p os ih =>
      obtain ⟨hle, hlt⟩ := ih (max n (p.id + 1))
      refine ⟨(le_max_left _ _).trans hle, fun o ho => ?_⟩
      rcases List.mem_cons.1 ho with rfl | ho
      · exact (le_max_right _ _).trans hle
      · exact hlt o ho
  exact (hmax w.ops w.nextId).2 o h

/-- The warp with an operation more in flight, its flags raised. -/
def Warp.launched (w : Warp) (o : Op) : Warp := { w.raise o.flags with ops := w.ops ++ [o], nextId := o.id + 1 }

/-- The warp once a clause of an entry has moved on. -/
def Warp.moved (w : Warp) (e : Nat) : Warp := (w.modSplit e Split.stepClause).sweep e

theorem op_launched {w : Warp} {o : Op} (h : o.id = w.freshOp) : (w.launched o).op o.id = some o := by
  have hold : w.ops.find? (fun p => p.id == o.id) = none :=
    List.find?_eq_none.2 fun p hp he => (id_lt_freshOp hp).ne ((eq_of_beq he).trans h)
  rw [Warp.op, show (w.launched o).ops = w.ops ++ [o] from rfl, List.find?_append, hold, Option.none_or, List.find?_singleton]
  simp

/-- A clause that moves on leaves operations, but that some may be no split's from then on (R280). -/
theorem op_moved {w : Warp} {o : Op} {id : Nat} (h : w.op id = some o) (e : Nat) :
    ∃ n, (w.moved e).op id = some { o with entry := n } := by
  have hops : (w.modSplit e Split.stepClause).ops = w.ops := by rw [modSplit_rest]
  unfold Warp.moved Warp.sweep
  split
  · split
    · have hid : ((fun p : Op => p.id == id) ∘ fun p : Op => if p.entry = e then { p with entry := noEntry } else p) =
          fun p : Op => p.id == id := funext fun p => by
        simp only [Function.comp]
        split <;> rfl
      refine ⟨if o.entry = e then noEntry else o.entry, ?_⟩
      rw [Warp.op] at h
      simp only [Warp.op, Warp.recharge, hops, List.find?_map, hid, h, Option.map_some]
      split <;> rfl
    · exact ⟨o.entry, by rw [Warp.op, hops]; exact h⟩
  · exact ⟨o.entry, by rw [Warp.op, hops]; exact h⟩

theorem v_moved (w : Warp) (e : Nat) : (w.moved e).v = w.v := by
  have hv : (w.modSplit e Split.stepClause).v = w.v := by rw [modSplit_rest]
  unfold Warp.moved Warp.sweep
  split
  · split <;> exact hv
  · exact hv

/-- What becomes of the operations when a clause moves on depends on them and the splits alone. -/
theorem ops_moved_congr {w v : Warp} (ho : w.ops = v.ops) (hs : w.splits = v.splits) (e : Nat) :
    (w.moved e).ops = (v.moved e).ops := by
  have hops : (w.modSplit e Split.stepClause).ops = (v.modSplit e Split.stepClause).ops := by
    rw [modSplit_rest w, modSplit_rest v, ho]
  have hsplits : (w.modSplit e Split.stepClause).splits = (v.modSplit e Split.stepClause).splits := by
    unfold Warp.modSplit
    rw [hs]
    split
    · rfl
    · exact hs
  unfold Warp.moved Warp.sweep Warp.recharge
  rw [hsplits]
  split
  · split
    · simp only [hops]
    · exact hops
  · exact hops

section

variable {s t u : State} {y : LCtx} {i : Instr}

theorem LaneReady.ctxOf (h : LaneReady s y i) : s.ctxOf y.x.who = some y.x := by
  have hctx := lctx_some h.ctx
  rw [(ctx_some hctx).1]
  exact hctx

/-- `launchOp` as changes of the core, the warp and, unless it stalls, the team. -/
theorem launchOp_eq (u : State) (y : LCtx) (i : Instr) (accs : List Acc) (rel : RelSt) (aux : OpAux) :
    u.launchOp y i accs rel aux =
      let t := (u.modCore y.x.who.core fun k => { k with serial := k.serial + 1 }).modWarp y.x.who.core y.x.who.slot
        fun w => w.launched { Spec.opOf y i accs rel aux with id := w.freshOp, serial := (u.core y.x.who.core).serial }
      if accs.any (·.st.held) = true then t.moveOn y else t.dispatched y := rfl

/-- Everything `launchOp` does. -/
theorem launchOp_launches (h : Local u u y.x (u.core y.x.who.core) y.x.warp y.x.team)
    (hs : (u.core y.x.who.core).serial = y.x.core.serial) (accs : List Acc) (rel : RelSt) (aux : OpAux) :
    Spec.Launches u (u.launchOp y i accs rel aux) y (Spec.opOf y i accs rel aux) := by
  have hw := (h.modCore (fun k => { k with serial := k.serial + 1 }) fun _ _ _ => rfl).modWarp fun w =>
    w.launched { Spec.opOf y i accs rel aux with id := w.freshOp, serial := (u.core y.x.who.core).serial }
  rw [hs] at hw
  rw [Spec.Launches, launchOp_eq, hs]
  dsimp only
  by_cases hheld : accs.any (·.st.held) = true
  · rw [if_pos hheld, if_neg (show ¬(Spec.opOf y i accs rel aux).counted = true by simp [Spec.opOf, hheld])]
    exact hw.modWarp _
  · rw [if_neg hheld, if_pos (show (Spec.opOf y i accs rel aux).counted = true by simp [Spec.opOf, hheld])]
    exact (hw.modTeam _).modWarp _

/-- The operation launched is found while its warp's operations stay. -/
theorem findOp_launched {o p : Op} {w v : Warp} {m : Team} (hw : t.warp y.x.who.core y.x.who.slot = some w)
    (hops : w.ops = ((y.x.warp.launched o).moved y.x.who.entry).ops) (hid : o.id = y.x.warp.freshOp)
    (hf : t.findOp y.x.who.core y.x.who.slot o.id = some (p, v, m)) : ∃ n, p = { o with entry := n } := by
  obtain ⟨hv, hp, -⟩ := findOp_eq_some.1 hf
  rw [hw] at hv
  cases hv
  rw [Warp.op, hops] at hp
  obtain ⟨n, hn⟩ := op_moved (op_launched hid) y.x.who.entry
  exact ⟨n, Option.some.inj (hp.symm.trans hn)⟩

/-- An operation that waits for no replay and has a lane to perform stays as it is. -/
theorem settle_waits {c w : Nat} {p : Op} {v : Warp} {m : Team} (hf : t.findOp c w p.id = some (p, v, m))
    (hl : LocalAccs p.accs) (htodo : ∃ a ∈ p.accs, a.st = .todo) : t.settle c w p = t := by
  have hover : p.isOver = false := by
    obtain ⟨a, ha, hst⟩ := htodo
    exact Bool.eq_false_iff.2 fun ho => by have := (List.all_eq_true.1 ho) a ha; simp [hst, AccSt.isOver, AccSt.held] at this
  rw [settle_of_local hl, State.updateOp, hover, if_neg Bool.false_ne_true]
  exact (OpStands.of_findOp hf).setOp_self

end

/-! #### Lanes as they are checked (R74, R90, R96, R211) -/

/-- A lane has met no fault that a check of its instruction leaves to what follows. -/
def Acc.passes (a : Acc) (sp : MemSpec) : Prop := a.soft = none ∧ (sp.whole = true → a.hard = none)

theorem Acc.not_failed {a : Acc} {sp : MemSpec} (h : a.passes sp) (hw : sp.whole = true) (c : Cause) : a.st ≠ .failed c := by
  obtain ⟨hsoft, hhard⟩ := h
  intro hst
  have hhard := hhard hw
  unfold Acc.soft at hsoft
  unfold Acc.hard at hhard
  rw [hst] at hsoft hhard
  cases hr : c.replayable <;> simp [hr] at hsoft hhard

section

variable {s u : State} {asid : Asid} {st : Nat}

theorem translationOnly_of_adtWords {base i : Nat} {ws : List Nat} (h : s.adtWords st asid base i = (u, .ok ws)) :
    Spec.TranslationOnly s u := by
  unfold State.adtWords at h
  split at h
  · cases h
    exact translationOnly_refl _
  · dsimp only at h
    split at h
    · cases h
    · split at h
      · cases h
      · cases h
        split
        · exact translationOnly_refl _
        · exact ⟨rfl, fun _ => rfl⟩

theorem translationOnly_of_adtScan {base va n i : Nat} {c : AdtClass} (h : s.adtScan st asid base va n i = (u, .ok c)) :
    Spec.TranslationOnly s u := by
  induction n generalizing s i with
  | zero =>
    cases h
    exact translationOnly_refl _
  | succ n ih =>
    obtain ⟨herr, hok⟩ := adtScan_succ s st asid base va n i
    rcases hw : s.adtWords st asid base i with ⟨v, c | ws⟩
    · rw [herr v c hw] at h
      cases h
    · have hv := translationOnly_of_adtWords hw
      rw [hok v ws hw] at h
      split at h
      · exact translationOnly_trans hv (ih h)
      · cases h
        exact hv

theorem translationOnly_of_classify {va : Nat} {cnt : Bool} {c : AdtClass} (h : s.classify st asid va cnt = (u, .ok c)) :
    Spec.TranslationOnly s u := by
  have ha := translationOnly_asEntry s st asid
  unfold State.classify at h
  split at h
  · split at h
    · cases h
    next he =>
      rw [he] at ha
      exact translationOnly_trans ha (translationOnly_of_adtScan h)
  · cases h
    exact translationOnly_refl _

theorem translationOnly_of_classStore {p q : Option (AdtEnt × Nat)} {as : List Nat}
    (h : s.classStore st asid p as = (u, .ok q)) : Spec.TranslationOnly s u := by
  induction as generalizing s p with
  | nil =>
    cases h
    exact translationOnly_refl _
  | cons a as ih =>
    unfold State.classStore at h
    split at h
    · cases h
    next he => exact translationOnly_trans (translationOnly_of_classify he) (ih h)
    · cases h
    · cases h
    next he => exact translationOnly_trans (translationOnly_of_classify he) (ih h)

/-- A store whose words are classed, and COUNT not tested, passes by lookups alone (R90). -/
theorem translationOnly_of_gateStore {priv : Bool} {va n en : Nat} {x : Xlat}
    (h : s.gateStore asid priv va x n en false = (u, .ok ())) : Spec.TranslationOnly s u := by
  unfold State.gateStore at h
  dsimp only at h
  split at h
  · cases h
    exact translationOnly_refl _
  · split at h
    · cases h
    next he =>
      cases h
      exact translationOnly_of_classStore he
    next he =>
      rw [Bool.false_and, if_neg Bool.false_ne_true] at h
      cases h
      exact translationOnly_of_classStore he

theorem translationOnly_of_checkAcc {c : Nat} {t : Team} {sp : MemSpec} {a b : Acc} (h : s.checkAcc c t sp a = (u, b))
    (hb : b.passes sp) : Spec.TranslationOnly s u := by
  unfold State.checkAcc at h
  split at h
  · cases h
    exact translationOnly_refl _
  · split at h
    · split at h <;> cases h <;> exact translationOnly_refl _
    · split at h
      next he =>
        cases h
        exact translationOnly_of_translate he
      next he =>
        have ht := translationOnly_of_translate he
        dsimp only at h
        split at h
        next hw =>
          have hwhole : sp.whole = true := by simp_all
          split at h
          · cases h
            exact absurd rfl (Acc.not_failed hb hwhole _)
          next hg =>
            cases h
            exact translationOnly_trans ht (translationOnly_of_gateStore hg)
        next =>
          cases h
          exact ht

theorem translationOnly_of_checkAccs {c : Nat} {t : Team} {sp : MemSpec} {as bs : List Acc}
    (h : s.checkAccs c t sp as = (u, bs)) (hb : ∀ b ∈ bs, b.passes sp) : Spec.TranslationOnly s u := by
  induction as generalizing s bs with
  | nil =>
    cases h
    exact translationOnly_refl _
  | cons a as ih =>
    cases h
    exact translationOnly_trans (translationOnly_of_checkAcc rfl (hb _ List.mem_cons_self))
      (ih rfl fun b hm => hb b (List.mem_cons_of_mem _ hm))

end

/-- What a check leaves of a lane: its number, its address and its data; and the lane is to be performed or has failed. -/
structure Acc.Checked (a b : Acc) : Prop where
  lane : b.lane = a.lane
  va : b.va = a.va
  data : b.data = a.data
  st : b.st = .todo ∨ ∃ c, b.st = .failed c

theorem Acc.Checked.not_held {a b : Acc} (h : a.Checked b) : b.st.held = false := by
  rcases h.st with hst | ⟨c, hst⟩ <;> rw [hst] <;> rfl

theorem checkAcc_checked (s : State) (c : Nat) (t : Team) (sp : MemSpec) (a : Acc) : a.Checked (s.checkAcc c t sp a).2 := by
  unfold State.checkAcc
  split
  · exact ⟨rfl, rfl, rfl, .inr ⟨_, rfl⟩⟩
  · split
    · split
      · exact ⟨rfl, rfl, rfl, .inr ⟨_, rfl⟩⟩
      · exact ⟨rfl, rfl, rfl, .inl rfl⟩
    · split
      · exact ⟨rfl, rfl, rfl, .inr ⟨_, rfl⟩⟩
      · dsimp only
        split
        · split
          · exact ⟨rfl, rfl, rfl, .inr ⟨_, rfl⟩⟩
          · exact ⟨rfl, rfl, rfl, .inl rfl⟩
        · exact ⟨rfl, rfl, rfl, .inl rfl⟩

theorem checkAcc_misaligned (s : State) (c : Nat) (t : Team) {sp : MemSpec} {a : Acc} (h : sp.aligned = true)
    (hva : a.va % sp.n ≠ 0) : (s.checkAcc c t sp a).2.st = .failed .misaligned := by
  unfold State.checkAcc
  rw [if_pos (by simp [h, hva])]

theorem checkAccs_checked (s : State) (c : Nat) (t : Team) (sp : MemSpec) (as : List Acc) :
    (s.checkAccs c t sp as).2.map (·.lane) = as.map (·.lane) ∧
    ∀ b ∈ (s.checkAccs c t sp as).2, ∃ a ∈ as, a.Checked b ∧ (sp.aligned = true → b.va % sp.n ≠ 0 → b.st = .failed .misaligned) := by
  induction as generalizing s with
  | nil => exact ⟨rfl, fun b hb => by cases hb⟩
  | cons a as ih =>
    obtain ⟨hlanes, hchecked⟩ := ih (s.checkAcc c t sp a).1
    have ha := checkAcc_checked s c t sp a
    refine ⟨?_, fun b hb => ?_⟩
    · rw [State.checkAccs, List.map_cons, List.map_cons, hlanes, ha.lane]
    · rcases List.mem_cons.1 hb with rfl | hb
      · exact ⟨a, List.mem_cons_self, ha, fun hal hva => checkAcc_misaligned s c t hal (ha.va ▸ hva)⟩
      · obtain ⟨a', ha', hb'⟩ := hchecked b hb
        exact ⟨a', List.mem_cons_of_mem _ ha', hb'⟩

/-- Where no lane has a replayable fault there is nothing to stall on. -/
theorem stallAccs_of_no_soft (s : State) (c w : Nat) (asid : Asid) (sp : MemSpec) (all : List Acc) {as : List Acc}
    (h : ∀ a ∈ as, a.soft = none) (made : List (Cause × Nat × Nat)) : s.stallAccs c w asid sp all as made = (s, as) := by
  induction as with
  | nil => rfl
  | cons a as ih =>
    unfold State.stallAccs
    rw [h a List.mem_cons_self]
    dsimp only
    rw [ih fun b hb => h b (List.mem_cons_of_mem _ hb)]

end Sys2Proof.Machine

/-! #### The global instructions but GATHER.P and PREF -/

namespace Sys2Proof.Machine

open Sys2Proof.Laws

section

variable {s u : State} {y : LCtx} {i : Instr} {x : MemArgs} {sp : MemSpec} {accs : List Acc}

theorem exec_globalInstr (hi : i ∈ Spec.globalInstrs x) : exec i s = memDispatch s i := by
  simp only [Spec.globalInstrs, List.mem_cons, List.not_mem_nil, or_false] at hi
  rcases hi with rfl | rfl | rfl | rfl | rfl | rfl | rfl | rfl | rfl | rfl | rfl | rfl | rfl | rfl | rfl | rfl | rfl |
    rfl | rfl | rfl | rfl | rfl | rfl | rfl <;> rfl

theorem memSpec_n (hi : i ∈ Spec.globalInstrs x) (hm : memSpec i = some (x, sp)) :
    sp.n = (match (generalizing := false) i with | .adja _ | .adjq _ => 4 | _ => x.w.bytes) := by
  simp only [Spec.globalInstrs, List.mem_cons, List.not_mem_nil, or_false] at hi
  rcases hi with rfl | rfl | rfl | rfl | rfl | rfl | rfl | rfl | rfl | rfl | rfl | rfl | rfl | rfl | rfl | rfl | rfl |
    rfl | rfl | rfl | rfl | rfl | rfl | rfl <;> cases hm <;> rfl

theorem map_lane_laneAcc (y : LCtx) (i : Instr) (x : MemArgs) (sp : MemSpec) :
    (y.lanes.map (laneAcc y i x sp)).map (·.lane) = y.lanes := by
  rw [List.map_map]
  exact List.map_id _

/-- Where a lane has passed its checks and none is to stall or trap, the operation goes into flight as it was checked. -/
theorem memDispatch_launches (h : LaneReady s y i) (hm : memSpec i = some (x, sp))
    (hc : s.checkAccs y.x.who.core y.x.team sp (y.lanes.map (laneAcc y i x sp)) = (u, accs))
    (hb : ∀ a ∈ accs, a.passes sp) (haccs : LocalAccs accs) (htodo : ∃ a ∈ accs, a.st = .todo) :
    ∃ t, memDispatch s i = .next t ∧
      Spec.Launches u t y (Spec.opOf y i accs (if sp.rel = true then .pending else .none) .none) := by
  have hu := translationOnly_of_checkAccs hc hb
  have hl := launchOp_launches (Local.of_translationOnly h.ctxOf hu)
    (by rw [hu.cores, h.core]) accs (if sp.rel = true then .pending else .none) .none (i := i)
  have hnone : (if sp.whole then accs.find? (·.hard.isSome) else none) = none := by
    split
    next hw =>
      refine List.find?_eq_none.2 fun a ha => ?_
      rw [(hb a ha).2 hw]
      exact Bool.false_ne_true
    next => rfl
  unfold memDispatch
  rw [hm]
  dsimp only
  rw [runLane_ready h, hc]
  dsimp only
  rw [hnone, stallAccs_of_no_soft u _ _ _ _ _ fun a ha => (hb a ha).1]
  refine ⟨_, rfl, ?_⟩
  dsimp only
  split
  · exact hl
  next q hf =>
    obtain ⟨p, v, m⟩ := q
    obtain ⟨n, rfl⟩ := findOp_launched hl.warp rfl rfl hf
    rwa [settle_waits hf haccs htodo]

theorem globalAccessesDispatch : Spec.GlobalAccessesDispatch := by
  intro s u y x sp accs i hi h hm hc hb htodo
  have hpass (a : Acc) (ha : a ∈ accs) : a.passes sp := ⟨(hb a ha).1, (hb a ha).2.1⟩
  obtain ⟨hlanes, hchecked⟩ := checkAccs_checked s y.x.who.core y.x.team sp (y.lanes.map (laneAcc y i x sp))
  rw [hc] at hlanes hchecked
  have haccs : LocalAccs accs := fun a ha => by
    obtain ⟨b, -, hk, -⟩ := hchecked a ha
    exact ⟨hk.not_held, (hb a ha).2.2⟩
  obtain ⟨t, he, hl⟩ := memDispatch_launches h hm hc hpass haccs htodo
  refine ⟨t, (exec_globalInstr hi).trans he, translationOnly_of_checkAccs hc hpass, hl, ?_, memSpec_n hi hm, fun a ha => ?_⟩
  · rw [hlanes, map_lane_laneAcc]
  · obtain ⟨b, hmem, hk, hmis⟩ := hchecked a ha
    obtain ⟨l, -, rfl⟩ := List.mem_map.1 hmem
    exact ⟨by rw [hk.va, hk.lane]; rfl, by rw [hk.data, hk.lane]; rfl, hmis⟩

end

end Sys2Proof.Machine

/-! #### PREF (R218) -/

namespace Sys2Proof.Machine

open Sys2Proof.Laws

theorem line_setLine_self (k : Core) (z : L1Line) : ((k.setLine z).line z.line).isSome = true :=
  List.find?_isSome.2 ⟨z, List.mem_append_right _ List.mem_cons_self, beq_self_eq_true _⟩

theorem line_setLine_kept {k : Core} {n : Nat} (h : (k.line n).isSome = true) (z : L1Line) :
    ((k.setLine z).line n).isSome = true := by
  by_cases hz : z.line = n
  · exact hz ▸ line_setLine_self k z
  · obtain ⟨w, hw, hn⟩ := List.find?_isSome.1 h
    have hwn := eq_of_beq hn
    refine List.find?_isSome.2 ⟨w, List.mem_append_left _ (List.mem_filter.2 ⟨hw, ?_⟩), hn⟩
    simp [hwn, Ne.symm hz]

/-- From `s` to `t` a core's L1 has at most `n` lines more and none less; residents, memory and the hub are what they were. -/
structure Prefetches (s t : State) (c n : Nat) : Prop where
  mem : t.mem = s.mem
  hub : t.hub = s.hub
  warps : (t.core c).warps = (s.core c).warps
  teams : (t.core c).teams = (s.core c).teams
  kept : ∀ line, ((s.core c).line line).isSome = true → ((t.core c).line line).isSome = true
  size : (t.core c).l1.length ≤ (s.core c).l1.length + n

namespace Prefetches

variable {s t u : State} {c m n : Nat}

theorem trans (h : Prefetches s t c m) (g : Prefetches t u c n) : Prefetches s u c (m + n) where
  mem := g.mem.trans h.mem
  hub := g.hub.trans h.hub
  warps := g.warps.trans h.warps
  teams := g.teams.trans h.teams
  kept l hl := g.kept l (h.kept l hl)
  size := by have := h.size; have := g.size; omega

theorem mono (h : Prefetches s t c m) (hmn : m ≤ n) : Prefetches s t c n where
  mem := h.mem
  hub := h.hub
  warps := h.warps
  teams := h.teams
  kept := h.kept
  size := h.size.trans (Nat.add_le_add_left hmn _)

theorem of_translationOnly (h : Spec.TranslationOnly s t) (c : Nat) : Prefetches s t c 0 where
  mem := by rw [h.rest]
  hub := by rw [h.rest]
  warps := by rw [h.cores]
  teams := by rw [h.cores]
  kept l hl := by rw [h.cores]; exact hl
  size := by rw [h.cores]; exact le_rfl

theorem refl (s : State) (c : Nat) : Prefetches s s c 0 := of_translationOnly (translationOnly_refl s) c

theorem unheard (s : State) (pa c : Nat) : Prefetches s (s.unheard pa) c 0 := by
  rw [show s.unheard pa = _ from LooksUp.unheard s pa]
  exact ⟨rfl, rfl, rfl, rfl, fun _ hl => hl, le_rfl⟩

theorem setLine (s : State) (c : Nat) (z : L1Line) : Prefetches s (s.modCore c (·.setLine z)) c 1 where
  mem := rfl
  hub := rfl
  warps := by rw [core_modCore_self]; rfl
  teams := by rw [core_modCore_self]; rfl
  kept l hl := by rw [core_modCore_self]; exact line_setLine_kept hl z
  size := by
    rw [core_modCore_self, Core.setLine, List.length_append]
    exact Nat.add_le_add_right (List.length_filter_le _ _) 1

/-- An L1 with room loses nothing to a line that is fetched, and the line is in it (R79). -/
theorem fetchLine (hroom : (s.core c).l1.length < 4096) (l : Nat) :
    Prefetches s (s.fetchLine c l).1 c 1 ∧ (((s.fetchLine c l).1.core c).line l).isSome = true := by
  unfold State.fetchLine
  split
  next z hz => exact ⟨(refl s c).mono (Nat.zero_le 1), by rw [hz]; rfl⟩
  next =>
    dsimp only
    rw [if_pos hroom]
    refine ⟨(unheard s _ c).trans (setLine _ _ _), ?_⟩
    rw [core_modCore_self]
    exact line_setLine_self _ _

end Prefetches

/-- What PREF does for one lane. -/
def State.prefetchLane (s : State) (y : LCtx) (x : MemArgs) (l : Nat) : State :=
  let va := globalAddr y.x.warp y.clause.gs x.g x.va l
  if inAperture va then s
  else match s.translate y.x.who.core y.x.team.asid y.x.team.priv va .read with
    | (s, .error _) => s
    | (s, .ok p) =>
      if pathAt p == .l1 then (s.fetchLine y.x.who.core (p.pa / 64)).1
      else if p.cnt || hubRange p.pa then s else s.unheard p.pa

theorem execPref_eq (x : MemArgs) (s : State) : execPref x s =
    runLane s (.pref x) fun y => (y.lanes.foldl (fun s l => s.prefetchLane y x l) s).dispatched y := by
  unfold execPref State.prefetchLane
  rfl

section

variable {s u : State} {y : LCtx} {x : MemArgs}

theorem prefetchLane_prefetches (hroom : (s.core y.x.who.core).l1.length < 4096) (l : Nat) :
    Prefetches s (s.prefetchLane y x l) y.x.who.core 1 := by
  have hnone := (Prefetches.refl s y.x.who.core).mono (Nat.zero_le 1)
  unfold State.prefetchLane
  dsimp only
  split
  · exact hnone
  · have ht := translationOnly_translate s y.x.who.core y.x.team.asid y.x.team.priv
      (globalAddr y.x.warp y.clause.gs x.g x.va l) .read
    split
    next u c he =>
      rw [he] at ht
      exact (Prefetches.of_translationOnly ht _).mono (Nat.zero_le 1)
    next u p he =>
      rw [he] at ht
      have hu := Prefetches.of_translationOnly ht y.x.who.core
      split
      · exact (hu.trans (Prefetches.fetchLine (hu.size.trans_lt hroom) _).1).mono (by omega)
      · split
        · exact hu.mono (Nat.zero_le 1)
        · exact (hu.trans (Prefetches.unheard _ _ _)).mono (by omega)

theorem foldl_prefetchLane_prefetches (ls : List Nat) (hroom : (s.core y.x.who.core).l1.length + ls.length ≤ 4096) :
    Prefetches s (ls.foldl (fun s l => s.prefetchLane y x l) s) y.x.who.core ls.length := by
  induction ls generalizing s with
  | nil => exact Prefetches.refl s _
  | cons l ls ih =>
    rw [List.length_cons] at hroom
    have hl := prefetchLane_prefetches (y := y) (x := x) (s := s) (by omega) l
    have hsize := hl.size
    exact (hl.trans (ih (by omega))).mono (by rw [List.length_cons]; omega)

/-- The line of a lane whose page is readable and whose accesses take the L1 path is in the L1 after it (log 49). -/
theorem prefetchLane_fetches {l : Nat} {p : Xlat} (hroom : (s.core y.x.who.core).l1.length < 4096)
    (hin : inAperture (globalAddr y.x.warp y.clause.gs x.g x.va l) = false)
    (ht : s.translate y.x.who.core y.x.team.asid y.x.team.priv (globalAddr y.x.warp y.clause.gs x.g x.va l) .read = (u, .ok p))
    (hp : pathAt p = .l1) : (((s.prefetchLane y x l).core y.x.who.core).line (p.pa / 64)).isSome = true := by
  have hu := Prefetches.of_translationOnly (translationOnly_of_translate ht) y.x.who.core
  unfold State.prefetchLane
  simp only [hin, ht, hp, Bool.false_eq_true, if_false, beq_self_eq_true, if_true]
  exact (Prefetches.fetchLine (hu.size.trans_lt hroom) _).2

theorem length_lanes_le (y : LCtx) : y.lanes.length ≤ 32 :=
  (List.length_filter_le _ _).trans (by rw [List.length_range])

/-- An active lane is the lowest. -/
theorem lanes_eq_low_cons (h : y.act ≠ 0) : ∃ ls, y.lanes = y.low :: ls := by
  rcases hl : y.lanes with _ | ⟨l, ls⟩
  · refine absurd (BitVec.eq_of_getLsbD_eq fun k hk => ?_) h
    by_contra hne
    have : k ∈ y.lanes := mem_lanesOf.2 ⟨hk, by simpa using hne⟩
    rw [hl] at this
    cases this
  · exact ⟨ls, by rw [LCtx.low, hl]; rfl⟩

theorem prefetchFaultsNever : Spec.PrefetchFaultsNever := by
  intro s y x h hroom va
  have he := laneExec_ready h ((show exec (.pref x) s = execPref x s from rfl).trans (execPref_eq x s))
  have hlen := length_lanes_le y
  have hall := foldl_prefetchLane_prefetches (s := s) (y := y) (x := x) y.lanes (by omega)
  generalize ht : y.lanes.foldl (fun s l => s.prefetchLane y x l) s = t at hall he
  have hlocal : Local t t y.x (t.core y.x.who.core) y.x.warp y.x.team :=
    { rest := rfl, others := fun _ _ => rfl, core := rfl, warps := fun _ _ => rfl, teams := fun _ _ => rfl
      warp := (congrArg (amFind · _) hall.warps).trans h.local.warp
      team := (congrArg (amFind · _) hall.teams).trans h.local.team }
  have hd := Local.dispatched hlocal
  refine ⟨t.dispatched y, _, he, hd.warp, rfl, ?_, ?_, fun hin u p hp hpath => ?_⟩
  · rw [hd.rest]
    exact hall.mem
  · rw [hd.rest]
    exact hall.hub
  · obtain ⟨ls, hls⟩ := lanes_eq_low_cons h.active
    have hone := prefetchLane_prefetches (y := y) (x := x) (s := s) (by omega) y.low
    have hsize := hone.size
    rw [hls, List.length_cons] at hlen
    rw [hls, List.foldl_cons] at ht
    have hkept := (foldl_prefetchLane_prefetches (x := x) ls (by omega)).kept _ (prefetchLane_fetches (by omega) hin hp hpath)
    rw [ht] at hkept
    rw [hd.core]
    exact Option.isSome_iff_ne_none.1 hkept

end

end Sys2Proof.Machine

/-! #### GATHER.P (R217) -/

namespace Sys2Proof.Machine

open Sys2Proof.Laws

/-! A lane is looked up. -/

theorem translationOnly_peekAcc (s : State) (c : Nat) (t : Team) (sp : MemSpec) (a : Acc) :
    Spec.TranslationOnly s (s.peekAcc c t sp a).1 := by
  unfold State.peekAcc
  split
  next hin =>
    unfold State.checkAcc
    rw [if_pos hin]
    split
    · exact translationOnly_refl s
    · split <;> exact translationOnly_refl s
  · have ht := translationOnly_tlbLookup s c t.asid a.va
    split
    next he => rwa [he] at ht
    next he =>
      rw [he] at ht
      split
      · exact ht
      · split
        · exact ht
        · split <;> exact ht

theorem peekAcc_checked (s : State) (c : Nat) (t : Team) (sp : MemSpec) (a : Acc) : a.Checked (s.peekAcc c t sp a).2 := by
  unfold State.peekAcc
  split
  · exact checkAcc_checked s c t sp a
  · split
    · exact ⟨rfl, rfl, rfl, .inr ⟨_, rfl⟩⟩
    · split
      · exact ⟨rfl, rfl, rfl, .inr ⟨_, rfl⟩⟩
      · split
        · exact ⟨rfl, rfl, rfl, .inr ⟨_, rfl⟩⟩
        · split
          · exact ⟨rfl, rfl, rfl, .inr ⟨_, rfl⟩⟩
          · exact ⟨rfl, rfl, rfl, .inl rfl⟩

theorem peekAccs_checked (s : State) (c : Nat) (t : Team) (sp : MemSpec) (as : List Acc) :
    Spec.TranslationOnly s (s.peekAccs c t sp as).1 ∧ (s.peekAccs c t sp as).2.map (·.lane) = as.map (·.lane) ∧
    ∀ b ∈ (s.peekAccs c t sp as).2, b.st.held = false := by
  induction as generalizing s with
  | nil => exact ⟨translationOnly_refl s, rfl, fun b hb => by cases hb⟩
  | cons a as ih =>
    obtain ⟨ht, hlanes, hheld⟩ := ih (s.peekAcc c t sp a).1
    have ha := peekAcc_checked s c t sp a
    refine ⟨translationOnly_trans (translationOnly_peekAcc s c t sp a) ht, ?_, fun b hb => ?_⟩
    · rw [State.peekAccs, List.map_cons, List.map_cons, hlanes, ha.lane]
    · rcases List.mem_cons.1 hb with rfl | hb
      · exact ha.not_held
      · exact hheld b hb

/-! A walk is queued. -/

/-- From `s` to `t` only the walks in flight differ. -/
def WalksOnly (s t : State) : Prop := t = { s with hub := { s.hub with walks := t.hub.walks } }

/-- A walk of a GATHER.P serves the page of an address. -/
def State.served (s : State) (asid : Asid) (va : Nat) : Prop :=
  ∃ k ∈ s.hub.walks, k.gatherP = true ∧ s.sameWalk k asid va = true

section

variable {s t u : State} {asid : Asid} {va : Nat}

theorem WalksOnly.trans (h : WalksOnly s t) (g : WalksOnly t u) : WalksOnly s u :=
  Eq.trans g (by rw [show t = _ from h])

theorem sameWalk_walksOnly (h : WalksOnly s t) (k : Walk) : t.sameWalk k asid va = s.sameWalk k asid va := by
  have hr : ReadsAlike s t := by
    rw [show t = _ from h]
    exact ⟨rfl, rfl, rfl, rfl, rfl, rfl, rfl⟩
  unfold State.sameWalk
  rw [hr.walk]

theorem startWalk_walksOnly (s : State) (c w : Nat) (asid : Asid) (va l : Nat) : WalksOnly s (s.startWalk c w asid va l) := rfl

/-- A walk that lanes join serves what it served. -/
theorem served_startWalk {b : Asid} {vb : Nat} (h : s.served b vb) (c w l : Nat) : (s.startWalk c w asid va l).served b vb := by
  obtain ⟨k, hk, hg, hs⟩ := h
  unfold State.served
  simp only [sameWalk_walksOnly (startWalk_walksOnly s c w asid va l)]
  unfold State.startWalk
  dsimp only
  split
  · refine ⟨_, List.mem_map_of_mem hk, ?_⟩
    split <;> exact ⟨hg, hs⟩
  · exact ⟨k, List.mem_append_left _ hk, hg, hs⟩

/-- The walk started or joined serves the page. -/
theorem startWalk_serves (s : State) (c w : Nat) (asid : Asid) (va l : Nat) : (s.startWalk c w asid va l).served asid va := by
  unfold State.served
  simp only [sameWalk_walksOnly (startWalk_walksOnly s c w asid va l)]
  unfold State.startWalk
  dsimp only
  split
  next hany =>
    obtain ⟨k, hk, hsame⟩ := List.any_eq_true.1 hany
    simp only [Bool.and_eq_true] at hsame
    obtain ⟨⟨hg, -⟩, hs⟩ := hsame
    refine ⟨_, List.mem_map_of_mem hk, ?_⟩
    split <;> exact ⟨hg, hs⟩
  next => exact ⟨_, List.mem_append_right _ List.mem_cons_self, rfl, by simp [State.sameWalk]⟩

theorem foldl_startWalk_walksOnly (s : State) (c w : Nat) (asid : Asid) (as : List Acc) :
    WalksOnly s (as.foldl (fun s a => s.startWalk c w asid a.va a.lane) s) := by
  induction as generalizing s with
  | nil => rfl
  | cons a as ih => exact (startWalk_walksOnly s c w asid a.va a.lane).trans (ih _)

theorem served_foldl_startWalk {b : Asid} {vb : Nat} (c w : Nat) (asid : Asid) (as : List Acc) (h : s.served b vb) :
    (as.foldl (fun s a => s.startWalk c w asid a.va a.lane) s).served b vb := by
  induction as generalizing s with
  | nil => exact h
  | cons a as ih => exact ih (served_startWalk h c w a.lane)

theorem foldl_startWalk_serves (s : State) (c w : Nat) (asid : Asid) {as : List Acc} {a : Acc} (ha : a ∈ as) :
    (as.foldl (fun s a => s.startWalk c w asid a.va a.lane) s).served asid a.va := by
  induction as generalizing s with
  | nil => cases ha
  | cons b as ih =>
    rcases List.mem_cons.1 ha with rfl | ha
    · exact served_foldl_startWalk c w asid as (startWalk_serves s c w asid a.va a.lane)
    · exact ih _ ha

end

/-! A lane whose page is in no TLB is complete. -/

theorem soft_of_todo {a : Acc} (h : a.st = .todo) : a.soft = none := by rw [Acc.soft, h]

/-- A lane as the operation has it: one that met a replayable fault is complete. -/
def Acc.peeked (a : Acc) : Acc := if a.soft = none then a else { a with st := .done }

theorem localAccs_peeked {accs : List Acc} (h : ∀ a ∈ accs, a.st.held = false ∧ (a.st = .todo → a.path ≠ .fabric)) :
    LocalAccs (accs.map Acc.peeked) := by
  intro b hb
  obtain ⟨a, ha, rfl⟩ := List.mem_map.1 hb
  unfold Acc.peeked
  split
  · exact h a ha
  · exact ⟨rfl, fun h => by cases h⟩

theorem todo_peeked {accs : List Acc} (h : ∃ a ∈ accs, a.st = .todo) :
    ∃ a ∈ accs.map Acc.peeked, a.st = .todo := by
  obtain ⟨a, ha, hst⟩ := h
  exact ⟨a, List.mem_map.2 ⟨a, ha, if_pos (soft_of_todo hst)⟩, hst⟩

section

variable {s u : State} {y : LCtx} {x : MemArgs} {sp : MemSpec} {accs : List Acc}

/-- The lanes whose page is in no TLB. -/
def missing (accs : List Acc) : List Acc := accs.filter fun a => a.soft == some .notPresent

theorem mem_missing {a : Acc} : a ∈ missing accs ↔ a ∈ accs ∧ a.soft = some .notPresent := by
  simp [missing]

/-- Go on with an operation that may be in flight. -/
def State.settleById (t : State) (c w id : Nat) : State :=
  match t.findOp c w id with
  | none => t
  | some o => t.settle c w o.1

/-- GATHER.P where no lane's page is the host's: the walks, the launch, and the lanes that are complete. -/
theorem gatherP_ready (h : LaneReady s y (.gatherP x)) (hm : memSpec (.gatherP x) = some (x, sp))
    (hc : s.peekAccs y.x.who.core y.x.team sp (y.lanes.map (laneAcc y (.gatherP x) x sp)) = (u, accs))
    (hown : ∀ a ∈ accs, a.soft ≠ some .migration) :
    ∃ t, exec (.gatherP x) s = .next (t.settleById y.x.who.core y.x.who.slot y.x.warp.freshOp) ∧
      t = (missing accs).foldl (fun s a => s.writeV y.x.who.core y.x.who.slot x.vc a.lane [0])
        (((missing accs).foldl (fun s a => s.startWalk y.x.who.core y.x.who.slot y.x.team.asid a.va a.lane) u).launchOp y
          (.gatherP x) (accs.map Acc.peeked) (if sp.rel = true then .pending else .none) .none) := by
  have hnone : accs.filter (fun a => a.soft == some .migration) = [] :=
    List.filter_eq_nil_iff.2 fun a ha => by simpa using hown a ha
  have hdone : (fun a : Acc => if a.soft.isSome = true then { a with st := .done } else a) = Acc.peeked := funext fun a => by
    rw [Acc.peeked]
    cases a.soft <;> rfl
  refine ⟨_, ?_, rfl⟩
  refine (show _ = execGatherP x s from rfl).trans ?_
  unfold execGatherP
  simp only [hm]
  rw [runLane_ready h, hc]
  dsimp only
  rw [hnone, hdone, List.append_nil]
  rfl

/-- A zero written into a register of some lanes. -/
theorem v_foldl_setVs_zero (w : Warp) (r : Nat) {as : List Acc} (has : ∀ a ∈ as, a.lane < 32) (q k : Nat) (hk : k < 32) :
    (as.foldl (fun w a => w.setVs r a.lane [0]) w).v_ q k =
      if q = r ∧ ∃ a ∈ as, a.lane = k then cellOf 0 else w.v_ q k := by
  have hfold : as.foldl (fun w a => w.setVs r a.lane [0]) w = w.setLanes r ((as.map (·.lane)).map fun l => (l, (0 : Word))) := by
    rw [← foldl_setVs_eq_setLanes w r (fun _ => 0), List.foldl_map]
  rw [hfold, v_setLanes _ _ (fun _ => 0) _ (fun l hl => ?_) _ _ hk]
  · simp only [List.mem_map]
  · obtain ⟨a, ha, rfl⟩ := List.mem_map.1 hl
    exact has a ha

theorem v_launched (w : Warp) (o : Op) : (w.launched o).v = w.v := by
  rw [Warp.launched, raise_rest]

theorem splits_launched (w : Warp) (o : Op) : (w.launched o).splits = w.splits := by
  rw [Warp.launched, raise_rest]

/-- The launch after lookups and walks that were started. -/
theorem gatherP_launches {v : State} (h : LaneReady s y (.gatherP x)) (hu : Spec.TranslationOnly s u) (hv : WalksOnly u v)
    (as : List Acc) (rel : RelSt) :
    Spec.Launches v (v.launchOp y (.gatherP x) as rel .none) y (Spec.opOf y (.gatherP x) as rel .none) := by
  have hlu := Local.of_translationOnly h.ctxOf hu
  refine launchOp_launches
    { rest := rfl, others := fun _ _ => rfl, core := rfl, warps := fun _ _ => rfl, teams := fun _ _ => rfl
      warp := by rw [show v = _ from hv]; exact hlu.warp
      team := by rw [show v = _ from hv]; exact hlu.team } ?_ as rel .none
  rw [show v = _ from hv]
  exact (congrArg Core.serial (hu.cores y.x.who.core)).trans (by rw [h.core])

/-- What a warp is once GATHER.P has been launched and its lanes that are complete have their zero. -/
def Warp.gatheredP (w : Warp) (o : Op) (e r : Nat) (as : List Acc) : Warp :=
  as.foldl (fun w a => w.setVs r a.lane [0]) ((w.launched o).moved e)

theorem gatheredP_ops (w : Warp) (o : Op) (e r : Nat) (as : List Acc) :
    (w.gatheredP o e r as).ops = ((w.launched o).moved e).ops := by
  rw [Warp.gatheredP, foldl_v_rest (fun w a => setVs_rest w r _ _)]

theorem gatheredP_v (w : Warp) (o : Op) (e r : Nat) {as : List Acc} (has : ∀ a ∈ as, a.lane < 32) (q k : Nat) (hk : k < 32) :
    (w.gatheredP o e r as).v_ q k = if q = r ∧ ∃ a ∈ as, a.lane = k then cellOf 0 else w.v_ q k := by
  rw [Warp.gatheredP, v_foldl_setVs_zero _ _ has _ _ hk, Warp.v_, v_moved, v_launched, Warp.v_]

theorem gatherPDispatches : Spec.GatherPDispatches := by
  intro s u y x sp accs h hm hc hb htodo
  obtain ⟨t, he, ht⟩ := gatherP_ready h hm hc fun a ha => (hb a ha).1
  obtain ⟨hu, hlanes, hheld⟩ := peekAccs_checked s y.x.who.core y.x.team sp (y.lanes.map (laneAcc y (.gatherP x) x sp))
  rw [hc] at hu hlanes hheld
  have hlt (a : Acc) (ha : a ∈ accs) : a.lane < 32 := by
    have hmem := List.mem_map_of_mem (f := (·.lane)) ha
    rw [hlanes, map_lane_laneAcc] at hmem
    exact (mem_lanesOf.1 hmem).1
  have hserves (a : Acc) (ha : a ∈ missing accs) :=
    foldl_startWalk_serves u y.x.who.core y.x.who.slot y.x.team.asid ha
  have hwalks := foldl_startWalk_walksOnly u y.x.who.core y.x.who.slot y.x.team.asid (missing accs)
  generalize (missing accs).foldl (fun s a => s.startWalk y.x.who.core y.x.who.slot y.x.team.asid a.va a.lane) u = v
    at ht hserves hwalks
  have hl := Local.foldl_modWarp (fun a w => w.setVs x.vc.toNat a.lane [0]) (missing accs)
    (gatherP_launches h hu hwalks (accs.map Acc.peeked) (if sp.rel = true then .pending else .none))
  generalize ho : Spec.opOf y (.gatherP x) (accs.map Acc.peeked) (if sp.rel = true then .pending else .none) .none = o at hl
  have hid : y.x.warp.freshOp = o.id := by rw [← ho]; rfl
  have hoaccs : o.accs = accs.map Acc.peeked := by rw [← ho]; rfl
  have hw : t.warp y.x.who.core y.x.who.slot =
      some (y.x.warp.gatheredP o y.x.who.entry x.vc.toNat (missing accs)) := ht ▸ hl.warp
  have hrest : t = { v with cores := t.cores } := ht ▸ hl.rest
  have hsettle : t.settleById y.x.who.core y.x.who.slot y.x.warp.freshOp = t := by
    unfold State.settleById
    split
    · rfl
    next q hf =>
      obtain ⟨p, w, m⟩ := q
      rw [hid] at hf
      obtain ⟨n, rfl⟩ := findOp_launched hw (gatheredP_ops _ _ _ _ _) hid.symm hf
      refine settle_waits hf ?_ ?_
      · rw [hoaccs]
        exact localAccs_peeked fun a ha => ⟨hheld a ha, (hb a ha).2⟩
      · rw [hoaccs]
        exact todo_peeked htodo
  rw [hsettle] at he
  refine ⟨t, _, o, he, hw, ?_, ?_, ho.symm, fun a ha hs => ⟨?_, ?_⟩, fun r l hl hr => ?_⟩
  · calc
      t.mem = v.mem := by rw [hrest]
      _ = u.mem := by rw [show v = _ from hwalks]
      _ = s.mem := by rw [show u = _ from hu.rest]
  · rw [gatheredP_ops]
    exact ops_moved_congr (w := y.x.warp.launched o) (v := { y.x.warp with ops := y.x.warp.ops ++ [o] }) rfl
      (splits_launched _ _) _
  · rw [gatheredP_v _ _ _ _ (fun b hb => hlt b (mem_missing.1 hb).1) _ _ (hlt a ha)]
    exact if_pos ⟨rfl, a, mem_missing.2 ⟨ha, hs⟩, rfl⟩
  · obtain ⟨k, hk, hg, hsame⟩ := hserves a (mem_missing.2 ⟨ha, hs⟩)
    refine ⟨k, ?_, hg, (sameWalk_walksOnly hwalks k).symm.trans hsame⟩
    rw [hrest]
    exact hk
  · rw [gatheredP_v _ _ _ _ (fun b hb => hlt b (mem_missing.1 hb).1) _ _ hl]
    refine if_neg fun ⟨hrc, a, ha, hal⟩ => ?_
    obtain ⟨hmem, hs⟩ := mem_missing.1 ha
    rcases hr with hne | hnone
    · exact hne hrc
    · rw [hnone a hmem hal] at hs
      cases hs

end

/-- Settles O20: the lanes are checked by lookups alone, and the launch leaves registers and memory; GATHER.P writes a zero where a
page is in no TLB and queues its walk; PREF fills lines of the L1 and nothing else. -/
theorem globalAccessDispatch : Obligations.GlobalAccessDispatch :=
  ⟨globalAccessesDispatch, gatherPDispatches, prefetchFaultsNever⟩

end Sys2Proof.Machine
